-- ==== Sys2Proof/Word.lean ====
section
/-!
DEFINITION. The plain words of the LX8: bytes, 64-bit values, the small closed name sets that several chapters share
(type codes, operand source modes, switch ports), the name of a unit inside a paddock, and the decoded fields of a
station word (02 R30); and what travels between units and modules: tokens, firings, chunks and messages.
-/

namespace Sys2Proof

/-- A 64-bit word (R3). -/
abbrev Word := BitVec 64

/-- A byte of memory. -/
abbrev Byte := BitVec 8

/-- The sixteen type codes of R41, in code order. -/
inductive Ty where
  | i8 | n8 | i16 | n16 | i32 | n32 | i64 | n64
  | f16 | bf16 | f32 | f64 | e4m3 | e5m2 | e2m1 | ln
deriving DecidableEq, Repr

/-- The operand source modes of R33: 00 both tokens, 01 a K register, 10 an immediate, 11 unary. -/
inductive Src where
  | toks | kreg | immd | unary
deriving DecidableEq, Repr

/-- The ports of a switch in the order of its round robin (R16): local, N, E, S, W. -/
inductive Port where
  | loc | n | e | s | w
deriving DecidableEq, Repr

/-- One unit of a resident context: its context id, its paddock copy (0, or 1 for the twin of a REDUNDANT launch),
its paddock-relative logical column and row (R7). -/
structure UId where
  ctx : Nat
  copy : Nat
  x : Nat
  y : Nat
deriving DecidableEq, Repr

/-- The decoded fields of a station word below its opcode (R30). -/
structure Fields where
  fn : BitVec 4
  ty : Ty
  u : Bool
  pd : Bool
  src : Src
  ta : BitVec 12
  tb : BitVec 12
  imm : BitVec 20
deriving DecidableEq, Repr

/-- One argument of a call record (R74). -/
structure CallArg where
  val : Word
  ax : Nat
  ay : Nat
  as : Nat
  ak : BitVec 3
deriving DecidableEq, Repr

/-- The states of an activation (R74, R75). -/
inductive AState where
  | free | opened | live | returned | ended | forward
deriving DecidableEq, Repr

/-- The call record of a colour of a paddock copy (R74); a colour without a record is FREE. -/
structure CallRec where
  copy : Nat
  col : Nat
  pcol : Nat
  pitr : Nat
  sx : Nat
  sy : Nat
  ss : Nat
  narg : Nat
  nrec : Nat
  state : AState
  cm : Bool
  tries : Nat
  site : Nat
  fwd : Nat
  args : List (Option CallArg)
deriving DecidableEq, Repr

/-- The token flit of R57. -/
structure Flit where
  val : Word
  kind : BitVec 3
  pos : BitVec 2
  stn : BitVec 7
  ctx : BitVec 9
  col : BitVec 12
  itr : BitVec 16
  res : BitVec 4
  rid : BitVec 8
  dx : BitVec 8
  dy : BitVec 8
  chn : Bool
  rsv : BitVec 18
deriving DecidableEq, Repr

/-- Who receives the reply of a config token: the firing's site, its tag and its targets, and the kind of the reply. -/
structure ReplyTo where
  u : UId
  col : Nat
  itr : Nat
  ta : BitVec 12
  tb : BitVec 12
  kind : BitVec 3
deriving DecidableEq, Repr

/-- What goes with a config token beside its flit, for which R362 gives no bits (log entry 84): whether it reads its object in config order
and writes nothing (KGET), where its reply goes, and for a token of BWLD the group of its firing, whose last write replies. -/
structure CfgLoad where
  rd : Bool
  reply : Option ReplyTo
  grp : Option (Nat × Nat)
deriving DecidableEq, Repr

/-- A token on its way (R16): it stands at input port `port` of the switch of `u`; `rx`, `ry` are the whole remaining
displacement, of which the flit's DX and DY are the low eight bits; `cfg` is what goes with a config token. -/
structure Flight where
  u : UId
  port : Port
  rx : Int
  ry : Int
  tok : Flit
  cfg : Option CfgLoad
deriving DecidableEq, Repr

/-- A complete firing of a station (R61, R68): its operand tokens, the sequence number of the completing arrival, whether
all of them stood in the matching store (R69), whether R430 re-injected it, whether its twin's digest has matched (R470),
and then the colour of the twin's firing, to which results from outside the paddock go too (R471). -/
structure Ready where
  u : UId
  stn : Nat
  seq : Nat
  l : Flit
  r : Option Flit
  p : Option Flit
  near : Bool
  again : Bool
  matched : Bool
  pair : Option Nat
deriving DecidableEq, Repr

/-- A step of a PHASE that crosses modules: its level and group, the member that sends it, and the stage: 0 its units have arrived,
1 commit, 2 committed, 3 the boundary is over. -/
structure PhaseStep where
  lvl : Nat
  gx : Nat
  gy : Nat
  m : Nat
  stage : Nat
deriving DecidableEq, Repr

/-- A fabric message between modules (R434): barrier credits, chunk acknowledgements and releases, slot returns, binds and
their replies, stops with their cause, the error messages that ask for a purge, replies that a remote unit emits, and what else the
members of an outing tell each other so that its one colour unit, its phases, its barriers and its end are those of one context (log
entry 42). The manual names some kinds and gives no layout. -/
inductive LinkMsg where
  | credit (slot : UId) (off bytes : Nat) (mu : UId) (id : Nat)
  | ack (mu : UId) (id idx : Nat) (busy : Bool) (sum : Nat)
  | release (dst mu : UId) (id : Nat)
  | slotReturn (mu ring : UId) (off n : Nat)
  | bind (mu ring : UId) (off : Nat)
  | bound (mu ring : UId) (off free rsv : Nat) (kd : Bool) (sz cnt : Nat)
  | stop (ctx kind code : Nat)
  | error (u : UId) (col kind : Nat)
  | errorAck (u : UId) (col kind : Nat)
  | emit (src u : UId) (col itr : Nat) (t : BitVec 12) (kind : BitVec 3) (v : Word) (chn : Bool)
  | config (src u : UId) (col itr : Nat) (t : BitVec 12) (val : Word) (l : CfgLoad)
  | refused (mu : UId) (id : Nat)
  | write (u : UId) (ws : List (Nat × Byte × Byte))
  | energy (ctx n : Nat)
  | wear (ctx n : Nat)
  | record (ctx : Nat) (r : CallRec)
  | commitPoint (ctx k col : Nat)
  | purge (ctx k : Nat) (cols : List Nat)
  | sweep (ctx k col : Nat)
  | resend (ctx k col : Nat) (a : CallArg)
  | phase (ctx : Nat) (p : PhaseStep)
  | commit (slot : UId) (off : Nat) (us : List UId)
  | committed (slot : UId) (off : Nat)
  | yieldOn (u : UId) (col itr : Nat) (ta tb : BitVec 12) (kind : BitVec 3) (v : Word) (n : Nat) (left : List Nat)
  | reinject (f : Ready)
  | reconf (ctx : Nat) (img arg : Word)
  | sync (ctx m kind : Nat)
  | ended (ctx m : Nat) (exits : List (Nat × UId × Nat × Nat × Nat)) (orph fcp : Nat)
  | depWait (w q home : Nat)
  | depDone (w q : Nat) (ok : Bool)
  | depSignal (w q home : Nat)
deriving DecidableEq, Repr

/-- Where a ring message was reserved (R260, R262): the reservation position, the record's or slot's position, and the pad's
length when a pad precedes it. -/
structure Resv where
  p : Nat
  place : Nat
  pad : Option Nat
deriving DecidableEq, Repr

/-- How a chunk is applied (R242, R249, R250, R251): plain bytes, a reduction, checksummed bytes, the global locations of COPYO, or the
bytes of a storage read into a ring (R453). -/
inductive ChunkOp where
  | plain
  | reduce (mx : Bool) (t : Ty)
  | summed (p : Nat)
  | global (locs : List Nat)
  | io
deriving DecidableEq, Repr

/-- The ring message that a chunk belongs to (R260): the header's offset, the reservation and the message length. -/
structure RingMsg where
  off : Nat
  resv : Resv
  len : Nat
deriving DecidableEq, Repr

/-- A chunk on its way or staged (R239): its copy, its index, whether it is the last, its destination offset and bytes, the
line tags that go with them (R242), and where its credit goes. -/
structure Chunk where
  src : UId
  dst : UId
  id : Nat
  idx : Nat
  last : Bool
  off : Nat
  bytes : List Byte
  tags : List (Nat × BitVec 16)
  op : ChunkOp
  ring : Option RingMsg
  cw : Word
deriving DecidableEq, Repr

/-- What crosses to another module (R434): a token with its sender's site and remaining displacement, a memory request of a
station as its station word, firing, K values and issue count, a fabric message, or a part of a chunk of a copy, with the port that
its copy uses, the part's offset in the chunk, and the chunk's length. -/
inductive Cargo where
  | token (f : Flight)
  | request (mu : UId) (word : Word) (c : Ready) (k : List Word) (iseq : Nat)
  | msg (m : LinkMsg)
  | data (k : Chunk) (port lo total : Nat)
deriving DecidableEq, Repr

/-- What the training of a port came to (R438): its lanes, 0 for a failure, and the peer's module id and world. -/
structure TrainEnd where
  lanes : Nat
  peer : Nat
  sec : Bool
deriving DecidableEq, Repr

/-- A firmware bundle (R490): its public key, the kernel-signing key and the other contents, their digest and its signature. -/
structure Bundle where
  key : List Byte
  kernelKey : List Byte
  contents : List Byte
  digest : List Byte
  sig : List Byte
deriving DecidableEq, Repr

/-- A port that the firmware enables at a start (R488): Ryenxon ports are 0 to 143, Ethernet ports 144 to 151; what its
training comes to, and what the training with its alternate would. -/
structure PortBoot where
  port : Nat
  main : TrainEnd
  alt : TrainEnd
deriving DecidableEq, Repr

/-- A start that is cut short in a step by a loss of power, or by a thermal trip: the dies or ports whose entries of the step have begun and not
ended, 0 where the step has one entry (R493). -/
structure BootCut where
  step : Nat
  ents : List Nat
  trip : Bool
deriving DecidableEq, Repr

/-- A write's size in bytes and its data (R478). -/
structure SizedWord where
  size : Nat
  val : Word
deriving DecidableEq, Repr

/-- Who asks for an attestation report, machine mode or not, and the nonce (R491). -/
structure ReportArg where
  mach : Bool
  nonce : List Byte
deriving DecidableEq, Repr

/-- What a start meets (R487 to R494): whether every lid is cool enough, the two copies of the bundle, the firmware digest of
each step, the dies whose memory trains with the first and with the alternate timing and whose recorded parameters pass
the check, the dies whose controllers pass and the units that fail the self-test, the channels that fail, the ports, and
the register writes by which step 6 sets up the supervisor; `load` says that step 6 succeeds; `cut`, that the start is cut short. -/
structure BootArg where
  cool : Bool
  rom : Bundle
  mirror : Bundle
  steps : List (List Byte)
  mem : List Nat
  memAlt : List Nat
  memCheck : List Nat
  dies : List Nat
  badUnits : List Nat
  badChannels : List (Nat × Nat × Nat)
  ports : List PortBoot
  setup : List (Nat × Word)
  load : Bool
  cut : Option BootCut
deriving DecidableEq, Repr

/-- An outing that another module's yard places here (R441, R444): its context id and route key, its packet, its members, and
which of them is its home. -/
structure OutingIn where
  id : Nat
  key : Byte
  packet : List Byte
  members : List Nat
  home : Nat
  as : Nat
  prio : Nat
deriving DecidableEq, Repr

/-- A map from natural keys to values as plain data: keys strictly rising, no entry equal to the map's default. -/
abbrev FMap (α : Type) := List (Nat × α)

/-- The bit of a Bool. -/
def bitOf (b : Bool) : BitVec 1 := if b then 1 else 0

/-- The field `[lo + n - 1 : lo]` of a natural number (R2). -/
def nbits (x lo n : Nat) : Nat := x / 2 ^ lo % 2 ^ n

end Sys2Proof
end

