-- ==== Sys2Proof/Machine/Numbers.lean ====
section
/-!
DEFINITION. Number formats, exact values and rounding (04): the scalar formats of R103 to R108, the exact values that
an instruction computes before it rounds, rnd (R112) with its five modes and two overflow policies, rounding to
the integer line (R113), and the stochastic-rounding generator (R114, R115).
-/

namespace Sys2Proof.Machine

open Sys2Proof

/-- The floating-point formats that a `TY` code selects (R103). -/
inductive Fmt where
  | f64 | f32 | f16 | bf16 | e4m3 | e5m2 | e2m1
deriving DecidableEq, Repr

/-- The rounding modes of R111. -/
inductive RMode where
  | rne | rtz | rdn | rup | sr
deriving DecidableEq, Repr

/-- An exact value: NaN, an infinity, or the rational ± num / den × 2^e with den > 0; a zero keeps its sign. -/
inductive Ex where
  | nan
  | inf (neg : Bool)
  | fin (neg : Bool) (num den : Nat) (e : Int)
deriving DecidableEq, Repr

/-- The width of a format in bits. -/
def Fmt.width : Fmt → Nat
  | .f64 => 64 | .f32 => 32 | .f16 => 16 | .bf16 => 16 | .e4m3 => 8 | .e5m2 => 8 | .e2m1 => 4

/-- The width m of the mantissa field (R103). -/
def Fmt.mant : Fmt → Nat
  | .f64 => 52 | .f32 => 23 | .f16 => 10 | .bf16 => 7 | .e4m3 => 3 | .e5m2 => 2 | .e2m1 => 1

/-- The bias b (R103). -/
def Fmt.bias : Fmt → Nat
  | .f64 => 1023 | .f32 => 127 | .f16 => 15 | .bf16 => 127 | .e4m3 => 7 | .e5m2 => 15 | .e2m1 => 1

/-- The magnitude pattern of the largest finite value (R104). -/
def Fmt.maxIdx : Fmt → Nat
  | .f64 => 0x7FEFFFFFFFFFFFFF | .f32 => 0x7F7FFFFF | .f16 => 0x7BFF | .bf16 => 0x7F7F
  | .e4m3 => 0x7E | .e5m2 => 0x7B | .e2m1 => 0x7

/-- The canonical NaN (R104); 0x0 for E2M1, which has none (R112 step 1). -/
def Fmt.qnan : Fmt → Nat
  | .f64 => 0x7FF8000000000000 | .f32 => 0x7FC00000 | .f16 => 0x7E00 | .bf16 => 0x7FC0
  | .e4m3 => 0x7F | .e5m2 => 0x7E | .e2m1 => 0

/-- The format has infinities (R104). -/
def Fmt.hasInf : Fmt → Bool
  | .e4m3 => false | .e2m1 => false | _ => true

/-- The format that a type code names; LN computes as F32 (R146). None for an integer type. -/
def fmtOf : Ty → Option Fmt
  | .f16 => some .f16 | .bf16 => some .bf16 | .f32 => some .f32 | .f64 => some .f64
  | .e4m3 => some .e4m3 | .e5m2 => some .e5m2 | .e2m1 => some .e2m1 | .ln => some .f32
  | _ => none

/-- The format a type code names, F32 where it names none. -/
def fmtD (t : Ty) : Fmt := (fmtOf t).getD .f32

/-- The rounding mode of a 3-bit mode code (R111). -/
def modeOf (n : Nat) : RMode :=
  match n with
  | 0 => .rne | 1 => .rtz | 2 => .rdn | 3 => .rup | _ => .sr

/-- The positive or negative exact integer. -/
def Ex.ofInt (i : Int) : Ex := .fin (i < 0) i.natAbs 1 0

/-- The exact value ± m × 2^e. -/
def Ex.dy (neg : Bool) (m : Nat) (e : Int) : Ex := .fin neg m 1 e

/-- +0. -/
def Ex.zero : Ex := .fin false 0 1 0

/-- 1. -/
def Ex.one : Ex := .fin false 1 1 0

/-- The value is a NaN. -/
def Ex.isNan : Ex → Bool
  | .nan => true | _ => false

/-- The value is an infinity. -/
def Ex.isInf : Ex → Bool
  | .inf _ => true | _ => false

/-- The value is a zero of either sign. -/
def Ex.isZero : Ex → Bool
  | .fin _ 0 _ _ => true | _ => false

/-- The sign of a value that has one. -/
def Ex.neg : Ex → Bool
  | .nan => false | .inf n => n | .fin n _ _ _ => n

/-- The value with the opposite sign. -/
def Ex.negate : Ex → Ex
  | .nan => .nan | .inf n => .inf (!n) | .fin n a d e => .fin (!n) a d e

/-- The magnitude bits and the sign bit of a pattern of format `F`. -/
def magOf (F : Fmt) (b : Nat) : Nat := b % 2 ^ (F.width - 1)

/-- The sign bit of a pattern of format `F`. -/
def signOf (F : Fmt) (b : Nat) : Bool := b / 2 ^ (F.width - 1) % 2 == 1

/-- The magnitude that stands at index `n` of the number line of `F` (R112 step 3): m × 2^e. -/
def lineVal (F : Fmt) (n : Nat) : Nat × Int :=
  let p := F.mant
  if n < 2 ^ p then (n, 1 - F.bias - p)
  else (2 ^ p + n % 2 ^ p, (n / 2 ^ p : Nat) - F.bias - p)

/-- The exact value of a pattern (R103, R104). -/
def decodeF (F : Fmt) (b : Nat) : Ex :=
  let m := magOf F b
  let s := signOf F b
  if m ≤ F.maxIdx then let v := lineVal F m; .fin s v.1 1 v.2
  else if F.hasInf && m == F.maxIdx + 1 then .inf s
  else .nan

/-- An E8M0 code (R106). -/
def decodeE8 (c : Nat) : Ex := if c % 256 == 255 then .nan else .fin false 1 1 ((c % 256 : Nat) - 127)

/-- Scales an exact value by 2^k. -/
def Ex.scale (x : Ex) (k : Int) : Ex :=
  match x with
  | .nan => .nan | .inf n => .inf n | .fin n a d e => .fin n a d (e + k)

/-- The exact product; 0 × ∞ is NaN (R148). -/
def Ex.mul (x y : Ex) : Ex :=
  match x, y with
  | .nan, _ => .nan
  | _, .nan => .nan
  | .inf s, .inf t => .inf (s != t)
  | .inf s, .fin t b _ _ => if b == 0 then .nan else .inf (s != t)
  | .fin s a _ _, .inf t => if a == 0 then .nan else .inf (s != t)
  | .fin s a d e, .fin t b c f => .fin (s != t) (a * b) (d * c) (e + f)

/-- The exact quotient of R159. -/
def Ex.div (x y : Ex) : Ex :=
  match x, y with
  | .nan, _ => .nan
  | _, .nan => .nan
  | .inf _, .inf _ => .nan
  | .inf s, .fin t _ _ _ => .inf (s != t)
  | .fin s _ _ _, .inf t => .fin (s != t) 0 1 0
  | .fin s a d e, .fin t b c f =>
    if b == 0 then (if a == 0 then .nan else .inf (s != t))
    else .fin (s != t) (a * c) (d * b) (e - f)

/-- The sum of two finite exact values, with a zero of sign `zneg` when it is zero. -/
def addFin (zneg : Bool) (s : Bool) (a d : Nat) (e : Int) (t : Bool) (b c : Nat) (f : Int) : Ex :=
  let g := min e f
  let p : Int := (if s then -1 else 1) * ((a * c * 2 ^ (e - g).toNat : Nat) : Int)
  let q : Int := (if t then -1 else 1) * ((b * d * 2 ^ (f - g).toNat : Nat) : Int)
  let r := p + q
  if r == 0 then .fin zneg 0 1 0 else .fin (r < 0) r.natAbs (d * c) g

/-- The exact sum of two values; the sign of a zero sum follows R145: −0 when both terms are −0, −0 in RDN when they
are not both +0. -/
def Ex.add (rdn : Bool) (x y : Ex) : Ex :=
  match x, y with
  | .nan, _ => .nan
  | _, .nan => .nan
  | .inf s, .inf t => if s == t then .inf s else .nan
  | .inf s, .fin .. => .inf s
  | .fin .., .inf t => .inf t
  | .fin s a d e, .fin t b c f =>
    let allNegZero := a == 0 && b == 0 && s && t
    let allPosZero := a == 0 && b == 0 && !s && !t
    addFin (allNegZero || (rdn && !allPosZero)) s a d e t b c f

/-- The exact sum of a list of terms with the zero rule of R145 over all of them. -/
def Ex.sum (rdn : Bool) (ts : List Ex) : Ex :=
  if ts.any Ex.isNan then .nan
  else if ts.any (fun t => t.isInf && t.neg) && ts.any (fun t => t.isInf && !t.neg) then .nan
  else match ts.find? Ex.isInf with
  | some t => t
  | none =>
    let zneg := ts.all (fun t => t.isZero && t.neg) || (rdn && !ts.all (fun t => t.isZero && !t.neg))
    match ts.foldl (Ex.add false) Ex.zero with
    | .fin _ 0 _ _ => .fin zneg 0 1 0
    | x => x

/-- The signed comparison of two values that are not NaN, with −0 equal to +0. -/
def Ex.cmp (x y : Ex) : Ordering :=
  match x, y with
  | .inf s, .inf t => compare t s
  | .inf s, _ => if s then .lt else .gt
  | _, .inf t => if t then .gt else .lt
  | .fin .., .fin .. =>
    match Ex.add false x y.negate with
    | .fin _ 0 _ _ => .eq
    | .fin n _ _ _ => if n then .lt else .gt
    | _ => .eq
  | _, _ => .eq

/-- ⌊log2 (a / d)⌋ for a, d > 0. -/
def log2Q (a d : Nat) : Int :=
  let k : Int := (a.log2 : Int) - (d.log2 : Int)
  -- a / d lies in (2^(k-1), 2^(k+1)); it reaches 2^k exactly when a × 2^-k ≥ d
  if (if 0 ≤ k then a ≥ d * 2 ^ k.toNat else a * 2 ^ (-k).toNat ≥ d) then k else k - 1

/-- a / d × 2^e as a fraction of naturals. -/
def frac (a d : Nat) (e : Int) : Nat × Nat :=
  if 0 ≤ e then (a * 2 ^ e.toNat, d) else (a, d * 2 ^ (-e).toNat)

/-- The line index at or below the magnitude a / d × 2^e > 0, and the remainder above it as a fraction of the spacing
(R112 step 3: beyond the largest finite value the line goes on with the spacing of its binade). -/
def lineFloor (F : Fmt) (a d : Nat) (e : Int) : Nat × Nat × Nat :=
  let qmin : Int := 1 - F.bias - F.mant
  let q := max (log2Q a d + e - F.mant) qmin
  let f := frac a d (e - q)
  (f.1 / f.2 + (q - qmin).toNat * 2 ^ F.mant, f.1 % f.2, f.2)

/-- The choice of R112 step 4 for a magnitude between line points: true takes the point of larger magnitude. `odd` is
the parity of the lower point, `num/den` the part of the spacing above it, `r` the word of R115. -/
def roundUp (m : RMode) (neg odd : Bool) (r num den : Nat) : Bool :=
  if num == 0 then false
  else match m with
  | .rne => 2 * num > den || (2 * num == den && odd)
  | .rtz => false
  | .rdn => neg
  | .rup => !neg
  | .sr => if neg then !(r * den < (den - num) * 2 ^ 32) else r * den < num * 2 ^ 32

/-- The pattern of a sign and a magnitude. -/
def signed (F : Fmt) (neg : Bool) (mag : Nat) : Nat := if neg then 2 ^ (F.width - 1) + mag else mag

/-- The infinity of a sign under NONSAT: NaN for E4M3, the largest value for E2M1 (R112 step 1). -/
def infBits (F : Fmt) (neg : Bool) : Nat :=
  match F with
  | .e4m3 => F.qnan
  | .e2m1 => signed F neg F.maxIdx
  | _ => signed F neg (F.maxIdx + 1)

/-- The overflow results of R112 step 5. -/
def overflowBits (F : Fmt) (m : RMode) (sat neg : Bool) : Nat :=
  if sat then signed F neg F.maxIdx
  else match m with
  | .rne => infBits F neg
  | .sr => infBits F neg
  | .rtz => signed F neg F.maxIdx
  | .rdn => if neg then infBits F neg else signed F neg F.maxIdx
  | .rup => if neg then signed F neg F.maxIdx else infBits F neg

/-- rnd of R112: the pattern of format `F` that the exact value rounds to in mode `m`, with SAT when `sat`, and with
the stochastic word `r` of R115. -/
def rnd (F : Fmt) (m : RMode) (sat : Bool) (r : Nat) (x : Ex) : Nat :=
  match x with
  | .nan => F.qnan
  | .inf n => if sat then signed F n F.maxIdx else infBits F n
  | .fin n a d e =>
    if a == 0 then signed F n 0
    else
      let l := lineFloor F a d e
      let i := if roundUp m n (l.1 % 2 == 1) r l.2.1 l.2.2 then l.1 + 1 else l.1
      if i > F.maxIdx then overflowBits F m sat n else signed F n i

/-- rne32 (R11): RNE to F32, overflowing to infinity (R124). -/
def rne32 (x : Ex) : Nat := rnd .f32 .rne false 0 x

/-- Rounding to the integer line (R113, steps 2 to 4 of R112) of a finite value. -/
def rndInt (m : RMode) (r : Nat) (neg : Bool) (a d : Nat) (e : Int) : Int :=
  let f := frac a d e
  let q := f.1 / f.2
  let i := if roundUp m neg (q % 2 == 1) r (f.1 % f.2) f.2 then q + 1 else q
  if neg then -(i : Int) else i

/-- Rounding to an integer type: clamped to its range, NaN to 0, an infinity to the end of its sign (R113). -/
def rndClamp (m : RMode) (r : Nat) (lo hi : Int) (x : Ex) : Int :=
  match x with
  | .nan => 0
  | .inf n => if n then lo else hi
  | .fin n a d e => max lo (min hi (rndInt m r n a d e))

/-- One step of the generator of R114. -/
def srStep (v : BitVec 32) : BitVec 32 :=
  if v.getLsbD 0 then (v >>> 1) ^^^ 0x80200003#32 else v >>> 1

/-- The stochastic word of R115 for the seed `SRG`, the tag, the station, the site and the element index. -/
def srWord (srg : BitVec 32) (itr col stn y x e : Nat) : Nat :=
  let key := BitVec.ofNat 64 (itr ||| (col <<< 16) ||| (stn <<< 28) ||| (y <<< 35) ||| (x <<< 42) ||| (e <<< 50))
  let h := (key * 0x9E3779B97F4A7C15#64).extractLsb' 32 32
  let v := srg ^^^ h
  let v := if v == 0 then 1#32 else v
  (srStep (srStep (srStep (srStep v)))).toNat

/-- res15 (R11). -/
def res15 (v : Word) : BitVec 4 := BitVec.ofNat 4 (v.toNat % 15)

/-- The width of a type's scalar in bits (R101, R103). LN computes as F32 (R146). -/
def tyW : Ty → Nat
  | .i8 => 8 | .n8 => 8 | .i16 => 16 | .n16 => 16 | .i32 => 32 | .n32 => 32 | .i64 => 64 | .n64 => 64
  | .f16 => 16 | .bf16 => 16 | .f32 => 32 | .f64 => 64 | .e4m3 => 8 | .e5m2 => 8 | .e2m1 => 4 | .ln => 32

/-- A signed integer type (R41). -/
def tySgn : Ty → Bool
  | .i8 => true | .i16 => true | .i32 => true | .i64 => true | _ => false

/-- Bits [w − 1:0] of a value (R101). -/
def lowBits (t : Ty) (v : Word) : Nat := v.toNat % 2 ^ tyW t

/-- A w-bit pattern placed in a token's value: sign-extended for a signed type, zero-extended otherwise (R101). -/
def extendTy (t : Ty) (n : Nat) : Word :=
  let w := tyW t
  let m := n % 2 ^ w
  if tySgn t && m / 2 ^ (w - 1) == 1 then BitVec.ofInt 64 ((m : Int) - 2 ^ w) else BitVec.ofNat 64 m

/-- The integer that a w-bit operand denotes (R127). -/
def intOf (t : Ty) (v : Word) : Int :=
  let w := tyW t
  let m := lowBits t v
  if tySgn t && m / 2 ^ (w - 1) == 1 then (m : Int) - 2 ^ w else m

/-- An exact integer taken modulo 2^w and placed in a token's value (R101, R108). -/
def wrapTy (t : Ty) (i : Int) : Word := extendTy t (i % 2 ^ tyW t).toNat

/-- The smallest value of an integer type (R108). -/
def tyMin (t : Ty) : Int := if tySgn t then -2 ^ (tyW t - 1) else 0

/-- The largest value of an integer type (R108). -/
def tyMax (t : Ty) : Int := if tySgn t then 2 ^ (tyW t - 1) - 1 else 2 ^ tyW t - 1

end Sys2Proof.Machine
end

