-- ==== Sys2Proof/Machine/Functions.lean ====
section
/-!
DEFINITION. The correctly rounded functions of R159. Each irrational result is enclosed between two rationals at a
working precision; when both ends round to the same pattern that pattern is the rounding of the exact value, because
rounding is monotone, and otherwise the precision is raised.
-/

namespace Sys2Proof.Machine

open Sys2Proof

/-- Fixed-point product at `p` fractional bits. -/
def fxMul (p : Nat) (a b : Nat) : Nat := a * b / 2 ^ p

/-- The terms y^k / k! of the exponential series, summed for `n` further terms, at `p` fractional bits. -/
def expTerms (p y : Nat) : Nat → Nat → Nat → Nat → Nat
  | 0, _, _, acc => acc
  | n + 1, k, t, acc => let t' := fxMul p t y / k; expTerms p y n (k + 1) t' (acc + t')

/-- e^y for 0 ≤ y < 1 at `p` fractional bits. -/
def fxExp (p y : Nat) : Nat := expTerms p y (p + 8) 1 (2 ^ p) (2 ^ p)

/-- The terms z^(2k+1) / (2k+1) of the inverse hyperbolic tangent series. -/
def atanhTerms (p z2 : Nat) : Nat → Nat → Nat → Nat → Nat
  | 0, _, _, acc => acc
  | n + 1, k, t, acc => let t' := fxMul p t z2; atanhTerms p z2 n (k + 2) t' (acc + t' / (k + 2))

/-- atanh z for 0 ≤ z ≤ 1/2 at `p` fractional bits. -/
def fxAtanh (p z : Nat) : Nat := atanhTerms p (fxMul p z z) (p / 2 + 8) 1 z z

/-- ln 2 at `p` fractional bits: 2 atanh (1/3). -/
def fxLn2 (p : Nat) : Nat := 2 * fxAtanh p (2 ^ p / 3)

/-- The alternating terms z^(2k+1) / (2k+1) of the arc tangent of 1/q. -/
def atanInvTerms (q2 : Nat) : Nat → Nat → Nat → Bool → Int → Int
  | 0, _, _, _, acc => acc
  | n + 1, k, t, plus, acc =>
    let v : Int := (t / k : Nat)
    atanInvTerms q2 n (k + 2) (t / q2) (!plus) (if plus then acc + v else acc - v)

/-- π at `p` fractional bits: 16 atan (1/5) − 4 atan (1/239). -/
def fxPi (p : Nat) : Nat :=
  (16 * atanInvTerms 25 (p / 4 + 8) 1 (2 ^ p / 5) true 0
    - 4 * atanInvTerms (239 * 239) (p / 8 + 8) 1 (2 ^ p / 239) true 0).toNat

/-- The alternating series t, t y² / ((k+1)(k+2)), … of sine and cosine. -/
def trigTerms (p y2 : Nat) : Nat → Nat → Nat → Bool → Int → Int
  | 0, _, _, _, acc => acc
  | n + 1, k, t, plus, acc =>
    let t' := fxMul p t y2 / ((k + 1) * (k + 2))
    trigTerms p y2 n (k + 2) t' (!plus) (if plus then acc + t' else acc - t')

/-- sin y for 0 ≤ y < 2 at `p` fractional bits. -/
def fxSin (p y : Nat) : Int := trigTerms p (fxMul p y y) (p / 4 + 16) 1 y false y

/-- cos y for 0 ≤ y < 2 at `p` fractional bits. -/
def fxCos (p y : Nat) : Int := trigTerms p (fxMul p y y) (p / 4 + 16) 0 (2 ^ p) false (2 ^ p)

/-- ⌊m × 2^e × 2^p⌋. -/
def toFx (p m : Nat) (e : Int) : Nat :=
  let k := e + p
  if 0 ≤ k then m * 2 ^ k.toNat else m / 2 ^ (-k).toNat

/-- The signed enclosing ends `v ± 2^20` at `p` fractional bits, as exact values. -/
def fxEnds (p : Nat) (v : Int) : Ex × Ex :=
  let ex (i : Int) : Ex := .fin (i < 0) i.natAbs 1 (-(p : Int))
  (ex (v - 2 ^ 20), ex (v + 2 ^ 20))

/-- Enclosure of 2^x for x = ± m × 2^e, |x| < 2^15. -/
def encExp2 (p : Nat) (neg : Bool) (m : Nat) (e : Int) : Ex × Ex :=
  let v : Int := if neg then -(toFx p m e : Int) else toFx p m e
  let n := v / 2 ^ p
  let f := (v % 2 ^ p).toNat
  let b := fxEnds p (fxExp p (fxMul p f (fxLn2 p)))
  (b.1.scale n, b.2.scale n)

/-- Enclosure of log2 x for x = m × 2^e > 0. -/
def encLog2 (p : Nat) (m : Nat) (e : Int) : Ex × Ex :=
  let k : Nat := m.log2
  let y := toFx p m (-(k : Int))          -- in [1, 2)
  let z := (y - 2 ^ p) * 2 ^ p / (y + 2 ^ p)
  let l : Int := (2 * fxAtanh p z * 2 ^ p / fxLn2 p : Nat)
  fxEnds p (l + ((k : Int) + e) * 2 ^ p)

/-- Enclosure of sin x or, when `cosine`, cos x, for x = ± m × 2^e. -/
def encTrig (cosine : Bool) (p : Nat) (neg : Bool) (m : Nat) (e : Int) : Ex × Ex :=
  let pp := p + 160
  let half := fxPi pp / 2
  let x := toFx pp m e
  let k := x / half
  let y := (x % half) / 2 ^ 160
  let q := (if cosine then k + 1 else k) % 4
  let v : Int := match q with
    | 0 => fxSin p y
    | 1 => fxCos p y
    | 2 => -fxSin p y
    | _ => -fxCos p y
  fxEnds p (if neg && !cosine then -v else v)

/-- Enclosure of tanh x for x = ± m × 2^e with 0 < |x| < 64. -/
def encTanh (p : Nat) (neg : Bool) (m : Nat) (e : Int) : Ex × Ex :=
  let t := toFx p m (e + 1)
  let l := fxLn2 p
  let er := fxExp p (t % l)
  let q := 2 ^ (2 * p) / er / 2 ^ (t / l)
  let v : Int := ((2 ^ p - q) * 2 ^ p / (2 ^ p + q) : Nat)
  fxEnds p (if neg then -v else v)

/-- Enclosure of the square root of a / d × 2^e > 0. -/
def encSqrt (p : Nat) (a d : Nat) (e : Int) : Ex × Ex :=
  let s : Int := if e % 2 == 0 then e else e - 1
  let a2 := if e % 2 == 0 then a else 2 * a
  let v := (a2 * 2 ^ (2 * p) / d).sqrt
  (.fin false v 1 (s / 2 - p), .fin false (v + 1) 1 (s / 2 - p))

/-- The rounding of the value that both ends enclose, at the first precision of the list that decides it. -/
def rndEnclosed (F : Fmt) (m : RMode) (sat : Bool) (r : Nat) (enc : Nat → Ex × Ex) : List Nat → Nat
  | [] => F.qnan
  | [p] => rnd F m sat r (enc p).1
  | p :: q :: ps =>
    let lo := rnd F m sat r (enc p).1
    if lo == rnd F m sat r (enc p).2 then lo else rndEnclosed F m sat r enc (q :: ps)

/-- The working precisions tried. -/
def precisions : List Nat := [160, 400, 1300, 3000]

/-- The exact square root when the operand is a square of a rational, none otherwise. -/
def sqrtExact (a d : Nat) (e : Int) : Option Ex :=
  let a2 := if e % 2 == 0 then a else 2 * a
  let s : Int := if e % 2 == 0 then e else e - 1
  if a2.sqrt * a2.sqrt == a2 && d.sqrt * d.sqrt == d then some (.fin false a2.sqrt d.sqrt (s / 2)) else none

/-- FSQRT of R159. -/
def fSqrt (F : Fmt) (m : RMode) (sat : Bool) (r : Nat) (x : Ex) : Nat :=
  match x with
  | .nan => rnd F m sat r .nan
  | .inf n => rnd F m sat r (if n then .nan else .inf false)
  | .fin n a d e =>
    if a == 0 then rnd F m sat r x
    else if n then rnd F m sat r .nan
    else match sqrtExact a d e with
    | some y => rnd F m sat r y
    | none => rndEnclosed F m sat r (fun p => encSqrt p a d e) [1200]

/-- FRSQ of R159: the reciprocal square root. -/
def fRsq (F : Fmt) (m : RMode) (sat : Bool) (r : Nat) (x : Ex) : Nat :=
  match x with
  | .nan => rnd F m sat r .nan
  | .inf n => rnd F m sat r (if n then .nan else .zero)
  | .fin n a d e =>
    if a == 0 then rnd F m sat r (.inf n)
    else if n then rnd F m sat r .nan
    else match sqrtExact d a (-e) with
    | some y => rnd F m sat r y
    | none => rndEnclosed F m sat r (fun p => encSqrt p d a (-e)) [1200]

/-- FRCP of R159. -/
def fRcp (F : Fmt) (m : RMode) (sat : Bool) (r : Nat) (x : Ex) : Nat := rnd F m sat r (Ex.div .one x)

/-- FEXP2 of R159. Outside ±2^15 the value lies beyond every format of set S and rounds as 2^±32768 does. -/
def fExp2 (F : Fmt) (m : RMode) (sat : Bool) (r : Nat) (x : Ex) : Nat :=
  match x with
  | .nan => rnd F m sat r .nan
  | .inf n => rnd F m sat r (if n then .zero else .inf false)
  | .fin n a _ e =>
    if a == 0 then rnd F m sat r .one
    else if (a.log2 : Int) + e ≥ 15 then rnd F m sat r (.fin false 1 1 (if n then -32768 else 32768))
    else if 0 ≤ e || a % 2 ^ (-e).toNat == 0 then
      let i : Nat := if 0 ≤ e then a * 2 ^ e.toNat else a / 2 ^ (-e).toNat
      rnd F m sat r (.fin false 1 1 (if n then -(i : Int) else i))
    else rndEnclosed F m sat r (fun p => encExp2 p n a e) precisions

/-- FLOG2 of R159. -/
def fLog2 (F : Fmt) (m : RMode) (sat : Bool) (r : Nat) (x : Ex) : Nat :=
  match x with
  | .nan => rnd F m sat r .nan
  | .inf n => rnd F m sat r (if n then .nan else .inf false)
  | .fin n a _ e =>
    if a == 0 then rnd F m sat r (.inf true)
    else if n then rnd F m sat r .nan
    else if a == 2 ^ a.log2 then rnd F m sat r (Ex.ofInt ((a.log2 : Int) + e))
    else rndEnclosed F m sat r (fun p => encLog2 p a e) precisions

/-- FSIN and FCOS of R159. -/
def fTrig (cosine : Bool) (F : Fmt) (m : RMode) (sat : Bool) (r : Nat) (x : Ex) : Nat :=
  match x with
  | .nan => rnd F m sat r .nan
  | .inf _ => rnd F m sat r .nan
  | .fin n a _ e =>
    if a == 0 then rnd F m sat r (if cosine then .one else x)
    else rndEnclosed F m sat r (fun p => encTrig cosine p n a e) precisions

/-- FTANH of R159. From 64 on the value lies within 2^-180 of ±1 and rounds as ±(1 − 2^-180) does. -/
def fTanh (F : Fmt) (m : RMode) (sat : Bool) (r : Nat) (x : Ex) : Nat :=
  match x with
  | .nan => rnd F m sat r .nan
  | .inf n => rnd F m sat r (.fin n 1 1 0)
  | .fin n a _ e =>
    if a == 0 then rnd F m sat r x
    else if (a.log2 : Int) + e ≥ 6 then rnd F m sat r (.fin n (2 ^ 180 - 1) 1 (-180))
    else rndEnclosed F m sat r (fun p => encTanh p n a e) precisions

end Sys2Proof.Machine
end

