-- ==== Sys2Proof/Syntax.lean ====
section
/-!
DEFINITION. The one inductive of the instruction set: one constructor for each row of the opcode table. The first 198
are station instructions and carry the fields of their word (02 R30); the rest are the events by which the module's
other units, the host, the links and the supervisor act, and carry what the outside world or the acting unit supplies.
-/

namespace Sys2Proof

/-- The steps of the LX8: station instructions and events, one constructor per row of the opcode table. -/
inductive Instr where
  /-- R81: A station holding NOP never issues; a token arriving at it is discarded and counted as an orphan. -/
  | nop (f : Fields)
  /-- R82: Copies the L token, keeping its kind, to both targets. -/
  | move (f : Fields)
  /-- R83: On an L trigger, emits a sign-extended immediate or a K register value to both targets. -/
  | const (f : Fields)
  /-- R84: Routes L to TA or TB by the control operand and sends null to the untaken target unless .NN is set. -/
  | steer (f : Fields)
  /-- R85: Emits the first non-null of L and R, L winning, or null if both are null. -/
  | merge (f : Fields)
  /-- R86: Chooses L or R by the selector at P and emits the chosen operand. -/
  | select (f : Fields)
  /-- R87: Emits L once R has arrived and discards R's value. -/
  | gate (f : Fields)
  /-- R88: Emits the count of non-null operands, 0 to 2, as a value token. -/
  | join (f : Fields)
  /-- R89: Emits nulls, or with .TEST emits a flag saying whether L is null and passes L on. -/
  | nulls (f : Fields)
  /-- R90: Consumes L of any kind without counting it as an orphan. -/
  | sink (f : Fields)
  /-- R91: Creates a loop frame and emits L under iteration 0, waiting while a frame of the station and colour is live or none is free. -/
  | iterEnter (f : Fields)
  /-- R92: Passes L to iteration k+1 once the frame's window allows, raising HEAD. -/
  | iterNextStep (f : Fields)
  /-- R92: Retires iteration k of the frame and advances BASE. -/
  | iterNextDone (f : Fields)
  /-- R93: Records the exit iteration and emits L under the saved outer ITR. -/
  | iterExit (f : Fields)
  /-- R94: Emits the full 64-bit iteration number resolved from the frame. -/
  | iterIdx (f : Fields)
  /-- R95: Emits the firing's ITR, COL and CTX packed into one value. -/
  | tagGet (f : Fields)
  /-- R96: Emits L under a new ITR taken from R, K or the immediate. -/
  | tagSet (f : Fields)
  /-- R97: Allocates the lowest free colour, writes its call record and emits the colour. -/
  | colourNew (f : Fields)
  /-- R98: Records an argument in a colour's call record, following FORWARD, and sends it under the child colour. -/
  | colourArg (f : Fields)
  /-- R99: Returns L and the call-site value to the parent's tag and moves the colour to RETURNED. -/
  | colourRet (f : Fields)
  /-- R100: Moves the firing's colour to ENDED and begins its release. -/
  | colourEnd (f : Fields)
  /-- R483: Sends argument 0 of a service call to the mailbox, where the entry is posted once all parts arrive, and later receives the reply. -/
  | svcCall (f : Fields)
  /-- R483: Sends a further argument of a service call to the mailbox entry of its CALL station. -/
  | svcArg (f : Fields)
  /-- R409: Moves the waiting tokens of the firing's colour from the matching store and token hold to the spill table. -/
  | yield (f : Fields)
  /-- R369: Moves the context to DRAINING and floods a stop through the paddock. -/
  | exit (f : Fields)
  /-- R484: Faults TRAP precisely; when re-injected at resumption it emits L instead. -/
  | trap (f : Fields)
  /-- R484: Faults BRK when DBGC enables the context's world, and otherwise emits L. -/
  | brk (f : Fields)
  /-- R475: Waits until the CU's earlier memory requests have replied, then emits L only if no error or purge covers the colour. -/
  | errf (f : Fields)
  /-- R376: Emits the firing site's group index, coordinates, parent index or site index at a level. -/
  | grpId (f : Fields)
  /-- R376: Emits the clipped size of the site's group, or the group counts, at a level. -/
  | grpSize (f : Fields)
  /-- R365: Sends L as a config token that rewrites a station word at the destination CU. -/
  | cfgWStn (f : Fields)
  /-- R365: Sends L as a config token that rewrites a K register at the destination CU. -/
  | cfgWK (f : Fields)
  /-- R366: Drains the context, then verifies and loads a new image into the same paddock and places its entry tokens. -/
  | cfgWReconf (f : Fields)
  /-- R367: Writes L to one of the CU's own K registers as a config token. -/
  | kset (f : Fields)
  /-- R389: Reads a packet and appends it to a graph-enabled launch queue, reporting full, wrong-space or disabled queues by status. -/
  | launch (f : Fields)
  /-- R368: Reads a K register of this CU or of a CU reached through a route entry, as a config-ordered read. -/
  | kget (f : Fields)
  /-- R133: Integer addition modulo 2^w with a predicted residue check. -/
  | add (f : Fields)
  /-- R133: Integer subtraction modulo 2^w. -/
  | sub (f : Fields)
  /-- R140: Carry-chained add that takes a carry at P and emits the sum and a carry token marked CHN. -/
  | addc (f : Fields)
  /-- R140: Borrow-chained subtract that emits the difference and a borrow token marked CHN. -/
  | subb (f : Fields)
  /-- R133: Integer multiply that emits the low or high half of the product. -/
  | mul (f : Fields)
  /-- R141: Carry-chained multiply-add that emits the low half and a carry of the high half. -/
  | mulc (f : Fields)
  /-- R134: Integer division toward zero, with defined results for division by zero and overflow. -/
  | div (f : Fields)
  /-- R134: Integer remainder matching DIV. -/
  | rem (f : Fields)
  /-- R133: Emits the smaller operand in the order of TY. -/
  | min (f : Fields)
  /-- R133: Emits the larger operand in the order of TY. -/
  | max (f : Fields)
  /-- R136: Integer absolute value, optionally saturating. -/
  | abs (f : Fields)
  /-- R136: Integer negation modulo 2^w. -/
  | neg (f : Fields)
  /-- R133: Bitwise AND with a paired residue check. -/
  | and (f : Fields)
  /-- R133: Bitwise OR. -/
  | or (f : Fields)
  /-- R133: Bitwise XOR. -/
  | xor (f : Fields)
  /-- R133: Bitwise a AND NOT b. -/
  | andn (f : Fields)
  /-- R136: Bitwise complement of the w-bit pattern. -/
  | not (f : Fields)
  /-- R137: Logical shift left by an unsigned amount. -/
  | shl (f : Fields)
  /-- R137: Logical shift right. -/
  | shr (f : Fields)
  /-- R137: Arithmetic shift right. -/
  | sar (f : Fields)
  /-- R137: Rotates the w-bit pattern left or right. -/
  | rot (f : Fields)
  /-- R136: Counts the leading zero bits. -/
  | clz (f : Fields)
  /-- R136: Counts the one bits. -/
  | popc (f : Fields)
  /-- R136: Reverses the bit order of the w-bit pattern. -/
  | brev (f : Fields)
  /-- R139: Extracts a bit field and sign- or zero-extends it. -/
  | bfx (f : Fields)
  /-- R139: Inserts the low bits of R into a bit field of L. -/
  | bfi (f : Fields)
  /-- R138: Integer comparison emitting 1 or 0. -/
  | cmp (f : Fields)
  /-- R136: Re-extends the low w bits of L for its type. -/
  | ext (f : Fields)
  /-- R135: Saturating add or subtract clamped to the range of TY. -/
  | addsat (f : Fields)
  /-- R142: Adds a scaled index to a generic pointer's offset field, faulting WINDOW_INVALID outside the field. -/
  | aidx (f : Fields)
  /-- R143: Mixing hash of two 64-bit operands. -/
  | hash (f : Fields)
  /-- R148: Floating-point addition rounded by mode and policy. -/
  | fadd (f : Fields)
  /-- R148: Floating-point subtraction. -/
  | fsub (f : Fields)
  /-- R148: Floating-point multiplication. -/
  | fmul (f : Fields)
  /-- R149: Fused multiply-add with the addend at P, rounded once. -/
  | ffma (f : Fields)
  /-- R151: Floating-point minimum that ignores NaNs, or propagates them with .NAN. -/
  | fmin (f : Fields)
  /-- R151: Floating-point maximum. -/
  | fmax (f : Fields)
  /-- R152: Clears the sign bit. -/
  | fabs (f : Fields)
  /-- R152: Inverts the sign bit. -/
  | fneg (f : Fields)
  /-- R153: Floating-point comparison emitting 1 or 0. -/
  | fcmp (f : Fields)
  /-- R154: Emits a one-hot classification of L. -/
  | fclass (f : Fields)
  /-- R155: Converts between floating-point formats with a mode and policy. -/
  | fcvt (f : Fields)
  /-- R156: Converts a floating-point value to a clamped integer. -/
  | ftoi (f : Fields)
  /-- R157: Converts an integer to a floating-point format. -/
  | itof (f : Fields)
  /-- R158: Rounds to an integral value in the same format. -/
  | frnd (f : Fields)
  /-- R159: Correctly rounded floating-point division. -/
  | fdiv (f : Fields)
  /-- R159: Correctly rounded square root. -/
  | fsqrt (f : Fields)
  /-- R159: Correctly rounded reciprocal. -/
  | frcp (f : Fields)
  /-- R159: Correctly rounded reciprocal square root. -/
  | frsq (f : Fields)
  /-- R159: Correctly rounded base-2 exponential. -/
  | fexp2 (f : Fields)
  /-- R159: Correctly rounded base-2 logarithm. -/
  | flog2 (f : Fields)
  /-- R159: Correctly rounded sine. -/
  | fsin (f : Fields)
  /-- R159: Correctly rounded cosine. -/
  | fcos (f : Fields)
  /-- R159: Correctly rounded hyperbolic tangent. -/
  | ftanh (f : Fields)
  /-- R150: Two-term dot product with an optional addend, rounded once to F32. -/
  | fdot2 (f : Fields)
  /-- R160: Multiplies by a power of two and rounds once. -/
  | fscale (f : Fields)
  /-- R161: Quantises an F32 value times a multiplier into a narrow format. -/
  | quant (f : Fields)
  /-- R162: Dequantises a narrow element times an F32 scale to F32. -/
  | deq (f : Fields)
  /-- R192: Plain load through a generic pointer, reading own buffered stores or memory. -/
  | ld (f : Fields)
  /-- R192: Plain store into the pool or the home MU phase buffer, with a completion token when performed. -/
  | st (f : Fields)
  /-- R195: Loads and decodes one element of a line by its line tag to F32. -/
  | ldl (f : Fields)
  /-- R196: Encodes a value into one element of a line by its tag, optionally replacing the tag. -/
  | stl (f : Fields)
  /-- R197: Reads the current line tag of the line at L. -/
  | ltagGet (f : Fields)
  /-- R197: Writes a line tag through the phase buffer. -/
  | ltagSet (f : Fields)
  /-- R200: Reads a write-once word, or parks the reader until it is written. -/
  | isRd (f : Fields)
  /-- R200: Writes a write-once word, making it FULL and releasing its parked readers. -/
  | isWr (f : Fields)
  /-- R200: Clears a write-once word to EMPTY. -/
  | isClr (f : Fields)
  /-- R201: Performs a translation to warm the TLBs and reports a status without faulting. -/
  | pfch (f : Fields)
  /-- R202: Arrives at a phase boundary of a scope; completes once all parties have arrived and the commit ends. -/
  | phase (f : Fields)
  /-- R203: Counts n completion tokens of one tag and emits one ordering token, waiting longer for remote stores at wide scopes. -/
  | fence (f : Fields)
  /-- R206: Allocates heap space and a capability index, or reports why it cannot. -/
  | capAlloc (f : Fields)
  /-- R208: Revokes a capability index after every checker has dropped its cached bit line. -/
  | capFree (f : Fields)
  /-- R207: Derives a smaller capability under a new index. -/
  | capNarrow (f : Fields)
  /-- R209: Reports the length, offset, base, state or permission of a capability. -/
  | capInfo (f : Fields)
  /-- R193: Guarded gather load that returns a fill value at the capability's bound. -/
  | gld (f : Fields)
  /-- R192: Load from an offset in the home MU scratchpad. -/
  | lds (f : Fields)
  /-- R192: Store to an offset in the home MU scratchpad through its phase buffer. -/
  | sts (f : Fields)
  /-- R210: Emits the partition word and the scratchpad partition size. -/
  | poolPart (f : Fields)
  /-- R211: Atomic add returning the old value. -/
  | aadd (f : Fields)
  /-- R211: Atomic minimum. -/
  | amin (f : Fields)
  /-- R211: Atomic maximum. -/
  | amax (f : Fields)
  /-- R211: Atomic AND. -/
  | aand (f : Fields)
  /-- R211: Atomic OR. -/
  | aor (f : Fields)
  /-- R211: Atomic XOR. -/
  | axor (f : Fields)
  /-- R211: Atomic exchange. -/
  | axchg (f : Fields)
  /-- R212: Atomic compare-and-swap with the new value at P, returning the old value and success. -/
  | acas (f : Fields)
  /-- R211: Atomic floating-point add rounded RNE NONSAT. -/
  | afadd (f : Fields)
  /-- R213: Atomic add that releases AWAIT waiters when the word crosses a threshold. -/
  | aaddth (f : Fields)
  /-- R214: Emits the word if it has reached v, or parks until an AADDTH releases it. -/
  | await (f : Fields)
  /-- R229: Makes a 16-byte scratchpad slot a live barrier. -/
  | barInit (f : Fields)
  /-- R230: Lowers the pending arrival count and returns the phase parity. -/
  | barArrive (f : Fields)
  /-- R230: Raises the expected transaction bytes, and with .ARRIVE also arrives. -/
  | barExpect (f : Fields)
  /-- R231: Waits for a phase parity: emits at once, parks, or enters the retry buffer. -/
  | barWait (f : Fields)
  /-- R232: Tests whether a phase is released, or reads the slot's words. -/
  | barTest (f : Fields)
  /-- R230: Removes a party from the barrier, lowering pending and expected counts. -/
  | barDrop (f : Fields)
  /-- R233: Returns an idle or armed barrier slot with no waiters to plain data. -/
  | barRetire (f : Fields)
  /-- R268: Makes a 32-byte header a local ring from a descriptor. -/
  | ringInit (f : Fields)
  /-- R269: Claims the next filled message of a ring, or parks until one is filled. -/
  | ringAwait (f : Fields)
  /-- R270: Releases the oldest claimed message, freeing space locally or sending a slot return. -/
  | ringRelease (f : Fields)
  /-- R271: Reads one 64-bit word of a ring header. -/
  | ringStat (f : Fields)
  /-- R272: Returns a local ring with no reservations or waiters to plain data. -/
  | ringRetire (f : Fields)
  /-- R273: Binds a remote ring to the home MU's copy unit and passes L through once the binding exists. -/
  | ringBind (f : Fields)
  /-- R248: Issues a push of LEN bytes to a scratchpad anywhere in the paddock. -/
  | send (f : Fields)
  /-- R248: Issues a push of one message into a local or bound ring. -/
  | sendRing (f : Fields)
  /-- R249: Issues a reducing push that adds or maximises into destination elements. -/
  | sendr (f : Fields)
  /-- R250: Issues a push that extends a running Fletcher-32 checksum and emits the copy id. -/
  | sendkChain (f : Fields)
  /-- R250: Issues a checksummed push and compares the final checksum with an expected value. -/
  | sendkLast (f : Fields)
  /-- R251: Issues a tensor-map copy from global memory into a dense scratchpad image. -/
  | copy (f : Fields)
  /-- R251: Issues a tensor-map copy from a dense home scratchpad image to global memory. -/
  | copyo (f : Fields)
  /-- R252: Issues a stream that emits map elements as tokens and ends with end-of-fibre. -/
  | stream (f : Fields)
  /-- R253: Binds a write queue to an AGU stream that writes arriving tokens to map elements. -/
  | streamw (f : Fields)
  /-- R254: Stops a STREAM or closes a STREAMW and emits its element count. -/
  | sclose (f : Fields)
  /-- R255: Reads a copy's status word, freeing a final FAILED entry. -/
  | cstat (f : Fields)
  /-- R455: Issues an NVMe read on a storage channel into memory. -/
  | ioread (f : Fields)
  /-- R453: Issues an NVMe read whose data fills one ring message. -/
  | ioreadRing (f : Fields)
  /-- R455: Issues an NVMe write, optionally with Force Unit Access. -/
  | iowrite (f : Fields)
  /-- R456: Issues a RoCE v2 SEND, RDMA WRITE or WRITE with immediate on a queue pair. -/
  | netsend (f : Fields)
  /-- R457: Binds a local ring to receive inbound messages of a queue pair. -/
  | netrecvBind (f : Fields)
  /-- R457: Releases a ring's binding to a queue pair. -/
  | netrecvUnbind (f : Fields)
  /-- R296: Writes a tensor-map entry from memory or replaces its base. -/
  | tmap (f : Fields)
  /-- R297: Starts filling an empty tile, and its strip, from a tensor map. -/
  | tfill (f : Fields)
  /-- R298: Binds a tile tag to a tile offset, strip and format. -/
  | ttagBind (f : Fields)
  /-- R298: Publishes an empty tag as FULL. -/
  | ttagFull (f : Fields)
  /-- R298: Marks a tag EMPTY. -/
  | ttagEmpty (f : Fields)
  /-- R298: Emits a tag word. -/
  | ttagStat (f : Fields)
  /-- R299: Dense tile product accumulated into an accumulator. -/
  | mma (f : Fields)
  /-- R299: Scaled tile product applying the tags' block scales. -/
  | mmas (f : Fields)
  /-- R300: Ragged grouped product writing row groups against separate B operands. -/
  | mmag (f : Fields)
  /-- R301: Systolic pass over a region of CUs using their weight banks. -/
  | mmar (f : Fields)
  /-- R302: Loads a weight bank locally or down a column of CUs. -/
  | wld (f : Fields)
  /-- R303: Sets the zero flag and type of a range of accumulators. -/
  | accz (f : Fields)
  /-- R304: Delivers an accumulator, with tensor scales, into output tags. -/
  | accrd (f : Fields)
  /-- R305: Converts a tile element by element with its scales. -/
  | tcvt (f : Fields)
  /-- R308: Row sums, sums of squares or maxima of a tile. -/
  | tred (f : Fields)
  /-- R306: Element-wise base-2 exponential of a scaled, shifted tile. -/
  | texp (f : Fields)
  /-- R307: Transposes a 32 by 32 tile. -/
  | ttrn (f : Fields)
  /-- R309: Vector dot product of two tensor maps in the fixed accumulation order. -/
  | tdot (f : Fields)
  /-- R326: Runs one butterfly stage from a source handle to a result handle. -/
  | bfly (f : Fields)
  /-- R326: Runs a chain of butterfly stages, optionally forwarding the result east. -/
  | bfch (f : Fields)
  /-- R327: Writes a stride register in array order. -/
  | sdset (f : Fields)
  /-- R328: Loads words from memory into K registers of this or a routed CU as config tokens. -/
  | bwld (f : Fields)
  /-- R329: Permutes a vector by bit reversal, rotation or XOR of indices. -/
  | bperm (f : Fields)
  /-- R330: Scales a vector by an F32 factor with one rounding. -/
  | bfsc (f : Fields)
  /-- R347: Opens a bin set from four K registers. -/
  | binOpen (f : Fields)
  /-- R348: Appends one update, index and value, to an open bin set. -/
  | binPut (f : Fields)
  /-- R348: Appends the updates of a segment of index and value maps. -/
  | binPutMap (f : Fields)
  /-- R347: Emits the set's status and starts a replay of its bins. -/
  | binPlay (f : Fields)
  /-- R347: Emits the status, discards the bins and frees the set. -/
  | binClose (f : Fields)
  /-- R345: Finds the start of one part of a merge-path split of a compressed matrix. -/
  | mpath (f : Fields)
  /-- R349: Starts streaming a compressed fibre's coordinates and values as tokens. -/
  | fscan (f : Fields)
  /-- R350: Starts intersecting two fibres in coordinate order. -/
  | fisect (f : Fields)
  /-- R350: Starts uniting two fibres in coordinate order. -/
  | funion (f : Fields)
  /-- R352: Binds two write queues to an emitter that writes a fibre back to memory, compacting nulls. -/
  | femit (f : Fields)
  /-- R351: Starts gathering table elements through an index fibre with a fill value at the bound. -/
  | gath (f : Fields)
  /-- R485: Reads a fabric register by selector, subject to world permissions. -/
  | sysrd (f : Fields)
  /-- R485: Writes a fabric register by selector, subject to world permissions. -/
  | syswr (f : Fields)
  /-- R411: Reads the context's energy counter or budget at the energy unit. -/
  | enrd (f : Fields)
  /-- R476: Reads a site's wear or lifetime state, or the context's wear charge. -/
  | wearrd (f : Fields)
  /-- R410: Emits the context id, flags, member, world and restore count. -/
  | ctxid (f : Fields)
  /-- R486: Emits the firing CU's local cycle count. -/
  | cyc (f : Fields)
  /-- R477: Arms the die's injection register with paddock-relative coordinates. -/
  | errinj (f : Fields)
  /-- R45: Station test word of diagnostic kernels that emits L and the immediate. -/
  | diag (f : Fields)
  /-- R16: A switch forwards a token one hop by its remaining displacement after checking its RID. -/
  | tokenHop (u : UId) (out : Port)
  /-- R64: A token reaches a CU and is placed in the matching store, token hold or spill table, or completes an instantiation. -/
  | tokenArrival (u : UId) (own : Bool)
  /-- R66: A spill-table probe returns, making the instantiation ready or leaving the token spilled. -/
  | spillProbeDone (u : UId)
  /-- R363: A config token reaches a CU and is held until the instantiations that read its object have issued. -/
  | configTokenArrival (n : Nat)
  /-- R363: A held config token's write is applied and its station word checked, possibly making the station trapping. -/
  | configTokenApply (n : Nat)
  /-- R188: A memory, atomic, I-structure, barrier or ring request passes an MU's request port and is performed at its bank. -/
  | muRequest (m : UId)
  /-- R187: A global atomic takes effect at its memory controller's atomic unit and replies. -/
  | globalAtomicPerform (m : UId) (n : Nat)
  /-- R178: The commit of a boundary finishes writing its covered entries in commit-key order and the parties receive completion. -/
  | phaseBoundaryComplete (c : Nat) (lvl : Nat) (gx : Nat) (gy : Nat)
  /-- R76: An ENDED colour becomes FREE once its stores are committed, its children are free and its sweep is done. -/
  | activationReleaseComplete (c : Nat) (k : Nat) (col : Nat)
  /-- R467: An imprecise error message reaches the colour unit and triggers a purge or a kill. -/
  | errorSurface (c : Nat) (n : Nat)
  /-- R222: An engine credit reaches a barrier slot and lowers TXB, or is refused. -/
  | barrierCredit (n : Nat)
  /-- R220: A barrier with both counts zero completes in the next cycle and starts the boundary's commit. -/
  | barrierCompletion (m : UId) (off : Nat)
  /-- R221: After the commit, a barrier phase is released, flipping parity and re-emitting its waiters. -/
  | barrierRelease (m : UId) (off : Nat)
  /-- R225: A barrier retry-buffer entry is performed after its slot's release. -/
  | barrierRetry (m : UId)
  /-- R238: A copy command is accepted at the copy unit, gets a copy id and commits its source range. -/
  | copyAccept (m : UId)
  /-- R238: An issued copy obtains its stream, ring space or commit entry and begins source reads. -/
  | copyStart (m : UId) (id : Nat)
  /-- R240: A fully staged chunk is applied, credited and acknowledged, or discarded as duplicate or out of order. -/
  | chunkApply (d : UId) (n : Nat)
  /-- R240: Chunk 0 refused for a full commit table is resent 64 cycles later. -/
  | chunkBusyResend (m : UId) (id : Nat)
  /-- R238: A chunk acknowledgement reaches the issuing MU and advances the copy. -/
  | chunkAck (m : UId) (n : Nat)
  /-- R240: A release message frees a copy's commit-table entry at the destination MU. -/
  | copyRelease (n : Nat)
  /-- R497: A copy's acknowledgement timer expires and the copy replays from its first unacknowledged chunk. -/
  | copyAckTimeout (m : UId) (id : Nat)
  /-- R252: An open STREAM emits its next element token, or its end-of-fibre. -/
  | streamElement (m : UId) (id : Nat)
  /-- R253: A token at a bound write queue is written to a map element and counted, closing the stream at n. -/
  | streamwToken (m : UId) (q : Nat)
  /-- R260: A ring message heading its order with enough space is reserved at the end of the cycle. -/
  | ringReservation (m : UId) (id : Nat)
  /-- R265: A slot-return message reaches the binding MU and adds to SFREE. -/
  | ringSlotReturn (m : UId) (ring : UId)
  /-- R273: A bind reaches the ring's MU and makes the ring BOUND or faults RING_STATE. -/
  | ringBindRequest (n : Nat)
  /-- R273: The bind reply reaches the binding MU, validating the entry and releasing waiting requests. -/
  | ringBindReply (n : Nat)
  /-- R282: The last line of a tile fill is written and the tag becomes FULL. -/
  | tfillComplete (u : UId) (t : Nat)
  /-- R282: A tensor or butterfly array operation ends, writing results and tags and emptying consumed tags. -/
  | arrayOpEnd (u : UId)
  /-- R294: A systolic region pass completes and its token returns to the origin. -/
  | mmarPassComplete (u : UId)
  /-- R341: The binning engine takes one update, appending it or dropping it at the bound. -/
  | binUpdateAppend (m : UId) (n : Nat)
  /-- R342: A replay begins once earlier puts of the set have read and appended everything. -/
  | binReplayStart (m : UId) (set : Nat)
  /-- R342: One region is read, its bin applied in append order and touched lines written back. -/
  | binReplayRegion (m : UId) (set : Nat)
  /-- R339: The replay ends, bins are emptied, the set reopens and the barrier is credited. -/
  | binReplayEnd (m : UId) (set : Nat)
  /-- R335: A fibre unit emits the tokens of its next position, or its end-of-fibre. -/
  | fibrePosition (m : UId) (id : Nat)
  /-- R352: A coordinate or value token reaches a FEMIT queue, and complete positions are written in order. -/
  | femitToken (m : UId) (k : Nat)
  /-- R498: After placement the loader reads the image header and hits the cache or starts reading the image. -/
  | kernelHeaderRead (c : Nat)
  /-- R359: Verification of the image completes, caching it or refusing the launch. -/
  | kernelVerified (c : Nat)
  /-- R358: Records are written and entry tokens placed, and the context becomes RESIDENT-RUNNING. -/
  | kernelLoadComplete (c : Nat)
  /-- R369: After engines drain and the final boundary commits, the context becomes EXITED and its status is recorded. -/
  | drainComplete (c : Nat)
  /-- R380: A write of CRT creates a queue and zeroes HEAD, TAIL and QERR. -/
  | queueCreate (q : Nat) (sec : Bool)
  /-- R380: A write of DST frees a created or drained queue. -/
  | queueDestroy (q : Nat) (sec : Bool)
  /-- R380: Setting EN makes the queue's heads candidates for placement. -/
  | queueEnable (q : Nat) (sec : Bool)
  /-- R380: Clearing EN drains the queue once no context of it remains. -/
  | queueDisable (q : Nat) (sec : Bool)
  /-- R380: Setting SUSP stops placement from the queue. -/
  | queueSuspend (q : Nat) (sec : Bool)
  /-- R380: Clearing SUSP lets the queue's head be placed again. -/
  | queueResume (q : Nat) (sec : Bool)
  /-- R379: The supervisor advances QTAIL to append published packets. -/
  | queueTailWrite (q : Nat) (v : Word) (sec : Bool)
  /-- R479: A secure write of QHEAD on a suspended queue skips a refused head. -/
  | queueHeadSkip (q : Nat) (v : Word) (sec : Bool)
  /-- R382: A new head registers yard waiters on its dependence slots, or is refused with DEPEND. -/
  | headWaitRegister (q : Nat)
  /-- R384: The yard chooses the eligible head of greatest effective priority and seeks a position or victim. -/
  | yardDecision (d : Nat)
  /-- R384: A head's waiting count crosses a multiple of 2^20 cycles and its effective priority rises. -/
  | ageingStep (q : Nat)
  /-- R387: A context's residence reaches its queue's quantum, making it eligible as a victim. -/
  | quantumExpiry (c : Nat)
  /-- R386: Placement claims are resolved through the I/O dies and winners are placed. -/
  | claimRound (busy : List Nat) (others : Bool) (inbound : List OutingIn)
  /-- R388: A context's energy counter reaches its budget and the yard freezes it and interrupts. -/
  | energyBudgetReached (c : Nat)
  /-- R403: A unit forwards its accumulated dynamic charges to the context's energy unit. -/
  | energyForward (u : UId)
  /-- R393: The supervisor's FREEZE command requests a freeze with the supervisor reason. -/
  | freeze (c : Nat) (sec : Bool)
  /-- R430: Clears the fault, budget and supervisor reasons and, at FRZ zero, resumes with the marker re-injected. -/
  | thaw (c : Nat) (sec : Bool)
  /-- R401: Starts writing a frozen context's hamper. -/
  | save (c : Nat) (sec : Bool)
  /-- R392: Puts a saved context's resume entry at the front of a queue. -/
  | requeue (c : Nat) (q : Nat) (sec : Bool)
  /-- R398: Ends a context by kill with XKIND KILL_CMD. -/
  | kill (c : Nat) (sec : Bool)
  /-- R392: Fixes a created context's registers and starts its load. -/
  | go (c : Nat) (sec : Bool)
  /-- R394: A paddock freeze completes once every in-progress operation has settled, interrupting when due. -/
  | freezeComplete (c : Nat)
  /-- R401: The last hamper record is written and the context becomes SAVED. -/
  | saveComplete (c : Nat)
  /-- R402: A placed resume entry has its hamper checked and fitted to the new position. -/
  | relocationComplete (c : Nat)
  /-- R402: Unit records are written and the context runs or stays FROZEN. -/
  | restoreComplete (c : Nat)
  /-- R417: A page walk returns, filling both TLBs or raising a translation fault. -/
  | tlbWalkComplete (n : Nat)
  /-- R420: A write of TLBIC GO starts an invalidation of a page, space, all spaces or the ranges. -/
  | tlbInvalidate (v : Word) (sec : Bool)
  /-- R420: The invalidation finishes, BSY clears and HELD is reported. -/
  | invalidateComplete
  /-- R423: The host finishes flushing a region, the device becomes owner and held accesses proceed. -/
  | hostFlushComplete (n : Nat)
  /-- R423: A host back-invalidation snoop makes every MU commit the region's buffered entries. -/
  | hostSnoop (n : Nat)
  /-- R423: The region's commit completes, ownership passes to the host and the snoop is answered. -/
  | regionCommitComplete (n : Nat)
  /-- R183: A transfer not complete in 2^22 cycles faults the held access precisely. -/
  | ownershipTimeout (n : Nat)
  /-- R432: A Shenis flit failing its CRC is retried from the retry buffer. -/
  | shenisFlitRetry (d : Nat) (dir : Nat) (ch : Nat) (ok : Bool)
  /-- R435: A Ryenxon flit is accepted in sequence and delivered in TSQ order, or refused with a NAK. -/
  | ryenxonFlitReceive (p : Nat) (fsq : Nat) (crc : BitVec 32) (fak : Option Nat) (nak : Bool) (tsq : Nat) (cargo : List Cargo)
  /-- R435: A NAK reaches the sender, which replays from FAK+1. -/
  | ryenxonNak (p : Nat) (fak : Nat)
  /-- R435: No acknowledgement for 4,096 cycles makes the sender replay. -/
  | ryenxonAckTimeout (p : Nat)
  /-- R438: Setting PEN starts training of a Ryenxon or Ethernet port. -/
  | linkEnable (eth : Bool) (p : Nat) (sec : Bool)
  /-- R438: Clearing PEN disables the port and moves its unacknowledged flits. -/
  | linkDisable (eth : Bool) (p : Nat) (sec : Bool)
  /-- R438: Training ends on two or one lanes and the port becomes UP or DEGRADED. -/
  | trainingComplete (eth : Bool) (p : Nat) (e : TrainEnd)
  /-- R438: Training fails or the peer's world differs and the port goes DOWN. -/
  | trainingFailed (eth : Bool) (p : Nat)
  /-- R438: 2^20 cycles after a failure the DOWN port trains again. -/
  | trainingRetry (eth : Bool) (p : Nat)
  /-- R438: A lane loss or eightfold replay retrains the port, moving flits and possibly quarantining it. -/
  | laneLost (eth : Bool) (p : Nat)
  /-- R438: The retrain window of 10^9 cycles closes and RTN returns to 0. -/
  | retrainWindowClose (eth : Bool) (p : Nat)
  /-- R437: Flits waiting 2^24 cycles for a usable port kill the outing. -/
  | outingPortTimeout (c : Nat)
  /-- R450: An I/O command reaches its I/O die, which translates its range and sends it. -/
  | ioCommandArrival (m : UId) (id : Nat)
  /-- R451: An NVMe completion or last RoCE acknowledgement ends an I/O command and credits or fills. -/
  | ioCompletion (m : UId) (id : Nat) (ok : Bool) (data : List Byte)
  /-- R451: An I/O command open 2^26 cycles is ended FAILED and a storage command aborted. -/
  | ioCommandTimeout (m : UId) (id : Nat)
  /-- R448: An inbound RDMA WRITE lands through a matching receive window or is NAKed. -/
  | inboundRdmaWrite (qp : Nat) (rkey : Nat) (va : Nat) (data : List Byte)
  /-- R457: An inbound SEND becomes a message of the bound ring, or is NAKed. -/
  | inboundSend (qp : Nat) (data : List Byte)
  /-- R448: An inbound RDMA WRITE with immediate lands and its immediate becomes a ring message. -/
  | inboundWriteImmediate (qp : Nat) (rkey : Nat) (va : Nat) (data : List Byte) (imm : Nat)
  /-- R448: An inbound RDMA READ is served over the source range of an open IOWRITE. -/
  | inboundRdmaRead (qp : Nat) (va : Nat) (n : Nat)
  /-- R447: A fatal RoCE v2 event moves a queue pair to ERROR. -/
  | qpFatalEvent (qp : Nat)
  /-- R449: A write of QST moves a queue pair between RESET and READY TO SEND. -/
  | qpStateWrite (qp : Nat) (st : Nat) (sec : Bool)
  /-- R423: The supervisor registers or removes a host region in the region table. -/
  | regionRegister (i : Nat) (v : Word)
  /-- R483: A part of a service call reaches the mailbox, creating or completing its entry. -/
  | mailboxPartArrival (n : Nat)
  /-- R483: A write of MBRPL answers an entry, sending the reply and status tokens. -/
  | mailboxReply (d : Nat) (ent : Nat) (st : Nat) (v : Word)
  /-- R481: The supervisor advances MBHD, freeing answered entries and notices. -/
  | mailboxHeadAdvance (d : Nat) (n : Nat)
  /-- R479: A write of 1 to ICFL flushes every unpinned image-cache entry. -/
  | imageCacheFlush (d : Nat)
  /-- R479: A write of HINT sends an MSI-X vector to the host. -/
  | hostInterrupt (v : Nat)
  /-- R460: Writing UQC with STP set returns a quarantined unit to its wear stage. -/
  | quarantineRelease (site : Nat)
  /-- R477: The supervisor writes EIJ to arm an error injection. -/
  | injectionArm (d : Nat) (v : Word)
  /-- R479: A hart writes a fabric register that has no row of its own. -/
  | registerWrite (sec : Bool) (a : Nat) (w : SizedWord)
  /-- R461: Every 29 resident cycles a unit adds its stress to LWEAR and to the context's WCHG. -/
  | wearTick (u : UId)
  /-- R18: Once its row is free of residents, a drained unit is retired by a remap or as a hole. -/
  | unitRetire (site : Nat)
  /-- R466: A unit's failure window closes and UFC returns to 0. -/
  | failureWindowClose (site : Nat)
  /-- R462: Units flush their wear counts to the lifetime record every 2^30 cycles; an orderly shutdown flushes them with `powerLoss`. -/
  | lifetimeFlush
  /-- R470: The twin copies' digests meet and the held operation proceeds or records REDUNDANT_MISMATCH. -/
  | digestExchange (n : Nat)
  /-- R29: A lid above 80 °C interrupts and stops new launches on the affected dies. -/
  | lidOverLimit (dies : List Nat)
  /-- R29: A lid falling to 75 °C lets placement resume. -/
  | lidResume (dies : List Nat)
  /-- R29: A lid at 90 °C stops the fabric clock, resets the dies and records the trip. -/
  | thermalTrip
  /-- R487: Power-on or a trip resets the module and boot firmware runs the start steps. -/
  | powerOnReset (b : BootArg)
  /-- R494: A secure supervisor requests diagnostic mode for the next start. -/
  | diagreq (sec : Bool)
  /-- R491: Boot firmware returns a signed report of M, the boot record and a nonce. -/
  | attestationReport (q : ReportArg)
  /-- R187: A window-00 or window-11 load's data are read at HBM4 or the second tier, fixing the bytes of R173, and its reply tokens are sent. -/
  | globalLoadPerform (m : UId) (n : Nat)
  /-- R403: In each cycle of residence the energy unit adds the paddock's static weights to the counter, which may saturate it or reach the budget. -/
  | staticEnergyCharge (c : Nat)
  /-- R438: A RoCE v2 NAK or acknowledgement timeout on a queue pair of an Ethernet port moves the port to RETRYING and retransmits. -/
  | roceRetransmission (p : Nat) (n : Nat)
  /-- R462: The supply is lost, wear since the last flush is lost and a boot step in progress stays at STARTED. `orderly` says that it ends an orderly
  shutdown, at which the units flush first. -/
  | powerLoss (orderly : Bool)
  /-- R419: The supervisor writes page-table leaves, range tables, packets, argument blocks or page tags in memory. -/
  | supervisorMemoryWrite (loc : Nat) (bytes : List Byte) (tags : List (Nat × BitVec 16))
deriving DecidableEq, Repr

end Sys2Proof
end

