-- ==== Sys2Proof/WellFormed.lean ====
section
/-!
DEFINITION. The checks of a station word (02 R46, R47): for every station instruction one row that gives the values its
entry allows in each field, and the first check that fails, in the order of R47. The checks that depend on the
surroundings of the word (valid route entries, declared groups, ITER.ENTER stations, the diagnostic world) are made
against an environment; without one they pass.
-/

namespace Sys2Proof

/-- The load checks of R46 that a station word can fail, named by what they check. -/
inductive LoadCheck where
  | op | fn | ty | pd | src | ta | tb | imm | diag
deriving DecidableEq, Repr

/-- The field code of a check (R46). -/
def LoadCheck.code : LoadCheck → Nat
  | .op => 1 | .fn => 2 | .ty => 3 | .pd => 4 | .src => 5 | .ta => 6 | .tb => 7 | .imm => 8 | .diag => 10

/-- What a station word is checked against besides its own bits: whether the kernel is diagnostic (R45), the firing
CU's column, its six route entries (R38), the stations of the CU that hold ITER.ENTER (R71) and the group levels that
the kernel declares (R370). -/
structure RtEnv where
  diag : Bool
  x : Nat
  routes : List (BitVec 32)
  enters : List Nat
  levels : List Nat
deriving DecidableEq, Repr

/-- The field `[lo + n - 1 : lo]` of `IMM`. -/
def fld (f : Fields) (lo n : Nat) : Nat := nbits f.imm.toNat lo n

/-- The width in bits of an integer type (R41); 64 for the others. -/
def intW : Ty → Nat
  | .i8 => 8 | .n8 => 8 | .i16 => 16 | .n16 => 16 | .i32 => 32 | .n32 => 32 | _ => 64

/-- `IMM` "by SRC" (R132): the bits that may be nonzero. -/
def bySrc (f : Fields) : BitVec 20 :=
  match f.src with
  | .toks => 0 | .kreg => 0x3F | .immd => 0xFFFFF | .unary => 0

/-- A legal rounding mode in `FN`[2:0] (R111). -/
def rp (f : Fields) : Bool := f.fn.toNat % 8 ≤ 4

/-- The assigned line formats (R118). -/
def lineFmt (n : Nat) : Bool := n ≤ 7 || n == 0x10

/-- The immediate operand of mode 10, as an integer (R33). -/
def immInt (f : Fields) : Int := f.imm.toInt

/-- An integer of magnitude `n` is exactly representable with `p` significand bits and a largest value `mx`. -/
def fitsSig (n p mx : Nat) : Bool := n ≤ mx && (n < 2 ^ p || n % 2 ^ (n.log2 + 1 - p) == 0)

/-- R127: a mode-10 operand of a floating-point type is exactly representable in that type. -/
def immFloat (f : Fields) : Bool :=
  f.src != .immd ||
    match f.ty with
    | .f16 => fitsSig (immInt f).natAbs 11 65504
    | .bf16 => fitsSig (immInt f).natAbs 8 (2 ^ 20)
    | .e4m3 => fitsSig (immInt f).natAbs 4 448
    | .e5m2 => fitsSig (immInt f).natAbs 3 57344
    | .e2m1 => fitsSig (immInt f).natAbs 2 6
    | _ => true

/-- R71: the named station holds ITER.ENTER. -/
def entersAt (e : Option RtEnv) (n : Nat) : Bool :=
  match e with | none => true | some v => v.enters.contains n

/-- A group level the kernel declares, 1 to 7 (R170). -/
def level1 (e : Option RtEnv) (n : Nat) : Bool :=
  1 ≤ n && n ≤ 7 && match e with | none => true | some v => v.levels.contains n

/-- A level that is 0 or declared (R376, R228). -/
def level (e : Option RtEnv) (n : Nat) : Bool := n == 0 || level1 e n

/-- Route entry `n` (1 to 6) is valid (R38). -/
def rtValid (e : Option RtEnv) (n : Nat) : Bool :=
  match e with | none => true | some v => (v.routes.getD (n - 1) 0).getLsbD 16

/-- Route entry `n` reaches an MU column (R15, R38). -/
def rtMu (e : Option RtEnv) (n : Nat) : Bool :=
  match e with
  | none => false
  | some v => (Int.ofNat v.x + ((v.routes.getD (n - 1) 0).extractLsb' 0 8).toInt) % 4 == 3

/-- The value of an MU destination: POS 00 and STATION[6:2] zero (R36). -/
def muTarget (t : BitVec 12) : Bool := nbits t.toNat 10 2 == 0 && nbits t.toNat 2 5 == 0

/-- A defined target (R36, checks 0x6 and 0x7): the discard value, or a position other than 11 whose route is legal. -/
def target (e : Option RtEnv) (t : BitVec 12) : Bool :=
  t == 0xC00 || (nbits t.toNat 10 2 != 3 &&
    match nbits t.toNat 7 3 with
    | 0 => true
    | 7 => muTarget t
    | n => rtValid e n && (!rtMu e n || muTarget t))

/-- The destination of a config token (R365): POS 00, a route that reaches a CU, and no discard. -/
def cfgDest (e : Option RtEnv) (t : BitVec 12) : Bool :=
  nbits t.toNat 10 2 == 0 && nbits t.toNat 7 3 != 7 && (nbits t.toNat 7 3 == 0 || !rtMu e (nbits t.toNat 7 3))

/-- A route field of `IMM` that must name a valid entry when it is not 0 (R328, R368). -/
def immRoute (e : Option RtEnv) (n : Nat) : Bool := n == 0 || n == 7 || rtValid e n

/-- What an entry says of PD (R32). -/
inductive PdRule where
  | legal | reserved | required
deriving DecidableEq, Repr

/-- One row of the encoding tables: which values the entry allows in each field of the word. -/
structure StationRule where
  fn : Bool
  ty : List Ty
  pd : PdRule
  src : List Src
  ta : Bool
  tb : Bool
  mask : BitVec 20
  limit : Bool
deriving DecidableEq, Repr

/-- The all-integer set 0x0 to 0x7. -/
def intTys : List Ty := [.i8, .n8, .i16, .n16, .i32, .n32, .i64, .n64]
/-- Opcodes that use no type (R42). -/
def tz : List Ty := [.i8]
/-- N32 and N64. -/
def tyC : List Ty := [.n32, .n64]
/-- The signed types. -/
def tySigned : List Ty := [.i8, .i16, .i32, .i64]
/-- I64 and N64. -/
def tyI64 : List Ty := [.i64, .n64]
/-- N64 alone. -/
def tyN64 : List Ty := [.n64]
/-- 0x0 to 0x5. -/
def tyTo5 : List Ty := [.i8, .n8, .i16, .n16, .i32, .n32]
/-- 0x4 to 0x7. -/
def tyIdx : List Ty := [.i32, .n32, .i64, .n64]
/-- Set A of R147. -/
def tyA : List Ty := [.f16, .bf16, .f32, .f64]
/-- Set A with LN. -/
def tyALn : List Ty := [.f16, .bf16, .f32, .f64, .ln]
/-- Set S of R147. -/
def tyS : List Ty := [.f16, .bf16, .f32]
/-- All of R147, with LN. -/
def tyAllLn : List Ty := [.f16, .bf16, .f32, .f64, .e4m3, .e5m2, .e2m1, .ln]
/-- The types of FDOT2. -/
def tyDot : List Ty := [.f16, .bf16, .f32, .e4m3, .e5m2, .e2m1]
/-- Set Q of R147. -/
def tyQ : List Ty := [.i8, .f16, .bf16, .e4m3, .e5m2, .e2m1]
/-- 0x0 to 0xD. -/
def tyMem : List Ty := [.i8, .n8, .i16, .n16, .i32, .n32, .i64, .n64, .f16, .bf16, .f32, .f64, .e4m3, .e5m2]
/-- LN alone. -/
def tyLn : List Ty := [.ln]
/-- The types of AFADD. -/
def tyAf : List Ty := [.bf16, .f32, .f64]
/-- F32 and I32. -/
def tyMma : List Ty := [.f32, .i32]
/-- The types of ACCRD. -/
def tyAccrd : List Ty := [.i8, .i32, .f16, .bf16, .f32, .e4m3, .e5m2, .e2m1]
/-- The types of TCVT. -/
def tyTcvt : List Ty := [.i8, .f16, .bf16, .f32, .f64, .e4m3, .e5m2, .e2m1]
/-- Set V of R325. -/
def tyV : List Ty := [.f16, .bf16, .f32, .e4m3, .e5m2, .e2m1]

/-- The row of a station instruction's entry; none for an event, which has no word. -/
def stationRule (e : Option RtEnv) : Instr → Option StationRule
  | .nop f => some ⟨(f.fn == 0), tz, .reserved, [.toks], false, false, 0, true⟩
  | .move f => some ⟨(f.fn == 0), tz, .legal, [.unary], true, true, 0, true⟩
  | .const f => some ⟨(f.fn ≤ 1), tz, .legal, [.unary], true, true, (bif (f.fn == 0) then 0xFFFFF else 0x3F), true⟩
  | .steer f => some ⟨(f.fn ≤ 1), tz, .reserved, [.toks, .kreg, .immd], true, true, (bySrc f), true⟩
  | .merge f => some ⟨(f.fn == 0), tz, .reserved, [.toks], true, true, 0, true⟩
  | .select f => some ⟨(f.fn == 0), tz, .required, [.toks, .kreg, .immd], true, true, (bySrc f), true⟩
  | .gate f => some ⟨(f.fn == 0), tz, .legal, [.toks], true, true, 0, true⟩
  | .join f => some ⟨(f.fn == 0), tz, .reserved, [.toks], true, true, 0, true⟩
  | .nulls f => some ⟨(f.fn ≤ 1), tz, .reserved, [.unary], true, true, 0, true⟩
  | .sink f => some ⟨(f.fn == 0), tz, .legal, [.unary], false, false, 0, true⟩
  | .iterEnter f => some ⟨(f.fn == 0), tz, .reserved, [.unary], true, true, 0xFFF, (1 ≤ fld f 0 9 && fld f 0 9 ≤ 256)⟩
  | .iterNextStep f => some ⟨(f.fn == 0), tz, .reserved, [.unary], true, true, 0x7F, (entersAt e (fld f 0 7))⟩
  | .iterNextDone f => some ⟨(f.fn == 1), tz, .reserved, [.unary], false, false, 0x7F, (entersAt e (fld f 0 7))⟩
  | .iterExit f => some ⟨(f.fn == 0), tz, .reserved, [.unary], true, true, 0x7F, (entersAt e (fld f 0 7))⟩
  | .iterIdx f => some ⟨(f.fn == 0), tz, .reserved, [.unary], true, true, 0x7F, (entersAt e (fld f 0 7))⟩
  | .tagGet f => some ⟨(f.fn == 0), tz, .legal, [.unary], true, true, 0, true⟩
  | .tagSet f => some ⟨(f.fn == 0), tz, .legal, [.toks, .kreg, .immd], true, true, (bif f.src == .immd then 0xFFFF else bySrc f), true⟩
  | .colourNew f => some ⟨(f.fn == 0), tz, .reserved, [.unary], true, true, 0x7FFFF, (1 ≤ fld f 0 3)⟩
  | .colourArg f => some ⟨(f.fn == 0), tz, .reserved, [.toks], true, false, 0x7, (fld f 0 3 ≤ 6)⟩
  | .colourRet f => some ⟨(f.fn == 0), tz, .reserved, [.unary], true, true, 0, true⟩
  | .colourEnd f => some ⟨(f.fn == 0), tz, .reserved, [.unary], false, false, 0, true⟩
  | .svcCall f => some ⟨(f.fn == 0), tz, .legal, [.unary], true, true, 0x7FFFF, (1 ≤ fld f 0 3 && fld f 0 3 ≤ 6 && fld f 3 16 != 0xFFFF)⟩
  | .svcArg f => some ⟨(f.fn == 1), tz, .legal, [.unary], true, true, 0x7, (1 ≤ fld f 0 3 && fld f 0 3 ≤ 5)⟩
  | .yield f => some ⟨(f.fn ≤ 1), tz, .legal, [.unary], true, true, 0, true⟩
  | .exit f => some ⟨(f.fn == 0), tz, .legal, [.unary], false, false, 0, true⟩
  | .trap f => some ⟨(f.fn == 0), tz, .legal, [.unary], true, true, 0xFFFFF, true⟩
  | .brk f => some ⟨(f.fn == 0), tz, .legal, [.unary], true, true, 0xFFFFF, true⟩
  | .errf f => some ⟨(f.fn == 0), tz, .legal, [.unary], true, true, 0, true⟩
  | .grpId f => some ⟨(f.fn ≤ 3), tz, .legal, [.unary], true, true, 0x7, (level e (fld f 0 3))⟩
  | .grpSize f => some ⟨(f.fn ≤ 1), tz, .legal, [.unary], true, true, 0x7, (level e (fld f 0 3))⟩
  | .cfgWStn f => some ⟨(f.fn == 0), tz, .legal, [.unary], true, true, 0, (cfgDest e f.ta)⟩
  | .cfgWK f => some ⟨(f.fn == 1), tz, .legal, [.unary], true, true, 0x3F, (cfgDest e f.ta && nbits f.ta.toNat 0 7 == 0)⟩
  | .cfgWReconf f => some ⟨(f.fn == 2), tz, .legal, [.toks], false, false, 0, true⟩
  | .kset f => some ⟨(f.fn == 0), tz, .legal, [.toks, .unary], true, true, (bif f.src == .unary then 0x3F else 0), true⟩
  | .launch f => some ⟨(f.fn == 0), tz, .legal, [.unary], true, true, 0x3F, true⟩
  | .kget f => some ⟨(f.fn == 0), tz, .legal, [.toks, .unary], true, true, (bif f.src == .unary then 0x1FF else 0x1C0), (fld f 6 3 ≤ 6)⟩
  | .add f => some ⟨(f.fn == 0), intTys, .legal, [.toks, .kreg, .immd], true, true, (bySrc f), true⟩
  | .sub f => some ⟨(f.fn == 0), intTys, .legal, [.toks, .kreg, .immd], true, true, (bySrc f), true⟩
  | .addc f => some ⟨(f.fn == 0), tyC, .legal, [.toks, .kreg], true, true, (bySrc f), true⟩
  | .subb f => some ⟨(f.fn == 0), tyC, .legal, [.toks, .kreg], true, true, (bySrc f), true⟩
  | .mul f => some ⟨(f.fn ≤ 1), intTys, .legal, [.toks, .kreg, .immd], true, true, (bySrc f), true⟩
  | .mulc f => some ⟨(f.fn == 0), tyC, .legal, [.toks, .kreg], true, true, (bySrc f), true⟩
  | .div f => some ⟨(f.fn == 0), intTys, .legal, [.toks, .kreg, .immd], true, true, (bySrc f), true⟩
  | .rem f => some ⟨(f.fn == 0), intTys, .legal, [.toks, .kreg, .immd], true, true, (bySrc f), true⟩
  | .min f => some ⟨(f.fn == 0), intTys, .legal, [.toks, .kreg, .immd], true, true, (bySrc f), true⟩
  | .max f => some ⟨(f.fn == 0), intTys, .legal, [.toks, .kreg, .immd], true, true, (bySrc f), true⟩
  | .abs f => some ⟨(f.fn ≤ 1), tySigned, .legal, [.unary], true, true, 0, true⟩
  | .neg f => some ⟨(f.fn == 0), intTys, .legal, [.unary], true, true, 0, true⟩
  | .and f => some ⟨(f.fn == 0), intTys, .legal, [.toks, .kreg, .immd], true, true, (bySrc f), true⟩
  | .or f => some ⟨(f.fn == 0), intTys, .legal, [.toks, .kreg, .immd], true, true, (bySrc f), true⟩
  | .xor f => some ⟨(f.fn == 0), intTys, .legal, [.toks, .kreg, .immd], true, true, (bySrc f), true⟩
  | .andn f => some ⟨(f.fn == 0), intTys, .legal, [.toks, .kreg, .immd], true, true, (bySrc f), true⟩
  | .not f => some ⟨(f.fn == 0), intTys, .legal, [.unary], true, true, 0, true⟩
  | .shl f => some ⟨(f.fn == 0), intTys, .legal, [.toks, .kreg, .immd], true, true, (bySrc f), (f.src != .immd || f.imm.toNat < intW f.ty)⟩
  | .shr f => some ⟨(f.fn == 0), intTys, .legal, [.toks, .kreg, .immd], true, true, (bySrc f), (f.src != .immd || f.imm.toNat < intW f.ty)⟩
  | .sar f => some ⟨(f.fn == 0), intTys, .legal, [.toks, .kreg, .immd], true, true, (bySrc f), (f.src != .immd || f.imm.toNat < intW f.ty)⟩
  | .rot f => some ⟨(f.fn ≤ 1), intTys, .legal, [.toks, .kreg, .immd], true, true, (bySrc f), (f.src != .immd || f.imm.toNat < intW f.ty)⟩
  | .clz f => some ⟨(f.fn == 0), intTys, .legal, [.unary], true, true, 0, true⟩
  | .popc f => some ⟨(f.fn == 0), intTys, .legal, [.unary], true, true, 0, true⟩
  | .brev f => some ⟨(f.fn == 0), intTys, .legal, [.unary], true, true, 0, true⟩
  | .bfx f => some ⟨(f.fn == 0), tyI64, .legal, [.unary], true, true, 0xFFF, (fld f 0 6 + fld f 6 6 + 1 ≤ 64)⟩
  | .bfi f => some ⟨(f.fn == 0), tyN64, .legal, [.toks], true, true, 0xFFF, (fld f 0 6 + fld f 6 6 + 1 ≤ 64)⟩
  | .cmp f => some ⟨(f.fn ≤ 5), intTys, .legal, [.toks, .kreg, .immd], true, true, (bySrc f), true⟩
  | .ext f => some ⟨(f.fn == 0), tyTo5, .legal, [.unary], true, true, 0, true⟩
  | .addsat f => some ⟨(f.fn ≤ 1), intTys, .legal, [.toks, .kreg, .immd], true, true, (bySrc f), true⟩
  | .aidx f => some ⟨(f.fn ≤ 6), tyIdx, .legal, [.toks, .kreg, .immd], true, true, (bySrc f), true⟩
  | .hash f => some ⟨(f.fn == 0), tyN64, .legal, [.toks, .kreg, .immd], true, true, (bySrc f), true⟩
  | .fadd f => some ⟨(rp f), tyALn, .legal, [.toks, .kreg, .immd], true, true, (bySrc f), (immFloat f)⟩
  | .fsub f => some ⟨(rp f), tyALn, .legal, [.toks, .kreg, .immd], true, true, (bySrc f), (immFloat f)⟩
  | .fmul f => some ⟨(rp f), tyALn, .legal, [.toks, .kreg, .immd], true, true, (bySrc f), (immFloat f)⟩
  | .ffma f => some ⟨(rp f), tyALn, .required, [.toks, .kreg], true, true, (bySrc f), true⟩
  | .fmin f => some ⟨(f.fn ≤ 1), tyAllLn, .legal, [.toks, .kreg, .immd], true, true, (bySrc f), (immFloat f)⟩
  | .fmax f => some ⟨(f.fn ≤ 1), tyAllLn, .legal, [.toks, .kreg, .immd], true, true, (bySrc f), (immFloat f)⟩
  | .fabs f => some ⟨(f.fn == 0), tyAllLn, .legal, [.unary], true, true, 0, true⟩
  | .fneg f => some ⟨(f.fn == 0), tyAllLn, .legal, [.unary], true, true, 0, true⟩
  | .fcmp f => some ⟨(f.fn ≤ 7), tyAllLn, .legal, [.toks, .kreg, .immd], true, true, (bySrc f), (immFloat f)⟩
  | .fclass f => some ⟨(f.fn == 0), tyAllLn, .legal, [.unary], true, true, 0, true⟩
  | .fcvt f => some ⟨(f.fn == 0), tyAllLn, .legal, [.unary], true, true, 0xFF, (8 ≤ fld f 0 4 && fld f 0 4 ≤ 14 && fld f 4 3 ≤ 4)⟩
  | .ftoi f => some ⟨(f.fn == 0), tyAllLn, .legal, [.unary], true, true, 0x7F, (fld f 0 4 ≤ 7 && fld f 4 3 ≤ 4)⟩
  | .itof f => some ⟨(f.fn == 0), intTys, .legal, [.unary], true, true, 0xFF, (8 ≤ fld f 0 4 && fld f 0 4 ≤ 14 && fld f 4 3 ≤ 4)⟩
  | .frnd f => some ⟨(f.fn ≤ 4), tyA, .legal, [.unary], true, true, 0, true⟩
  | .fdiv f => some ⟨(rp f), tyA, .legal, [.toks, .kreg, .immd], true, true, (bySrc f), (immFloat f)⟩
  | .fsqrt f => some ⟨(rp f), tyA, .legal, [.unary], true, true, 0, true⟩
  | .frcp f => some ⟨(rp f), tyA, .legal, [.unary], true, true, 0, true⟩
  | .frsq f => some ⟨(rp f), tyA, .legal, [.unary], true, true, 0, true⟩
  | .fexp2 f => some ⟨(rp f), tyS, .legal, [.unary], true, true, 0, true⟩
  | .flog2 f => some ⟨(rp f), tyS, .legal, [.unary], true, true, 0, true⟩
  | .fsin f => some ⟨(rp f), tyS, .legal, [.unary], true, true, 0, true⟩
  | .fcos f => some ⟨(rp f), tyS, .legal, [.unary], true, true, 0, true⟩
  | .ftanh f => some ⟨(rp f), tyS, .legal, [.unary], true, true, 0, true⟩
  | .fdot2 f => some ⟨(rp f), tyDot, .legal, [.toks, .kreg], true, true, (bySrc f), true⟩
  | .fscale f => some ⟨(rp f), tyA, .legal, [.toks, .kreg, .immd], true, true, (bySrc f), true⟩
  | .quant f => some ⟨(rp f && (f.ty != .i8 || f.fn ≤ 7)), tyQ, .legal, [.toks, .kreg], true, true, (bySrc f), true⟩
  | .deq f => some ⟨(rp f), tyQ, .legal, [.toks, .kreg], true, true, (bySrc f), true⟩
  | .ld f => some ⟨(f.fn == 0), tyMem, .legal, [.unary], true, true, 0xFFFFF, true⟩
  | .st f => some ⟨(f.fn == 0), tyMem, .legal, [.toks, .kreg], true, true, 0xFFFFF, true⟩
  | .ldl f => some ⟨(rp f), tyLn, .legal, [.toks, .kreg, .immd], true, true, (bySrc f), (f.src != .immd || f.imm ≤ 127)⟩
  | .stl f => some ⟨(rp f), tyLn, .required, [.toks], true, true, 0x1FFFF, (bif fld f 16 1 == 1 then lineFmt (fld f 0 8) else fld f 0 16 == 0)⟩
  | .ltagGet f => some ⟨(f.fn == 0), tz, .legal, [.unary], true, true, 0, true⟩
  | .ltagSet f => some ⟨(f.fn == 0), tz, .legal, [.toks, .kreg, .immd], true, true, (bif f.src == .immd then 0xFFFF else bySrc f), true⟩
  | .isRd f => some ⟨(f.fn == 0), tyN64, .legal, [.unary], true, true, 0xFFFFF, true⟩
  | .isWr f => some ⟨(f.fn == 0), tyN64, .legal, [.toks, .kreg], true, true, 0xFFFFF, true⟩
  | .isClr f => some ⟨(f.fn == 0), tyN64, .legal, [.unary], true, true, 0xFFFFF, true⟩
  | .pfch f => some ⟨(f.fn == 0), tz, .legal, [.unary], true, true, 0, true⟩
  | .phase f => some ⟨(f.fn == 0), tz, .reserved, [.unary], true, true, 0x3F, (1 ≤ fld f 0 3 && fld f 0 3 ≤ 4 && (bif fld f 0 3 == 1 then level1 e (fld f 3 3) else fld f 3 3 == 0))⟩
  | .fence f => some ⟨(f.fn == 0), tz, .reserved, [.unary], true, true, 0x3FFF, (1 ≤ fld f 0 8 && fld f 8 3 ≤ 4 && (bif fld f 8 3 == 1 then level1 e (fld f 11 3) else fld f 11 3 == 0))⟩
  | .capAlloc f => some ⟨(f.fn == 0), tz, .legal, [.unary], true, true, 0x1F, true⟩
  | .capFree f => some ⟨(f.fn == 0), tz, .legal, [.unary], true, true, 0, true⟩
  | .capNarrow f => some ⟨(f.fn == 0), tz, .legal, [.toks, .kreg], true, true, (bif f.src == .kreg then 0x7F else 0x40), true⟩
  | .capInfo f => some ⟨(f.fn ≤ 4), tz, .legal, [.unary], true, true, 0, true⟩
  | .gld f => some ⟨(f.fn == 0), tyMem, .legal, [.toks], true, true, 0x3F, true⟩
  | .lds f => some ⟨(f.fn == 0), tyMem, .legal, [.unary], true, true, 0xFFFFF, true⟩
  | .sts f => some ⟨(f.fn == 0), tyMem, .legal, [.toks, .kreg], true, true, 0xFFFFF, true⟩
  | .poolPart f => some ⟨(f.fn == 0), tz, .legal, [.unary], true, true, 0, true⟩
  | .aadd f => some ⟨(f.fn == 0), tyIdx, .legal, [.toks, .kreg, .immd], true, true, (bySrc f), true⟩
  | .amin f => some ⟨(f.fn == 0), tyIdx, .legal, [.toks, .kreg, .immd], true, true, (bySrc f), true⟩
  | .amax f => some ⟨(f.fn == 0), tyIdx, .legal, [.toks, .kreg, .immd], true, true, (bySrc f), true⟩
  | .aand f => some ⟨(f.fn == 0), tyC, .legal, [.toks, .kreg, .immd], true, true, (bySrc f), true⟩
  | .aor f => some ⟨(f.fn == 0), tyC, .legal, [.toks, .kreg, .immd], true, true, (bySrc f), true⟩
  | .axor f => some ⟨(f.fn == 0), tyC, .legal, [.toks, .kreg, .immd], true, true, (bySrc f), true⟩
  | .axchg f => some ⟨(f.fn == 0), tyC, .legal, [.toks, .kreg, .immd], true, true, (bySrc f), true⟩
  | .acas f => some ⟨(f.fn == 0), tyC, .required, [.toks, .kreg], true, true, (bySrc f), true⟩
  | .afadd f => some ⟨(f.fn == 0), tyAf, .legal, [.toks, .kreg], true, true, (bySrc f), true⟩
  | .aaddth f => some ⟨(f.fn == 0), tyIdx, .legal, [.toks], true, true, 0x3F, true⟩
  | .await f => some ⟨(f.fn == 0), tyIdx, .legal, [.toks, .kreg, .immd], true, true, (bySrc f), true⟩
  | .barInit f => some ⟨(f.fn ≤ 7), tz, .legal, [.toks, .kreg, .immd], true, true, (bif f.src == .immd then 0xFFFF else 0xFFFFF), ((f.src != .immd || f.imm != 0) && level e f.fn.toNat)⟩
  | .barArrive f => some ⟨(f.fn == 0), tz, .legal, [.toks, .kreg, .immd, .unary], true, true, (bif f.src == .immd then 0xFFFF else 0xFFFFF), (f.src != .immd || f.imm != 0)⟩
  | .barExpect f => some ⟨(f.fn ≤ 1), tz, .legal, [.toks, .kreg, .immd], true, true, 0xFFFFF, (f.src != .immd || (f.imm != 0 && f.imm ≤ 524287))⟩
  | .barWait f => some ⟨(f.fn == 0), tz, .legal, [.toks, .kreg, .immd], true, true, (bif f.src == .immd then 1 else 0xFFFFF), true⟩
  | .barTest f => some ⟨(f.fn ≤ 2), tz, .legal, (bif f.fn == 0 then [.toks, .kreg, .immd] else [.unary]), true, true, (bif f.src == .immd then 1 else 0xFFFFF), true⟩
  | .barDrop f => some ⟨(f.fn == 0), tz, .legal, [.unary], true, true, 0xFFFFF, true⟩
  | .barRetire f => some ⟨(f.fn == 0), tz, .legal, [.unary], true, true, 0xFFFFF, true⟩
  | .ringInit f => some ⟨(f.fn == 0), tz, .legal, [.toks, .kreg], true, true, 0xFFFFF, true⟩
  | .ringAwait f => some ⟨(f.fn == 0), tz, .legal, [.unary], true, true, 0xFFFFF, true⟩
  | .ringRelease f => some ⟨(f.fn == 0), tz, .legal, [.toks], true, true, 0xFFFFF, true⟩
  | .ringStat f => some ⟨(f.fn ≤ 3), tz, .legal, [.unary], true, true, 0xFFFFF, true⟩
  | .ringRetire f => some ⟨(f.fn == 0), tz, .legal, [.unary], true, true, 0xFFFFF, true⟩
  | .ringBind f => some ⟨(f.fn == 0), tz, .legal, [.toks, .kreg], true, true, 0xFFFFF, true⟩
  | .send f => some ⟨(f.fn == 0), tz, .legal, [.toks], true, true, 0x3F, true⟩
  | .sendRing f => some ⟨(f.fn == 1), tz, .legal, [.unary], true, true, 0x3F, true⟩
  | .sendr f => some ⟨(f.fn ≤ 1), (bif f.fn == 0 then [.i32, .bf16, .f32] else [.bf16, .f32]), .legal, [.toks], true, true, 0x3F, true⟩
  | .sendkChain f => some ⟨(f.fn == 0), tz, .required, [.toks], true, true, 0x3F, true⟩
  | .sendkLast f => some ⟨(f.fn == 1), tz, .required, [.toks], true, true, 0xFFF, true⟩
  | .copy f => some ⟨(f.fn == 0), tz, .legal, [.unary], true, true, 0x3FF, true⟩
  | .copyo f => some ⟨(f.fn == 0), tz, .legal, [.unary], true, true, 0x3FF, true⟩
  | .stream f => some ⟨(f.fn ≤ 1), tz, .legal, [.unary], true, true, 0xF, true⟩
  | .streamw f => some ⟨(f.fn == 0), tz, .legal, [.unary], true, true, 0xFFF, true⟩
  | .sclose f => some ⟨(f.fn == 0), tz, .legal, [.unary], true, true, 0, true⟩
  | .cstat f => some ⟨(f.fn == 0), tz, .legal, [.unary], true, true, 0, true⟩
  | .ioread f => some ⟨(f.fn == 0), tz, .legal, [.toks], true, true, 0x3FFF, true⟩
  | .ioreadRing f => some ⟨(f.fn == 1), tz, .legal, [.unary], true, true, 0x3FFF, true⟩
  | .iowrite f => some ⟨(f.fn ≤ 1), tz, .legal, [.toks], true, true, 0x3FFF, true⟩
  | .netsend f => some ⟨(f.fn ≤ 2), tz, .legal, (bif f.fn == 0 then [.unary] else [.toks]), true, true, 0xFFF, true⟩
  | .netrecvBind f => some ⟨(f.fn == 0), tz, .legal, [.unary], true, true, 0x3F, true⟩
  | .netrecvUnbind f => some ⟨(f.fn == 1), tz, .legal, [.unary], true, true, 0, true⟩
  | .tmap f => some ⟨(f.fn ≤ 1), tz, .legal, [.unary], true, true, 0xF, true⟩
  | .tfill f => some ⟨(f.fn == 0), tz, .legal, [.toks, .unary], true, true, 0x1FF, true⟩
  | .ttagBind f => some ⟨(f.fn == 0), tz, .legal, [.toks, .kreg], true, true, (bif f.src == .kreg then 0x7FF else 0x7C0), true⟩
  | .ttagFull f => some ⟨(f.fn == 1), tz, .legal, [.unary], true, true, 0x7C0, true⟩
  | .ttagEmpty f => some ⟨(f.fn == 2), tz, .legal, [.unary], true, true, 0x7C0, true⟩
  | .ttagStat f => some ⟨(f.fn == 3), tz, .legal, [.unary], true, true, 0x7C0, true⟩
  | .mma f => some ⟨(f.fn ≤ 3), tyMma, .legal, [.unary], true, true, 0xFFFF, true⟩
  | .mmas f => some ⟨(f.fn ≤ 3), [.f32], .legal, [.unary], true, true, 0xFFFF, true⟩
  | .mmag f => some ⟨true, tyMma, .legal, [.toks], true, true, 0xFFFF, true⟩
  | .mmar f => some ⟨(f.fn ≤ 1), tyMma, .legal, [.kreg], true, true, 0x1FFFF, true⟩
  | .wld f => some ⟨(f.fn ≤ 1), tz, .legal, [.unary], true, true, (bif f.fn == 1 then 0x3FFFF else 0x1FFF), true⟩
  | .accz f => some ⟨(f.fn == 0), tyMma, .legal, [.unary], true, true, 0xFFF, true⟩
  | .accrd f => some ⟨(rp f), tyAccrd, .legal, [.kreg, .unary], true, true, (bif f.src == .kreg then 0x1FFFF else 0x1FFC0), true⟩
  | .tcvt f => some ⟨(rp f), tyTcvt, .legal, [.unary], true, true, 0x7FF, true⟩
  | .tred f => some ⟨(f.fn ≤ 2), [.f32], .legal, [.unary], true, true, 0x7FF, true⟩
  | .texp f => some ⟨(rp f), tyS, .legal, [.toks], true, true, 0x1FFFF, true⟩
  | .ttrn f => some ⟨(f.fn == 0), tz, .legal, [.unary], true, true, 0x7FF, true⟩
  | .tdot f => some ⟨(f.fn == 0), tyMma, .legal, [.unary], true, true, (bif f.ty == .i32 then 0xFF else 0xFFFFF), true⟩
  | .bfly f => some ⟨(rp f), tyV, .legal, [.kreg], true, true, 0xFFFFF, true⟩
  | .bfch f => some ⟨(f.fn &&& 3 != 3), tyV, .legal, [.kreg], true, true, 0xFFFFF, true⟩
  | .sdset f => some ⟨(f.fn == 0), tz, .legal, [.kreg, .unary], true, true, (bif f.src == .kreg then 0x1FF else 0x7), true⟩
  | .bwld f => some ⟨(f.fn == 0), tz, .legal, [.unary], true, true, 0x7FFF, (fld f 0 6 + fld f 6 6 + 1 ≤ 64 && fld f 12 3 ≤ 6)⟩
  | .bperm f => some ⟨(f.fn ≤ 2), tyV, .legal, [.kreg], true, true, 0x8FFFF, true⟩
  | .bfsc f => some ⟨(rp f), tyV, .legal, [.kreg], true, true, 0x8FFFF, true⟩
  | .binOpen f => some ⟨(f.fn == 0), tz, .legal, [.unary], true, true, 0xFF, (fld f 0 6 ≤ 60)⟩
  | .binPut f => some ⟨(f.fn == 0), tz, .legal, [.toks, .kreg], true, true, (bif f.src == .kreg then 0xFF else 0xC0), true⟩
  | .binPutMap f => some ⟨(f.fn == 1), tz, .legal, [.unary], true, true, 0xFFC0, true⟩
  | .binPlay f => some ⟨(f.fn == 0), tz, .legal, [.unary], true, true, 0xC0, true⟩
  | .binClose f => some ⟨(f.fn == 0), tz, .legal, [.unary], true, true, 0xC0, true⟩
  | .mpath f => some ⟨(f.fn == 0), tz, .legal, [.unary], true, true, 0xF, true⟩
  | .fscan f => some ⟨(f.fn == 0), tz, .legal, [.unary], true, true, 0xFF, true⟩
  | .fisect f => some ⟨(f.fn ≤ 1), tz, .legal, [.toks], true, true, (bif f.fn == 1 then 0xFF else 0xFFFF), true⟩
  | .funion f => some ⟨(f.fn ≤ 1), tz, .legal, [.toks], true, true, (bif f.fn == 1 then 0xFF else 0xFFFF), true⟩
  | .femit f => some ⟨(f.fn == 0), tz, .legal, [.unary], true, true, 0x7FFF, true⟩
  | .gath f => some ⟨(f.fn == 0), tz, .legal, [.unary], true, true, 0x3FFF, true⟩
  | .sysrd f => some ⟨(f.fn == 0), tz, .legal, [.unary], true, true, 0, true⟩
  | .syswr f => some ⟨(f.fn == 0), tz, .legal, [.toks], true, true, 0, true⟩
  | .enrd f => some ⟨(f.fn ≤ 1), tz, .legal, [.unary], true, true, 0, true⟩
  | .wearrd f => some ⟨(f.fn ≤ 2), tz, .legal, [.unary], true, true, 0, true⟩
  | .ctxid f => some ⟨(f.fn == 0), tz, .legal, [.unary], true, true, 0, true⟩
  | .cyc f => some ⟨(f.fn == 0), tz, .legal, [.unary], true, true, 0, true⟩
  | .errinj f => some ⟨(f.fn == 0), tz, .legal, [.unary], true, true, 0, true⟩
  | .diag f => some ⟨(f.fn == 0), tyN64, .reserved, [.unary], true, true, 0xFFFFF, true⟩
  | .tokenHop _ _ => none
  | .tokenArrival _ _ => none
  | .spillProbeDone _ => none
  | .configTokenArrival _ => none
  | .configTokenApply _ => none
  | .muRequest _ => none
  | .globalAtomicPerform _ _ => none
  | .phaseBoundaryComplete _ _ _ _ => none
  | .activationReleaseComplete _ _ _ => none
  | .errorSurface _ _ => none
  | .barrierCredit _ => none
  | .barrierCompletion _ _ => none
  | .barrierRelease _ _ => none
  | .barrierRetry _ => none
  | .copyAccept _ => none
  | .copyStart _ _ => none
  | .chunkApply _ _ => none
  | .chunkBusyResend _ _ => none
  | .chunkAck _ _ => none
  | .copyRelease _ => none
  | .copyAckTimeout _ _ => none
  | .streamElement _ _ => none
  | .streamwToken _ _ => none
  | .ringReservation _ _ => none
  | .ringSlotReturn _ _ => none
  | .ringBindRequest _ => none
  | .ringBindReply _ => none
  | .tfillComplete _ _ => none
  | .arrayOpEnd _ => none
  | .mmarPassComplete _ => none
  | .binUpdateAppend _ _ => none
  | .binReplayStart _ _ => none
  | .binReplayRegion _ _ => none
  | .binReplayEnd _ _ => none
  | .fibrePosition _ _ => none
  | .femitToken _ _ => none
  | .kernelHeaderRead _ => none
  | .kernelVerified _ => none
  | .kernelLoadComplete _ => none
  | .drainComplete _ => none
  | .queueCreate _ _ => none
  | .queueDestroy _ _ => none
  | .queueEnable _ _ => none
  | .queueDisable _ _ => none
  | .queueSuspend _ _ => none
  | .queueResume _ _ => none
  | .queueTailWrite _ _ _ => none
  | .queueHeadSkip _ _ _ => none
  | .headWaitRegister _ => none
  | .yardDecision _ => none
  | .ageingStep _ => none
  | .quantumExpiry _ => none
  | .claimRound _ _ _ => none
  | .energyBudgetReached _ => none
  | .energyForward _ => none
  | .freeze _ _ => none
  | .thaw _ _ => none
  | .save _ _ => none
  | .requeue _ _ _ => none
  | .kill _ _ => none
  | .go _ _ => none
  | .freezeComplete _ => none
  | .saveComplete _ => none
  | .relocationComplete _ => none
  | .restoreComplete _ => none
  | .tlbWalkComplete _ => none
  | .tlbInvalidate _ _ => none
  | .invalidateComplete => none
  | .hostFlushComplete _ => none
  | .hostSnoop _ => none
  | .regionCommitComplete _ => none
  | .ownershipTimeout _ => none
  | .shenisFlitRetry _ _ _ _ => none
  | .ryenxonFlitReceive _ _ _ _ _ _ _ => none
  | .ryenxonNak _ _ => none
  | .ryenxonAckTimeout _ => none
  | .linkEnable _ _ _ => none
  | .linkDisable _ _ _ => none
  | .trainingComplete _ _ _ => none
  | .trainingFailed _ _ => none
  | .trainingRetry _ _ => none
  | .laneLost _ _ => none
  | .retrainWindowClose _ _ => none
  | .outingPortTimeout _ => none
  | .ioCommandArrival _ _ => none
  | .ioCompletion _ _ _ _ => none
  | .ioCommandTimeout _ _ => none
  | .inboundRdmaWrite _ _ _ _ => none
  | .inboundSend _ _ => none
  | .inboundWriteImmediate _ _ _ _ _ => none
  | .inboundRdmaRead _ _ _ => none
  | .qpFatalEvent _ => none
  | .qpStateWrite _ _ _ => none
  | .regionRegister _ _ => none
  | .mailboxPartArrival _ => none
  | .mailboxReply _ _ _ _ => none
  | .mailboxHeadAdvance _ _ => none
  | .imageCacheFlush _ => none
  | .hostInterrupt _ => none
  | .quarantineRelease _ => none
  | .injectionArm _ _ => none
  | .registerWrite _ _ _ => none
  | .wearTick _ => none
  | .unitRetire _ => none
  | .failureWindowClose _ => none
  | .lifetimeFlush => none
  | .digestExchange _ => none
  | .lidOverLimit _ => none
  | .lidResume _ => none
  | .thermalTrip => none
  | .powerOnReset _ => none
  | .diagreq _ => none
  | .attestationReport _ => none
  | .globalLoadPerform _ _ => none
  | .staticEnergyCharge _ => none
  | .roceRetransmission _ _ => none
  | .powerLoss _ => none
  | .supervisorMemoryWrite _ _ _ => none

/-- The fields of a station instruction. -/
def fieldsOf : Instr → Option Fields
  | .nop f => some f
  | .move f => some f
  | .const f => some f
  | .steer f => some f
  | .merge f => some f
  | .select f => some f
  | .gate f => some f
  | .join f => some f
  | .nulls f => some f
  | .sink f => some f
  | .iterEnter f => some f
  | .iterNextStep f => some f
  | .iterNextDone f => some f
  | .iterExit f => some f
  | .iterIdx f => some f
  | .tagGet f => some f
  | .tagSet f => some f
  | .colourNew f => some f
  | .colourArg f => some f
  | .colourRet f => some f
  | .colourEnd f => some f
  | .svcCall f => some f
  | .svcArg f => some f
  | .yield f => some f
  | .exit f => some f
  | .trap f => some f
  | .brk f => some f
  | .errf f => some f
  | .grpId f => some f
  | .grpSize f => some f
  | .cfgWStn f => some f
  | .cfgWK f => some f
  | .cfgWReconf f => some f
  | .kset f => some f
  | .launch f => some f
  | .kget f => some f
  | .add f => some f
  | .sub f => some f
  | .addc f => some f
  | .subb f => some f
  | .mul f => some f
  | .mulc f => some f
  | .div f => some f
  | .rem f => some f
  | .min f => some f
  | .max f => some f
  | .abs f => some f
  | .neg f => some f
  | .and f => some f
  | .or f => some f
  | .xor f => some f
  | .andn f => some f
  | .not f => some f
  | .shl f => some f
  | .shr f => some f
  | .sar f => some f
  | .rot f => some f
  | .clz f => some f
  | .popc f => some f
  | .brev f => some f
  | .bfx f => some f
  | .bfi f => some f
  | .cmp f => some f
  | .ext f => some f
  | .addsat f => some f
  | .aidx f => some f
  | .hash f => some f
  | .fadd f => some f
  | .fsub f => some f
  | .fmul f => some f
  | .ffma f => some f
  | .fmin f => some f
  | .fmax f => some f
  | .fabs f => some f
  | .fneg f => some f
  | .fcmp f => some f
  | .fclass f => some f
  | .fcvt f => some f
  | .ftoi f => some f
  | .itof f => some f
  | .frnd f => some f
  | .fdiv f => some f
  | .fsqrt f => some f
  | .frcp f => some f
  | .frsq f => some f
  | .fexp2 f => some f
  | .flog2 f => some f
  | .fsin f => some f
  | .fcos f => some f
  | .ftanh f => some f
  | .fdot2 f => some f
  | .fscale f => some f
  | .quant f => some f
  | .deq f => some f
  | .ld f => some f
  | .st f => some f
  | .ldl f => some f
  | .stl f => some f
  | .ltagGet f => some f
  | .ltagSet f => some f
  | .isRd f => some f
  | .isWr f => some f
  | .isClr f => some f
  | .pfch f => some f
  | .phase f => some f
  | .fence f => some f
  | .capAlloc f => some f
  | .capFree f => some f
  | .capNarrow f => some f
  | .capInfo f => some f
  | .gld f => some f
  | .lds f => some f
  | .sts f => some f
  | .poolPart f => some f
  | .aadd f => some f
  | .amin f => some f
  | .amax f => some f
  | .aand f => some f
  | .aor f => some f
  | .axor f => some f
  | .axchg f => some f
  | .acas f => some f
  | .afadd f => some f
  | .aaddth f => some f
  | .await f => some f
  | .barInit f => some f
  | .barArrive f => some f
  | .barExpect f => some f
  | .barWait f => some f
  | .barTest f => some f
  | .barDrop f => some f
  | .barRetire f => some f
  | .ringInit f => some f
  | .ringAwait f => some f
  | .ringRelease f => some f
  | .ringStat f => some f
  | .ringRetire f => some f
  | .ringBind f => some f
  | .send f => some f
  | .sendRing f => some f
  | .sendr f => some f
  | .sendkChain f => some f
  | .sendkLast f => some f
  | .copy f => some f
  | .copyo f => some f
  | .stream f => some f
  | .streamw f => some f
  | .sclose f => some f
  | .cstat f => some f
  | .ioread f => some f
  | .ioreadRing f => some f
  | .iowrite f => some f
  | .netsend f => some f
  | .netrecvBind f => some f
  | .netrecvUnbind f => some f
  | .tmap f => some f
  | .tfill f => some f
  | .ttagBind f => some f
  | .ttagFull f => some f
  | .ttagEmpty f => some f
  | .ttagStat f => some f
  | .mma f => some f
  | .mmas f => some f
  | .mmag f => some f
  | .mmar f => some f
  | .wld f => some f
  | .accz f => some f
  | .accrd f => some f
  | .tcvt f => some f
  | .tred f => some f
  | .texp f => some f
  | .ttrn f => some f
  | .tdot f => some f
  | .bfly f => some f
  | .bfch f => some f
  | .sdset f => some f
  | .bwld f => some f
  | .bperm f => some f
  | .bfsc f => some f
  | .binOpen f => some f
  | .binPut f => some f
  | .binPutMap f => some f
  | .binPlay f => some f
  | .binClose f => some f
  | .mpath f => some f
  | .fscan f => some f
  | .fisect f => some f
  | .funion f => some f
  | .femit f => some f
  | .gath f => some f
  | .sysrd f => some f
  | .syswr f => some f
  | .enrd f => some f
  | .wearrd f => some f
  | .ctxid f => some f
  | .cyc f => some f
  | .errinj f => some f
  | .diag f => some f
  | .tokenHop _ _ => none
  | .tokenArrival _ _ => none
  | .spillProbeDone _ => none
  | .configTokenArrival _ => none
  | .configTokenApply _ => none
  | .muRequest _ => none
  | .globalAtomicPerform _ _ => none
  | .phaseBoundaryComplete _ _ _ _ => none
  | .activationReleaseComplete _ _ _ => none
  | .errorSurface _ _ => none
  | .barrierCredit _ => none
  | .barrierCompletion _ _ => none
  | .barrierRelease _ _ => none
  | .barrierRetry _ => none
  | .copyAccept _ => none
  | .copyStart _ _ => none
  | .chunkApply _ _ => none
  | .chunkBusyResend _ _ => none
  | .chunkAck _ _ => none
  | .copyRelease _ => none
  | .copyAckTimeout _ _ => none
  | .streamElement _ _ => none
  | .streamwToken _ _ => none
  | .ringReservation _ _ => none
  | .ringSlotReturn _ _ => none
  | .ringBindRequest _ => none
  | .ringBindReply _ => none
  | .tfillComplete _ _ => none
  | .arrayOpEnd _ => none
  | .mmarPassComplete _ => none
  | .binUpdateAppend _ _ => none
  | .binReplayStart _ _ => none
  | .binReplayRegion _ _ => none
  | .binReplayEnd _ _ => none
  | .fibrePosition _ _ => none
  | .femitToken _ _ => none
  | .kernelHeaderRead _ => none
  | .kernelVerified _ => none
  | .kernelLoadComplete _ => none
  | .drainComplete _ => none
  | .queueCreate _ _ => none
  | .queueDestroy _ _ => none
  | .queueEnable _ _ => none
  | .queueDisable _ _ => none
  | .queueSuspend _ _ => none
  | .queueResume _ _ => none
  | .queueTailWrite _ _ _ => none
  | .queueHeadSkip _ _ _ => none
  | .headWaitRegister _ => none
  | .yardDecision _ => none
  | .ageingStep _ => none
  | .quantumExpiry _ => none
  | .claimRound _ _ _ => none
  | .energyBudgetReached _ => none
  | .energyForward _ => none
  | .freeze _ _ => none
  | .thaw _ _ => none
  | .save _ _ => none
  | .requeue _ _ _ => none
  | .kill _ _ => none
  | .go _ _ => none
  | .freezeComplete _ => none
  | .saveComplete _ => none
  | .relocationComplete _ => none
  | .restoreComplete _ => none
  | .tlbWalkComplete _ => none
  | .tlbInvalidate _ _ => none
  | .invalidateComplete => none
  | .hostFlushComplete _ => none
  | .hostSnoop _ => none
  | .regionCommitComplete _ => none
  | .ownershipTimeout _ => none
  | .shenisFlitRetry _ _ _ _ => none
  | .ryenxonFlitReceive _ _ _ _ _ _ _ => none
  | .ryenxonNak _ _ => none
  | .ryenxonAckTimeout _ => none
  | .linkEnable _ _ _ => none
  | .linkDisable _ _ _ => none
  | .trainingComplete _ _ _ => none
  | .trainingFailed _ _ => none
  | .trainingRetry _ _ => none
  | .laneLost _ _ => none
  | .retrainWindowClose _ _ => none
  | .outingPortTimeout _ => none
  | .ioCommandArrival _ _ => none
  | .ioCompletion _ _ _ _ => none
  | .ioCommandTimeout _ _ => none
  | .inboundRdmaWrite _ _ _ _ => none
  | .inboundSend _ _ => none
  | .inboundWriteImmediate _ _ _ _ _ => none
  | .inboundRdmaRead _ _ _ => none
  | .qpFatalEvent _ => none
  | .qpStateWrite _ _ _ => none
  | .regionRegister _ _ => none
  | .mailboxPartArrival _ => none
  | .mailboxReply _ _ _ _ => none
  | .mailboxHeadAdvance _ _ => none
  | .imageCacheFlush _ => none
  | .hostInterrupt _ => none
  | .quarantineRelease _ => none
  | .injectionArm _ _ => none
  | .registerWrite _ _ _ => none
  | .wearTick _ => none
  | .unitRetire _ => none
  | .failureWindowClose _ => none
  | .lifetimeFlush => none
  | .digestExchange _ => none
  | .lidOverLimit _ => none
  | .lidResume _ => none
  | .thermalTrip => none
  | .powerOnReset _ => none
  | .diagreq _ => none
  | .attestationReport _ => none
  | .globalLoadPerform _ _ => none
  | .staticEnergyCharge _ => none
  | .roceRetransmission _ _ => none
  | .powerLoss _ => none
  | .supervisorMemoryWrite _ _ _ => none

/-- The extra condition that check 0x6 makes for SVC.ARG (R482), KGET (R368) and BWLD (R328). -/
def extraTa (e : Option RtEnv) (i : Instr) (f : Fields) : Bool :=
  match i with
  | .svcArg _ => nbits f.ta.toNat 7 3 == 0 && nbits f.ta.toNat 10 2 == 0
  | .kget _ => immRoute e (fld f 6 3) && (fld f 6 3 == 0 || !rtMu e (fld f 6 3))
  | .bwld _ => immRoute e (fld f 12 3)
  | _ => true

/-- The word's diagnostic check (R45): only a diagnostic kernel may hold DIAG. -/
def diagOk (e : Option RtEnv) (i : Instr) : Bool :=
  match i with
  | .diag _ => match e with | none => true | some v => v.diag
  | _ => true

/-- The first load check that the instruction fails, in the order of R47; none when it passes them all. -/
def firstFail (e : Option RtEnv) (i : Instr) : Option LoadCheck :=
  match stationRule e i, fieldsOf i with
  | some r, some f =>
    if !diagOk e i then some .diag
    else if !r.fn then some .fn
    else if !r.ty.contains f.ty then some .ty
    else if (r.pd == .reserved && f.pd) || (r.pd == .required && !f.pd) then some .pd
    else if !r.src.contains f.src || (f.src == .kreg && (f.imm &&& 0xFFFC0 &&& ~~~ r.mask) != 0) then some .src
    else if !((if r.ta then target e f.ta else f.ta == 0) && extraTa e i f) then some .ta
    else if !(if r.tb then target e f.tb else f.tb == 0) then some .tb
    else if (f.imm &&& ~~~ r.mask) != 0 || !r.limit then some .imm
    else none
  | _, _ => none

/-- A well-formed instruction: a station instruction that passes every check that its own word decides; an event always. -/
def wf (i : Instr) : Bool := firstFail none i == none

end Sys2Proof
end

