-- ==== Sys2Proof/Decode.lean ====
section
/-!
DEFINITION. Decoding and encoding of station words (02 R30 to R48). A word's fields are taken apart once; the opcode
and, where one opcode has several rows, `FN` choose the constructor; the checks of R46 are made in the order of R47 and
the first that fails is the refusal. Events have no word and no encoding.
-/

namespace Sys2Proof

/-- The type code of a 4-bit field (R41). -/
def tyOf (b : BitVec 4) : Ty :=
  match b.toNat with
  | 0 => .i8
  | 1 => .n8
  | 2 => .i16
  | 3 => .n16
  | 4 => .i32
  | 5 => .n32
  | 6 => .i64
  | 7 => .n64
  | 8 => .f16
  | 9 => .bf16
  | 10 => .f32
  | 11 => .f64
  | 12 => .e4m3
  | 13 => .e5m2
  | 14 => .e2m1
  | _ => .ln

/-- The 4-bit code of a type (R41). -/
def tyCode : Ty → BitVec 4
  | .i8 => 0
  | .n8 => 1
  | .i16 => 2
  | .n16 => 3
  | .i32 => 4
  | .n32 => 5
  | .i64 => 6
  | .n64 => 7
  | .f16 => 8
  | .bf16 => 9
  | .f32 => 10
  | .f64 => 11
  | .e4m3 => 12
  | .e5m2 => 13
  | .e2m1 => 14
  | .ln => 15

/-- The source mode of a 2-bit field (R33). -/
def srcOf (b : BitVec 2) : Src :=
  match b.toNat with
  | 0 => .toks
  | 1 => .kreg
  | 2 => .immd
  | _ => .unary

/-- The 2-bit code of a source mode (R33). -/
def srcCode : Src → BitVec 2
  | .toks => 0
  | .kreg => 1
  | .immd => 2
  | .unary => 3

/-- The opcode of a word, [63:56] (R30). -/
def opOfWord (w : BitVec 64) : BitVec 8 := w.extractLsb' 56 8

/-- The fields of a word below its opcode (R30). -/
def unpack (w : BitVec 64) : Fields where
  fn := w.extractLsb' 52 4
  ty := tyOf (w.extractLsb' 48 4)
  u := w.getLsbD 47
  pd := w.getLsbD 46
  src := srcOf (w.extractLsb' 44 2)
  ta := w.extractLsb' 32 12
  tb := w.extractLsb' 20 12
  imm := w.extractLsb' 0 20

/-- The word of an opcode and its fields (R30). -/
def packWord (op : BitVec 8) (f : Fields) : BitVec 64 :=
  op ++ f.fn ++ tyCode f.ty ++ bitOf f.u ++ bitOf f.pd ++ srcCode f.src ++ f.ta ++ f.tb ++ f.imm

/-- The opcode of a station instruction (R43); none for an event. -/
def opOf : Instr → Option (BitVec 8)
  | .nop _ => some 0x00
  | .move _ => some 0x01
  | .const _ => some 0x02
  | .steer _ => some 0x03
  | .merge _ => some 0x04
  | .select _ => some 0x05
  | .gate _ => some 0x06
  | .join _ => some 0x07
  | .nulls _ => some 0x08
  | .sink _ => some 0x09
  | .iterEnter _ => some 0x0A
  | .iterNextStep _ => some 0x0B
  | .iterNextDone _ => some 0x0B
  | .iterExit _ => some 0x0C
  | .iterIdx _ => some 0x0D
  | .tagGet _ => some 0x0E
  | .tagSet _ => some 0x0F
  | .colourNew _ => some 0x10
  | .colourArg _ => some 0x11
  | .colourRet _ => some 0x12
  | .colourEnd _ => some 0x13
  | .svcCall _ => some 0x14
  | .svcArg _ => some 0x14
  | .yield _ => some 0x15
  | .exit _ => some 0x16
  | .trap _ => some 0x17
  | .brk _ => some 0x18
  | .errf _ => some 0x19
  | .grpId _ => some 0x1A
  | .grpSize _ => some 0x1B
  | .cfgWStn _ => some 0x1C
  | .cfgWK _ => some 0x1C
  | .cfgWReconf _ => some 0x1C
  | .kset _ => some 0x1D
  | .launch _ => some 0x1E
  | .kget _ => some 0x1F
  | .add _ => some 0x20
  | .sub _ => some 0x21
  | .addc _ => some 0x22
  | .subb _ => some 0x23
  | .mul _ => some 0x24
  | .mulc _ => some 0x25
  | .div _ => some 0x26
  | .rem _ => some 0x27
  | .min _ => some 0x28
  | .max _ => some 0x29
  | .abs _ => some 0x2A
  | .neg _ => some 0x2B
  | .and _ => some 0x2C
  | .or _ => some 0x2D
  | .xor _ => some 0x2E
  | .andn _ => some 0x2F
  | .not _ => some 0x30
  | .shl _ => some 0x31
  | .shr _ => some 0x32
  | .sar _ => some 0x33
  | .rot _ => some 0x34
  | .clz _ => some 0x35
  | .popc _ => some 0x36
  | .brev _ => some 0x37
  | .bfx _ => some 0x38
  | .bfi _ => some 0x39
  | .cmp _ => some 0x3A
  | .ext _ => some 0x3B
  | .addsat _ => some 0x3C
  | .aidx _ => some 0x3D
  | .hash _ => some 0x3E
  | .fadd _ => some 0x40
  | .fsub _ => some 0x41
  | .fmul _ => some 0x42
  | .ffma _ => some 0x43
  | .fmin _ => some 0x44
  | .fmax _ => some 0x45
  | .fabs _ => some 0x46
  | .fneg _ => some 0x47
  | .fcmp _ => some 0x48
  | .fclass _ => some 0x49
  | .fcvt _ => some 0x4A
  | .ftoi _ => some 0x4B
  | .itof _ => some 0x4C
  | .frnd _ => some 0x4D
  | .fdiv _ => some 0x4E
  | .fsqrt _ => some 0x4F
  | .frcp _ => some 0x50
  | .frsq _ => some 0x51
  | .fexp2 _ => some 0x52
  | .flog2 _ => some 0x53
  | .fsin _ => some 0x54
  | .fcos _ => some 0x55
  | .ftanh _ => some 0x56
  | .fdot2 _ => some 0x57
  | .fscale _ => some 0x58
  | .quant _ => some 0x59
  | .deq _ => some 0x5A
  | .ld _ => some 0x60
  | .st _ => some 0x61
  | .ldl _ => some 0x62
  | .stl _ => some 0x63
  | .ltagGet _ => some 0x64
  | .ltagSet _ => some 0x65
  | .isRd _ => some 0x66
  | .isWr _ => some 0x67
  | .isClr _ => some 0x68
  | .pfch _ => some 0x69
  | .phase _ => some 0x6A
  | .fence _ => some 0x6B
  | .capAlloc _ => some 0x6C
  | .capFree _ => some 0x6D
  | .capNarrow _ => some 0x6E
  | .capInfo _ => some 0x6F
  | .gld _ => some 0x70
  | .lds _ => some 0x71
  | .sts _ => some 0x72
  | .poolPart _ => some 0x73
  | .aadd _ => some 0x80
  | .amin _ => some 0x81
  | .amax _ => some 0x82
  | .aand _ => some 0x83
  | .aor _ => some 0x84
  | .axor _ => some 0x85
  | .axchg _ => some 0x86
  | .acas _ => some 0x87
  | .afadd _ => some 0x88
  | .aaddth _ => some 0x89
  | .await _ => some 0x8A
  | .barInit _ => some 0x90
  | .barArrive _ => some 0x91
  | .barExpect _ => some 0x92
  | .barWait _ => some 0x93
  | .barTest _ => some 0x94
  | .barDrop _ => some 0x95
  | .barRetire _ => some 0x96
  | .ringInit _ => some 0x98
  | .ringAwait _ => some 0x99
  | .ringRelease _ => some 0x9A
  | .ringStat _ => some 0x9B
  | .ringRetire _ => some 0x9C
  | .ringBind _ => some 0x9D
  | .send _ => some 0xA0
  | .sendRing _ => some 0xA0
  | .sendr _ => some 0xA1
  | .sendkChain _ => some 0xA2
  | .sendkLast _ => some 0xA2
  | .copy _ => some 0xA3
  | .copyo _ => some 0xA4
  | .stream _ => some 0xA5
  | .streamw _ => some 0xA6
  | .sclose _ => some 0xA7
  | .cstat _ => some 0xA8
  | .ioread _ => some 0xA9
  | .ioreadRing _ => some 0xA9
  | .iowrite _ => some 0xAA
  | .netsend _ => some 0xAB
  | .netrecvBind _ => some 0xAC
  | .netrecvUnbind _ => some 0xAC
  | .tmap _ => some 0xB0
  | .tfill _ => some 0xB1
  | .ttagBind _ => some 0xB2
  | .ttagFull _ => some 0xB2
  | .ttagEmpty _ => some 0xB2
  | .ttagStat _ => some 0xB2
  | .mma _ => some 0xB3
  | .mmas _ => some 0xB4
  | .mmag _ => some 0xB5
  | .mmar _ => some 0xB6
  | .wld _ => some 0xB7
  | .accz _ => some 0xB8
  | .accrd _ => some 0xB9
  | .tcvt _ => some 0xBA
  | .tred _ => some 0xBB
  | .texp _ => some 0xBC
  | .ttrn _ => some 0xBD
  | .tdot _ => some 0xBE
  | .bfly _ => some 0xC0
  | .bfch _ => some 0xC1
  | .sdset _ => some 0xC2
  | .bwld _ => some 0xC3
  | .bperm _ => some 0xC4
  | .bfsc _ => some 0xC5
  | .binOpen _ => some 0xD0
  | .binPut _ => some 0xD1
  | .binPutMap _ => some 0xD1
  | .binPlay _ => some 0xD2
  | .binClose _ => some 0xD3
  | .mpath _ => some 0xD4
  | .fscan _ => some 0xD5
  | .fisect _ => some 0xD6
  | .funion _ => some 0xD7
  | .femit _ => some 0xD8
  | .gath _ => some 0xD9
  | .sysrd _ => some 0xE0
  | .syswr _ => some 0xE1
  | .enrd _ => some 0xE2
  | .wearrd _ => some 0xE3
  | .ctxid _ => some 0xE4
  | .cyc _ => some 0xE5
  | .errinj _ => some 0xE6
  | .diag _ => some 0xFF
  | .tokenHop _ _ => none
  | .tokenArrival _ _ => none
  | .spillProbeDone _ => none
  | .configTokenArrival _ => none
  | .configTokenApply _ => none
  | .muRequest _ => none
  | .globalAtomicPerform _ _ => none
  | .phaseBoundaryComplete _ _ _ _ => none
  | .activationReleaseComplete _ _ _ => none
  | .errorSurface _ _ => none
  | .barrierCredit _ => none
  | .barrierCompletion _ _ => none
  | .barrierRelease _ _ => none
  | .barrierRetry _ => none
  | .copyAccept _ => none
  | .copyStart _ _ => none
  | .chunkApply _ _ => none
  | .chunkBusyResend _ _ => none
  | .chunkAck _ _ => none
  | .copyRelease _ => none
  | .copyAckTimeout _ _ => none
  | .streamElement _ _ => none
  | .streamwToken _ _ => none
  | .ringReservation _ _ => none
  | .ringSlotReturn _ _ => none
  | .ringBindRequest _ => none
  | .ringBindReply _ => none
  | .tfillComplete _ _ => none
  | .arrayOpEnd _ => none
  | .mmarPassComplete _ => none
  | .binUpdateAppend _ _ => none
  | .binReplayStart _ _ => none
  | .binReplayRegion _ _ => none
  | .binReplayEnd _ _ => none
  | .fibrePosition _ _ => none
  | .femitToken _ _ => none
  | .kernelHeaderRead _ => none
  | .kernelVerified _ => none
  | .kernelLoadComplete _ => none
  | .drainComplete _ => none
  | .queueCreate _ _ => none
  | .queueDestroy _ _ => none
  | .queueEnable _ _ => none
  | .queueDisable _ _ => none
  | .queueSuspend _ _ => none
  | .queueResume _ _ => none
  | .queueTailWrite _ _ _ => none
  | .queueHeadSkip _ _ _ => none
  | .headWaitRegister _ => none
  | .yardDecision _ => none
  | .ageingStep _ => none
  | .quantumExpiry _ => none
  | .claimRound _ _ _ => none
  | .energyBudgetReached _ => none
  | .energyForward _ => none
  | .freeze _ _ => none
  | .thaw _ _ => none
  | .save _ _ => none
  | .requeue _ _ _ => none
  | .kill _ _ => none
  | .go _ _ => none
  | .freezeComplete _ => none
  | .saveComplete _ => none
  | .relocationComplete _ => none
  | .restoreComplete _ => none
  | .tlbWalkComplete _ => none
  | .tlbInvalidate _ _ => none
  | .invalidateComplete => none
  | .hostFlushComplete _ => none
  | .hostSnoop _ => none
  | .regionCommitComplete _ => none
  | .ownershipTimeout _ => none
  | .shenisFlitRetry _ _ _ _ => none
  | .ryenxonFlitReceive _ _ _ _ _ _ _ => none
  | .ryenxonNak _ _ => none
  | .ryenxonAckTimeout _ => none
  | .linkEnable _ _ _ => none
  | .linkDisable _ _ _ => none
  | .trainingComplete _ _ _ => none
  | .trainingFailed _ _ => none
  | .trainingRetry _ _ => none
  | .laneLost _ _ => none
  | .retrainWindowClose _ _ => none
  | .outingPortTimeout _ => none
  | .ioCommandArrival _ _ => none
  | .ioCompletion _ _ _ _ => none
  | .ioCommandTimeout _ _ => none
  | .inboundRdmaWrite _ _ _ _ => none
  | .inboundSend _ _ => none
  | .inboundWriteImmediate _ _ _ _ _ => none
  | .inboundRdmaRead _ _ _ => none
  | .qpFatalEvent _ => none
  | .qpStateWrite _ _ _ => none
  | .regionRegister _ _ => none
  | .mailboxPartArrival _ => none
  | .mailboxReply _ _ _ _ => none
  | .mailboxHeadAdvance _ _ => none
  | .imageCacheFlush _ => none
  | .hostInterrupt _ => none
  | .quarantineRelease _ => none
  | .injectionArm _ _ => none
  | .registerWrite _ _ _ => none
  | .wearTick _ => none
  | .unitRetire _ => none
  | .failureWindowClose _ => none
  | .lifetimeFlush => none
  | .digestExchange _ => none
  | .lidOverLimit _ => none
  | .lidResume _ => none
  | .thermalTrip => none
  | .powerOnReset _ => none
  | .diagreq _ => none
  | .attestationReport _ => none
  | .globalLoadPerform _ _ => none
  | .staticEnergyCharge _ => none
  | .roceRetransmission _ _ => none
  | .powerLoss _ => none
  | .supervisorMemoryWrite _ _ _ => none

/-- The assigned opcodes (R43, R44), with 0xFF for the station test word (R45). -/
def assigned (op : BitVec 8) : Bool :=
  let n := op.toNat
  n ≤ 0x3E || (0x40 ≤ n && n ≤ 0x5A) || (0x60 ≤ n && n ≤ 0x73) || (0x80 ≤ n && n ≤ 0x8A) || (0x90 ≤ n && n ≤ 0x96)
    || (0x98 ≤ n && n ≤ 0x9D) || (0xA0 ≤ n && n ≤ 0xAC) || (0xB0 ≤ n && n ≤ 0xBE) || (0xC0 ≤ n && n ≤ 0xC5)
    || (0xD0 ≤ n && n ≤ 0xD9) || (0xE0 ≤ n && n ≤ 0xE6) || n == 0xFF

/-- The constructor that an opcode, and `FN` where one opcode has several rows, choose. -/
def build (op : BitVec 8) (f : Fields) : Option Instr :=
  match op.toNat with
  | 0x00 => some (.nop f)
  | 0x01 => some (.move f)
  | 0x02 => some (.const f)
  | 0x03 => some (.steer f)
  | 0x04 => some (.merge f)
  | 0x05 => some (.select f)
  | 0x06 => some (.gate f)
  | 0x07 => some (.join f)
  | 0x08 => some (.nulls f)
  | 0x09 => some (.sink f)
  | 0x0A => some (.iterEnter f)
  | 0x0B => match f.fn.toNat with
    | 0 => some (.iterNextStep f)
    | 1 => some (.iterNextDone f)
    | _ => none
  | 0x0C => some (.iterExit f)
  | 0x0D => some (.iterIdx f)
  | 0x0E => some (.tagGet f)
  | 0x0F => some (.tagSet f)
  | 0x10 => some (.colourNew f)
  | 0x11 => some (.colourArg f)
  | 0x12 => some (.colourRet f)
  | 0x13 => some (.colourEnd f)
  | 0x14 => match f.fn.toNat with
    | 0 => some (.svcCall f)
    | 1 => some (.svcArg f)
    | _ => none
  | 0x15 => some (.yield f)
  | 0x16 => some (.exit f)
  | 0x17 => some (.trap f)
  | 0x18 => some (.brk f)
  | 0x19 => some (.errf f)
  | 0x1A => some (.grpId f)
  | 0x1B => some (.grpSize f)
  | 0x1C => match f.fn.toNat with
    | 0 => some (.cfgWStn f)
    | 1 => some (.cfgWK f)
    | 2 => some (.cfgWReconf f)
    | _ => none
  | 0x1D => some (.kset f)
  | 0x1E => some (.launch f)
  | 0x1F => some (.kget f)
  | 0x20 => some (.add f)
  | 0x21 => some (.sub f)
  | 0x22 => some (.addc f)
  | 0x23 => some (.subb f)
  | 0x24 => some (.mul f)
  | 0x25 => some (.mulc f)
  | 0x26 => some (.div f)
  | 0x27 => some (.rem f)
  | 0x28 => some (.min f)
  | 0x29 => some (.max f)
  | 0x2A => some (.abs f)
  | 0x2B => some (.neg f)
  | 0x2C => some (.and f)
  | 0x2D => some (.or f)
  | 0x2E => some (.xor f)
  | 0x2F => some (.andn f)
  | 0x30 => some (.not f)
  | 0x31 => some (.shl f)
  | 0x32 => some (.shr f)
  | 0x33 => some (.sar f)
  | 0x34 => some (.rot f)
  | 0x35 => some (.clz f)
  | 0x36 => some (.popc f)
  | 0x37 => some (.brev f)
  | 0x38 => some (.bfx f)
  | 0x39 => some (.bfi f)
  | 0x3A => some (.cmp f)
  | 0x3B => some (.ext f)
  | 0x3C => some (.addsat f)
  | 0x3D => some (.aidx f)
  | 0x3E => some (.hash f)
  | 0x40 => some (.fadd f)
  | 0x41 => some (.fsub f)
  | 0x42 => some (.fmul f)
  | 0x43 => some (.ffma f)
  | 0x44 => some (.fmin f)
  | 0x45 => some (.fmax f)
  | 0x46 => some (.fabs f)
  | 0x47 => some (.fneg f)
  | 0x48 => some (.fcmp f)
  | 0x49 => some (.fclass f)
  | 0x4A => some (.fcvt f)
  | 0x4B => some (.ftoi f)
  | 0x4C => some (.itof f)
  | 0x4D => some (.frnd f)
  | 0x4E => some (.fdiv f)
  | 0x4F => some (.fsqrt f)
  | 0x50 => some (.frcp f)
  | 0x51 => some (.frsq f)
  | 0x52 => some (.fexp2 f)
  | 0x53 => some (.flog2 f)
  | 0x54 => some (.fsin f)
  | 0x55 => some (.fcos f)
  | 0x56 => some (.ftanh f)
  | 0x57 => some (.fdot2 f)
  | 0x58 => some (.fscale f)
  | 0x59 => some (.quant f)
  | 0x5A => some (.deq f)
  | 0x60 => some (.ld f)
  | 0x61 => some (.st f)
  | 0x62 => some (.ldl f)
  | 0x63 => some (.stl f)
  | 0x64 => some (.ltagGet f)
  | 0x65 => some (.ltagSet f)
  | 0x66 => some (.isRd f)
  | 0x67 => some (.isWr f)
  | 0x68 => some (.isClr f)
  | 0x69 => some (.pfch f)
  | 0x6A => some (.phase f)
  | 0x6B => some (.fence f)
  | 0x6C => some (.capAlloc f)
  | 0x6D => some (.capFree f)
  | 0x6E => some (.capNarrow f)
  | 0x6F => some (.capInfo f)
  | 0x70 => some (.gld f)
  | 0x71 => some (.lds f)
  | 0x72 => some (.sts f)
  | 0x73 => some (.poolPart f)
  | 0x80 => some (.aadd f)
  | 0x81 => some (.amin f)
  | 0x82 => some (.amax f)
  | 0x83 => some (.aand f)
  | 0x84 => some (.aor f)
  | 0x85 => some (.axor f)
  | 0x86 => some (.axchg f)
  | 0x87 => some (.acas f)
  | 0x88 => some (.afadd f)
  | 0x89 => some (.aaddth f)
  | 0x8A => some (.await f)
  | 0x90 => some (.barInit f)
  | 0x91 => some (.barArrive f)
  | 0x92 => some (.barExpect f)
  | 0x93 => some (.barWait f)
  | 0x94 => some (.barTest f)
  | 0x95 => some (.barDrop f)
  | 0x96 => some (.barRetire f)
  | 0x98 => some (.ringInit f)
  | 0x99 => some (.ringAwait f)
  | 0x9A => some (.ringRelease f)
  | 0x9B => some (.ringStat f)
  | 0x9C => some (.ringRetire f)
  | 0x9D => some (.ringBind f)
  | 0xA0 => match f.fn.toNat with
    | 0 => some (.send f)
    | 1 => some (.sendRing f)
    | _ => none
  | 0xA1 => some (.sendr f)
  | 0xA2 => match f.fn.toNat with
    | 0 => some (.sendkChain f)
    | 1 => some (.sendkLast f)
    | _ => none
  | 0xA3 => some (.copy f)
  | 0xA4 => some (.copyo f)
  | 0xA5 => some (.stream f)
  | 0xA6 => some (.streamw f)
  | 0xA7 => some (.sclose f)
  | 0xA8 => some (.cstat f)
  | 0xA9 => match f.fn.toNat with
    | 0 => some (.ioread f)
    | 1 => some (.ioreadRing f)
    | _ => none
  | 0xAA => some (.iowrite f)
  | 0xAB => some (.netsend f)
  | 0xAC => match f.fn.toNat with
    | 0 => some (.netrecvBind f)
    | 1 => some (.netrecvUnbind f)
    | _ => none
  | 0xB0 => some (.tmap f)
  | 0xB1 => some (.tfill f)
  | 0xB2 => match f.fn.toNat with
    | 0 => some (.ttagBind f)
    | 1 => some (.ttagFull f)
    | 2 => some (.ttagEmpty f)
    | 3 => some (.ttagStat f)
    | _ => none
  | 0xB3 => some (.mma f)
  | 0xB4 => some (.mmas f)
  | 0xB5 => some (.mmag f)
  | 0xB6 => some (.mmar f)
  | 0xB7 => some (.wld f)
  | 0xB8 => some (.accz f)
  | 0xB9 => some (.accrd f)
  | 0xBA => some (.tcvt f)
  | 0xBB => some (.tred f)
  | 0xBC => some (.texp f)
  | 0xBD => some (.ttrn f)
  | 0xBE => some (.tdot f)
  | 0xC0 => some (.bfly f)
  | 0xC1 => some (.bfch f)
  | 0xC2 => some (.sdset f)
  | 0xC3 => some (.bwld f)
  | 0xC4 => some (.bperm f)
  | 0xC5 => some (.bfsc f)
  | 0xD0 => some (.binOpen f)
  | 0xD1 => match f.fn.toNat with
    | 0 => some (.binPut f)
    | 1 => some (.binPutMap f)
    | _ => none
  | 0xD2 => some (.binPlay f)
  | 0xD3 => some (.binClose f)
  | 0xD4 => some (.mpath f)
  | 0xD5 => some (.fscan f)
  | 0xD6 => some (.fisect f)
  | 0xD7 => some (.funion f)
  | 0xD8 => some (.femit f)
  | 0xD9 => some (.gath f)
  | 0xE0 => some (.sysrd f)
  | 0xE1 => some (.syswr f)
  | 0xE2 => some (.enrd f)
  | 0xE3 => some (.wearrd f)
  | 0xE4 => some (.ctxid f)
  | 0xE5 => some (.cyc f)
  | 0xE6 => some (.errinj f)
  | 0xFF => some (.diag f)
  | _ => none

/-- Decoding against an environment: the instruction, or the first check of R46 that the word fails. -/
def decodeIn (e : Option RtEnv) (w : BitVec 64) : Except LoadCheck Instr :=
  match build (opOfWord w) (unpack w) with
  | none => if assigned (opOfWord w) then .error .fn else .error .op
  | some i =>
    match firstFail e i with
    | some c => .error c
    | none => .ok i

/-- Decoding of a word by its own bits alone. -/
def decode (w : BitVec 64) : Except LoadCheck Instr := decodeIn none w

/-- The word of a station instruction; none for an event, which has none. -/
def encode (i : Instr) : Option (BitVec 64) :=
  match opOf i, fieldsOf i with
  | some op, some f => some (packWord op f)
  | _, _ => none

/-- Station bytes, little-endian (R4), as a word. -/
def wordOfBytes (bs : List Byte) : BitVec 64 :=
  BitVec.ofNat 64 (bs.foldr (fun b n => n * 256 + b.toNat) 0)

/-- The eight bytes of a word, little-endian (R4). -/
def bytesOfWord (w : BitVec 64) : List Byte :=
  (List.range 8).map fun k => w.extractLsb' (8 * k) 8

/-- The decoder on an instruction whose bits are `w`, laid out as the 8 bytes of a station (R4): the 64-bit word. -/
def decodeTableWord (_nbits w : Nat) : Option Instr :=
  match decode (wordOfBytes (bytesOfWord (BitVec.ofNat 64 w))) with
  | .ok i => some i
  | .error _ => none

end Sys2Proof
end

