-- ==== Sys2Proof/Config.lean ====
section
/-!
DEFINITION. What the manual leaves to the implementation or to the outside world as a fixed value, and the free values:
constants without a body, applied to the counter `fresh` of the state or to the operands, of which nothing can be
proved.
-/

namespace Sys2Proof.Config

open Sys2Proof

/-- Fresh 64-bit values the manual leaves open: the route keys of R40 and every value that an entry leaves unstated. The
argument is the state's counter `fresh`, which each draw advances. -/
opaque freeWord : Nat → BitVec 64

/-- Fresh bytes the manual leaves open, such as the bytes of a ring message whose fill ended FAILED (R261). -/
opaque freeByte : Nat → BitVec 8

/-- Which of the 16 entries of a 64 KiB page a translation uses (18, Translation), by the cycle and the virtual address: the
entry's number modulo 16. -/
opaque pageEntry : Nat → Nat → Nat

/-- The bits of a fabric message's record whose layout the manual does not give (R434), by the flit's transport sequence number and the
record's place in the flit. -/
opaque messageRecord : Nat → Nat → Nat

/-- The private device identity key (R491), which no one outside can know. -/
opaque deviceKey : Nat

/-- The secret number of a signature with it, by what is signed. -/
opaque signNonce : List (BitVec 8) → Nat

/-- The key-hash fuse of the module (R490). -/
opaque keyHashFuse : List (BitVec 8)

end Sys2Proof.Config
end

