-- ==== Sys2Proof/Machine/State.lean ====
section
/-!
DEFINITION. The state of one LX8 module as plain data: every register, memory, queue, table and operation in progress
that the manual names, the machine after reset, and the reasons a step can stop.
-/

namespace Sys2Proof.Machine

open Sys2Proof

/-! ### Tokens, stations and loop frames (02, 03) -/

/-- A token delivered to a unit and not yet taken (R64): `own` when it came from a station of the same CU; `cfg` is what goes
with a config token. -/
structure Arrival where
  u : UId
  own : Bool
  tok : Flit
  cfg : Option CfgLoad
deriving DecidableEq, Repr

/-- A token in the matching store, or when `hold` in the token hold (R64), with its arrival sequence number. -/
structure Waiting where
  u : UId
  hold : Bool
  seq : Nat
  tok : Flit
deriving DecidableEq, Repr

/-- A spill-table probe in flight (R66): the arriving token and its sequence number. -/
structure Probe where
  u : UId
  seq : Nat
  tok : Flit
deriving DecidableEq, Repr

/-- A loop frame (R71). `retired` is the 256-bit retired map, bit k standing for iteration BASE + k. -/
structure Frame where
  u : UId
  stn : Nat
  col : Nat
  outer : Nat
  w : Nat
  e : Nat
  base : Nat
  head : Nat
  retired : BitVec 256
  exitn : Option Nat
  exits : Nat
deriving DecidableEq, Repr

/-- A PHASE firing that has arrived and waits for its boundary (R202): its firing, its targets, and the level of its arrival
set, 0 for the context's. -/
structure Parked where
  f : Ready
  ta : BitVec 12
  tb : BitVec 12
  lvl : Nat
deriving DecidableEq, Repr

/-- What a held config token does when it is applied (R362, R363, R318, R368). -/
inductive CfgObj where
  | stn (n : Nat)
  | kreg (n : Nat)
deriving DecidableEq, Repr

/-- A config token held at a CU (R363): its object, the value it writes (none for the config-ordered read of KGET),
where its reply goes, the ready firings, by station and sequence number, that must issue before it is applied, the field code
that a written station word failed on arrival, 0 for none (R48), and for a token of BWLD the group of its firing. -/
structure HeldCfg where
  u : UId
  obj : CfgObj
  val : Option Word
  reply : Option ReplyTo
  before : List (Nat × Nat)
  code : Nat
  grp : Option (Nat × Nat)
deriving DecidableEq, Repr

/-! ### Memory requests (07) -/

/-- A request of a station at an MU's request port (R188): the instruction, its firing, the K registers it read when it
issued, the station's issue count (R175), and the virtual address and leaf level of its latest page walk (R427). -/
structure Req where
  mu : UId
  i : Instr
  c : Ready
  k : List Word
  iseq : Nat
  walked : Option (Nat × Nat) := none
deriving DecidableEq, Repr

/-- The page record of a phase-buffer entry (R421): address space, virtual base and size. -/
structure PageRec where
  as : Nat
  base : Nat
  size : Nat
deriving DecidableEq, Repr

/-- A phase-buffer entry (R175), or when `shadow` an entry moved to the MU's shadow slice (R176). `loc` is the memory
location of the line that the commit writes: the frame that translation gave, or the scratchpad line. `direct` marks an
entry of R421 that took no buffer entry. `stamps` gives per byte, and `tagAt` for the tag, the MU's count of acceptances when
it was last stored, by which R173 finds the latest store; `bseqs` and `tagSeq` give the issue count of that store, by which R177 orders the
stores that join one entry. -/
structure PbEntry where
  mu : UId
  shadow : Bool
  direct : Bool
  la : Word
  data : BitVec 512
  mask : BitVec 64
  loc : Nat
  col : Nat
  itr : Nat
  sx : Nat
  sy : Nat
  ss : Nat
  seq : Nat
  ntag : Option (BitVec 16)
  page : Option PageRec
  host : Bool
  tagAt : Nat
  tagSeq : Nat
  stamps : FMap Nat
  bseqs : FMap Nat
deriving DecidableEq, Repr

/-- A waiter of an MU (R199): its index, its kind WK, the scratchpad offset of its word or slot, the tag, site and station
of the parked firing, and its targets. `arg` is what the object's chapter keeps with it: the parity of a barrier wait. -/
structure Waiter where
  mu : UId
  idx : Nat
  wk : Nat
  off : Nat
  u : UId
  col : Nat
  itr : Nat
  ss : Nat
  ta : BitVec 12
  tb : BitVec 12
  wty : Ty
  arg : Nat
deriving DecidableEq, Repr

/-- A page walk under way for a request (R417): the physical entries are read when it returns. -/
structure Walk where
  mu : UId
  as : Nat
  va : Nat
  req : Req
deriving DecidableEq, Repr

/-- A translated load whose data are not yet read (R187), or a global atomic on its way to its memory controller. -/
structure GAccess where
  req : Req
  va : Nat
  phys : Nat
deriving DecidableEq, Repr

/-- A request held on a host region in transfer (R423); `eng` is the copy id where an engine's access is held. -/
structure HeldHost where
  region : Nat
  req : Req
  since : Nat
  eng : Option Nat
deriving DecidableEq, Repr

/-- A TLB leaf (R417): address space, virtual base, size and the leaf's fields. -/
structure Leaf where
  as : Nat
  vbase : Nat
  size : Nat
  pbase : Nat
  rd : Bool
  wr : Bool
  cw : Bool
  mg : Bool
  hr : Bool
  ws : Bool
deriving DecidableEq, Repr

/-- A loaded range entry (R414). -/
structure RangeEnt where
  vbase : Nat
  vlim : Nat
  pbase : Nat
  v : Bool
  rd : Bool
  wr : Bool
  ws : Bool
deriving DecidableEq, Repr

/-! ### Contexts, activations and the yard (03, 14 to 17) -/

/-- The states of a context (R391). -/
inductive CState where
  | created | loading | running | frozen | draining | saved | relocating | restoring | exited | killed
deriving DecidableEq, Repr

/-- A group declaration (R370): level, width in periods, height in rows. -/
structure GroupDecl where
  lvl : Nat
  gw : Nat
  gh : Nat
deriving DecidableEq, Repr

/-- The fault record of R427. -/
structure FaultRec where
  kind : Nat
  flg : Nat
  lvl : Nat
  fks : Nat
  va : Word
  x : Nat
  y : Nat
  stn : Nat
  mod : Nat
  hdr : BitVec 96
  col : Nat
  cid : Nat
  seq : Nat
  rv : Word
  pv : Word
deriving DecidableEq, Repr

/-- A held fault marker (R426): the faulting firing, whose L token the marker carries and whose R and P values the record
keeps, the fault's code, and whether the L token faulted on its way to the station (R66) and so arrives again. -/
structure Marker where
  f : Ready
  kind : Nat
  rearrive : Bool
deriving DecidableEq, Repr

/-- The freeze reasons of R393. -/
structure Frz where
  fault : Bool
  purge : Bool
  preempt : Bool
  budget : Bool
  superv : Bool
deriving DecidableEq, Repr

/-- One counted EXIT firing (R369): its code and the site and station that its commit key names. -/
structure ExitCount where
  code : Nat
  u : UId
  ss : Nat
  col : Nat
  itr : Nat
deriving DecidableEq, Repr

/-- A placement of one paddock copy: module, absolute logical column and row of its origin (R14). -/
structure Place where
  mx : Nat
  my : Nat
deriving DecidableEq, Repr

/-- A purge that waits for its freeze (R78, R467): the copy and colour it purges and the error's kind. -/
structure PurgeReq where
  copy : Nat
  col : Nat
  kind : Nat
deriving DecidableEq, Repr

/-- A live context with its registers (R397, R204), its launch, its placement, and the units that act for it at MU (3, 0).
`seq` is the count of its packet in its queue (R380), `home` the member whose queue held the launch, `phases` are the steps of the phases of an outing that this member keeps,
`shares` the commits that slots of other members have asked of this one and that still wait (R221): the slot's MU and offset and the units, and
`syncs` what other members have reported (its kind and the member). `byYard` says that the yard asked for the save in progress (R387),
and `budHit` that the energy counter has reached its budget and the yard has not seen it yet (R388).
`rcache` names the copy and colour of the call records that the colour units' caches hold, in order of use, the most recent last (R73),
`ldie` is the die whose image cache served the load (R360), `rset` the range entries that the paddock's own TLBs hold (R414),
`prim` the firing whose fault is the primary of the freeze and the count at which it was detected (R425), `htopw` that `HTOP` no longer follows `HBASE` (R204), and `dying` says that a kill has
stopped the context and its firings already issued are still completing (R398). -/
structure Ctx where
  id : Nat
  cst : CState
  frz : Frz
  freezing : Bool
  rcnt : Nat
  cerr : Bool
  splBase : Nat
  splLog : Nat
  shd : Nat
  shs : Nat
  crb : Nat
  frp : Nat
  hmp : Nat
  srg : BitVec 32
  ecnt : Nat
  esat : Bool
  ebud : Nat
  wchg : Nat
  ctb : Nat
  rvb : Nat
  hbase : Nat
  hsize : Nat
  htop : Nat
  htopw : Bool
  nextidx : Nat
  queue : Nat
  seq : Nat
  die : Nat
  as : Nat
  world : Nat
  flg : Nat
  pw : Nat
  ph : Nat
  part : Nat
  prio : Nat
  img : Word
  arg : Word
  sgnl : Nat
  place : List Place
  members : List Nat
  member : Nat
  key : BitVec 8
  digest : List Byte
  cached : Bool
  groups : List GroupDecl
  residence : Nat
  charged : Nat
  fseq : Nat
  orph : Nat
  exits : List ExitCount
  xcode : Nat
  xkind : Nat
  fcp : Nat
  marker : Option Marker
  frec : Option FaultRec
  purges : List PurgeReq
  recs : List CallRec
  reconf : Option (Word × Word)
  loadStage : Nat
  savedAt : Nat
  home : Nat
  phases : List PhaseStep
  shares : List (UId × Nat × List UId)
  syncs : List (Nat × Nat)
  byYard : Bool
  budHit : Bool
  rcache : List (Nat × Nat)
  ldie : Nat
  rset : Option (List RangeEnt)
  prim : Option (Nat × Ready)
  dying : Bool
deriving DecidableEq, Repr

/-- The progress of a queue's present head (R380, R382): not looked at, waiting on a slot, or eligible. -/
inductive HeadState where
  | fresh | waiting | eligible
deriving DecidableEq, Repr

/-- The registers of a launch queue (R378) and the yard's view of its head (R382, R384): `hs` is its progress, `lckd` that its lock bit has been set since reset, `since` the count at
which it became eligible, `waits` the dependence waits still parked, and `resume` the resume entries at its front. -/
structure Queue where
  created : Bool
  qbase : Nat
  prio : Nat
  en : Bool
  susp : Bool
  gle : Bool
  qas : Nat
  qw : Bool
  logn : Nat
  qnt : Nat
  lck : Bool
  lckd : Bool
  head : Nat
  tail : Nat
  qerr : Word
  hs : HeadState
  since : Nat
  waits : List Nat
  resume : List Nat
deriving DecidableEq, Repr

/-- A cached image (R360): its die, its key and its bytes, in order of use, the most recent last. -/
structure CacheEnt where
  die : Nat
  digest : List Byte
  world : Nat
  pw : Nat
  ph : Nat
  part : Nat
  image : List Byte
deriving DecidableEq, Repr

/-- A placement claim of a yard decision (R386): die, queue, effective priority, the resume entry if it is one, and the
places found. -/
structure Claim where
  die : Nat
  queue : Nat
  e : Nat
  resume : Option Nat
  place : List Place
deriving DecidableEq, Repr

/-- The yard controllers' state (16). `rr` gives per die and priority the queue last placed, `far` the waits on this module's slots that
heads of other modules' queues have parked here: the dependence word, the queue and its module. -/
structure Yard where
  queues : FMap Queue
  rr : FMap Nat
  claims : List Claim
  cache : List CacheEnt
  far : List (Nat × Nat × Nat)
  diag : Bool
deriving DecidableEq, Repr

/-- An address space's registers (R413), and the root, range table and ranges that translations use until the next invalidation. While no
TLB holds the range set (`ranges` is none), a look-up reads the table. -/
structure ASpace where
  v : Bool
  nrng : Nat
  root : Nat
  rbase : Nat
  hsb : Nat
  hsl : Nat
  effRoot : Nat
  effRbase : Nat
  ranges : Option (List RangeEnt)
deriving DecidableEq, Repr

/-- The owner states of a host region (R423). -/
inductive Owner where
  | host | toDevice | device | toHost
deriving DecidableEq, Repr

/-- A registered host region (R423): its entry of the region table and its number. `snoop` is set while a host access waits for the device transfer. -/
structure Region where
  idx : Nat
  num : Nat
  own : Owner
  since : Nat
  snoop : Bool
deriving DecidableEq, Repr

/-- Translation state (18): address spaces, TLBs in order of use with the most recent last, the range sets that each die's L2 TLB
holds by address space, in order of use (R24, R414), walks, regions, the
invalidation registers with the address space, scope and address of the invalidation in progress, and the fallback areas. -/
structure Trans where
  spaces : FMap ASpace
  l1 : FMap (List Leaf)
  l2 : FMap (List Leaf)
  io : FMap (List Leaf)
  l2r : FMap (List (Nat × List RangeEnt))
  walks : List Walk
  regions : List Region
  heldHost : List HeldHost
  tlbia : Nat
  invAs : Nat
  invSc : Nat
  invBusy : Bool
  invRun : Nat × Nat × Nat
  invHeld : Nat
  fbCount : FMap Nat
  fbArea : FMap (List FaultRec)
deriving DecidableEq, Repr

/-- The fabric's per-unit state: stations, registers, tokens, loop frames, config tokens (02, 03, 14). Keys are unit keys
times the number of entries plus the entry. `spillTwin` marks the entries of a REDUNDANT context's spill table that the twin's tokens
took, which the record does not tell (log entry 13). -/
structure Fabric where
  stations : FMap Word
  trapping : FMap Nat
  kregs : FMap Word
  sdregs : FMap Word
  flights : List Flight
  arrivals : List Arrival
  rr : FMap Nat
  waiting : List Waiting
  ready : List Ready
  frames : List Frame
  seqs : FMap Nat
  probes : List Probe
  summary : FMap Nat
  cfgHeld : List HeldCfg
  issueCount : FMap Nat
  laneSum : FMap Nat
  issues : FMap Nat
  charges : FMap Nat
  parked : List Parked
  spillTwin : FMap Nat
deriving DecidableEq, Repr

/-- The memory units' state (06, 07): request ports, phase buffers, write-once words, waiters, accesses in flight, and what the capability
checkers hold of the table and of the bitmap, in order of use, the most recent last (R204). The discard counts stand by physical site. -/
structure MuState where
  reqs : List Req
  pbuf : List PbEntry
  isst : FMap Nat
  waiters : List Waiter
  isdrop : FMap Nat
  accepts : Nat
  loads : List GAccess
  atomics : List GAccess
  capTab : FMap (List (Nat × Nat))
  capBits : FMap (List (Nat × Nat))
deriving DecidableEq, Repr

/-! ### Barriers, rings, copies and streams (08 to 10) -/

/-- The states of a live barrier slot (R218). -/
inductive BarSt where
  | armed | completing | idle
deriving DecidableEq, Repr

/-- A live barrier slot (R215). `units` are the units whose arrivals the counting phase has taken, `done` those of the
completing phase, whose stores its boundary commits (R221); `owed` while that commit waits for the twin's (R470), and `away` the
members of an outing that have not yet committed their part. -/
structure Bar where
  exp : Nat
  pnd : Nat
  txb : Int
  par : Bool
  st : BarSt
  lvl : Nat
  own : Nat
  units : List UId
  done : List UId
  owed : Bool
  away : Nat
deriving DecidableEq, Repr

/-- A request in a barrier retry buffer (R225); `due` once its slot has been released. -/
structure Retry where
  req : Req
  off : Nat
  due : Bool
deriving DecidableEq, Repr

/-- A live ring header (R256). `net` is the queue pair that NETRECV has bound it to (R457), and
`held` counts the claimed messages not yet released (R270). -/
structure Ring where
  base : Nat
  kd : Bool
  bnd : Bool
  own : Nat
  sz : Nat
  cnt : Nat
  rp : Nat
  wp : Nat
  rsv : Nat
  rl : Nat
  free : Nat
  fill : Nat
  bpx : Nat
  bpy : Nat
  bmod : Nat
  net : Option Nat
  held : Nat
deriving DecidableEq, Repr

/-- A ring binding of a copy unit (R264), with the request that made it and those waiting on it (R273). -/
structure Binding where
  mu : UId
  ring : UId
  off : Nat
  kd : Bool
  pend : Bool
  sz : Nat
  cnt : Nat
  srsv : Nat
  sfree : Nat
  maker : Option Req
  waiting : List Req
deriving DecidableEq, Repr

/-- The states of a copy (R237); GONE is the absence of an entry. -/
inductive CopySt where
  | issued | streaming | committed | complete | failed | replaying
deriving DecidableEq, Repr

/-- A coordinate or value token of an emitter that waits for its partner (R352). -/
structure FibTok where
  itr : Nat
  kind : BitVec 3
  val : Word
deriving DecidableEq, Repr

/-- A copy object (R237): one accepted command of a copy unit, an AGU stream or a fibre unit. `i`, `c` and `k` are the
command, its firing and the K registers it read; `maps` holds the descriptors taken at acceptance; `total` and `sent` count
chunks; `strm` names the AGU streams it holds; `pos`, `n` and `cnt` are the progress of a stream or fibre unit, and `aux` what
its chapter keeps besides. `timer` counts the cycles of R497, and `left` says that an I/O command has left its module. -/
structure Copy where
  mu : UId
  id : Nat
  i : Instr
  c : Ready
  k : List Word
  st : CopySt
  rsn : Nat
  nch : Nat
  total : Nat
  sent : Nat
  cw : Word
  src : Word
  dst : Word
  len : Nat
  maps : List (BitVec 512)
  timer : Option Nat
  crfail : Bool
  resv : Option Resv
  strm : List Nat
  pos : Nat
  n : Nat
  cnt : Nat
  aux : List Nat
  toks : List FibTok
  toks2 : List FibTok
  left : Bool
deriving DecidableEq, Repr

/-- A chunk acknowledgement on its way to the issuing MU (R240): `busy` for a refusal of chunk 0, `sum` the checksum that
goes with the last one (R250). -/
structure ChunkAck where
  mu : UId
  id : Nat
  idx : Nat
  busy : Bool
  since : Nat
  sum : Nat
deriving DecidableEq, Repr

/-- A credit on its way to a barrier slot (R243). -/
structure Credit where
  slot : UId
  off : Nat
  bytes : Nat
  mu : UId
  id : Nat
deriving DecidableEq, Repr

/-- An entry of the commit table of `dst` (R240), with the running checksum of SENDK (R250). -/
structure CommitEnt where
  dst : UId
  mu : UId
  id : Nat
  nxt : Nat
  sum : Nat
deriving DecidableEq, Repr

/-- A release message of a copy on its way to the destination MU (R240). -/
structure RelMsg where
  dst : UId
  mu : UId
  id : Nat
deriving DecidableEq, Repr

/-- A slot return on its way to the binding MU (R265). -/
structure SlotRet where
  mu : UId
  ring : UId
  off : Nat
  n : Nat
deriving DecidableEq, Repr

/-- A bind message or its reply (R273). -/
structure BindMsg where
  mu : UId
  ring : UId
  off : Nat
  reply : Bool
  free : Nat
  rsv : Nat
  kd : Bool
  sz : Nat
  cnt : Nat
deriving DecidableEq, Repr

/-! ### The binning engine (13) -/

/-- The states of an open bin set (R339). -/
inductive BinSt where
  | opened | playing
deriving DecidableEq, Repr

/-- A bin set (R336 to R340): its destination, control word, area and completion word, its counters, the blocks it may use and
has used, the region that a replay reads next, and `play`, the firing that opened the replay. -/
structure BinSet where
  st : BinSt
  dest : Word
  ctl : Word
  area : Word
  cw : Word
  app : Nat
  drp : Nat
  blocks : Nat
  used : Nat
  region : Option Nat
  play : Option Ready
deriving DecidableEq, Repr

/-- A put that the binning engine has accepted and not yet finished (R341, R348): the next position of a map put, and what it
has appended and dropped. -/
structure BinPut where
  req : Req
  set : Nat
  maps : List (BitVec 512)
  pos : Nat
  app : Nat
  drp : Nat
deriving DecidableEq, Repr

/-- The state of the barriers, copy units, streams, rings and bin sets. `bars` and `rings` are keyed by the location of the
slot or header; an absent key is a PLAIN slot or header (BL or RGL = 0). `turns` holds per MU one more than the id of the copy that its
round robin served last (R239). -/
structure CopyState where
  bars : FMap (Option Bar)
  rings : FMap (Option Ring)
  retry : List Retry
  bsdrop : FMap Nat
  queue : List Req
  copies : List Copy
  cseq : FMap Nat
  turns : FMap Nat
  chunks : List Chunk
  acks : List ChunkAck
  credits : List Credit
  commits : List CommitEnt
  rels : List RelMsg
  slotRets : List SlotRet
  binds : List Binding
  bindMsgs : List BindMsg
  toQueues : List Flight
  bins : FMap (Option BinSet)
  puts : List BinPut
deriving DecidableEq, Repr

/-! ### The tensor array (11, 12) -/

/-- The states of a tile tag (R281). -/
inductive TagSt where
  | unbound | empty | filling | full
deriving DecidableEq, Repr

/-- A tile tag (R281). -/
structure Tag where
  st : TagSt
  toff : Nat
  soff : Nat
  sv : Bool
  ef : Nat
  bk : Nat
  bn : Nat
  sf : Nat
deriving DecidableEq, Repr

/-- A loaded weight bank (R290): the B operand's 4 KiB by rows of 128 bytes, its strip, its format fields, and the K register
bound for its scale. -/
structure Bank where
  rows : List Byte
  strip : List Byte
  ef : Nat
  bk : Nat
  bn : Nat
  sf : Nat
  ks : Nat
deriving DecidableEq, Repr

/-- An operation that occupies the arrays of `us` (R285, R301): its instruction, its firing and the K registers it read. -/
structure ArrayOp where
  us : List UId
  i : Instr
  c : Ready
  k : List Word
deriving DecidableEq, Repr

/-- A tile fill in progress (R289, R297): its firing, its tag, the descriptor it took, and the rows it has written. -/
structure Fill where
  c : Ready
  i : Instr
  tag : Nat
  map : BitVec 512
  rows : Nat
deriving DecidableEq, Repr

/-- The tensor state. `accs` holds per accumulator 1 for a cleared zero flag and 2 for type I32; an absent key is +0 of type
F32 (R284). -/
structure TensorState where
  maps : FMap (BitVec 512)
  tags : FMap Tag
  accs : FMap Nat
  banks : FMap (Option Bank)
  ops : List ArrayOp
  fills : List Fill
deriving DecidableEq, Repr

/-! ### Units, wear and errors (20) -/

/-- An imprecise error on its way to the colour unit (R467): the detecting unit, the colour, the kind's
code, and the reply tokens that wait for the colour unit's acknowledgement (R468), those for other modules in `out`. `sent` says that the
message has left for the first member of an outing, whose acknowledgement is still to come. -/
structure ErrMsg where
  u : UId
  col : Nat
  kind : Nat
  reply : List Flight
  out : List (Nat × Nat × Cargo) := []
  sent : Bool := false
deriving DecidableEq, Repr

/-- A lifetime record entry and its unit's monitors (R460 to R466): LWEAR with its hidden fraction, the state code UST,
the failure count UFC with the count at which its window opened, STP, the stress factor USF, the wear stage kept through
a quarantine, and the wear not yet flushed to the nonvolatile store. -/
structure Life where
  lwear : Nat
  frac : Nat
  ust : Nat
  ufc : Nat
  win : Option Nat
  stp : Bool
  usf : Nat
  kept : Nat
  unflushed : Nat
deriving DecidableEq, Repr

/-- A die's injection register (R477). -/
structure Inj where
  ik : Nat
  ibt : Nat
  ix : Nat
  iy : Nat
  iof : Nat
  iar : Bool
deriving DecidableEq, Repr

/-- A commit point of a REDUNDANT context that waits for its twin's digest (R470): the firing and its digest. -/
structure Twin where
  f : Ready
  digest : Word
deriving DecidableEq, Repr

/-- A hardware error that the machine bears (R469, R473): the words of a 64-byte line of memory, of an MU's phase buffer or of a station hold an
uncorrectable error, or the results of a CU fail their residue checks. The module's surroundings bring them about: a run bears those of its
first state, and reset has none (log entry 17). -/
inductive Upset where
  | line (n : Nat)
  | buffer (site : Nat)
  | station (site n : Nat)
  | result (site : Nat)
deriving DecidableEq, Repr

/-- The units' state (20): errors in flight, lifetime records by physical site and their mirror on I/O die 1 (R22), remapped rows (the retired physical period,
15 for none), holes by physical site, injection registers by die, energy weights by die and class, and held twins. -/
structure UnitState where
  upsets : List Upset
  errs : List ErrMsg
  life : FMap Life
  remap : FMap Nat
  holes : List Nat
  inj : FMap Inj
  ew : FMap Nat
  twins : List Twin
  mirror : FMap Life
  wfrac : FMap Nat
  wtick : FMap Nat
  flushed : Nat
deriving DecidableEq, Repr

/-! ### Service cores (21) -/

/-- A mailbox request or notice (R481): `u` is the CALL station's unit, `ta` and `tb` its targets once argument 0 is there, and `pair` the
colour of the twin's firing in a REDUNDANT context (R471). -/
structure MboxEnt where
  svn : Nat
  na : Nat
  am : Nat
  u : UId
  col : Nat
  itr : Nat
  stn : Nat
  args : List Word
  ta : BitVec 12
  tb : BitVec 12
  posted : Bool
  pair : Option Nat
deriving DecidableEq, Repr

/-- A die's service registers (R479) and mailbox ring (R481), keyed by entry index; `mbn` counts the entries from
the head to the tail, and `wlkd` says that WLK has been set since reset. -/
structure DieReg where
  cause : BitVec 8
  en : BitVec 8
  hart : Nat
  mbhd : Nat
  mbtl : Nat
  mbn : Nat
  nsr : BitVec 48
  wlk : Bool
  wlkd : Bool
  bke : BitVec 2
  ring : FMap (Option MboxEnt)
deriving DecidableEq, Repr

/-- A service reply held for a frozen or saved context (R483). -/
structure HeldReply where
  ctx : Nat
  e : MboxEnt
  st : Nat
deriving DecidableEq, Repr

/-- The service cores' state: registers by die, parts on their way to a mailbox, held replies, the MSI-X vectors sent to the
host, and the count at which each die was released from reset (R486). -/
structure Svc where
  dies : FMap DieReg
  parts : List Req
  held : List HeldReply
  hints : List Nat
  released : FMap Nat
deriving DecidableEq, Repr

/-! ### Links and I/O (19) -/

/-- The states of a Ryenxon or Ethernet port (R438). -/
inductive LinkSt where
  | down | training | up | degraded | retrying | quarantined | disabled
deriving DecidableEq, Repr

/-- A flit that a port has sent and not yet seen acknowledged (R435): its link and transport sequence numbers, how often it was
replayed, the module it goes to, and the count since which no usable port reaches that. -/
structure OutFlit where
  fsq : Nat
  tsq : Nat
  tries : Nat
  peer : Nat
  wait : Option Nat
  cargo : Cargo
deriving DecidableEq, Repr

/-- A Ryenxon port (R435 to R438). `win` is the count at which the retrain window opened, `since` that at which the state was
entered or the last acknowledgement came, `fsq` and `rx` the next link sequence numbers sent and expected, `plkd` that PLK has been set since reset. -/
structure RxPort where
  lst : LinkSt
  pen : Bool
  lns : Nat
  hlf : Bool
  peer : Nat
  pv : Bool
  rply : Nat
  rtn : Nat
  pws : Bool
  plk : Bool
  plkd : Bool
  win : Option Nat
  since : Nat
  fsq : Nat
  rx : Nat
  tx : List OutFlit
  nak : Bool
deriving DecidableEq, Repr

/-- An Ethernet port (R449): its status, MAC and the eight GID registers; `elkd` says that ELK has been set since reset. -/
structure EthPort where
  lst : LinkSt
  pen : Bool
  half : Bool
  ealt : Bool
  ertx : Nat
  rtn : Nat
  ews : Bool
  elk : Bool
  elkd : Bool
  mac : Nat
  gids : List Word
  win : Option Nat
  since : Nat
deriving DecidableEq, Repr

/-- A queue pair (R447, R449): its word, its addressing registers, and the ring that NETRECV has bound to it. -/
structure Qp where
  word : Word
  num : Word
  psn : Word
  gidl : Word
  gidh : Word
  ring : Option (UId × Nat)
deriving DecidableEq, Repr

/-- A receive window (R449). -/
structure RecvWin where
  base : Word
  len : Word
  ctl : Word
deriving DecidableEq, Repr

/-- An I/O command that has left its module's copy unit (R450 to R452): the copy, whether the I/O die has translated and sent it,
the count when it left, its queue pair, and the locations of its memory range. -/
structure IoCmd where
  mu : UId
  id : Nat
  sent : Bool
  since : Nat
  qp : Nat
  locs : List Nat
deriving DecidableEq, Repr

/-- The data of an IOREAD.RING that has ended, held at its I/O die until every chunk is acknowledged (R453, R439); `ok` is false for a read
that failed. -/
structure IoData where
  mu : UId
  id : Nat
  ok : Bool
  data : List Byte
deriving DecidableEq, Repr

/-- The links' and I/O dies' state. `egress` holds what waits for a usable port, with the count since which it waits; `held` is
the reorder store of R436, by peer and TSQ, with the port of each flit; `out` is what has left on queue pairs, `pend` what waits for their Ethernet port; `arriving` holds the copy-data parts of chunks received so far; `mlkd` says that MLK has been set since reset. -/
structure LinkState where
  ports : FMap RxPort
  eth : FMap EthPort
  mid : Nat
  mlk : Bool
  mlkd : Bool
  chans : FMap Word
  qps : FMap Qp
  wins : FMap RecvWin
  txTsq : FMap Nat
  rxTsq : FMap Nat
  turn : Nat
  egress : List (Nat × Nat × Cargo)
  held : List (Nat × Nat × Nat × List Cargo)
  arriving : List Chunk
  ios : List IoCmd
  ioData : List IoData
  out : List (Nat × List Byte)
  pend : List (Nat × List Byte)
  shenisDown : List (Nat × Nat × Nat)
  shenisRetry : FMap Nat
deriving DecidableEq, Repr

/-! ### Start-up (22) -/

/-- A boot-record entry (R492): outcome, alternate, consecutive failures, start count and measurement. -/
structure BootEnt where
  bout : Nat
  balt : Nat
  bfail : Nat
  bseq : Nat
  meas : List Byte
deriving DecidableEq, Repr

/-- What the boot record holds beside its entries (R492): M, the trip flag and `DIAGREQ`. -/
structure BootHead where
  meas : List Byte
  trip : Bool
  diagreq : Bool
deriving DecidableEq, Repr

/-- Boot state: the record by step and instance on I/O die 0 and its mirror on I/O die 1 (R22), the start count, M, the trip flag and DIAGREQ (R492 to R494), the dies that take
part, those held back for lid temperature (R29; 8 and 9 are the I/O dies), the entries completed since the last trip, the
kernel-signing key that step 6 installs, whether the module has halted, and the last report that boot firmware gave (R491). -/
structure BootState where
  record : FMap BootEnt
  mirror : FMap BootEnt
  starts : Nat
  meas : List Byte
  trip : Bool
  diagreq : Bool
  dies : List Nat
  hot : List Nat
  tripped : List Nat
  key : List Byte
  halted : Bool
  report : List Byte
  mhead : BootHead
deriving DecidableEq, Repr

/-- One agenda entry: what acts next. `issue` lets a CU issue its oldest ready firing (R68); `event` lets another unit or
the outside world act. `dt` is the number of cycles that pass before it. The agenda is the model's own (log entry 1):
it stands for the order in which the module's independent units act, which the manual leaves open. -/
inductive Act where
  | issue (u : UId)
  | event (i : Instr)
deriving DecidableEq, Repr

/-- An agenda entry with the cycles that pass before it. -/
structure Agendum where
  dt : Nat
  act : Act
deriving DecidableEq, Repr

/-- A memory write of the step in progress: bytes at a location, or a range set to zero. -/
inductive MW where
  | bytes (loc : Nat) (bs : List Byte)
  | clear (lo hi : Nat)
deriving DecidableEq, Repr

/-- The whole machine. `clock`, `agenda`, `fresh`, `firing` and `wlog` are the model's own fields: the count of elapsed
cycles, the order of what acts next, the counter of drawn free values, the firing latched by an issue for the meaning of
its station's instruction, and the memory writes of the step in progress, which the end of the step applies. -/
structure State where
  clock : Nat
  agenda : List Agendum
  fresh : Nat
  firing : List Ready
  wlog : List MW
  mem : List Host.Cell
  mtag : FMap (BitVec 16)
  routes : FMap (BitVec 32)
  fab : Fabric
  mu : MuState
  ctxs : List Ctx
  yard : Yard
  tr : Trans
  cp : CopyState
  tn : TensorState
  un : UnitState
  lk : LinkState
  boot : BootState
  svc : Svc
deriving DecidableEq, Repr

/-- The fabric with no station written and no token anywhere. -/
def Fabric.empty : Fabric :=
  { stations := [], trapping := [], kregs := [], sdregs := [], flights := [], arrivals := [], rr := [], waiting := [],
    ready := [], frames := [], seqs := [], probes := [], summary := [], cfgHeld := [],
    issueCount := [], laneSum := [], issues := [], charges := [], parked := [], spillTwin := [] }

/-- The memory units with nothing buffered. -/
def MuState.empty : MuState :=
  { reqs := [], pbuf := [], isst := [], waiters := [], isdrop := [], accepts := 0, loads := [], atomics := [], capTab := [],
    capBits := [] }

/-- The yard with no queue created (R378). -/
def Yard.empty : Yard := { queues := [], rr := [], claims := [], cache := [], far := [], diag := false }

/-- Translation with no address space valid (R413). -/
def Trans.empty : Trans :=
  { spaces := [], l1 := [], l2 := [], io := [], l2r := [], walks := [], regions := [], heldHost := [], tlbia := 0, invAs := 0,
    invSc := 0, invBusy := false, invRun := (0, 0, 0), invHeld := 0, fbCount := [], fbArea := [] }

/-- No live slot, ring, copy or stream. -/
def CopyState.empty : CopyState :=
  { bars := [], rings := [], retry := [], bsdrop := [], queue := [], copies := [], cseq := [], turns := [], chunks := [], acks := [],
    credits := [], commits := [], rels := [], slotRets := [], binds := [], bindMsgs := [], toQueues := [], bins := [],
    puts := [] }

/-- No tensor map, no bound tag, no bank (R278, R281, R290). -/
def TensorState.empty : TensorState := { maps := [], tags := [], accs := [], banks := [], ops := [], fills := [] }

/-- No error in flight and every unit as new (R462). -/
def UnitState.empty : UnitState :=
  { upsets := [], errs := [], life := [], remap := [], holes := [], inj := [], ew := [], twins := [], mirror := [], wfrac := [], wtick := [], flushed := 0 }

/-- Every port DISABLED, no channel, pair or window (R487). -/
def LinkState.empty : LinkState :=
  { ports := [], eth := [], mid := 0, mlk := false, mlkd := false, chans := [], qps := [], wins := [], txTsq := [], rxTsq := [], turn := 0,
    egress := [], held := [], arriving := [], ios := [], ioData := [], out := [], pend := [], shenisDown := [], shenisRetry := [] }

/-- Before the first start: no record, and every die in reset (R487, R492). -/
def BootState.empty : BootState :=
  { record := [], mirror := [], starts := 0, meas := List.replicate 48 0, trip := false, diagreq := false, dies := [], hot := [],
    tripped := [], key := [], halted := false, report := [],
    mhead := { meas := List.replicate 48 0, trip := false, diagreq := false } }

/-- The service registers at their reset values (R479). -/
def Svc.empty : Svc := { dies := [], parts := [], held := [], hints := [], released := [] }

/-- The module right after reset: every die held in reset (R487), no context, no token, memory with nothing listed. -/
def State.reset : State :=
  { clock := 0, agenda := [], fresh := 0, firing := [], wlog := [], mem := [], mtag := [], routes := [],
    fab := Fabric.empty, mu := MuState.empty, ctxs := [], yard := Yard.empty, tr := Trans.empty, cp := CopyState.empty,
    tn := TensorState.empty, un := UnitState.empty, lk := LinkState.empty, boot := BootState.empty,
    svc := Svc.empty }

/-- Why a step stops with a fault. No step of this model does: every fault of the manual is a next state. -/
inductive Fault where
  /-- Raised by nobody: the manual gives every fault a next state (R424, R398). Safe. -/
  | unreachable
deriving DecidableEq, Repr

/-- Why a step is refused. -/
inductive Refusal where
  /-- The instruction has no meaning yet. Raised by the dispatch alone; safe. -/
  | notModelled (mnemonic : String)
deriving DecidableEq, Repr

end Sys2Proof.Machine
end

