-- ==== Sys2Proof/Machine/Store.lean ====
section
/-!
DEFINITION. Finite maps and byte memory as sorted lists in one canonical form. A byte of memory that is not listed reads
as zero (log entry 2). The writes of one step are collected in the state's write log, which the reads of that step see,
and are applied when the step ends.
-/

namespace Sys2Proof.Machine

open Sys2Proof

/-- The value of a key: the map's default `d` where the key is not listed. -/
def fget {α : Type} (d : α) : FMap α → Nat → α
  | [], _ => d
  | (k', v) :: r, k => if k = k' then v else if k < k' then d else fget d r k

/-- Removes a key. -/
def ferase {α : Type} : FMap α → Nat → FMap α
  | [], _ => []
  | (k', v) :: r, k => if k = k' then r else if k < k' then (k', v) :: r else (k', v) :: ferase r k

/-- Puts a value at a key, in order. -/
def finsert {α : Type} (k : Nat) (v : α) : FMap α → FMap α
  | [] => [(k, v)]
  | (k', v') :: r => if k < k' then (k, v) :: (k', v') :: r else if k = k' then (k, v) :: r else (k', v') :: finsert k v r

/-- Sets a key, keeping no entry that equals the default. -/
def fset {α : Type} [DecidableEq α] (d : α) (m : FMap α) (k : Nat) (v : α) : FMap α :=
  if v = d then ferase m k else finsert k v m

/-- Sets every key of `[lo, hi)` back to the default. -/
def fclear {α : Type} (m : FMap α) (lo hi : Nat) : FMap α := m.filter fun e => e.1 < lo || hi ≤ e.1

/-- The keys rise strictly from a lower bound on, and no entry is zero. -/
def memWf : Nat → List Host.Cell → Bool
  | _, [] => true
  | lo, (k, v) :: r => lo ≤ k && v != 0 && memWf (k + 1) r

/-- The canonical form of memory: addresses strictly rising, no entry equal to what an unlisted address reads as. -/
def Memory.wf (m : List Host.Cell) : Bool := memWf 0 m

/-- One byte of memory. -/
def memByte (m : List Host.Cell) (a : Nat) : Byte := fget 0 m a

/-- Writes bytes at rising addresses. -/
def memBytes (m : List Host.Cell) (a : Nat) : List Byte → List Host.Cell
  | [] => m
  | b :: bs => memBytes (fset 0 m a b) (a + 1) bs

/-- Applies one logged write. -/
def memApply (m : List Host.Cell) : MW → List Host.Cell
  | .bytes a bs => memBytes m a bs
  | .clear lo hi => fclear m lo hi

/-- Applies a write log, whose newest write stands first. -/
def memCommit (m : List Host.Cell) (log : List MW) : List Host.Cell := log.foldr (fun w m => memApply m w) m

/-- The byte that a write log gives a location, where it writes it. -/
def logByte (a : Nat) : List MW → Option Byte
  | [] => none
  | .bytes lo bs :: r => if lo ≤ a && a < lo + bs.length then some (bs.getD (a - lo) 0) else logByte a r
  | .clear lo hi :: r => if lo ≤ a && a < hi then some 0 else logByte a r

/-- One byte at a location, as the step sees it: its own logged writes over the memory before it. -/
def rd8 (s : State) (a : Nat) : Byte :=
  match logByte a s.wlog with
  | some b => b
  | none => memByte s.mem a

/-- `n` bytes at a location. -/
def rdBytes (s : State) (a n : Nat) : List Byte := (List.range n).map fun k => rd8 s (a + k)

/-- Little-endian bytes as a number (R4). -/
def leNat : List Byte → Nat
  | [] => 0
  | b :: bs => b.toNat + 256 * leNat bs

/-- A number as `n` little-endian bytes (R4). -/
def leBytes (v : Nat) : Nat → List Byte
  | 0 => []
  | n + 1 => BitVec.ofNat 8 v :: leBytes (v / 256) n

/-- The little-endian number of `n` bytes at a location. -/
def rdN (s : State) (a n : Nat) : Nat := leNat (rdBytes s a n)

/-- Logs a write of bytes. -/
def wrBytes (s : State) (a : Nat) (bs : List Byte) : State := { s with wlog := .bytes a bs :: s.wlog }

/-- Logs a little-endian write of `n` bytes. -/
def wrN (s : State) (a n v : Nat) : State := wrBytes s a (leBytes v n)

/-- Logs a range set to zero. -/
def wrClear (s : State) (lo hi : Nat) : State := { s with wlog := .clear lo hi :: s.wlog }

/-- The key of a unit. -/
def uKey (u : UId) : Nat := ((u.ctx * 2 + u.copy) * 128 + u.y) * 256 + u.x

/-- The first location of unit storage: above every physical address, which has 52 bits (R413). -/
def unitBase : Nat := 2 ^ 64

/-- The location of byte `off` of a unit's own memory: an MU's scratchpad (R163), a CU's pool (R166). -/
def locUnit (u : UId) (off : Nat) : Nat := unitBase + uKey u * 2 ^ 20 + off

/-- The unit whose own memory holds a location. -/
def unitAt (loc : Nat) : UId :=
  let k := (loc - unitBase) / 2 ^ 20
  { ctx := k / 65536, copy := k / 32768 % 2, x := k % 256, y := k / 256 % 128 }

/-- The line tag of the line at a location (R116): 0x7F00 at load and where nothing set it (R121). -/
def lineTag (s : State) (loc : Nat) : BitVec 16 := fget 0x7F00 s.mtag (loc / 64)

/-- Sets the line tag of the line at a location. -/
def setLineTag (s : State) (loc : Nat) (t : BitVec 16) : State := { s with mtag := fset 0x7F00 s.mtag (loc / 64) t }

/-- Ends a step that began in `s`: the logged writes reach memory, the latch and the log are empty, and the route entries
are those of before (R38: only the kernel load and the restore write them). -/
def close (s t : State) : State :=
  { t with mem := memCommit s.mem t.wlog, wlog := [], firing := [], routes := s.routes }

/-- Ends a step of the loader or of a restore, which may write route entries. -/
def closeLoad (s t : State) : State :=
  { t with mem := memCommit s.mem t.wlog, wlog := [], firing := [] }

end Sys2Proof.Machine
end

