-- ==== Sys2Proof/Machine/Translate.lean ====
section
/-!
DEFINITION. Address spaces, ranges, page tables, TLBs and the checks on a translation (18 R412 to R418).
-/

namespace Sys2Proof.Machine

open Sys2Proof

/-- The physical address is host memory (R413). -/
def isHost (a : Nat) : Bool := nbits a 51 1 == 1

/-- The bytes of the second tier that are backed: 6,144 × 10^9 (R21, R413). R413 writes beside this number a hexadecimal literal that is
128 MiB larger (log entry 85). -/
def tierBytes : Nat := 6144 * 10 ^ 9

/-- The physical address names backed memory, or host memory (R413). -/
def backed (a : Nat) : Bool :=
  isHost a || a < 0xEE6B280000 || (0x10000000000 ≤ a && a < 0x10000000000 + tierBytes)

/-- The range of `n` bytes touches no unbacked address (R413). -/
def backedRange (a n : Nat) : Bool :=
  (isHost a && isHost (a + n - 1)) || a + n ≤ 0xEE6B280000
    || (0x10000000000 ≤ a && a + n ≤ 0x10000000000 + tierBytes)

/-- The registers of an address space that nothing has written (R413). -/
def asReset : ASpace := { v := false, nrng := 0, root := 0, rbase := 0, hsb := 0, hsl := 0, effRoot := 0, effRbase := 0, ranges := none }

/-- An address space. -/
def asOf (s : State) (as : Nat) : ASpace := fget asReset s.tr.spaces as

/-- Changes an address space. -/
def asUpd (s : State) (as : Nat) (f : ASpace → ASpace) : State :=
  { s with tr := { s.tr with spaces := fset asReset s.tr.spaces as (f (asOf s as)) } }

/-- One range entry as it is loaded (R414): invalid with a reserved bit, a limit not above its base, or an extent that
touches an unbacked address. -/
def rangeOf (b v p fl : Nat) : RangeEnt :=
  let ok := nbits fl 0 1 == 1 && fl / 16 == 0 && nbits b 0 12 == 0 && b / 2 ^ 57 == 0 && nbits v 0 12 == 0
    && v / 2 ^ 57 == 0 && nbits p 0 12 == 0 && p / 2 ^ 52 == 0 && b < v && backedRange p (v - b)
  { vbase := b, vlim := v, pbase := p, v := ok, rd := nbits fl 1 1 == 1, wr := nbits fl 2 1 == 1, ws := nbits fl 3 1 == 1 }

/-- The range set of an address space, read from its range table (R414). -/
def loadRanges (s : State) (a : ASpace) : List RangeEnt :=
  (List.range a.nrng).map fun k =>
    let e := a.effRbase + 32 * k
    if backed e then rangeOf (rdN s e 8) (rdN s (e + 8) 8) (rdN s (e + 16) 8) (rdN s (e + 24) 8)
    else rangeOf 0 0 0 0

/-- The range table reaches an unbacked address (R413). -/
def rangesUnbacked (a : ASpace) : Bool := a.nrng != 0 && !backedRange a.effRbase (32 * a.nrng)

/-- The range set that a look-up sees: the loaded one, or the table while none is loaded (R414). -/
def rangeSet (s : State) (a : ASpace) : List RangeEnt := a.ranges.getD (loadRanges s a)

/-- The range of a set that holds a virtual address: the lowest valid entry (R414). -/
def rangeIn (rs : List RangeEnt) (va : Nat) : Option RangeEnt := rs.find? fun r => r.v && r.vbase ≤ va && va < r.vlim

/-- The range that a look-up outside every paddock finds. -/
def rangeHit (s : State) (a : ASpace) (va : Nat) : Option RangeEnt := rangeIn (rangeSet s a) va

/-- The context belongs to the secure world; a diagnostic kernel does too (R45). -/
def isSecure (x : Ctx) : Bool := x.world != 0

/-- The range set in the TLBs of a context's paddock (R414). -/
def ctxRanges (s : State) (x : Ctx) : List RangeEnt := x.rset.getD (rangeSet s (asOf s x.as))

/-- The result of a page walk: a leaf, or the level at which it met V = 0. -/
inductive WalkRes where
  | leaf (l : Leaf) (lvl : Nat)
  | absent (lvl : Nat)
deriving DecidableEq, Repr

/-- The size of a leaf at a level (R415). -/
def leafSize (lvl : Nat) (c64 : Bool) : Nat :=
  match lvl with
  | 3 => 2 ^ 30
  | 2 => 2 ^ 21
  | _ => if c64 then 2 ^ 16 else 2 ^ 12

/-- The page table entry `e` at a level and at index `idx` of its table, as the walker sees it (R415, R416): a next table, a leaf, or
nothing. The frame of an entry of a 64 KiB page stands as far into the page's 64 KiB aligned frame as the entry into the 16. -/
def pteAt (as va lvl idx e : Nat) : Option (Nat ⊕ Leaf) :=
  let b (k : Nat) : Bool := nbits e k 1 == 1
  let pfn := nbits e 12 40 * 4096
  if !b 0 || nbits e 10 2 != 0 || nbits e 52 12 != 0 then none
  else if b 1 then
    let sz := leafSize lvl (b 6)
    let inPage := if lvl == 1 && b 6 then idx % 16 * 4096 else 0
    if lvl ≥ 4 || pfn % sz != inPage || (b 8 && lvl == 3) then none
    else
      let base := pfn - inPage
      if !b 8 && !backedRange base sz then none
      else some (.inr { as := as, vbase := va / sz * sz, size := sz, pbase := base, rd := b 2, wr := b 3, cw := b 4,
                        mg := b 7, hr := b 8, ws := b 9 })
  else if lvl == 1 || pfn ≥ 0x10000000000 || !backedRange pfn 4096 then none
  else some (.inl pfn)

/-- The index of the entry that a walk uses where `idx` of a table is named: of the 16 entries of a 64 KiB page any one may be used
(R416), and which is a free value; software keeps them equal. -/
def entryUsed (s : State) (va lvl table idx : Nat) : Nat :=
  let e := rdN s (table + 8 * idx) 8
  if lvl == 1 && nbits e 0 2 == 3 && nbits e 6 1 == 1 then idx / 16 * 16 + Config.pageEntry s.clock va % 16 else idx

/-- The walk from a table at a level (R415, R417). -/
def walkFrom (s : State) (as va : Nat) : Nat → Nat → WalkRes
  | 0, _ => .absent 1
  | lvl + 1, table =>
    let n := entryUsed s va (lvl + 1) table (nbits va (12 + 9 * lvl) 9)
    match pteAt as va (lvl + 1) n (rdN s (table + 8 * n) 8) with
    | none => .absent (lvl + 1)
    | some (.inr l) => .leaf l (lvl + 1)
    | some (.inl t) => walkFrom s as va lvl t

/-- The whole walk of a virtual address. -/
def walkPage (s : State) (as va : Nat) : WalkRes :=
  let r := (asOf s as).effRoot
  if backedRange r 4096 then walkFrom s as va 5 r else .absent 5

/-- The root in use of an address space names an unbacked address (R413). -/
def rootUnbacked (s : State) (as : Nat) : Bool := !backedRange (asOf s as).effRoot 4096

/-- What a translation is for (R417). -/
inductive Access where
  | read | write | atomic
deriving DecidableEq, Repr

/-- A failed check: the fault's code and its record's flags, level and address (R418, R427). -/
structure XFault where
  kind : Nat
  flg : Nat
  lvl : Nat
  va : Nat
deriving DecidableEq, Repr

/-- A translated address, with its leaf unless a range gave it. -/
structure XAddr where
  phys : Nat
  leaf : Option Leaf
  hr : Bool
deriving DecidableEq, Repr

/-- The permission checks of R418 rows 2 to 6, on a leaf or a range. R165 names WORLD before the translation and permission faults; the
order of R418's table, in which a migrating leaf faults first, is followed here (log entry 86). -/
def permFault (acc : Access) (sec rd wr cw mg ws : Bool) (hit : Nat) (va : Nat) : Option XFault :=
  let wrt := acc != .read
  let need := acc != .write
  if mg then some ⟨0x01, 4 + hit, 0, va⟩
  else if ws != sec then some ⟨0x1A, hit, 0, va⟩
  else if need && !rd then some ⟨0x02, hit, 0, va⟩
  else if wrt && !wr then some ⟨0x02, 1 + hit, 0, va⟩
  else if wrt && cw then some ⟨0x02, 3 + hit, 0, va⟩
  else none

/-- A host address lies in a registered region (R423). -/
def regionOf (a : Nat) : Nat := (a % 2 ^ 51) / 2 ^ 21

/-- The registered region of a number. -/
def findRegion (s : State) (n : Nat) : Option Region := s.tr.regions.find? fun r => r.num == n

/-- The checks on a leaf (R418), for an access of `n` bytes at `va`. -/
def leafCheck (s : State) (acc : Access) (sec : Bool) (l : Leaf) (va : Nat) : Except XFault XAddr :=
  match permFault acc sec l.rd l.wr l.cw l.mg l.ws 0 va with
  | some f => .error f
  | none =>
    let p := l.pbase + (va - l.vbase)
    let p := if l.hr then 2 ^ 51 + p % 2 ^ 51 else p
    if l.hr && (findRegion s (regionOf p)).isNone then .error ⟨0x01, 16, 0, va⟩
    else .ok ⟨p, some l, l.hr⟩

/-- The checks on a range hit (R418). A range may reach host memory, whose region must be registered as that of a leaf (R423). -/
def rangeCheck (s : State) (acc : Access) (sec : Bool) (r : RangeEnt) (va : Nat) : Except XFault XAddr :=
  let p := r.pbase + (va - r.vbase)
  match permFault acc sec r.rd r.wr false false r.ws 32 va with
  | some f => .error f
  | none => if isHost p && (findRegion s (regionOf p)).isNone then .error ⟨0x01, 48, 0, va⟩ else .ok ⟨p, none, isHost p⟩

/-- A check that fails after a walk has found the leaf names the leaf's level (R427). -/
def atLevel (lvl : Nat) (r : Except XFault XAddr) : Except XFault XAddr := r.mapError fun e => { e with lvl := lvl }

/-- The leaf that a TLB holds for a virtual address. -/
def tlbFind (t : List Leaf) (as va : Nat) : Option Leaf :=
  t.find? fun l => l.as == as && l.vbase ≤ va && va < l.vbase + l.size

/-- Puts a leaf into a TLB of `n` entries, evicting the least recently used (R417). -/
def tlbPut (n : Nat) (t : List Leaf) (l : Leaf) : List Leaf :=
  let t := t.filter (fun m => m != l)
  (if t.length ≥ n then t.drop (t.length + 1 - n) else t) ++ [l]

/-- A translation by a range set and the address space, without any page TLB. -/
def translateBy (rs : List RangeEnt) (s : State) (as : Nat) (sec : Bool) (acc : Access) (va : Nat) : Except XFault XAddr :=
  if !(asOf s as).v then .error ⟨0x01, 0, 0, va⟩
  else match rangeIn rs va with
  | some r => rangeCheck s acc sec r va
  | none =>
    match walkPage s as va with
    | .absent lvl => .error ⟨0x01, 0, lvl, va⟩
    | .leaf l lvl => atLevel lvl (leafCheck s acc sec l va)

/-- A translation of an access that the device makes for a context: its record areas, its shadow and fault pages, its engines'
look-ahead. -/
def translateNow (s : State) (x : Ctx) (acc : Access) (va : Nat) : Except XFault XAddr :=
  translateBy (ctxRanges s x) s x.as (isSecure x) acc va

/-- A translation of an access of the yard or the loader, which stand outside every paddock. -/
def translateDev (s : State) (as : Nat) (sec : Bool) (acc : Access) (va : Nat) : Except XFault XAddr :=
  translateBy (rangeSet s (asOf s as)) s as sec acc va

/-- Puts the range set of an address space into a die's L2 TLB of 256 range entries, evicting whole sets, the least recently used
first (R24, R414). -/
def l2Ranges (as : Nat) (rs : List RangeEnt) (t : List (Nat × List RangeEnt)) : List (Nat × List RangeEnt) :=
  let keep := (t.filter fun e => e.1 != as).foldr
    (fun e r => if (r.map fun k => k.2.length).sum + e.2.length + rs.length ≤ 256 then e :: r else r) []
  keep ++ [(as, rs)]

end Sys2Proof.Machine
end

