-- ==== Sys2Proof/Machine/Ops.lean ====
section
/-!
DEFINITION. The named operations the meanings share: contexts and coordinates (R7, R14, R18), groups and commit keys
(R77, R177, R370 to R373), tokens and their emission (R36, R59), orphans, commit points (R76), imprecise errors (R467),
and taking a precise fault (R424 to R430) with the return from one.
-/

namespace Sys2Proof.Machine

open Sys2Proof

/-! ### Contexts and coordinates -/

/-- No freeze reason. -/
def noFrz : Frz := { fault := false, purge := false, preempt := false, budget := false, superv := false }

/-- A context with every register at its reset value (R397, R204). -/
def ctxReset : Ctx :=
  { id := 0, cst := .killed, frz := noFrz, freezing := false, rcnt := 0, cerr := false, splBase := 0, splLog := 12, shd := 0,
    shs := 0, crb := 0, frp := 0, hmp := 0, srg := 1, ecnt := 0, esat := false, ebud := 0, wchg := 0, ctb := 0, rvb := 0,
    hbase := 0, hsize := 0, htop := 0, htopw := false, nextidx := 1, queue := 0, seq := 0, die := 0, as := 0, world := 0, flg := 0, pw := 0, ph := 0,
    part := 0, prio := 0, img := 0, arg := 0, sgnl := 0, place := [], members := [], member := 0, key := 0, digest := [],
    cached := false, groups := [], residence := 0, charged := 0, fseq := 0, orph := 0, exits := [], xcode := 0, xkind := 0, fcp := 0,
    marker := none, frec := none, purges := [], recs := [], reconf := none, loadStage := 0,
    savedAt := 0, home := 0, phases := [], shares := [], syncs := [], byYard := false, budHit := false, rcache := [], ldie := 0, rset := none, prim := none,
    dying := false }

/-- The context of an id; reset registers where there is none. -/
def ctxOf (s : State) (c : Nat) : Ctx := (s.ctxs.find? fun x => x.id == c).getD ctxReset

/-- Changes the context of an id. -/
def updCtx (s : State) (c : Nat) (f : Ctx → Ctx) : State :=
  { s with ctxs := s.ctxs.map fun x => if x.id == c then f x else x }

/-- The context has not ended (R390). -/
def isLive (x : Ctx) : Bool := x.cst != .exited && x.cst != .killed

/-- The context holds its id: it has not ended, or its kill is not complete (R390, R398). -/
def holdsId (x : Ctx) : Bool := isLive x || x.dying

/-- The context covers units of the fabric (R461, R404): RESIDENT-RUNNING, FROZEN or DRAINING. -/
def isResident (x : Ctx) : Bool := x.cst == .running || x.cst == .frozen || x.cst == .draining

/-- The context's barriers complete, release and retry: its paddock runs or drains and is not frozen (R227). -/
def barsRun (x : Ctx) : Bool := x.cst == .running || x.cst == .draining

/-- The units of the context are not free for another: it covers them, or its kill is not complete (R398). -/
def occupies (x : Ctx) : Bool := isResident x || x.dying

/-- The context is RESIDENT-RUNNING, a freeze completing included. -/
def isRunning (x : Ctx) : Bool := x.cst == .running

/-- The stop of an EXIT has not yet reached every unit (R369): `freezing` in DRAINING. -/
def isStopping (x : Ctx) : Bool := x.cst == .draining && x.freezing

/-- The tokens of the context move and its units accept work: not after a stop of EXIT or a kill (R369, R398). -/
def emitsTokens (x : Ctx) : Bool := x.cst == .running || x.cst == .frozen || isStopping x

/-- The launch is REDUNDANT (R381). -/
def isRedundant (x : Ctx) : Bool := nbits x.flg 0 1 == 1

/-- The launch is an OUTING (R381). -/
def isOuting (x : Ctx) : Bool := nbits x.flg 1 1 == 1

/-- The width of the whole paddock in columns: that of one module, times the members of an outing (R442). -/
def padW (x : Ctx) : Nat := 4 * x.pw * max 1 x.members.length

/-- The first paddock column that this module holds (R442). -/
def ownCol (x : Ctx) : Nat := 4 * x.pw * x.member

/-- The paddock-relative site lies in the paddock. -/
def inPaddock (x : Ctx) (cx cy : Nat) : Bool := cx < padW x && cy < x.ph

/-- The column lies on this module's part of the paddock. -/
def onModule (x : Ctx) (cx : Nat) : Bool := ownCol x ≤ cx && cx < ownCol x + 4 * x.pw

/-- The column holds an MU (R15). -/
def isMu (cx : Nat) : Bool := cx % 4 == 3

/-- The home MU of a unit: the MU of its own period and row (R15). -/
def muOf (u : UId) : UId := { u with x := u.x / 4 * 4 + 3 }

/-- A site of the same paddock copy. -/
def siteOf (u : UId) (x y : Nat) : UId := { u with x := x, y := y }

/-- The MU (3, 0) of a paddock copy, where the colour, capability and energy units act (R73, R204, R403). -/
def hubOf (u : UId) : UId := { u with x := 3, y := 0 }

/-- The module coordinate of a unit (R14). -/
def modPos (s : State) (u : UId) : Nat × Nat :=
  let x := ctxOf s u.ctx
  let p := x.place.getD u.copy { mx := 0, my := 0 }
  (p.mx + (u.x - ownCol x), p.my + u.y)

/-- The die of a module coordinate (R14). -/
def dieAt (p : Nat × Nat) : Nat := p.1 / 56 + 4 * (p.2 / 48)

/-- The die that holds a unit. -/
def dieOf (s : State) (u : UId) : Nat := dieAt (modPos s u)

/-- The physical site (0 to 23,039) of a module coordinate, by the row's remap (R18, R462). -/
def physAt (s : State) (p : Nat × Nat) : Nat :=
  let d := dieAt p
  let row := p.2 % 48
  let k := p.1 % 56 / 4
  let j := fget 15 s.un.remap (d * 48 + row)
  let kp := if j ≤ k then k + 1 else k
  d * 2880 + row * 60 + 4 * kp + p.1 % 4

/-- The physical site of a unit: what a site keeps beyond its contexts stands under it (R16, R70, R198, R226, R478). -/
def siteKey (s : State) (u : UId) : Nat := physAt s (modPos s u)

/-- A unit's coordinates counted from the origin of its die: the absolute ones of R7. -/
def diePos (s : State) (u : UId) : Nat × Nat := ((modPos s u).1 % 56, (modPos s u).2 % 48)

/-- The context's units cover a module coordinate. -/
def coversPos (x : Ctx) (p : Nat × Nat) : Bool :=
  occupies x && x.place.any fun o => o.mx ≤ p.1 && p.1 < o.mx + 4 * x.pw && o.my ≤ p.2 && p.2 < o.my + x.ph

/-- The sites of a paddock that this module holds, in increasing y, then x. -/
def sitesOf (x : Ctx) : List (Nat × Nat) :=
  (List.range x.ph).flatMap fun y => (List.range (4 * x.pw)).map fun cx => (ownCol x + cx, y)

/-- The paddock copies of a context (R470). -/
def copiesOf (x : Ctx) : List Nat := if isRedundant x then [0, 1] else [0]

/-- The units of a context. -/
def unitsOf (x : Ctx) : List UId :=
  (copiesOf x).flatMap fun k => (sitesOf x).map fun p => { ctx := x.id, copy := k, x := p.1, y := p.2 }

/-! ### Groups and commit keys -/

/-- The declaration of a level (R370). -/
def groupAt (x : Ctx) (l : Nat) : Option GroupDecl := x.groups.find? fun g => g.lvl == l

/-- The declared levels from the coarsest (1) to the finest (R371). -/
def levelsOf (x : Ctx) : List GroupDecl := (List.range 8).filterMap fun l => if l == 0 then none else groupAt x l

/-- The group of a site at a declaration (R372): its column and row of groups. -/
def groupXY (g : GroupDecl) (cx cy : Nat) : Nat × Nat := (cx / 4 / g.gw, cy / g.gh)

/-- The number of groups across at a level (R372); the groups of an outing tile its whole width (R374). -/
def groupsAcross (x : Ctx) (g : GroupDecl) : Nat := (padW x / 4 + g.gw - 1) / g.gw

/-- The parent of a level: the declared level just below it, none for the paddock (R371). -/
def parentOf (x : Ctx) (l : Nat) : Option GroupDecl := ((levelsOf x).filter fun g => g.lvl < l).getLast?

/-- The linear index of a site's group (R373). -/
def linIndex (x : Ctx) (g : GroupDecl) (cx cy : Nat) : Nat :=
  (groupXY g cx cy).2 * groupsAcross x g + (groupXY g cx cy).1

/-- The index of a site's group within its parent (R373). -/
def parIndex (x : Ctx) (g : GroupDecl) (cx cy : Nat) : Nat :=
  match parentOf x g.lvl with
  | none => linIndex x g cx cy
  | some p => (cy % p.gh / g.gh) * (p.gw / g.gw) + (cx / 4 % p.gw / g.gw)

/-- The site index within its group at a declaration, the paddock for none (R373, R376). -/
def siteIndex (x : Ctx) (g : Option GroupDecl) (cx cy : Nat) : Nat :=
  match g with
  | none => cy * padW x + cx
  | some g => (cy % g.gh) * (4 * g.gw) + cx % (4 * g.gw)

/-- The group path of a site (R177, R373). -/
def groupPath (x : Ctx) (cx cy : Nat) : List Nat :=
  (levelsOf x).map (fun g => parIndex x g cx cy) ++ [siteIndex x (levelsOf x).getLast? cx cy]

/-- Two sites lie in one group at a level; level 0 is the paddock (R216). -/
def sameGroup (x : Ctx) (l : Nat) (ax ay bx byy : Nat) : Bool :=
  if l == 0 then true
  else match groupAt x l with
  | none => false
  | some g => groupXY g ax ay == groupXY g bx byy

/-- The call record of a colour of a copy (R74). -/
def recOf (x : Ctx) (k c : Nat) : Option CallRec := x.recs.find? fun r => r.copy == k && r.col == c

/-- Changes the call record of a colour. -/
def updRec (s : State) (cid k c : Nat) (f : CallRec → CallRec) : State :=
  updCtx s cid fun x => { x with recs := x.recs.map fun r => if r.copy == k && r.col == c then f r else r }

/-- The spawn path of a colour (R77), each element as one number in the order (SY, SX, SS, PITR). -/
def spawnPath (x : Ctx) (k : Nat) : Nat → Nat → List Nat
  | 0, _ => []
  | n + 1, c =>
    if c == 0 then []
    else match recOf x k c with
    | none => []
    | some r => spawnPath x k n r.pcol ++ [((r.sy * 256 + r.sx) * 128 + r.ss) * 65536 + r.pitr]

/-- Lexicographic comparison in which a shorter list that begins a longer one comes first (R77). -/
def lexCmp : List Nat → List Nat → Ordering
  | [], [] => .eq
  | [], _ :: _ => .lt
  | _ :: _, [] => .gt
  | a :: as, b :: bs => if a < b then .lt else if b < a then .gt else lexCmp as bs

/-- Sequence comparison modulo 2^16 (R68): a is older than b. -/
def olderSeq (a b : Nat) : Bool := a % 65536 != b % 65536 && (b + 65536 - a % 65536) % 65536 < 32768

/-- Chooses the first comparison that is not equality. -/
def thenCmp (a b : Ordering) : Ordering := match a with | .eq => b | o => o

/-- The commit key's first four fields compared (R177): group path, colour order, ITR, SS. -/
def keyCmp (x : Ctx) (k sx sy col itr ss tx ty dol jtr tt : Nat) : Ordering :=
  thenCmp (lexCmp (groupPath x sx sy) (groupPath x tx ty))
    (thenCmp (lexCmp (spawnPath x k 4096 col) (spawnPath x k 4096 dol)) (thenCmp (compare itr jtr) (compare ss tt)))

/-! ### Ports between modules (R434 to R443) -/

/-- A Ryenxon port at reset (R437, R438). -/
def rxReset : RxPort :=
  { lst := .disabled, pen := false, lns := 0, hlf := false, peer := 0, pv := false, rply := 0, rtn := 0, pws := true, plk := false, plkd := false,
    win := none, since := 0, fsq := 0, rx := 0, tx := [], nak := false }

/-- A Ryenxon port. -/
def rxOf (s : State) (p : Nat) : RxPort := fget rxReset s.lk.ports p

/-- Changes a Ryenxon port. -/
def updRx (s : State) (p : Nat) (f : RxPort → RxPort) : State :=
  { s with lk := { s.lk with ports := fset rxReset s.lk.ports p (f (rxOf s p)) } }

/-- A port is usable while it is UP, DEGRADED or RETRYING (R439). -/
def linkUsable : LinkSt → Bool
  | .up => true | .degraded => true | .retrying => true | _ => false

/-- The usable ports to a peer module that belong to a world (R437). -/
def usablePorts (s : State) (sec : Bool) (peer : Nat) : List Nat :=
  (s.lk.ports.filter fun e => linkUsable e.2.lst && e.2.pv && e.2.peer == peer && e.2.pws == sec).map fun e => e.1

/-- The member of an outing that holds a paddock column. -/
def memberAt (x : Ctx) (cx : Nat) : Nat := cx / (4 * x.pw)

/-- The module id of a member (R441). -/
def memberMid (x : Ctx) (k : Nat) : Nat := x.members.getD k 0

/-- The context of what crosses to another module. -/
def cargoCtx : Cargo → Nat
  | .token f => f.u.ctx
  | .request m _ _ _ _ => m.ctx
  | .data k _ _ _ => k.src.ctx
  | .msg (.credit u _ _ _ _) => u.ctx
  | .msg (.ack u _ _ _ _) => u.ctx
  | .msg (.release u _ _) => u.ctx
  | .msg (.slotReturn u _ _ _) => u.ctx
  | .msg (.bind u _ _) => u.ctx
  | .msg (.bound u _ _ _ _ _ _ _) => u.ctx
  | .msg (.stop c _ _) => c
  | .msg (.error u _ _) => u.ctx
  | .msg (.errorAck u _ _) => u.ctx
  | .msg (.emit u _ _ _ _ _ _ _) => u.ctx
  | .msg (.config _ u _ _ _ _ _) => u.ctx
  | .msg (.refused u _) => u.ctx
  | .msg (.write u _) => u.ctx
  | .msg (.energy c _) => c
  | .msg (.wear c _) => c
  | .msg (.record c _) => c
  | .msg (.commitPoint c _ _) => c
  | .msg (.purge c _ _) => c
  | .msg (.sweep c _ _) => c
  | .msg (.resend c _ _ _) => c
  | .msg (.phase c _) => c
  | .msg (.reinject f) => f.u.ctx
  | .msg (.reconf c _ _) => c
  | .msg (.sync c _ _) => c
  | .msg (.commit u _ _) => u.ctx
  | .msg (.committed u _) => u.ctx
  | .msg (.yieldOn u _ _ _ _ _ _ _ _) => u.ctx
  | .msg (.ended c _ _ _ _) => c
  | .msg (.depWait w _ _) => nbits w 30 9
  | .msg (.depDone w _ _) => nbits w 30 9
  | .msg (.depSignal w _ _) => nbits w 30 9

/-- The port that a flit takes (R437): that of its copy, or the next in turn. -/
def choosePort (turn : Nat) (ps : List Nat) (c : Cargo) : Option Nat :=
  match c with
  | .data _ p _ _ => if ps.contains p then some p else none
  | _ => ps[turn % max 1 ps.length]?

/-- Puts a flit on a port, with its link and transport sequence numbers (R435, R436). -/
def putFlit (s : State) (p peer : Nat) (c : Cargo) : State :=
  let n := fget 0 s.lk.txTsq peer
  let data := match c with | .data _ _ _ _ => true | _ => false
  let s := updRx s p fun q => { q with fsq := (q.fsq + 1) % 4096, since := if q.tx.isEmpty then s.clock else q.since,
                                       tx := q.tx ++ [{ fsq := q.fsq, tsq := n, tries := 0, peer := peer, wait := none, cargo := c }] }
  { s with lk := { s.lk with turn := if data then s.lk.turn else s.lk.turn + 1,
                             txTsq := if data then s.lk.txTsq else fset 0 s.lk.txTsq peer ((n + 1) % 2 ^ 32) } }

/-- One thing that waits to leave: it takes a usable port whose replay buffer has room (R435, R437), or goes on waiting. -/
def sendOne (s : State) (e : Nat × Nat × Cargo) : State :=
  let ps := (usablePorts s (isSecure (ctxOf s (cargoCtx e.2.2))) e.1).filter fun p => (rxOf s p).tx.length < 512
  match choosePort s.lk.turn ps e.2.2 with
  | some p => putFlit s p e.1 e.2.2
  | none => { s with lk := { s.lk with egress := s.lk.egress ++ [e] } }

/-- Sends something to a member of an outing. -/
def sendOut (s : State) (x : Ctx) (member : Nat) (c : Cargo) : State := sendOne s (memberMid x member, s.clock, c)

/-- What a member of an outing sends to every other one. -/
def tellMembers (s : State) (c : Nat) (m : LinkMsg) : State :=
  let x := ctxOf s c
  ((List.range x.members.length).filter (· != x.member)).foldl (fun s k => sendOut s x k (.msg m)) s

/-- The colour, capability and energy units of a context stand on this module (R403). -/
def hubHere (x : Ctx) : Bool := x.member == 0

/-- A part of a copy's chunk. -/
def isData : Cargo → Bool
  | .data _ _ _ _ => true
  | _ => false

/-- Whatever waits and may go now leaves, in order. -/
def flushEgress (s : State) : State := s.lk.egress.foldl sendOne { s with lk := { s.lk with egress := [] } }

/-! ### Tokens -/

/-- The kind codes of R58. -/
def kValue : BitVec 3 := 0
/-- Null. -/
def kNull : BitVec 3 := 1
/-- End-of-fibre. -/
def kEof : BitVec 3 := 2
/-- Config. -/
def kConfig : BitVec 3 := 3
/-- Fault marker. -/
def kMarker : BitVec 3 := 5
/-- Reply. -/
def kReply : BitVec 3 := 6

/-- A value or reply token. -/
def isVal (t : Flit) : Bool := t.kind == kValue || t.kind == kReply
/-- A null token. -/
def isNull (t : Flit) : Bool := t.kind == kNull
/-- An end-of-fibre token. -/
def isEof (t : Flit) : Bool := t.kind == kEof

/-- The route identifier of R40. -/
def ridOf (key : BitVec 8) (stn : BitVec 7) (pos : BitVec 2) : BitVec 8 :=
  key ^^^ (stn.setWidth 8) ^^^ (BitVec.ofNat 8 (pos.toNat * 64))

/-- The token flit of R57 as 160 bits. -/
def packFlit (t : Flit) : BitVec 160 :=
  t.rsv ++ bitOf t.chn ++ t.dy ++ t.dx ++ t.rid ++ t.res ++ t.itr ++ t.col ++ t.ctx ++ t.stn ++ t.pos ++ t.kind ++ t.val

/-- The flit of 160 bits (R57). -/
def unpackFlit (b : BitVec 160) : Flit :=
  { val := b.extractLsb' 0 64, kind := b.extractLsb' 64 3, pos := b.extractLsb' 67 2, stn := b.extractLsb' 69 7,
    ctx := b.extractLsb' 76 9, col := b.extractLsb' 85 12, itr := b.extractLsb' 97 16, res := b.extractLsb' 113 4,
    rid := b.extractLsb' 117 8, dx := b.extractLsb' 125 8, dy := b.extractLsb' 133 8, chn := b.getLsbD 141,
    rsv := b.extractLsb' 142 18 }

/-- The route entry RTn of a CU (R38). -/
def routeEnt (s : State) (u : UId) (n : Nat) : BitVec 32 := fget 0 s.routes (uKey u * 8 + n)

/-- A coordinate displaced by a signed amount. -/
def displace (a : Nat) (d : Int) : Nat := ((a : Int) + d).toNat

/-- The site that a route of a CU reaches (R36). -/
def routeDest (s : State) (u : UId) (n : Nat) : UId :=
  if n == 0 then u
  else if n == 7 then muOf u
  else
    let e := routeEnt s u n
    siteOf u (displace u.x (e.extractLsb' 0 8).toInt) (displace u.y (e.extractLsb' 8 8).toInt)

/-- The position of a target field (R35). -/
def tgtPos (t : BitVec 12) : Nat := nbits t.toNat 10 2
/-- The route of a target field. -/
def tgtRoute (t : BitVec 12) : Nat := nbits t.toNat 7 3
/-- The station of a target field. -/
def tgtStn (t : BitVec 12) : Nat := nbits t.toNat 0 7

/-- Sends a formed flit from the unit `src` to the unit `d`, with what goes beside a config token; `own` when it goes to a station of
the CU it comes from and does not pass the switch (R36). -/
def sendFlit (s : State) (src d : UId) (own : Bool) (t : Flit) (l : Option CfgLoad) : State :=
  if own then { s with fab := { s.fab with arrivals := s.fab.arrivals ++ [{ u := d, own := true, tok := t, cfg := l }] } }
  else
    let rx : Int := (d.x : Int) - src.x
    let ry : Int := (d.y : Int) - src.y
    { s with fab := { s.fab with flights := s.fab.flights ++
        [{ u := src, port := .loc, rx := rx, ry := ry, tok := { t with dx := BitVec.ofInt 8 rx, dy := BitVec.ofInt 8 ry }, cfg := l }] } }

/-- Sends a formed token. -/
def sendTok (s : State) (src d : UId) (own : Bool) (t : Flit) : State := sendFlit s src d own t none

/-- The token that emit forms (R59); a null token carries value 0 (R58). -/
def mkTok (key : BitVec 8) (ctx col itr : Nat) (t : BitVec 12) (kind : BitVec 3) (v : Word) (chn : Bool) : Flit :=
  let v := if kind == kNull then 0 else v
  let stn := BitVec.ofNat 7 (tgtStn t)
  let pos := BitVec.ofNat 2 (tgtPos t)
  { val := v, kind := kind, pos := pos, stn := stn, ctx := BitVec.ofNat 9 ctx, col := BitVec.ofNat 12 col,
    itr := BitVec.ofNat 16 itr, res := res15 v, rid := ridOf key stn pos, dx := 0, dy := 0, chn := chn, rsv := 0 }

/-- Emits a token to a target field of the CU `u`, from the unit `src` that sends it (R36, R59, R186). The targets of a CU of another member are that
member's to resolve. Nothing is sent to a
discarded target, and nothing once the context's stop has been sent (R369, R398). -/
def emitFrom (s : State) (src u : UId) (col itr : Nat) (t : BitVec 12) (kind : BitVec 3) (v : Word) (chn : Bool) : State :=
  let x := ctxOf s u.ctx
  if tgtPos t == 3 || !emitsTokens x then s
  else if !onModule x u.x then sendOut s x (memberAt x u.x) (.msg (.emit src u col itr t kind v chn))
  else
    let d := routeDest s u (tgtRoute t)
    sendTok s src d (tgtRoute t == 0 && src == u) (mkTok x.key u.ctx col itr t kind v chn)

/-- The colour of a firing: that of its L token (R60). -/
def fcol (F : Ready) : Nat := F.l.col.toNat
/-- The iteration of a firing. -/
def fitr (F : Ready) : Nat := F.l.itr.toNat

/-- A config token (R362) for the object that a target's STN names, K register or station, goes from the unit `src` through a route of the CU `u`,
whose routes its own member resolves. It carries the tag of its firing. -/
def sendConfig (s : State) (src u : UId) (col itr : Nat) (t : BitVec 12) (v : Word) (l : CfgLoad) : State :=
  let x := ctxOf s u.ctx
  if !emitsTokens x then s
  else if !onModule x u.x then sendOut s x (memberAt x u.x) (.msg (.config src u col itr t v l))
  else
    let d := routeDest s u (tgtRoute t)
    sendFlit s src d (tgtRoute t == 0 && src == u) (mkTok x.key u.ctx col itr t kConfig v false) (some l)

/-- emit of R59 for a firing of a CU. -/
def emit (F : Ready) (t : BitVec 12) (kind : BitVec 3) (v : Word) (s : State) : State :=
  emitFrom s F.u F.u (fcol F) (fitr F) t kind v false

/-- Emits a token with the firing's tag to both targets, TA first (R37). -/
def emitBoth (f : Fields) (F : Ready) (kind : BitVec 3) (v : Word) (s : State) : State :=
  emit F f.tb kind v (emit F f.ta kind v s)

/-- Emits the token `t`, keeping its kind and value, to both targets. -/
def emitTok (f : Fields) (F : Ready) (t : Flit) (s : State) : State := emitBoth f F t.kind t.val s

/-- A reply of an MU, or of another unit, to both targets of a firing (R186). -/
def replyBoth (src : UId) (f : Fields) (F : Ready) (v w : Word) (s : State) : State :=
  emitFrom (emitFrom s src F.u (fcol F) (fitr F) f.ta kReply v false) src F.u (fcol F) (fitr F) f.tb kReply w false

/-- The twin's firing of a matched commit point (R471): the same site, station and iteration in the other copy. -/
def twinOf (F : Ready) : Option Ready :=
  F.pair.map fun c => { F with u := { F.u with copy := 1 - F.u.copy }, l := { F.l with col := BitVec.ofNat 12 c }, pair := none }

/-- A reply of something outside the paddock, which both copies of a REDUNDANT context receive (R471). -/
def replyPair (src : UId) (f : Fields) (F : Ready) (v w : Word) (s : State) : State :=
  let s := replyBoth src f F v w s
  match twinOf F with
  | some G => replyBoth { src with copy := G.u.copy } f G v w s
  | none => s

/-- An effect outside the paddock is performed once, by the primary (R471): the twin's firing has none of its own. -/
def once (body : Ready → State → State) (F : Ready) (s : State) : State := if F.u.copy == 0 then body F s else s

/-! ### Orphans, commit points and imprecise errors -/

/-- Counts orphans, which stop at 65,535 (R369). -/
def addOrph (s : State) (c n : Nat) : State := updCtx s c fun x => { x with orph := min 65535 (x.orph + n) }

/-- The tokens of a firing. -/
def opsOf (F : Ready) : List Flit := F.l :: (F.r.toList ++ F.p.toList)

/-- The lifetime record of a site with nothing recorded (R462). -/
def lifeReset : Life :=
  { lwear := 0, frac := 0, ust := 0, ufc := 0, win := none, stp := false, usf := 16, kept := 0, unflushed := 0 }

/-- The lifetime record of a physical site. -/
def lifeOf (s : State) (p : Nat) : Life := fget lifeReset s.un.life p

/-- The wear that the lifetime record holds: what the last flush wrote (R462). -/
def lifeWear (l : Life) : Nat := l.lwear - l.unflushed

/-- What the lifetime record holds of a unit: its flushed wear and its state, without what the unit alone keeps (R462). -/
def lifeRecord (l : Life) : Life := { l with lwear := l.lwear - l.unflushed, frac := 0, unflushed := 0 }

/-- Changes the lifetime record of a physical site, and its mirror on I/O die 1 (R22). -/
def updLife (s : State) (p : Nat) (f : Life → Life) : State :=
  let l := f (lifeOf s p)
  { s with un := { s.un with life := fset lifeReset s.un.life p l, mirror := fset lifeReset s.un.mirror p (lifeRecord l) } }

/-- A window of 10^9 cycles is over (R438, R466). -/
def windowOver (s : State) (w : Option Nat) : Bool := match w with | some t => t + 10 ^ 9 ≤ s.clock | none => false

/-- A failure charged to a unit (R466): UFC counts it, a window opens at the first, or at the first after one is over, and the third quarantines the
unit, keeping its wear stage. -/
def unitFailure (s : State) (p : Nat) : State :=
  updLife s p fun l =>
    let first := l.ufc == 0 || windowOver s l.win
    let n := if first then 1 else min 3 (l.ufc + 1)
    let l := { l with ufc := n, win := if first then some s.clock else l.win }
    if n == 3 && l.ust ≤ 1 then { l with ust := 4, kept := l.ust, stp := false } else l

/-- trap(KIND) of R11: an imprecise error is recorded against a colour, and its message leaves for the colour unit (R467). A
RESIDUE or ROUTE failure is charged to the detecting unit's site (R466). -/
def trapErr (s : State) (u : UId) (col kind : Nat) : State :=
  let s := { s with un := { s.un with errs := s.un.errs ++ [{ u := u, col := col, kind := kind, reply := [] }] } }
  if kind == 0x10 || kind == 0x11 then unitFailure s (physAt s (modPos s u)) else s

/-- An uncorrectable error stands in one of `n` bytes of memory from a location (R469, log entry 17). -/
def upsetIn (s : State) (lo n : Nat) : Bool :=
  s.un.upsets.any fun e => match e with
    | .line l => lo < 64 * l + 64 && 64 * l < lo + n
    | _ => false

/-- A read that has consumed an uncorrectable error records it against a colour (R467, R469). -/
def noteRead (s : State) (u : UId) (col : Nat) (bad : Bool) : State := if bad then trapErr s u col 0x12 else s

/-- A walk from a table reads an entry that holds an uncorrectable error (R415, R469). -/
def walkUpsetFrom (s : State) (as va : Nat) : Nat → Nat → Bool
  | 0, _ => false
  | lvl + 1, table =>
    let n := entryUsed s va (lvl + 1) table (nbits va (12 + 9 * lvl) 9)
    upsetIn s (table + 8 * n) 8 ||
      (match pteAt as va (lvl + 1) n (rdN s (table + 8 * n) 8) with
       | some (.inl t) => walkUpsetFrom s as va lvl t
       | _ => false)

/-- The walk of a virtual address reads an entry that holds an uncorrectable error. -/
def walkUpset (s : State) (as va : Nat) : Bool :=
  !s.un.upsets.isEmpty && backedRange (asOf s as).effRoot 4096 && walkUpsetFrom s as va 5 (asOf s as).effRoot

/-! ### Energy -/

/-- The reset energy weights of R406, in 1/256 pJ: EW0 to EW9, SWCU, SWMU. -/
def ewReset (k : Nat) : Nat :=
  [0x100, 0x180, 0x400, 0x300, 0x800, 0x600, 0x1800, 0x1000, 0xC00, 0x11680, 0x800, 0x1000].getD k 0

/-- An energy weight of a die (R406). The map holds the difference from the reset value by holding written values plus
one. -/
def ewOf (s : State) (die k : Nat) : Nat :=
  match fget 0 s.un.ew (die * 16 + k) with
  | 0 => ewReset k
  | n + 1 => n

/-- Charges a unit with `n` times a class weight of its die (R403); the charge waits there to be forwarded. -/
def charge (s : State) (u : UId) (k n : Nat) : State :=
  let w := ewOf s (dieOf s u) k * n
  { s with fab := { s.fab with charges := fset 0 s.fab.charges (uKey u) (fget 0 s.fab.charges (uKey u) + w) } }

/-- Adds to the energy counter, which stays at its largest value and sets ESAT when an addition would pass it (R405), and notes when it reaches the budget (R388). -/
def addEnergy (x : Ctx) (n : Nat) : Ctx :=
  let e := min (2 ^ 56 - 1) (x.ecnt + n)
  { x with ecnt := e, esat := x.esat || x.ecnt + n ≥ 2 ^ 56,
           budHit := x.budHit || (x.ebud != 0 && x.ecnt < 256 * x.ebud && 256 * x.ebud ≤ e) }

/-! ### Service registers, notices and queues -/

/-- A die's service registers at reset (R479). -/
def dieRegReset : DieReg :=
  { cause := 0, en := 0, hart := 0, mbhd := 0, mbtl := 0, mbn := 0, nsr := 0, wlk := false, wlkd := false, bke := 0, ring := [] }

/-- The service registers of a die. -/
def dieReg (s : State) (d : Nat) : DieReg := fget dieRegReset s.svc.dies d

/-- Changes the service registers of a die. -/
def updDie (s : State) (d : Nat) (f : DieReg → DieReg) : State :=
  { s with svc := { s.svc with dies := fset dieRegReset s.svc.dies d (f (dieReg s d)) } }

/-- The die whose service cores serve for die `d` (R488): the first that was not left out, where `d` was. -/
def standIn (s : State) (d : Nat) : Nat := if s.boot.dies.contains d then d else s.boot.dies.headD d

/-- A start left the die out: it stays in reset (R488). -/
def leftOut (s : State) (d : Nat) : Bool := !s.boot.dies.isEmpty && !s.boot.dies.contains d

/-- Sets a bit of CAUSE (R480). -/
def setCause (s : State) (d b : Nat) : State := updDie s d fun r => { r with cause := r.cause ||| BitVec.ofNat 8 (2 ^ b) }

/-- The dies that the paddock copies of a context touch. -/
def diesOf (x : Ctx) : List Nat :=
  (x.place.flatMap fun p =>
    [p.my, p.my + x.ph - 1].flatMap fun y => [p.mx, p.mx + 4 * x.pw - 1].map fun mx => dieAt (mx, y)).dedup

/-- The range set of an address space as it stands in memory is loaded into the L2 TLBs of some dies (R414); a table at an unbacked address
raises CAUSE[3] on the die `d` (R413). -/
def loadL2 (s : State) (as d : Nat) (ds : List Nat) : State :=
  let rs := loadRanges s (asOf s as)
  let s := asUpd s as fun a => { a with ranges := some rs }
  let s := { s with tr := { s.tr with l2r := ds.foldl (fun m e => fset [] m e (l2Ranges as rs (fget [] m e))) s.tr.l2r } }
  if rangesUnbacked (asOf s as) then setCause s d 3 else s

/-- A placed or restored context's range set is loaded into its paddock's TLBs and its dies' (R414). -/
def placeRanges (s : State) (x : Ctx) : State :=
  let rs := loadRanges s (asOf s x.as)
  updCtx (loadL2 s x.as x.die (diesOf x)) x.id fun y => { y with rset := some rs }

/-- An invalidation of scope RANGES reloads an address space's range set into every TLB that holds it (R420). -/
def reloadRanges (s : State) (as : Nat) : State :=
  let rs := loadRanges s (asOf s as)
  let ds := (s.tr.l2r.filter fun e => e.2.any fun k => k.1 == as).map fun e => e.1
  let t := loadL2 s as 0 ds
  { t with ctxs := t.ctxs.map fun x => if x.as == as && x.rset.isSome then { x with rset := some rs } else x }

/-- The entry at MBTL is in use: the mailbox ring is full (R481). -/
def mboxFull (r : DieReg) : Bool := (fget none r.ring r.mbtl).isSome

/-- Writes an entry at MBTL and advances it (R481). -/
def mboxPush (r : DieReg) (e : MboxEnt) : DieReg :=
  { r with ring := fset none r.ring r.mbtl (some e), mbtl := (r.mbtl + 1) % 4096, mbn := r.mbn + 1 }

/-- A notice of R480: a request with service number 0xFFFF that names its object and its CAUSE bit. -/
def noticeEnt (obj b : Nat) : MboxEnt :=
  { svn := 0xFFFF, na := 0, am := 0, u := ⟨0, 0, 0, 0⟩, col := 0, itr := 0, stn := 0,
    args := [BitVec.ofNat 64 obj, BitVec.ofNat 64 b], ta := 0xC00, tb := 0xC00, posted := true, pair := none }

/-- Sets CAUSE bit 1, 2, 4 or 7 of a die and names its object in the mailbox ring (R480). On a full ring no entry is
written (log entry 20). -/
def notice (s : State) (d b obj : Nat) : State :=
  updDie (setCause s d b) d fun r => if mboxFull r then r else mboxPush r (noticeEnt obj b)

/-- A refusal status word (R47). -/
def statusWord (code field stn x y ent : Nat) : Word :=
  BitVec.ofNat 64 (code + 2 ^ 8 * field + 2 ^ 12 * stn + 2 ^ 19 * x + 2 ^ 27 * y + 2 ^ 34 * ent)

/-- The registers of a queue that is not created (R378). -/
def queueReset : Queue :=
  { created := false, qbase := 0, prio := 0, en := false, susp := false, gle := false, qas := 0, qw := true, logn := 4,
    qnt := 0, lck := false, lckd := false, head := 0, tail := 0, qerr := 0, hs := .fresh, since := 0, waits := [], resume := [] }

/-- A queue of the module. -/
def queueOf (s : State) (q : Nat) : Queue := fget queueReset s.yard.queues q

/-- Changes a queue. -/
def updQueue (s : State) (q : Nat) (f : Queue → Queue) : State :=
  { s with yard := { s.yard with queues := fset queueReset s.yard.queues q (f (queueOf s q)) } }

/-- A queue is suspended with a status in QERR and the supervisor is told (R380, R383). -/
def suspendQueue (s : State) (q : Nat) (st : Word) : State :=
  notice (updQueue s q fun k => { k with qerr := st, susp := true }) (q / 8) 4 q

/-- Refuses the head of a queue (R380): the queue is suspended, and its head will be looked at afresh. -/
def refuseHead (s : State) (q : Nat) (st : Word) : State :=
  updQueue (suspendQueue s q st) q fun k => { k with hs := .fresh, waits := [] }

/-- The MU that a dependence word names (R381): period, row and module within the outing. -/
def depUnit (s : State) (w : Nat) : UId :=
  let c := nbits w 30 9
  { ctx := c, copy := 0, x := 4 * (nbits w 39 8 * (ctxOf s c).pw + nbits w 16 7) + 3, y := nbits w 23 7 }

/-- The location of the slot that a dependence word names. -/
def depSlot (s : State) (w : Nat) : Nat := locUnit (depUnit s w) (16 * nbits w 0 16)

/-- A barrier slot; none where the slot is PLAIN. -/
def barAt (s : State) (loc : Nat) : Option Bar := fget none s.cp.bars loc

/-- Writes a barrier slot's fields. -/
def setBar (s : State) (loc : Nat) (b : Option Bar) : State := { s with cp := { s.cp with bars := fset none s.cp.bars loc b } }

/-- The status DEPEND (R382, R383). -/
def dependStatus : Word := statusWord 0x26 0 0 0 0 0

/-- The counts of a barrier complete its phase (R219). -/
def barDue (b : Bar) : Bool := b.st == .armed && b.pnd == 0 && b.txb == 0

/-- A completed phase (R219, R220): the next one counts, and the commit that the completion owes is still to come. -/
def completed (b : Bar) : Bar := { b with st := .completing, pnd := b.exp, txb := 0, done := b.units, units := [], owed := true }

/-- A slot that takes the arrival of a signal (R383), after the completion that is due (R220) unless `run` says that its paddock is frozen or
saved, in which none is evaluated (R227); none where R230 would refuse it. -/
def signalled (run : Bool) (own : Nat) (b : Bar) : Option Bar :=
  let b := if run && barDue b then completed b else b
  if b.st == .idle || b.pnd == 0 || b.own != own then none else some { b with pnd := b.pnd - 1 }

/-- The slots of a dependence word, one in each copy of its paddock (R470, R471). -/
def depSlots (s : State) (w : Nat) : List Nat :=
  (copiesOf (ctxOf s (nbits w 30 9))).map fun k => locUnit { depUnit s w with copy := k } (16 * nbits w 0 16)

/-- Where the slots of a hamper begin (R399). -/
def slotBase : Nat := 0x10000
/-- The size of a unit slot. -/
def slotSize : Nat := 0x130000

/-- The address of a unit's slot (R399). -/
def slotAddr (x : Ctx) (u : UId) : Nat := x.hmp + slotBase + ((u.copy * x.ph + u.y) * (4 * x.pw) + u.x) * slotSize

/-- The slot of a SAVED context stands in its hamper, from which the restore takes it (R382, R402): the counts follow there. -/
def hamperCount (s : State) (l : Nat) : State :=
  let u := unitAt l
  let x := ctxOf s u.ctx
  match x.cst, barAt s l with
  | .saved, some b => wrN s (slotAddr x u + (l - locUnit u 0) + 2) 2 b.pnd
  | _, _ => s

/-- The arrival of a signal on its slot (R383), in each copy of a REDUNDANT owner: false where R230 would refuse it. -/
def takeSignal (s : State) (w : Nat) : Bool × State :=
  if !isLive (ctxOf s (nbits w 30 9)) then (false, s)
  else
    let go (l : Nat) : Option Bar := (barAt s l).bind (signalled (barsRun (ctxOf s (nbits w 30 9))) (nbits w 30 9))
    if (depSlots s w).all fun l => (go l).isSome then
      (true, (depSlots s w).foldl (fun t l => hamperCount (setBar t l (go l)) l) s)
    else (false, s)

/-- The slot of a dependence word lies on this module. -/
def depHere (s : State) (w : Nat) : Bool :=
  let x := ctxOf s (nbits w 30 9)
  !isLive x || nbits w 39 8 == x.member

/-- The yard's signal at the end of a context (R383): one arrival on SGNL, dropped where R230 would refuse it, which
suspends the queue with DEPEND. -/
def signalExit (s : State) (q w : Nat) : State :=
  if nbits w 63 1 == 0 then s
  else if !depHere s w then
    sendOut s (ctxOf s (nbits w 30 9)) (nbits w 39 8) (.msg (.depSignal w q s.lk.mid))
  else
    let r := takeSignal s w
    if r.1 then r.2 else suspendQueue s q dependStatus

/-! ### Capabilities (R204, R205) -/

/-- A capability table entry (R204). -/
structure CapEnt where
  base : Nat
  len : Nat
  root : Nat
  w : Bool
  v : Bool
deriving DecidableEq, Repr

/-- A device access to virtual memory of a context, outside phasing. -/
def devPhys (s : State) (x : Ctx) (acc : Access) (va : Nat) : Except XFault Nat :=
  (translateNow s x acc va).map fun a => a.phys

/-- The entry whose 16 bytes are the number `n`. -/
def capOfNat (n : Nat) : CapEnt :=
  { base := nbits n 0 57, len := nbits n 64 44, root := nbits n 108 18, w := nbits n 126 1 == 1, v := nbits n 127 1 == 1 }

/-- The 16 bytes of an entry. -/
def capBytes (e : CapEnt) : List Byte :=
  leBytes (e.base + 2 ^ 64 * e.len + 2 ^ 108 * e.root + (if e.w then 2 ^ 126 else 0) + (if e.v then 2 ^ 127 else 0)) 16

/-- What an MU's checker holds of the table: an index and the number that its 16 bytes are (R204). -/
def tabHeld (s : State) (m : UId) : List (Nat × Nat) := fget [] s.mu.capTab (uKey m)

/-- What an MU's checker holds of the bitmap: the number of a 64-byte line and its bytes as a number (R204). -/
def bitHeld (s : State) (m : UId) : List (Nat × Nat) := fget [] s.mu.capBits (uKey m)

/-- The entry of an index, as the checker of an MU sees it: the one it holds, or that of the table in memory. -/
def capEntry (s : State) (m : UId) (i : Nat) : Except XFault CapEnt :=
  match (tabHeld s m).find? fun e => e.1 == i with
  | some e => .ok (capOfNat e.2)
  | none =>
    let x := ctxOf s m.ctx
    (devPhys s x .read (x.ctb + 16 * i)).map fun p => capOfNat (rdN s p 16)

/-- The revocation bit of an index, as the checker of an MU sees it. -/
def capRevoked (s : State) (m : UId) (i : Nat) : Except XFault Bool :=
  match (bitHeld s m).find? fun e => e.1 == i / 512 with
  | some e => .ok (nbits e.2 (i % 512) 1 == 1)
  | none =>
    let x := ctxOf s m.ctx
    (devPhys s x .read (x.rvb + i / 8)).map fun p => nbits (rd8 s p).toNat (i % 8) 1 == 1

/-- The index of a capability pointer. -/
def capIdx (p : Word) : Nat := nbits p.toNat 44 18
/-- The offset of a capability pointer. -/
def capOff (p : Word) : Nat := nbits p.toNat 0 44

/-- Puts an entry into a checker's list of 64, in order of use, the least recently used out (R204). -/
def heldPut (l : List (Nat × Nat)) (e : Nat × Nat) : List (Nat × Nat) :=
  let l := l.filter fun k => k.1 != e.1
  (if l.length ≥ 64 then l.drop 1 else l) ++ [e]

/-- The checker of an MU uses the table entry of an index: it reads the entry where it does not hold it. -/
def touchTab (s : State) (m : UId) (i : Nat) : State :=
  let put (n : Nat) : State := { s with mu := { s.mu with capTab := fset [] s.mu.capTab (uKey m) (heldPut (tabHeld s m) (i, n)) } }
  match (tabHeld s m).find? fun e => e.1 == i with
  | some e => put e.2
  | none =>
    let x := ctxOf s m.ctx
    match devPhys s x .read (x.ctb + 16 * i) with
    | .ok p => put (rdN s p 16)
    | .error _ => s

/-- The checker of an MU uses the bitmap line of an index. -/
def touchBits (s : State) (m : UId) (i : Nat) : State :=
  let put (n : Nat) : State := { s with mu := { s.mu with capBits := fset [] s.mu.capBits (uKey m) (heldPut (bitHeld s m) (i / 512, n)) } }
  match (bitHeld s m).find? fun e => e.1 == i / 512 with
  | some e => put e.2
  | none =>
    let x := ctxOf s m.ctx
    match devPhys s x .read (x.rvb + i / 512 * 64) with
    | .ok p => put (rdN s p 64)
    | .error _ => s

/-- Of `n` bytes at a virtual address that the checker of an MU reads, one holds an uncorrectable error (R469). -/
def heldUpset (s : State) (m : UId) (va n : Nat) : Bool :=
  match devPhys s (ctxOf s m.ctx) .read va with
  | .ok p => upsetIn s p n
  | .error _ => false

/-- The reads that a dereference of an index makes, because the checker does not hold its entry or its bitmap line, consume an uncorrectable
error. -/
def missUpset (s : State) (m : UId) (i : Nat) : Bool :=
  let x := ctxOf s m.ctx
  ((tabHeld s m).all (fun e => e.1 != i) && heldUpset s m (x.ctb + 16 * i) 16)
    || ((bitHeld s m).all (fun e => e.1 != i / 512) && heldUpset s m (x.rvb + i / 512 * 64) 64)

/-- What a dereference at an MU for a colour leaves in its checker (R204): the entry, its bitmap line and that of its root. An uncorrectable
error in what it reads is recorded. -/
def capTouch (s : State) (m : UId) (col : Nat) (p : Word) : State :=
  if p.toNat / 2 ^ 62 != 3 || capIdx p == 0 then s
  else
    let s := noteRead s m col (!s.un.upsets.isEmpty && missUpset s m (capIdx p))
    let t := touchBits (touchTab s m (capIdx p)) m (capIdx p)
    match capEntry t m (capIdx p) with
    | .ok e => touchBits t m e.root
    | .error _ => t

/-- The entries of a map of checkers that belong to a context, each changed. -/
def mapHeld (m : FMap (List (Nat × Nat))) (c : Nat) (f : List (Nat × Nat) → List (Nat × Nat)) : FMap (List (Nat × Nat)) :=
  (m.map fun e => if e.1 / 65536 == c then (e.1, f e.2) else e).filter fun e => !e.2.isEmpty

/-- Every checker of a context's paddock drops the bitmap line of an index (R208). -/
def dropBits (s : State) (c i : Nat) : State :=
  { s with mu := { s.mu with capBits := mapHeld s.mu.capBits c fun l => l.filter fun e => e.1 != i / 512 } }

/-- Every checker of a context's paddock drops an entry that the capability unit writes (log entry 92). -/
def dropTab (s : State) (c i : Nat) : State :=
  { s with mu := { s.mu with capTab := mapHeld s.mu.capTab c fun l => l.filter fun e => e.1 != i } }

/-- The checkers of a context hold nothing: at its load, its restore and its end (R204). -/
def MuState.dropHeld (c : Nat) (m : MuState) : MuState :=
  { m with capTab := mapHeld m.capTab c fun _ => [], capBits := mapHeld m.capBits c fun _ => [] }

/-- The kind-specific data of a precise fault (R427). -/
structure FaultInfo where
  kind : Nat
  flg : Nat := 0
  lvl : Nat := 0
  fks : Nat := 0
  va : Word := 0
deriving DecidableEq, Repr

/-- The null and revocation checks of R205 at an MU: the entry, or the fault. -/
def capLive (s : State) (m : UId) (p : Word) : Except FaultInfo CapEnt :=
  let i := capIdx p
  let page (e : XFault) : FaultInfo := { kind := e.kind, flg := e.flg, lvl := e.lvl, va := BitVec.ofNat 64 e.va }
  if i == 0 then .error { kind := 0x05, va := p }
  else match capEntry s m i with
  | .error e => .error (page e)
  | .ok e =>
    match capRevoked s m i, capRevoked s m e.root with
    | .error f, _ => .error (page f)
    | _, .error f => .error (page f)
    | .ok a, .ok b => if a || b || !e.v then .error { kind := 0x04, va := p } else .ok e

/-- A dereference for `n` bytes at an MU (R205): the virtual address, or the fault. -/
def capDeref (s : State) (m : UId) (p : Word) (n : Nat) (wr : Bool) : Except FaultInfo Nat :=
  match capLive s m p with
  | .error e => .error e
  | .ok e =>
    if capOff p + n > e.len then .error { kind := 0x03, va := p }
    else if wr && !e.w then .error { kind := 0x03, fks := 1, va := p }
    else .ok (e.base + capOff p)

/-! ### Ending -/

/-- The lowest unit key of a context. -/
def ctxKey (c : Nat) : Nat := c * 65536

/-- The entries of a map keyed by unit key times `n` that belong to a context. -/
def ofCtx {α : Type} (m : FMap α) (c n : Nat) : FMap α :=
  m.filter fun e => ctxKey c * n ≤ e.1 && e.1 < ctxKey (c + 1) * n

/-- Every unit of this module forwards its charges to the energy unit of the context (R403). -/
def gatherCharges (s : State) (c : Nat) : State :=
  let n := ((ofCtx s.fab.charges c 1).map fun e => e.2).sum
  let s := { s with fab := { s.fab with charges := fclear s.fab.charges (ctxKey c) (ctxKey (c + 1)) } }
  let x := ctxOf s c
  if n == 0 then s
  else if hubHere x then updCtx s c fun x => addEnergy x n
  else sendOut s x 0 (.msg (.energy c n))

/-- Tokens waiting in the spill table of a context: the sum of its units' summary counters (R66). -/
def spilledCount (s : State) (c : Nat) : Nat := ((ofCtx s.fab.summary c 256).map fun e => e.2).sum

/-- The tokens of a context on their way, which a kill sweeps too (R398). -/
def movingCount (s : State) (c : Nat) : Nat :=
  (s.fab.flights.filter fun f => f.u.ctx == c).length + (s.fab.arrivals.filter fun f => f.u.ctx == c).length
    + (s.cp.toQueues.filter fun f => f.u.ctx == c).length

/-- What the sweep at the end of a context counts as orphans (R369, R398): waiting tokens, those that a probe holds among them, ready
instances, those that wait for a twin among them, waiters, retry buffer entries and a held marker. -/
def sweepCount (s : State) (c : Nat) : Nat :=
  (s.fab.waiting.filter fun w => w.u.ctx == c).length + (s.fab.probes.filter fun w => w.u.ctx == c).length
    + ((s.fab.ready.filter fun r => r.u.ctx == c).map fun r => (opsOf r).length).sum
    + ((s.un.twins.filter fun e => e.f.u.ctx == c).map fun e => (opsOf e.f).length).sum
    + (s.mu.waiters.filter fun w => w.mu.ctx == c).length
    + (s.cp.retry.filter fun r => r.req.mu.ctx == c).length
    + (match (ctxOf s c).marker with | some m => (opsOf m.f).length | none => 0)
    + spilledCount s c

/-- The copies of a context that an ending makes FAILED(5), with the commands that leave a queue (R369). -/
def failCount (s : State) (c : Nat) : Nat :=
  (s.cp.copies.filter fun p => p.mu.ctx == c && p.st != .complete && p.st != .failed).length
    + (s.cp.queue.filter fun r => r.mu.ctx == c).length

/-- The fabric without a context's tokens, firings, frames and config tokens. -/
def Fabric.sweep (c : Nat) (f : Fabric) : Fabric :=
  { f with flights := f.flights.filter fun e => e.u.ctx != c, arrivals := f.arrivals.filter fun e => e.u.ctx != c,
           waiting := f.waiting.filter fun e => e.u.ctx != c, ready := f.ready.filter fun e => e.u.ctx != c,
           frames := f.frames.filter fun e => e.u.ctx != c,
           probes := f.probes.filter fun e => e.u.ctx != c,
           cfgHeld := f.cfgHeld.filter fun e => e.u.ctx != c, parked := f.parked.filter fun e => e.f.u.ctx != c,
           summary := fclear f.summary (ctxKey c * 256) (ctxKey (c + 1) * 256),
           spillTwin := fclear f.spillTwin (c * 2 ^ 24) ((c + 1) * 2 ^ 24) }

/-- The memory units without a context's requests, buffered stores, waiters, accesses and cached capabilities. -/
def MuState.sweep (c : Nat) (m : MuState) : MuState :=
  let m := MuState.dropHeld c m
  { m with reqs := m.reqs.filter fun e => e.mu.ctx != c, pbuf := m.pbuf.filter fun e => e.mu.ctx != c,
           waiters := m.waiters.filter fun e => e.mu.ctx != c, loads := m.loads.filter fun e => e.req.mu.ctx != c,
           atomics := m.atomics.filter fun e => e.req.mu.ctx != c }

/-- The engines without a context's commands and messages. -/
def CopyState.sweep (c : Nat) (p : CopyState) : CopyState :=
  { p with retry := p.retry.filter fun e => e.req.mu.ctx != c, queue := p.queue.filter fun e => e.mu.ctx != c,
           copies := p.copies.filter fun e => e.mu.ctx != c, chunks := p.chunks.filter fun e => e.src.ctx != c,
           acks := p.acks.filter fun e => e.mu.ctx != c, credits := p.credits.filter fun e => e.slot.ctx != c,
           commits := p.commits.filter fun e => e.mu.ctx != c, rels := p.rels.filter fun e => e.mu.ctx != c,
           slotRets := p.slotRets.filter fun e => e.mu.ctx != c, binds := p.binds.filter fun e => e.mu.ctx != c,
           puts := p.puts.filter fun e => e.req.mu.ctx != c, bins := fclear p.bins (ctxKey c * 4) (ctxKey (c + 1) * 4),
           bindMsgs := p.bindMsgs.filter fun e => e.mu.ctx != c, toQueues := p.toQueues.filter fun e => e.u.ctx != c }

/-- The arrays without a context's operations. -/
def TensorState.sweep (c : Nat) (t : TensorState) : TensorState :=
  { t with ops := t.ops.filter fun e => e.c.u.ctx != c, fills := t.fills.filter fun e => e.c.u.ctx != c }

/-- The service cores without a context's calls (R483). -/
def Svc.sweep (c : Nat) (v : Svc) : Svc :=
  { v with dies := v.dies.map fun e => (e.1, { e.2 with ring := e.2.ring.filter fun m =>
             match m.2 with | some k => k.svn == 0xFFFF || k.u.ctx != c | none => true }),
           parts := v.parts.filter fun e => e.mu.ctx != c, held := v.held.filter fun e => e.ctx != c }

/-- What waits to leave the module goes on waiting when its context ends: everything but what belongs to it, its stop apart. -/
def keepsOut (c : Nat) (e : Nat × Nat × Cargo) : Bool :=
  match e.2.2 with
  | .msg (.stop _ _ _) => true
  | k => cargoCtx k != c

/-- The links and I/O dies without a context's commands, and with its rings unbound (R457). -/
def LinkState.sweep (c : Nat) (k : LinkState) : LinkState :=
  { k with ios := k.ios.filter fun e => e.mu.ctx != c, ioData := k.ioData.filter fun e => e.mu.ctx != c, egress := k.egress.filter (keepsOut c),
           arriving := k.arriving.filter fun e => e.src.ctx != c,
           qps := k.qps.map fun e => (e.1, { e.2 with ring := e.2.ring.filter fun r => r.1.ctx != c }) }

/-- One page of a context's spill table without valid entries (R66). -/
def sweepSpillPage (x : Ctx) (s : State) (k : Nat) : State :=
  match translateNow s x .write (x.splBase + 4096 * k) with
  | .error _ => s
  | .ok a => (List.range 128).foldl (fun s j =>
      if rd8 s (a.phys + 32 * j + 24) &&& 1 == 0 then s else wrN s (a.phys + 32 * j) 32 0) s

/-- The spill table is swept (R369): no entry of it stays valid. -/
def sweepSpill (s : State) (c : Nat) : State :=
  if spilledCount s c == 0 then s
  else (List.range (2 ^ (ctxOf s c).splLog / 128)).foldl (sweepSpillPage (ctxOf s c)) s

/-- Removes everything that a context has in flight, buffered, spilled or parked. -/
def sweepCtx (s : State) (c : Nat) : State :=
  let s := sweepSpill s c
  { s with fab := Fabric.sweep c s.fab, lk := LinkState.sweep c s.lk, mu := MuState.sweep c s.mu, cp := CopyState.sweep c s.cp, tn := TensorState.sweep c s.tn,
           svc := Svc.sweep c s.svc,
           tr := { s.tr with walks := s.tr.walks.filter fun e => e.req.mu.ctx != c,
                             heldHost := s.tr.heldHost.filter fun e => e.req.mu.ctx != c },
           un := { s.un with errs := s.un.errs.filter fun e => e.u.ctx != c, twins := s.un.twins.filter fun e => e.f.u.ctx != c } }

/-- The heads of other modules that wait on slots of an ended context are refused there (R382). -/
def refuseFar (s : State) (c : Nat) : State :=
  let hit (e : Nat × Nat × Nat) : Bool := nbits e.1 30 9 == c
  (s.yard.far.filter hit).foldl (fun s e => sendOne s (e.2.2, s.clock, .msg (.depDone e.1 e.2.1 false)))
    { s with yard := { s.yard with far := s.yard.far.filter fun e => !hit e } }

/-- The context ends (R369 step 5, R398 step 6): its counts go into the exit status, everything of it is swept, its units are
free, the heads that wait on its slots are refused with DEPEND (R382), and SGNL is signalled (R383). -/
def endCtx (s : State) (c : Nat) (st : CState) (kind code : Nat) : State :=
  let x := ctxOf s c
  let n := sweepCount s c
  let k := failCount s c
  let s := sweepCtx (gatherCharges s c) c
  let s := updCtx s c fun x => { x with cst := st, frz := noFrz, freezing := false, xkind := kind, xcode := code,
                                        orph := min 65535 (x.orph + n), fcp := min 255 (x.fcp + k), marker := none, frec := none,
                                        purges := [], loadStage := 0, place := [], exits := [], recs := [], rcache := [], phases := [], shares := [], rset := none,
                                        prim := none, dying := false }
  let s := (s.yard.queues.filter fun e => e.2.waits.any fun w => nbits w 30 9 == c).foldl
    (fun s e => refuseHead s e.1 dependStatus) (refuseFar s c)
  let s := { s with yard := { s.yard with queues := s.yard.queues.map fun e => (e.1, { e.2 with resume := e.2.resume.filter (· != c) }),
                                          claims := s.yard.claims.filter fun k => k.resume != some c } }
  signalExit s x.queue x.sgnl

/-- The first part of a kill (R398): the stop. No station issues and no token moves from here on, the engines send nothing more and the
buffered stores are discarded, while firings already issued and chunks already sent complete. -/
def beginKill (s : State) (c kind : Nat) : State :=
  updCtx { s with mu := { s.mu with pbuf := s.mu.pbuf.filter fun e => e.mu.ctx != c } } c
    fun x => { x with cst := .killed, dying := true, frz := noFrz, freezing := false, xkind := kind, xcode := 0, reconf := none }

/-- A firing or chunk of a context that was issued or sent before a kill's stop has not completed yet (R398). -/
def killBusy (s : State) (c : Nat) : Bool :=
  (s.mu.reqs.any fun r => r.mu.ctx == c) || (s.mu.loads.any fun r => r.req.mu.ctx == c) || (s.mu.atomics.any fun r => r.req.mu.ctx == c)
    || (s.tr.walks.any fun r => r.req.mu.ctx == c) || (s.tr.heldHost.any fun r => r.req.mu.ctx == c && r.eng.isNone)
    || (s.tn.ops.any fun o => o.c.u.ctx == c) || (s.cp.chunks.any fun k => k.src.ctx == c) || (s.svc.parts.any fun r => r.mu.ctx == c)

/-- The last part of a kill (R398): the sweep, tokens on their way included, and the exit status. -/
def finishKill (s : State) (c : Nat) : State :=
  endCtx (addOrph s c (movingCount s c)) c .killed (ctxOf s c).xkind 0

/-- Ends this module's part of a context by kill (R398): at once where it covers no unit or nothing is in progress, and otherwise when the
firings already issued have completed. A context that has ended is not touched. -/
def killLocal (s : State) (c kind : Nat) : State :=
  let x := ctxOf s c
  if !isLive x then s
  else if !isResident x then endCtx s c .killed kind 0
  else
    let t := beginKill s c kind
    if killBusy t c then t else finishKill t c

/-- Ends a context by kill (R398), on every member of an outing. -/
def killCtx (s : State) (c kind : Nat) : State :=
  if isLive (ctxOf s c) then killLocal (tellMembers s c (.stop c 1 kind)) c kind else s

/-! ### Freezing and precise faults -/

/-- The freeze reasons as the bits of FRZ (R393). -/
def frzBits (f : Frz) : Nat :=
  f.fault.toNat + 2 * f.purge.toNat + 4 * f.preempt.toNat + 8 * f.budget.toNat + 16 * f.superv.toNat

/-- The freeze reasons that FRZ shows. -/
def frzOf (n : Nat) : Frz :=
  let b (k : Nat) : Bool := nbits n k 1 == 1
  { fault := b 0, purge := b 1, preempt := b 2, budget := b 3, superv := b 4 }

/-- A freeze of this module's part of a context (R392, R393): a running context starts one, a frozen one notes the reason, any other
ignores it. -/
def freezeLocal (s : State) (c : Nat) (reason : Frz → Frz) : State :=
  updCtx s c fun x =>
    match x.cst with
    | .running => { x with frz := reason x.frz, freezing := true }
    | .frozen => { x with frz := reason x.frz }
    | _ => x

/-- Asks for a freeze with a reason (R392, R393), on every member of an outing. -/
def requestFreeze (s : State) (c : Nat) (reason : Frz → Frz) : State :=
  let x := ctxOf s c
  let t := freezeLocal s c reason
  if (ctxOf t c).frz == x.frz then t else tellMembers t c (.stop c 2 (frzBits (ctxOf t c).frz))

/-- The 64 bytes of a fault record (R427). -/
def faultBytes (r : FaultRec) : List Byte :=
  leBytes (r.kind + 2 ^ 8 * r.flg + 2 ^ 16 * r.lvl + 2 ^ 32 * r.fks) 8 ++ leBytes r.va.toNat 8
    ++ leBytes (r.x + 2 ^ 8 * r.y + 2 ^ 15 * r.stn + 2 ^ 22 * r.mod) 8 ++ leBytes r.hdr.toNat 12 ++ leBytes r.col 2
    ++ leBytes r.cid 6 ++ leBytes r.seq 2 ++ leBytes 0 2 ++ leBytes r.rv.toNat 8 ++ leBytes r.pv.toNat 8

/-- The global virtual address of a faulting access at a pointer of window 00 or 11; none for another window. -/
def globalVa (s : State) (m : UId) (p : Word) : Option Nat :=
  match p.toNat / 2 ^ 62 with
  | 0 => some p.toNat
  | 3 => (match capEntry s m (capIdx p) with | .ok e => some (e.base + capOff p) | .error _ => none)
  | _ => none

/-- An address lies between `ASHSB` and `ASHSB` + `ASHSL` of an address space (R413, R429). -/
def inOwnWindow (s : State) (as va : Nat) : Bool := (asOf s as).hsb ≤ va && va < (asOf s as).hsb + (asOf s as).hsl

/-- The access that faults is one of R429: it lies in the address space's window for the supervisor's own structures. -/
def inNestWindow (s : State) (u : UId) (fi : FaultInfo) : Bool :=
  [0x01, 0x02, 0x08, 0x0C, 0x15, 0x17, 0x1A].contains fi.kind
    && match globalVa s (muOf u) fi.va with | some va => inOwnWindow s (ctxOf s u.ctx).as va | none => false

/-- A record goes to the next of the 64 slots of a die's fallback area, which its count numbers (R429). -/
def fallback (s : State) (d : Nat) (r : FaultRec) : State :=
  let a := fget [] s.tr.fbArea d
  { s with tr := { s.tr with fbCount := fset 0 s.tr.fbCount d ((fget 0 s.tr.fbCount d + 1) % 65536),
                             fbArea := fset [] s.tr.fbArea d ((a ++ [r]).drop (if a.length ≥ 64 then 1 else 0)) } }

/-- A NESTED fault (R429): the record goes to the next slot of the die's fallback area, the context is killed and the
supervisor receives a machine check. -/
def nestedFault (s : State) (u : UId) (r : FaultRec) : State :=
  let d := dieOf s u
  setCause (killCtx (fallback s d r) u.ctx 0x14) d 3

/-- A walk that stopped at a root which names an unbacked address raises a machine check on the die that made the access (R413). -/
def rootCheck (s : State) (u : UId) (kind lvl : Nat) : State :=
  if kind == 0x01 && lvl == 5 && rootUnbacked s (ctxOf s u.ctx).as then setCause s (dieOf s u) 3 else s

/-- Records a primary fault (R425 to R427): the record goes to its slot of the fault-record page, the fault reason is set
and the freeze begins, unless the fault or the record's own write is NESTED. The record of a fault that takes the place of the primary
of the same cycle takes its slot. -/
def recordFault (s : State) (F : Ready) (r : FaultRec) (m : Option Marker) (nest : Bool) : State :=
  let u := F.u
  let x := ctxOf s u.ctx
  let n : FaultRec := { r with kind := 0x14 }
  if nest then nestedFault s u n
  else
    let va := x.frp + 64 * (r.seq % 64)
    match translateNow s x .write va with
    | .error e => nestedFault (rootCheck s u e.kind e.lvl) u { n with va := BitVec.ofNat 64 va }
    | .ok a =>
      let s := wrBytes s a.phys (faultBytes r)
      let s := updCtx s u.ctx fun x => { x with fseq := (r.seq + 1) % 65536, marker := m, frec := some r, prim := some (s.clock, F) }
      requestFreeze s u.ctx fun f => { f with fault := true }

/-- The member of an outing that holds a paddock column; 0 for one module (R427). -/
def memberOf (x : Ctx) (cx : Nat) : Nat := if isOuting x then cx / (4 * x.pw) else 0

/-- The column of a paddock column within its member's paddock: structures with a module field hold this one (R442). -/
def relCol (x : Ctx) (cx : Nat) : Nat := if isOuting x then cx % (4 * x.pw) else cx

/-- Returns a firing to its CU's ready queue with its own sequence number (R425); the firing of another member's CU goes there. -/
def returnReady (s : State) (F : Ready) : State :=
  let x := ctxOf s F.u.ctx
  if onModule x F.u.x then { s with fab := { s.fab with ready := F :: s.fab.ready } }
  else sendOut s x (memberAt x F.u.x) (.msg (.reinject F))

/-- A fault displaces the primary that was detected in the same cycle (R425): its firing has the lesser commit key. -/
def displaces (s : State) (x : Ctx) (F : Ready) : Bool :=
  match x.prim with
  | none => false
  | some (t, P) =>
    t == s.clock && (F.u.copy < P.u.copy || (F.u.copy == P.u.copy &&
      keyCmp x F.u.copy F.u.x F.u.y (fcol F) (fitr F) F.stn P.u.x P.u.y (fcol P) (fitr P) P.stn == .lt))

/-- The sequence number of a fault record (R427): the next, or that of the primary which the fault displaces. -/
def faultSeq (x : Ctx) : Nat := if x.frz.fault && x.prim.isSome then (x.fseq + 65535) % 65536 else x.fseq

/-- A primary that is displaced is cancelled as a later fault is: its firing waits again (R425). -/
def undoPrimary (s : State) (c : Nat) : State :=
  match (ctxOf s c).marker with
  | none => s
  | some m => if m.rearrive then sendTok s m.f.u m.f.u true m.f.l else returnReady s m.f

/-- TAKING A PRECISE FAULT at a station (R424 to R429). The first fault of a freeze is the primary, of those of one cycle the one of the
least commit key: its record is written, its marker held, and the freeze begins. A later firing that faults before the freeze is complete is cancelled. In
DRAINING the firing has no effect and its operand tokens are orphans (R396). `re` marks a token that faulted while it was
being placed (R66). -/
def raiseWith (re : Bool) (F : Ready) (fi : FaultInfo) (s : State) : State :=
  let x := ctxOf s F.u.ctx
  let s := rootCheck s F.u fi.kind fi.lvl
  if x.cst == .draining then addOrph s F.u.ctx (opsOf F).length
  else if !emitsTokens x then s
  else if x.frz.fault && !inNestWindow s F.u fi && !displaces s x F then (if re then sendTok s F.u F.u true F.l else returnReady s F)
  else
    let s := if x.frz.fault && !inNestWindow s F.u fi then undoPrimary s F.u.ctx else s
    let r : FaultRec :=
      { kind := fi.kind, flg := fi.flg + (if F.r.isSome then 64 else 0) + (if F.p.isSome then 128 else 0), lvl := fi.lvl,
        fks := fi.fks, va := fi.va, x := relCol x F.u.x, y := F.u.y, stn := F.stn, mod := memberOf x F.u.x,
        hdr := (packFlit F.l).extractLsb' 64 96, col := fcol F, cid := 0, seq := faultSeq x,
        rv := (F.r.map fun t => t.val).getD 0, pv := (F.p.map fun t => t.val).getD 0 }
    recordFault s F r (some { f := F, kind := fi.kind, rearrive := re }) (inNestWindow s F.u fi)

/-- A precise fault of a station firing. -/
def raise (F : Ready) (fi : FaultInfo) (s : State) : State := raiseWith false F fi s

/-- A precise fault that carries nothing but its code. -/
def raiseK (F : Ready) (k : Nat) (s : State) : State := raise F { kind := k } s

/-- A precise fault of an access at a presented pointer. -/
def raiseA (F : Ready) (k : Nat) (va : Word) (s : State) : State := raise F { kind := k, va := va } s

/-- A TILE or SPARSE fault with its subcode (R279, R331). -/
def raiseSub (F : Ready) (k sub : Nat) (s : State) : State := raise F { kind := k, fks := sub } s

/-- A precise fault of an engine (R424 to R427): as at a station, but with no marker, a zero FHDR and the copy id. In DRAINING it writes no
record (R396). -/
def raiseEngine (F : Ready) (cid : Nat) (fi : FaultInfo) (s : State) : State :=
  let x := ctxOf s F.u.ctx
  let s := rootCheck s F.u fi.kind fi.lvl
  if !emitsTokens x || x.cst == .draining || x.frz.fault && !inNestWindow s F.u fi && !displaces s x F then s
  else
    let s := if x.frz.fault && !inNestWindow s F.u fi then undoPrimary s F.u.ctx else s
    let r : FaultRec :=
      { kind := fi.kind, flg := fi.flg + 8, lvl := fi.lvl, fks := fi.fks, va := fi.va, x := relCol x F.u.x, y := F.u.y, stn := F.stn,
        mod := memberOf x F.u.x, hdr := 0, col := fcol F, cid := cid, seq := faultSeq x, rv := 0, pv := 0 }
    recordFault s F r none (inNestWindow s F.u fi)

/-- Puts a complete instance at the end of its CU's ready queue (R68). -/
def addReady (s : State) (F : Ready) : State := { s with fab := { s.fab with ready := s.fab.ready ++ [F] } }

/-- The next arrival sequence number of a CU (R68), with the count advanced. -/
def nextSeq (s : State) (u : UId) : Nat × State :=
  let n := fget 0 s.fab.seqs (uKey u)
  (n, { s with fab := { s.fab with seqs := fset 0 s.fab.seqs (uKey u) ((n + 1) % 65536) } })

/-- An operand token of the marker formed afresh (R430). -/
def refresh (key : BitVec 8) (t : Flit) : Flit := { t with res := res15 t.val, rid := ridOf key t.stn t.pos }

/-- A firing becomes the youngest complete instance of its CU (R430), on the member that holds it. -/
def reinject (s : State) (F : Ready) : State :=
  let x := ctxOf s F.u.ctx
  if onModule x F.u.x then
    let q := nextSeq s F.u
    addReady q.2 { F with seq := q.1 }
  else sendOut s x (memberAt x F.u.x) (.msg (.reinject F))

/-- The reply of a service call goes to its CALL station, and to the twin's (R471, R483). -/
def sendServiceReply (s : State) (e : MboxEnt) (st : Nat) : State :=
  let v := e.args.getD 0 0
  let go (u : UId) (col : Nat) (s : State) : State :=
    emitFrom (emitFrom s (muOf u) u col e.itr e.ta kReply v false) (muOf u) u col e.itr e.tb kReply (BitVec.ofNat 64 st) false
  let s := go e.u e.col s
  match e.pair with
  | some c => go { e.u with copy := 1 - e.u.copy } c s
  | none => s

/-- The service replies that were held for a context are sent (R483). -/
def releaseHeld (s : State) (c : Nat) : State :=
  (s.svc.held.filter fun h => h.ctx == c).foldl (fun s h => sendServiceReply s h.e h.st)
    { s with svc := { s.svc with held := s.svc.held.filter fun h => h.ctx != c } }

/-- RETURNING FROM A FAULT (R430, R392): no reason is left, the context runs, and the marker's station gains a complete
instance, the youngest of its CU. -/
def resumeCtx (s : State) (c : Nat) : State :=
  let x := ctxOf s c
  let s' := updCtx s c fun x => { x with cst := .running, freezing := false, marker := none, frec := none, prim := none, byYard := false,
                                         syncs := x.syncs.filter fun e => e.1 != 1 }
  let s' := releaseHeld s' c
  match x.marker with
  | none => s'
  | some m =>
    if m.rearrive then sendTok s' m.f.u m.f.u true (refresh x.key m.f.l)
    else reinject s' { m.f with l := refresh x.key m.f.l, r := m.f.r.map (refresh x.key), p := m.f.p.map (refresh x.key),
                                again := m.kind == 0x18 || m.kind == 0x19 }

/-- Clears freeze reasons on this module; when none is left a frozen context resumes. -/
def clearLocal (s : State) (c : Nat) (f : Frz → Frz) : State :=
  let s := updCtx s c fun x => { x with frz := f x.frz }
  let x := ctxOf s c
  if x.cst == .frozen && x.frz == noFrz then resumeCtx s c else s

/-- Clears freeze reasons (R393), on every member of an outing; when none is left a frozen context resumes. -/
def clearReasons (s : State) (c : Nat) (f : Frz → Frz) : State :=
  let t := clearLocal s c f
  if (ctxOf t c).frz == (ctxOf s c).frz then t else tellMembers t c (.stop c 3 (frzBits (ctxOf s c).frz ^^^ frzBits (ctxOf t c).frz))

/-! ### Call records (R73, R74) -/

/-- The code of an activation state (R74). -/
def stateCode : AState → Nat
  | .free => 0 | .opened => 1 | .live => 2 | .returned => 3 | .ended => 4 | .forward => 5

/-- The 16 bytes of an argument (R74). -/
def argBytes (a : Option CallArg) : List Byte :=
  match a with
  | none => leBytes 0 16
  | some a => leBytes a.val.toNat 8
      ++ leBytes (a.ax + 2 ^ 8 * a.ay + 2 ^ 15 * a.as + 2 ^ 22 * a.ak.toNat + 2 ^ 25) 8

/-- The 128 bytes of a call record (R74). -/
def recBytes (r : CallRec) : List Byte :=
  leBytes (r.pcol + 2 ^ 12 * r.pitr + 2 ^ 28 * r.sx + 2 ^ 36 * r.sy + 2 ^ 43 * r.ss + 2 ^ 50 * r.narg + 2 ^ 53 * r.nrec
      + 2 ^ 56 * stateCode r.state + (if r.cm then 2 ^ 59 else 0) + 2 ^ 60 * r.tries) 8
    ++ leBytes (r.site + 2 ^ 16 * r.fwd) 8 ++ (r.args.flatMap argBytes)

/-- A record that is written enters the cache of its copy's colour unit, which holds 64 (R73); the record of a FREE colour leaves it. -/
def cacheRec (r : CallRec) (l : List (Nat × Nat)) : List (Nat × Nat) :=
  let l := l.filter fun e => e != (r.copy, r.col)
  if r.state == .free then l
  else
    let old := l.filter fun e => e.1 == r.copy
    (if old.length ≥ 64 then l.erase (old.headD (0, 0)) else l) ++ [(r.copy, r.col)]

/-- Puts a record into a context's list, in place of the one of its copy and colour, and into the cache; a FREE one is dropped. -/
def putRec (x : Ctx) (r : CallRec) : Ctx :=
  let rest := x.recs.filter fun q => !(q.copy == r.copy && q.col == r.col)
  { x with recs := if r.state == .free then rest else rest ++ [r], rcache := cacheRec r x.rcache }

/-- The colour unit writes a call record (R73). The primary copy's records stand in the context's call-record area; an access
there that faults is NESTED (R429). In an outing the unit stands on the first member, and the others keep the record that it tells
them. -/
def storeRec (s : State) (u : UId) (r : CallRec) : State :=
  let x := ctxOf s u.ctx
  let va := x.crb + 128 * r.col
  let put (s : State) : State := tellMembers (updCtx s u.ctx fun x => putRec x r) u.ctx (.record u.ctx r)
  if !hubHere x then updCtx s u.ctx fun x => putRec x r
  else if r.copy != 0 then put s
  else match translateNow s x .write va with
  | .ok a => put (wrBytes s a.phys (recBytes r))
  | .error _ => nestedFault s (hubOf u)
      { kind := 0x14, flg := 0, lvl := 0, fks := 0, va := BitVec.ofNat 64 va, x := u.x, y := u.y, stn := 0,
        mod := memberOf x u.x, hdr := 0, col := r.col, cid := 0, seq := x.fseq, rv := 0, pv := 0 }

/-- The code of an activation state, read (R74). -/
def codeState (n : Nat) : AState :=
  match n with
  | 1 => .opened | 2 => .live | 3 => .returned | 4 => .ended | 5 => .forward | _ => .free

/-- A call record from its 128 bytes (R74). -/
def recBack (s : State) (r : CallRec) (a : Nat) : CallRec :=
  let n := rdN s a 8
  let m := rdN s (a + 8) 8
  let arg (k : Nat) : Option CallArg :=
    let v := rdN s (a + 16 + 16 * k) 8
    let w := rdN s (a + 24 + 16 * k) 8
    if nbits w 25 1 == 0 then none
    else some { val := BitVec.ofNat 64 v, ax := nbits w 0 8, ay := nbits w 8 7, as := nbits w 15 7, ak := BitVec.ofNat 3 (nbits w 22 3) }
  { r with pcol := nbits n 0 12, pitr := nbits n 12 16, sx := nbits n 28 8, sy := nbits n 36 7, ss := nbits n 43 7, narg := nbits n 50 3,
           nrec := nbits n 53 3, state := codeState (nbits n 56 3), cm := nbits n 59 1 == 1, tries := nbits n 60 2, site := nbits m 0 16,
           fwd := nbits m 16 12, args := (List.range r.args.length).map arg }

/-- The colour unit of the primary copy accesses a record (R73): one that it does not cache is read from the call-record area, and a read that
faults there is NESTED (R429). -/
def touchRec (s : State) (c k col : Nat) : State :=
  let x := ctxOf s c
  match recOf x k col with
  | none => s
  | some r =>
    if k != 0 || !hubHere x || !isLive x then s
    else if x.rcache.contains (k, col) then updCtx s c fun x => { x with rcache := cacheRec r x.rcache }
    else
      let va := x.crb + 128 * col
      match translateNow s x .read va with
      | .ok a =>
        let q := recBack s r a.phys
        let s := noteRead s (hubOf ⟨c, k, 0, 0⟩) col (upsetIn s a.phys 128)
        updCtx s c fun x => { x with recs := x.recs.map fun e => if e.copy == k && e.col == col then q else e,
                                     rcache := cacheRec { q with state := .opened } x.rcache }
      | .error e =>
        let u := hubOf ⟨c, k, 0, 0⟩
        nestedFault (rootCheck s u e.kind e.lvl) u
          { kind := 0x14, flg := 0, lvl := 0, fks := 0, va := BitVec.ofNat 64 va, x := u.x, y := u.y, stn := 0,
            mod := memberOf x u.x, hdr := 0, col := col, cid := 0, seq := x.fseq, rv := 0, pv := 0 }

/-- The record of a colour that is not FREE. -/
def usedRec (x : Ctx) (k c : Nat) : Option CallRec := (recOf x k c).filter fun r => r.state != .free

/-- An operation on a record that the colour unit has accessed; nothing more happens where the access killed the context. -/
def withRec (s : State) (c k col : Nat) (no : State → State) (op : CallRec → State → State) : State :=
  let t := touchRec s c k col
  if isLive (ctxOf s c) && !isLive (ctxOf t c) then t
  else match usedRec (ctxOf t c) k col with
  | none => no t
  | some r => op r t

/-- A commit point of a colour sets CM of its record (R76), in the record area as in the cache; a member of an outing tells the colour unit of
the first. -/
def commitPt (s : State) (c k col : Nat) : State :=
  if col == 0 then s
  else withRec s c k col id fun r s =>
    let x := ctxOf s c
    if r.cm || r.state == .forward then s
    else
      let s := storeRec s (hubOf ⟨c, k, 0, 0⟩) { r with cm := true }
      if hubHere x then s else sendOut s x 0 (.msg (.commitPoint c k col))

end Sys2Proof.Machine
end

