-- ==== Sys2Proof/Machine/Operands.lean ====
section
/-!
DEFINITION. Operand forms: the rule of token kinds (R62), the right operand of each source mode (R33, R34, R127), and the
two ways a meaning runs over the firings that an issue has latched (R69).
-/

namespace Sys2Proof.Machine

open Sys2Proof

/-- K register `k` of a CU. -/
def kreg (s : State) (u : UId) (k : Nat) : Word := fget 0 s.fab.kregs (uKey u * 64 + k)

/-- What the kinds of the operand tokens decide (R62): end-of-fibre with its value, null, or to compute. -/
inductive Settled where
  | eof (v : Word)
  | null
  | go
deriving DecidableEq, Repr

/-- P is a predicate whose value is 0. -/
def falseP (F : Ready) : Bool := match F.p with | some t => isVal t && t.val == 0 | none => false

/-- R62 over those operand tokens to which it applies; `no` says that P is a false predicate. -/
def settleOver (ts : List Flit) (no : Bool) : Settled :=
  match ts.find? isEof with
  | some t => .eof t.val
  | none => if ts.any isNull || no then .null else .go

/-- R62. `predP` is false where P is an operand and not a predicate (R128). -/
def settle (predP : Bool) (F : Ready) : Settled := settleOver (opsOf F) (predP && falseP F)

/-- Emits to those of the two targets that the opcode defines, TA first (R37). -/
def emitDef (a b : Bool) (f : Fields) (F : Ready) (kind : BitVec 3) (v : Word) (s : State) : State :=
  let s := if a then emit F f.ta kind v s else s
  if b then emit F f.tb kind v s else s

/-- A firing under R62: settled to end-of-fibre or null on the defined targets, or computed by `body`. -/
def laneOf (a b : Bool) (f : Fields) (d : Settled) (body : Ready → State → State) (F : Ready) (s : State) : State :=
  match d with
  | .eof v => emitDef a b f F kEof v s
  | .null => emitDef a b f F kNull 0 s
  | .go => body F s

/-- A firing under R62 with all its operand tokens. -/
def lane (a b predP : Bool) (f : Fields) (body : Ready → State → State) (F : Ready) (s : State) : State :=
  laneOf a b f (settle predP F) body F s

/-- Both targets defined and P a predicate: the usual case. -/
def laneBoth (f : Fields) (body : Ready → State → State) : Ready → State → State := lane true true true f body

/-- The right operand as 64 bits (R33, R127): a token, a K register read at issue, or sext(IMM, 20). -/
def rightOp (f : Fields) (F : Ready) (s : State) : Word :=
  match f.src with
  | .toks => (F.r.map fun t => t.val).getD 0
  | .kreg => kreg s F.u (fld f 0 6)
  | .immd => f.imm.signExtend 64
  | .unary => 0

/-- The value of P; 0 where there is none. -/
def pVal (F : Ready) : Word := (F.p.map fun t => t.val).getD 0

/-- The value of R; 0 where there is none. -/
def rVal (F : Ready) : Word := (F.r.map fun t => t.val).getD 0

/-- The exact floating-point operand of a value instruction (R127): in mode 10 the integer itself. -/
def rightEx (f : Fields) (F : Ready) (s : State) : Ex :=
  match f.src with
  | .immd => Ex.ofInt f.imm.toInt
  | _ => decodeF (fmtD f.ty) (lowBits f.ty (rightOp f F s))

/-- The stochastic word of R115 for element `e` of a firing. -/
def srOf (s : State) (F : Ready) (e : Nat) : Nat :=
  srWord (ctxOf s F.u.ctx).srg (fitr F) (fcol F) F.stn F.u.y F.u.x e

/-! ### Pointers (R142, R163, R184) -/

/-- The window of a generic pointer (R163). -/
def winOf (p : Word) : Nat := (p.extractLsb' 62 2).toNat

/-- The width of the offset field, and whether the bits that must be zero are (R142). -/
def offWidth (p : Word) : Nat × Bool :=
  match winOf p with
  | 0 => (57, p.extractLsb' 57 5 == 0)
  | 1 => (20, p.extractLsb' 20 28 == 0)
  | 2 => (20, p.extractLsb' 20 42 == 0)
  | _ => (44, true)

/-- The pointer with its offset field moved by a signed amount; none where R142 refuses it. -/
def movePtr (p : Word) (d : Int) : Option Word :=
  let w := offWidth p
  let o : Nat := p.toNat % 2 ^ w.1
  let n : Int := (o : Int) + d
  if w.2 && 0 ≤ n && n < (2 : Int) ^ w.1 then some (BitVec.ofNat 64 (p.toNat - o + n.toNat)) else none

/-- A pointer displaced by R184: none where the result leaves the offset field. The bits beside the field are left to the checks of
R165 on the displaced pointer. -/
def shiftPtr (p : Word) (d : Int) : Option Word :=
  let w := (offWidth p).1
  let o : Nat := p.toNat % 2 ^ w
  let n : Int := (o : Int) + d
  if 0 ≤ n && n < (2 : Int) ^ w then some (BitVec.ofNat 64 (p.toNat - o + n.toNat)) else none

/-- Runs a lane on every latched firing, oldest first, and ends the step. -/
def runLanes (g : Ready → State → State) (s : State) : Host.Outcome State Fault Refusal :=
  .next (close s (s.firing.foldl (fun t F => g F t) s))

/-- Ends a step that is not a firing. -/
def done (s t : State) : Host.Outcome State Fault Refusal := .next (close s t)

end Sys2Proof.Machine
end

