-- ==== Sys2Proof/Machine/Flags.lean ====
section
/-!
DEFINITION. The LX8 has no flag register. What travels beside a value is its residue (R59, R63), its kind (R58) and the
carry mark CHN (R131), and each is computed here.
-/

namespace Sys2Proof.Machine

open Sys2Proof

/-- The residue of an operand token does not match its value (R63). -/
def badRes (t : Flit) : Bool := t.res != res15 t.val

/-- R63 at the issue of a firing: each mismatching operand token records RESIDUE against the firing's colour. -/
def checkRes (F : Ready) (s : State) : State :=
  ((opsOf F).filter badRes).foldl (fun s _ => trapErr s F.u (fcol F) 0x10) s

/-- P is a carry (R131). -/
def isCarry (F : Ready) : Bool := match F.p with | some t => t.chn | none => false

/-- The carry or borrow into ADDC and SUBB (R140): P read as a w-bit operand (R127) is not 0. -/
def carryBit (t : Ty) (F : Ready) : Nat := if isCarry F && lowBits t (pVal F) != 0 then 1 else 0

/-- The carry into MULC: the whole w-bit value of P (R141). -/
def carryWord (t : Ty) (F : Ready) : Nat := if isCarry F then lowBits t (pVal F) else 0

/-- Emits the low part to TA and the carry to TB with CHN = 1 (R131, R140). -/
def emitCarry (f : Fields) (F : Ready) (lo hi : Word) (s : State) : State :=
  let s := emit F f.ta kValue lo s
  emitFrom s F.u F.u (fcol F) (fitr F) f.tb kValue hi true

/-- The carry out of a + b + cin at width `w` (R140). -/
def carryOut (w a b cin : Nat) : Nat := if a + b + cin ≥ 2 ^ w then 1 else 0

/-- The borrow out of a − b − cin (R140). -/
def borrowOut (a b cin : Nat) : Nat := if a < b + cin then 1 else 0

/-- A comparison's value: 1 or 0 (R138). -/
def truth (b : Bool) : Word := if b then 1 else 0

/-- The six relations of CMP in `FN` order (R138): EQ, NE, LT, LE, GT, GE. -/
def relation (n : Nat) (o : Ordering) : Bool :=
  match n with
  | 0 => o == .eq
  | 1 => o != .eq
  | 2 => o == .lt
  | 3 => o != .gt
  | 4 => o == .gt
  | _ => o != .lt

end Sys2Proof.Machine
end

