-- ==== Sys2Proof/Machine/Tile.lean ====
section
/-!
DEFINITION. Tile tags and the tile firing rule (11 R280 to R285): which tags, accumulators and arrays the instance of a station
needs, and whether it waits.
-/

namespace Sys2Proof.Machine

open Sys2Proof

/-! ### Tags -/

/-- A tag at load: UNBOUND (R281). -/
def tagReset : Tag := { st := .unbound, toff := 0, soff := 0, sv := false, ef := 0, bk := 0, bn := 0, sf := 0 }

/-- A tile tag of a CU. -/
def tagOf (s : State) (u : UId) (t : Nat) : Tag := fget tagReset s.tn.tags (uKey u * 32 + t)

/-- Writes a tile tag. -/
def setTag (s : State) (u : UId) (t : Nat) (g : Tag) : State :=
  { s with tn := { s.tn with tags := fset tagReset s.tn.tags (uKey u * 32 + t) g } }

/-- Changes the state of a tag. -/
def setTagSt (s : State) (u : UId) (t : Nat) (st : TagSt) : State := setTag s u t { tagOf s u t with st := st }

/-- The element format of an `EF` code. -/
def efTy (ef : Nat) : Ty := tyOf (BitVec.ofNat 4 ef)

/-- E4M3 or E5M2. -/
def isFp8 (t : Ty) : Bool := t == .e4m3 || t == .e5m2

/-- The number of tags of an operand of a format (R286). -/
def opW (ef : Nat) : Nat := if isFp8 (efTy ef) then 2 else 1

/-- The HOLD and ACC granules of a partition word (R166). -/
def holdGran (part : Nat) : Nat := nbits part 0 4
/-- The ACC granules. -/
def accGran (part : Nat) : Nat := nbits part 4 4

/-- Bytes of a CU's scratchpad partition (R167). -/
def poolSize (x : Ctx) : Nat := 16384 * (16 - holdGran x.part - accGran x.part)

/-- The number of accumulators of a CU (R284). -/
def accMax (x : Ctx) : Nat := min 60 (4 * accGran x.part)

/-- Stride register `j` of a CU (R316). -/
def sdreg (s : State) (u : UId) (j : Nat) : Word := fget 0 s.fab.sdregs (uKey u * 8 + j)

/-- A site that the operand network reaches: a CU of the paddock, on this module (log entry 40). -/
def opSite (x : Ctx) (cx cy : Nat) : Bool := inPaddock x cx cy && onModule x cx && !isMu cx

/-- The next CU to the east (R321). -/
def eastOf (u : UId) : UId := siteOf u (if u.x % 4 == 2 then u.x + 2 else u.x + 1) u.y

/-! ### Regions (R292) -/

/-- Region CU (p, q) of the origin `u`. -/
def regionCu (u : UId) (p q : Nat) : UId := siteOf u (u.x + 4 * (q / 3) + q % 3) (u.y + p)

/-- `RR` of a region word. -/
def regRows (w : Word) : Nat := nbits w.toNat 0 5 + 1
/-- `RC`. -/
def regCols (w : Word) : Nat := nbits w.toNat 5 5 + 1
/-- `WB`. -/
def regBank (w : Word) : Nat := nbits w.toNat 10 1

/-- The CUs of a region. -/
def regionCus (u : UId) (w : Word) : List UId :=
  (List.range (regRows w)).flatMap fun p => (List.range (regCols w)).map fun q => regionCu u p q

/-- A region that R301 refuses with subcode 7. -/
def badRegion (x : Ctx) (u : UId) (w : Word) : Bool :=
  w.toNat / 2 ^ 12 != 0 || u.x % 4 != 0 || (regionCus u w).any fun c => !opSite x c.x c.y

/-- A weight bank of a CU; none while it is EMPTY (R290). -/
def bankOf (s : State) (u : UId) (b : Nat) : Option Bank := fget none s.tn.banks (uKey u * 2 + b)

/-! ### What an instance needs (R283) -/

/-- The tags that an instance reads and writes and the arrays it occupies. -/
structure TileUse where
  reads : List (UId × Nat)
  writes : List (UId × Nat)
  arrays : List UId
deriving DecidableEq, Repr

/-- The tag or pair that starts at `t`: its width is known once it is FULL. -/
def pairAt (s : State) (u : UId) (t : Nat) : List (UId × Nat) :=
  let g := tagOf s u t
  (List.range (if g.st == .full then opW g.ef else 1)).map fun k => (u, t + k)

/-- The tags that `n` successive operands from tag `t` on take: the format of the first gives their width once it is FULL, and until then
each takes at least one. -/
def groupTags (s : State) (u : UId) (t n : Nat) : Nat := (if (tagOf s u t).st == .full then opW (tagOf s u t).ef else 1) * n

/-- `n` successive operands of the format of the first, from tag `t` on. -/
def groupAtTag (s : State) (u : UId) (t n : Nat) : List (UId × Nat) := (List.range (groupTags s u t n)).map fun k => (u, t + k)

/-- The tile of a tag holds 32-bit elements. -/
def wideTag (s : State) (u : UId) (t : Nat) : Bool := (tagOf s u t).st == .full && tyW (efTy (tagOf s u t).ef) == 32

/-- The elements of a row of one tile (R280). -/
def rowElems (t : Ty) : Nat := 512 / tyW t

/-- The destination tags of a row of `n` elements of a type: none where it exceeds 128 bytes (R304, R305). -/
def outTags (u : UId) (o n : Nat) (t : Ty) : List (UId × Nat) := if n * tyW t > 512 then [(u, o), (u, o + 1)] else [(u, o)]

/-- An MMAR's needs (R301): the origin's own A tags and every array of the region. -/
def mmarUse (s : State) (f : Fields) (F : Ready) : Except Nat TileUse :=
  let x := ctxOf s F.u.ctx
  let w := kreg s F.u (fld f 0 6)
  let a := fld f 6 5
  let mt := F.l.val.toNat
  if badRegion x F.u w then .error 7
  else if mt < 1 || mt > 32 || fld f 11 6 + mt > accMax x then .error 8
  else if a + groupTags s F.u a mt > 32 then .error 8
  else .ok ⟨groupAtTag s F.u a mt, [], regionCus F.u w⟩

/-- A WLD's needs (R302): `.COL` reads n operands and reaches n CUs of the column. -/
def wldUse (s : State) (f : Fields) (F : Ready) : Except Nat TileUse :=
  let n := if f.fn == 1 then fld f 13 5 + 1 else 1
  if (List.range n).any fun p => !opSite (ctxOf s F.u.ctx) F.u.x (F.u.y + p) then .error 7
  else .ok ⟨groupAtTag s F.u (fld f 0 5) n, [], [F.u]⟩

/-- What the instance of a station needs (R283, R285), or the subcode of the fault that its operands raise; none for an opcode
to which the rule does not apply. -/
def tileUse (s : State) (op : Nat) (f : Fields) (F : Ready) : Option (Except Nat TileUse) :=
  let u := F.u
  let x := ctxOf s u.ctx
  let acc (a : Nat) (n : TileUse) : Option (Except Nat TileUse) := if a ≥ accMax x then some (.error 4) else some (.ok n)
  let src := fld f 0 5
  let dst := fld f 5 5
  match op with
  | 0xB1 => some (.ok ⟨[], [(u, fld f 4 5)], []⟩)
  | 0xB3 => acc (fld f 10 6) ⟨pairAt s u src ++ pairAt s u dst, [], [u]⟩
  | 0xB4 => acc (fld f 10 6) ⟨pairAt s u src ++ pairAt s u dst, [], [u]⟩
  | 0xB5 => acc (fld f 10 6) ⟨pairAt s u src ++ groupAtTag s u dst (f.fn.toNat % 8 + 1), [], [u]⟩
  | 0xB6 => some (mmarUse s f F)
  | 0xB7 => some (wldUse s f F)
  | 0xB8 => acc (fld f 0 6 + fld f 6 6) ⟨[], [], [u]⟩
  | 0xB9 => acc (fld f 6 6) ⟨[], outTags u (fld f 12 5) 32 f.ty, [u]⟩
  | 0xBA =>
    let g := tagOf s u src
    some (.ok ⟨[(u, src)], outTags u dst (if g.st == .full then rowElems (efTy g.ef) else 1) f.ty, [u]⟩)
  | 0xBB => some (.ok ⟨[(u, src)], [(u, dst)], [u]⟩)
  | 0xBC => some (.ok ⟨(u, src) :: (if fld f 15 1 == 1 then [(u, fld f 10 5)] else []), [(u, dst)], [u]⟩)
  | 0xBD => some (.ok (if wideTag s u src then ⟨[(u, src), (u, src + 1)], [(u, dst), (u, dst + 1)], [u]⟩
                       else ⟨[(u, src)], [(u, dst)], [u]⟩))
  | 0xC0 => some (.ok ⟨[(u, fld f 6 5)], [(u, fld f 11 5)], [u]⟩)
  | 0xC1 =>
    if f.fn.toNat < 8 then some (.ok ⟨[(u, fld f 6 5)], [(u, fld f 11 5)], [u]⟩)
    else if !opSite x (eastOf u).x u.y then some (.error 7)
    else some (.ok ⟨[(u, fld f 6 5)], [(eastOf u, fld f 11 5)], [u]⟩)
  | 0xC2 => some (.ok ⟨[], [], [u]⟩)
  | 0xC4 => some (.ok ⟨[(u, fld f 6 5)], [(u, fld f 11 5)], [u]⟩)
  | 0xC5 => some (.ok ⟨[(u, fld f 6 5)], [(u, fld f 11 5)], [u]⟩)
  | _ => none

/-! ### The ranges of the vector instructions (R325) -/

/-- The source handle, the result handle and the consume bit. -/
def bfV (f : Fields) : Nat := fld f 6 5
/-- The result handle. -/
def bfU (f : Fields) : Nat := fld f 11 5

/-- N is a power of two from 2 to 4,096 (R325). -/
def goodN (n : Nat) : Bool := 2 ≤ n && n ≤ 4096 && 2 ^ n.log2 == n

/-- Bytes of a vector of `n` elements. -/
def vecLen (t : Ty) (n : Nat) : Nat := n * tyW t / 8

/-- The stride register of BFLY and the first of BFCH. -/
def bfJ (f : Fields) : Nat := fld f 16 3

/-- The chain length of BFCH (R326). -/
def chainM (F : Ready) : Nat := F.l.val.toNat

/-- The CU of the result handle of an opcode (R321): BFCH.FWD writes to the east. -/
def resultCu (op : Nat) (f : Fields) (F : Ready) : UId := if op == 0xC1 && f.fn.toNat ≥ 8 then eastOf F.u else F.u

/-- The vectors leave the partition, or the source and the result overlap (R326); the source is looked at once its format is known, when
`full`. -/
def badVectors (s : State) (op : Nat) (f : Fields) (F : Ready) (n : Nat) (full : Bool) : Bool :=
  let d := resultCu op f F
  let a := 2048 * (tagOf s F.u (bfV f)).toff
  let b := 2048 * (tagOf s d (bfU f)).toff
  let la := vecLen (efTy (tagOf s F.u (bfV f)).ef) n
  let lb := vecLen f.ty n
  let p := poolSize (ctxOf s F.u.ctx)
  b + lb > p || (full && (a + la > p || (d == F.u && a < b + lb && b < a + la)))

/-- The argument of BPERM is out of range. -/
def permBad (f : Fields) (F : Ready) (n : Nat) : Bool :=
  match f.fn.toNat with
  | 0 => false
  | 1 => nbits F.l.val.toNat 0 4 ≥ n.log2
  | _ => F.l.val.toNat ≥ n

/-- The chain of BFCH is too short, too long, or passes the last stride register (R326). -/
def badChain (f : Fields) (F : Ready) : Bool := chainM F < 1 || chainM F > 8 || bfJ f + chainM F > 8

/-- A range fault of a vector instruction, subcode 8 (R325): N, the chain, the argument of BPERM, or a vector's extent. -/
def rangeFault (s : State) (op : Nat) (f : Fields) (F : Ready) : Bool :=
  let n := (kreg s F.u (fld f 0 6)).toNat
  if op == 0xC0 || op == 0xC1 || op == 0xC4 || op == 0xC5 then
    !goodN n || (op == 0xC1 && badChain f F) || (op == 0xC4 && permBad f F n)
      || badVectors s op f F n ((tagOf s F.u (bfV f)).st == .full)
  else false

/-- A named tag is UNBOUND or its index lies above 31 (R283). -/
def badTag (s : State) (e : UId × Nat) : Bool := e.2 > 31 || (tagOf s e.1 e.2).st == .unbound

/-- The subcode of the tile fault of an instance (R283, R295, R301, R325); none where its tags, accumulators and ranges are in order. -/
def tileFault (s : State) (op : Nat) (f : Fields) (F : Ready) : Option Nat :=
  match tileUse s op f F with
  | some (.error n) => some n
  | some (.ok n) => if (n.reads ++ n.writes).any (badTag s) then some 3 else if rangeFault s op f F then some 8 else none
  | none => none

/-- The subcode of the tile fault that an MMAR instance raises when it becomes complete (R295, R301): its own tags and accumulators. The
region word, and with it subcode 7, is read when the station issues. -/
def mmarTagFault (s : State) (f : Fields) (F : Ready) : Option Nat :=
  let mt := F.l.val.toNat
  let a := fld f 6 5
  if mt < 1 || mt > 32 || fld f 11 6 + mt > accMax (ctxOf s F.u.ctx) || a + groupTags s F.u a mt > 32 then some 8
  else if (groupAtTag s F.u a mt).any (badTag s) then some 3 else none

/-- The subcode of the tile fault that an instance raises when it becomes complete (R283, R295, R325, log entry 45). -/
def completeFault (s : State) (op : Nat) (f : Fields) (F : Ready) : Option Nat :=
  if op == 0xB6 then mmarTagFault s f F else tileFault s op f F

/-- The tags that an operation in progress still writes. -/
def opWrites (s : State) (o : ArrayOp) : List (UId × Nat) :=
  match opOf o.i, fieldsOf o.i with
  | some op, some f => (match tileUse s op.toNat f o.c with | some (.ok n) => n.writes | _ => [])
  | _, _ => []

/-- An array is free. -/
def arrayFree (s : State) (u : UId) : Bool := !s.tn.ops.any fun o => o.us.contains u

/-! ### K registers that array operations read (R291, R318) -/

/-- Weight blocks per K register (R314). -/
def blocksPerK (wf : Nat) : Nat := 2 ^ wf

/-- The K registers of a stage's block table (R318). -/
def stageKs (w : Word) : List Nat :=
  let c := blocksPerK (nbits w.toNat 4 2)
  (List.range ((2 ^ nbits w.toNat 12 4 + c - 1) / c)).map fun k => nbits w.toNat 6 6 + k

/-- The K registers of weights that an array operation reads, with their CUs: a butterfly's block tables and an MMAR's bound
scales. -/
def weightKs (s : State) (op : Nat) (f : Fields) (F : Ready) (reg : Word) : List (UId × Nat) :=
  let stage (j : Nat) : List (UId × Nat) := (stageKs (sdreg s F.u j)).map fun k => (F.u, k)
  match op with
  | 0xC0 => stage (fld f 16 3)
  | 0xC1 => (List.range (min 8 F.l.val.toNat)).flatMap fun n => stage (fld f 16 3 + n)
  | 0xB6 =>
    (regionCus F.u reg).filterMap fun c =>
      match bankOf s c (regBank reg) with
      | some b => if b.bk == 2 then some (c, b.ks) else none
      | none => none
  | _ => []

/-- A held config token keeps back an operation that reads its register and was not complete when it arrived. -/
def weightHeld (s : State) (F : Ready) (e : UId × Nat) : Bool :=
  s.fab.cfgHeld.any fun h => h.u == e.1 && h.obj == .kreg e.2 && !(h.u == F.u && h.before.contains (F.stn, F.seq))

/-- An operation in progress reads a K register of a CU as a weight. -/
def opReadsK (s : State) (u : UId) (k : Nat) : Bool :=
  s.tn.ops.any fun o =>
    match opOf o.i, fieldsOf o.i with
    | some op, some f => (weightKs s op.toNat f o.c (o.k.headD 0)).contains (u, k)
    | _, _ => false

/-- The tile firing rule is met (R283, R285). -/
def tileReady (s : State) (op : Nat) (f : Fields) (F : Ready) : Bool :=
  match tileUse s op f F with
  | some (.ok n) =>
    n.reads.all (fun e => (tagOf s e.1 e.2).st == .full)
      && n.writes.all (fun e => (tagOf s e.1 e.2).st == .empty && !s.tn.ops.any fun o => (opWrites s o).contains e)
      && n.arrays.all (arrayFree s)
      && !(weightKs s op f F (kreg s F.u (fld f 0 6))).any (weightHeld s F)
  | _ => true

/-- An instance waits by R283: none of its tags is at fault, and the rule is not met. -/
def tileWaits (s : State) (op : Nat) (f : Fields) (F : Ready) : Bool :=
  settle true F == .go && (tileFault s op f F).isNone && !tileReady s op f F

end Sys2Proof.Machine
end

