-- ==== Sys2Proof/Machine/Fabric.lean ====
section
/-!
DEFINITION. Tokens between stations: the switches (R16), the matching store, the token hold and the spill table (R61, R64
to R66), the loop-free part of firing, and the three steps that move tokens.
-/

namespace Sys2Proof.Machine

open Sys2Proof

/-! ### Injections (R477) -/

/-- An injection register that nothing has written (R477). -/
def injReset : Inj := { ik := 0, ibt := 0, ix := 0, iy := 0, iof := 0, iar := false }

/-- A die's injection register. -/
def injOf (s : State) (d : Nat) : Inj := fget injReset s.un.inj d

/-- Writes a die's injection register. -/
def setInj (s : State) (d : Nat) (i : Inj) : State := { s with un := { s.un with inj := fset injReset s.un.inj d i } }

/-- An armed injection of a kind at a unit's site, which IX and IY name by its absolute coordinates (R7, R477). -/
def injAt (s : State) (u : UId) (k : Nat) : Bool :=
  let i := injOf s (dieOf s u)
  i.iar && i.ik == k && (i.ix, i.iy) == diePos s u

/-- The injection of a die fires once: IAR is cleared. -/
def injFire (s : State) (u : UId) : State := setInj s (dieOf s u) { injOf s (dieOf s u) with iar := false }

/-- The bit IBT as a mask of `w` bits; no bit where it lies outside the field. -/
def injMask (s : State) (u : UId) (w : Nat) : BitVec w := BitVec.ofNat w (2 ^ (injOf s (dieOf s u)).ibt)

/-- A token as its switch delivers it, with an injection of kind 1 or 5 applied. -/
def injDeliver (s : State) (u : UId) (t : Flit) : Flit × State :=
  if injAt s u 1 then ({ t with res := t.res ^^^ injMask s u 4 }, injFire s u)
  else if injAt s u 5 then
    let v := t.val ^^^ injMask s u 64
    ({ t with val := v, res := res15 v }, injFire s u)
  else (t, s)

/-- A token as its switch forwards it, with an injection of kind 2 applied. -/
def injForward (s : State) (u : UId) (t : Flit) : Flit × State :=
  if injAt s u 2 then ({ t with rid := t.rid ^^^ injMask s u 8 }, injFire s u) else (t, s)

/-! ### Stations -/

/-- The word of a station. -/
def stationWord (s : State) (u : UId) (n : Nat) : Word := fget 0 s.fab.stations (uKey u * 128 + n)

/-- The field code that a trapping station keeps (R48); 0 for a station that is not trapping. -/
def trappingCode (s : State) (u : UId) (n : Nat) : Nat := fget 0 s.fab.trapping (uKey u * 128 + n)

/-- A station that holds opcode `op` and is not trapping. -/
def holdsOp (s : State) (u : UId) (n : Nat) (op : BitVec 8) : Bool :=
  trappingCode s u n == 0 && opOfWord (stationWord s u n) == op

/-- Two tokens carry one tag at one station (R60). -/
def sameTag (a b : Flit) : Bool := a.stn == b.stn && a.col == b.col && a.itr == b.itr

/-- The positions that a station needs (R61): L, R in mode 00, P when PD is 1. -/
def needs (w : Word) : List (BitVec 2) :=
  let f := unpack w
  [0] ++ (if f.src == .toks then [1] else []) ++ (if f.pd then [2] else [])

/-! ### What reads a config token's object (R363) -/

/-- The K registers that a station word names (R363): the right operand of mode 01, and the registers that the entries of
the later chapters place in IMM. -/
def namesK (op : BitVec 8) (f : Fields) : List Nat :=
  let k (lo : Nat) : List Nat := [fld f lo 6]
  let base := if f.src == .kreg then k 0 else []
  match op.toNat with
  | 0x02 => if f.fn == 1 then k 0 else []
  | 0x1D => if f.src == .unary then k 0 else []
  | 0x1F => if f.src == .unary then k 0 else []
  | 0x70 => k 0
  | 0x89 => k 0
  | 0xA0 => k 0
  | 0xA1 => k 0
  | 0xA2 => k 0 ++ (if f.fn == 1 then k 6 else [])
  | 0xA3 => k 4
  | 0xA4 => k 4
  | 0xA6 => k 6
  | 0xA9 => k 0
  | 0xAA => k 0
  | 0xAB => k 0 ++ k 6
  | 0xAC => if f.fn == 0 then k 0 else []
  | 0xB7 => k 7
  | 0xBE => k 8 ++ k 14
  | 0xD0 => (List.range 4).map fun j => fld f 0 6 + j
  | 0xD1 => if f.fn == 0 then base else []
  | 0xD8 => k 9
  | 0xD9 => k 8
  | _ => base

/-- The word reads a K register whose number a token gives: KSET and KGET of SRC 00 (R363). -/
def readsAnyK (op : BitVec 8) (f : Fields) : Bool := (op == 0x1D || op == 0x1F) && f.src == .toks

/-- A station is a reader of a config token's object (R363). -/
def readsObj (s : State) (u : UId) (n : Nat) (o : CfgObj) : Bool :=
  let w := stationWord s u n
  match o with
  | .stn m => m == n
  | .kreg k => (namesK (opOfWord w) (unpack w)).contains k || readsAnyK (opOfWord w) (unpack w)

/-! ### The spill table (R66) -/

/-- The product of R66 whose top bits give the home index. -/
def spillHash (u : UId) (t : Flit) : Nat :=
  let key := t.itr.toNat + 2 ^ 16 * t.col.toNat + 2 ^ 28 * t.ctx.toNat + 2 ^ 37 * t.stn.toNat + 2 ^ 44 * u.y + 2 ^ 51 * u.x
  key * 0x9E3779B97F4A7C15 % 2 ^ 64

/-- The home index h of R66. -/
def spillHome (x : Ctx) (u : UId) (t : Flit) : Nat := spillHash u t / 2 ^ (64 - x.splLog)

/-- The virtual address of a spill-table entry. -/
def spillVa (x : Ctx) (i : Nat) : Nat := x.splBase + 32 * (i % 2 ^ x.splLog)

/-- The physical address of a spill-table entry. -/
def spillPhys (s : State) (x : Ctx) (i : Nat) : Except XFault Nat :=
  (translateNow s x .write (spillVa x i)).map fun a => a.phys

/-- A token record (R400). -/
def recordBytes (u : UId) (hold : Bool) (seq : Nat) (t : Flit) : List Byte :=
  leBytes (packFlit t).toNat 20 ++ leBytes u.x 1 ++ leBytes u.y 1 ++ leBytes seq 2
    ++ leBytes (1 + (if hold then 2 else 0)) 1 ++ leBytes 0 7

/-- The token of a paddock copy that a record holds; none where its valid bit is 0 (R400). -/
def recordOf (c k : Nat) (bs : List Byte) : Option Waiting :=
  let n := leNat bs
  let g := nbits n 192 8
  if g % 2 == 0 then none
  else some { u := { ctx := c, copy := k, x := nbits n 160 8, y := nbits n 168 8 }, hold := nbits g 1 1 == 1,
              seq := nbits n 176 16, tok := unpackFlit (BitVec.ofNat 160 n) }

/-- The key under which the model keeps the copy of a spill-table entry's token. -/
def twinKey (x : Ctx) (i : Nat) : Nat := x.id * 2 ^ 24 + i % 2 ^ x.splLog

/-- A spilled token with its index and its entry's physical address. -/
structure Spilled where
  i : Nat
  phys : Nat
  w : Waiting
deriving DecidableEq, Repr

/-- The valid entry at an index of the spill table. -/
def spillAt (s : State) (c i : Nat) : Option Spilled :=
  let x := ctxOf s c
  match spillPhys s x i with
  | .error _ => none
  | .ok p => (recordOf c (fget 0 s.fab.spillTwin (twinKey x i)) (rdBytes s p 32)).map fun w => ⟨i, p, w⟩

/-- The 16 indices that a token probes (R66). -/
def spillIdx (s : State) (u : UId) (t : Flit) : List Nat :=
  let h := spillHome (ctxOf s u.ctx) u t
  (List.range 16).map fun k => h + k

/-- The summary counter's key for a token (R66). -/
def sumKey (u : UId) (t : Flit) : Nat := uKey u * 256 + spillHash u t / 2 ^ 56

/-- Adds to a summary counter, which has 16 bits. -/
def addSum (s : State) (u : UId) (t : Flit) (d : Int) : State :=
  let k := sumKey u t
  { s with fab := { s.fab with summary := fset 0 s.fab.summary k (((fget 0 s.fab.summary k : Nat) + d) % 65536).toNat } }

/-- The summary counter of a token's tag is not zero: a probe is needed (R66). -/
def maySpill (s : State) (u : UId) (t : Flit) : Bool := fget 0 s.fab.summary (sumKey u t) != 0

/-- The older of two spilled tokens. -/
def olderSpilled (a : Option Spilled) (b : Spilled) : Option Spilled :=
  match a with
  | some e => if olderSeq b.w.seq e.w.seq then some b else some e
  | none => some b

/-- The oldest spilled token of a unit, tag and position among the probed entries. -/
def spillFind (s : State) (u : UId) (t : Flit) (pos : BitVec 2) : Option Spilled :=
  if !maySpill s u t then none
  else (((spillIdx s u t).filterMap (spillAt s u.ctx)).filter
    fun e => e.w.u == u && sameTag e.w.tok t && e.w.tok.pos == pos).foldl olderSpilled none

/-- The tokens of a CU that stand in the spill table. -/
def spilledAt (s : State) (u : UId) : List Spilled :=
  if !s.fab.summary.any (fun e => uKey u * 256 ≤ e.1 && e.1 < uKey u * 256 + 256) then []
  else ((List.range (2 ^ (ctxOf s u.ctx).splLog)).filterMap (spillAt s u.ctx)).filter fun e => e.w.u == u

/-- One of the 16 entries that a token's probe reads holds an uncorrectable error (R469). -/
def spillUpset (s : State) (u : UId) (t : Flit) : Bool :=
  !s.un.upsets.isEmpty && (spillIdx s u t).any fun i =>
    match spillPhys s (ctxOf s u.ctx) i with
    | .ok p => upsetIn s p 32
    | .error _ => false

/-- A probe of the spill table for a token reads its entries: an uncorrectable error is recorded against the token's colour. -/
def noteProbe (s : State) (u : UId) (t : Flit) : State := noteRead s u t.col.toNat (spillUpset s u t)

/-- Takes an entry out of the spill table. -/
def spillTake (s : State) (e : Spilled) : State :=
  let k := twinKey (ctxOf s e.w.u.ctx) e.i
  addSum { wrN s e.phys 32 0 with fab := { s.fab with spillTwin := fset 0 s.fab.spillTwin k 0 } } e.w.u e.w.tok (-1)

/-- The first of the 16 probed entries that is not valid; an error where a page fails or all are valid. -/
def spillFree (s : State) (u : UId) (t : Flit) : Except XFault (Nat × Nat) :=
  let x := ctxOf s u.ctx
  (spillIdx s u t).foldr (fun i rest =>
    match spillPhys s x i with
    | .error e => .error e
    | .ok p => if rd8 s (p + 24) &&& 1 == 0 then .ok (i, p) else rest)
    (.error ⟨0x1B, 0, 0, 0⟩)

/-- Writes a token into an entry of the spill table, given by its index and address (R66). -/
def spillPut (s : State) (e : Nat × Nat) (u : UId) (seq : Nat) (t : Flit) : State :=
  addSum { wrBytes s e.2 (recordBytes u false seq t) with
    fab := { s.fab with spillTwin := fset 0 s.fab.spillTwin (twinKey (ctxOf s u.ctx) e.1) u.copy } } u t 1

/-! ### Matching (R61, R64, R65) -/

/-- The token of a tag that waits at a position of a station in the store or the hold. -/
def waitingAt (s : State) (u : UId) (t : Flit) (pos : BitVec 2) : Option Waiting :=
  s.fab.waiting.find? fun w => w.u == u && sameTag w.tok t && w.tok.pos == pos

/-- A complete instance of the same station and tag has not issued yet. -/
def readyTag (s : State) (u : UId) (t : Flit) : Bool := s.fab.ready.any fun r => r.u == u && r.stn == t.stn.toNat && sameTag r.l t

/-- The tokens of a CU in one tier. -/
def tierCount (s : State) (u : UId) (hold : Bool) : Nat := (s.fab.waiting.filter fun w => w.u == u && w.hold == hold).length

/-- A firing that stands for one token alone: the faulting "firing" of SPILL_FULL (R66). -/
def tokFiring (u : UId) (seq : Nat) (t : Flit) : Ready :=
  { u := u, stn := t.stn.toNat, seq := seq, l := t, r := none, p := none, near := false, again := false, matched := false, pair := none }

/-- Places a token in the nearest tier that can take it (R64); a token that finds all 16 entries valid faults SPILL_FULL
(R66). -/
def park (s : State) (u : UId) (seq : Nat) (t : Flit) : State :=
  let add (hold : Bool) : State :=
    { s with fab := { s.fab with waiting := s.fab.waiting ++ [{ u := u, hold := hold, seq := seq, tok := t }] } }
  if tierCount s u false < 64 then add false
  else if tierCount s u true < 512 * holdGran (ctxOf s u.ctx).part then add true
  else match spillFree s u t with
  | .ok p => spillPut (noteProbe s u t) p u seq t
  | .error e => raiseWith true (tokFiring u seq t)
      { kind := e.kind, flg := e.flg, lvl := e.lvl, va := BitVec.ofNat 64 e.va,
        fks := if e.kind == 0x1B then spillHome (ctxOf s u.ctx) u t else 0 } s

/-- The oldest token that waits for a tag at a position: where it stood, and the state without it. A token gives up its place in the
store, the hold or the spill table here, as its instance becomes complete, not when the instance issues (log entry 87). -/
def partner (s : State) (probe : Bool) (u : UId) (t : Flit) (pos : BitVec 2) : Option (Waiting × Bool × State) :=
  let near (w : Waiting) : Waiting × Bool × State := (w, !w.hold, { s with fab := { s.fab with waiting := s.fab.waiting.erase w } })
  match waitingAt s u t pos, (if probe then spillFind s u t pos else none) with
  | some w, some e => some (if olderSeq e.w.seq w.seq then (e.w, false, spillTake s e) else near w)
  | some w, none => some (near w)
  | none, some e => some (e.w, false, spillTake s e)
  | none, none => none

/-- Gathers the tokens of the needed positions, `t` standing at its own; none where one is missing. -/
def gather (probe : Bool) (u : UId) (t : Flit) (own : Bool) : List (BitVec 2) → State → Option (List Waiting × Bool × State)
  | [], s => some ([], true, s)
  | p :: ps, s =>
    if own && p == t.pos then gather probe u t own ps s
    else match partner s probe u t p with
    | none => none
    | some (k, near, s1) => (gather probe u t own ps s1).map fun g => (k :: g.1, near && g.2.1, g.2.2)

/-- The token of a position among those gathered. -/
def pick (ts : List Waiting) (p : BitVec 2) : Option Flit := (ts.find? fun w => w.tok.pos == p).map fun w => w.tok

/-- The later of two arrivals: the one that completes an instance (R68). -/
def laterSeq (a b : Nat) : Nat := if olderSeq a b then b else a

/-- The sequence number of the arrival that completed an instance (R68): the last of its tokens. -/
def lastSeq (ws : List Waiting) (n : Nat) : Nat :=
  match ws with
  | [] => n
  | w :: ws => ws.foldl (fun m k => laterSeq m k.seq) w.seq

/-- The firing of the gathered tokens. -/
def firingOf (u : UId) (stn seq : Nat) (ts : List Waiting) (near : Bool) (t : Flit) : Ready :=
  { u := u, stn := stn, seq := seq, l := (pick ts 0).getD t, r := pick ts 1, p := pick ts 2, near := near, again := false,
    matched := false, pair := none }

/-- An instance has become complete (R61): a tile or range fault of its operands is raised now (R283, R295, R325), and any other instance becomes
ready. While a config token is held of an object that the station reads, the instance waits for it, and the check is made once it has been
applied (R363). -/
def completeAt (s : State) (F : Ready) : State :=
  let w := stationWord s F.u F.stn
  if trappingCode s F.u F.stn != 0 || settle true F != .go || (s.fab.cfgHeld.any fun h => h.u == F.u && readsObj s F.u F.stn h.obj)
  then addReady s F
  else match completeFault s (opOfWord w).toNat (unpack w) F with
  | some n => raiseSub F 0x1E n s
  | none => addReady s F

/-- The number of inputs a FENCE word joins (R203). -/
def fenceN (w : Word) : Nat := (unpack w).imm.toNat % 256

/-- The value of a FENCE count's entry: tokens arrived in [31:0], those neither null nor end-of-fibre above (R203, R400). -/
def fenceVal (arrived vals : Nat) : Word := BitVec.ofNat 64 (arrived + 2 ^ 32 * vals)

/-- What a FENCE instance has become once `a` tokens have arrived, `v` of them neither null nor end-of-fibre: ready with `v` as its value, or
a count that waits. -/
def fenceAt (s : State) (u : UId) (seq : Nat) (near : Bool) (t : Flit) (a v : Nat) : State :=
  let tok (w : Word) : Flit := { t with kind := kValue, val := w, res := res15 w }
  if a ≥ fenceN (stationWord s u t.stn.toNat) then addReady s { tokFiring u seq (tok (BitVec.ofNat 64 v)) with near := near }
  else park s u seq (tok (fenceVal a v))

/-- An arrival at a FENCE station (R203): it counts, and the n-th makes the instance ready with the count as its value. -/
def arriveFence (s : State) (u : UId) (seq : Nat) (t : Flit) (probe : Bool) : State :=
  let q := (partner s probe u t 0).getD ({ u := u, hold := false, seq := seq, tok := { t with val := 0 } }, true, s)
  fenceAt q.2.2 u seq q.2.1 t (nbits q.1.tok.val.toNat 0 32 + 1) (nbits q.1.tok.val.toNat 32 32 + (if isVal t then 1 else 0))

/-- An arrival at any other station (R61, R64): it completes an instance, or waits in a tier. -/
def arriveAt (s : State) (u : UId) (seq : Nat) (t : Flit) (probe : Bool) : State :=
  let w := stationWord s u t.stn.toNat
  let occupied := readyTag s u t || (waitingAt s u t t.pos).isSome || (probe && (spillFind s u t t.pos).isSome)
  if !(needs w).contains t.pos || occupied then park s u seq t
  else match gather probe u t true (needs w) s with
  | some (ts, near, s1) =>
    completeAt s1 (firingOf u t.stn.toNat (lastSeq ts seq |> laterSeq seq) ({ u := u, hold := false, seq := seq, tok := t } :: ts) near t)
  | none => park s u seq t

/-- A token takes its place at its station: FENCE counts those that arrive at L (R203), every other station matches. A token whose summary
counter is not zero probes the spill table first: an older token of its tag and position may stand there (R61, R66, log entry 88). -/
def place (s : State) (u : UId) (seq : Nat) (t : Flit) (probe : Bool) : State :=
  if maySpill s u t && !probe then { s with fab := { s.fab with probes := s.fab.probes ++ [{ u := u, seq := seq, tok := t }] } }
  else
    let s := if probe then noteProbe s u t else s
    if holdsOp s u t.stn.toNat 0x6B && t.pos == 0 then arriveFence s u seq t probe
    else arriveAt s u seq t probe

/-- Once a firing has consumed its operands, tokens that waited behind them may complete the next instance (R61). -/
def rematch (s : State) (F : Ready) : State :=
  let w := stationWord s F.u F.stn
  if readyTag s F.u F.l || holdsOp s F.u F.stn 0x6B || holdsOp s F.u F.stn 0x00 then s
  else match gather true F.u F.l false (needs w) s with
  | none => s
  | some (ts, near, s1) => completeAt s1 (firingOf F.u F.stn (lastSeq ts F.seq) ts near F.l)

/-! ### The steps -/

/-- The output port that a flight wants (R16): x first, then y, then the local port. -/
def wants (f : Flight) : Port :=
  if f.rx > 0 then .e else if f.rx < 0 then .w else if f.ry > 0 then .n else if f.ry < 0 then .s else .loc

/-- The ports in round-robin order (R16). -/
def portList : List Port := [.loc, .n, .e, .s, .w]

/-- A port's number in that order. -/
def portNum : Port → Nat
  | .loc => 0 | .n => 1 | .e => 2 | .s => 3 | .w => 4

/-- The oldest flight at an input port of a switch. -/
def headFlight (s : State) (u : UId) (p : Port) : Option Flight := s.fab.flights.find? fun f => f.u == u && f.port == p

/-- The flight that a switch grants an output port (R16): round robin over the input ports whose oldest token wants it,
starting after the last winner. -/
def grant (s : State) (u : UId) (out : Port) : Option Flight :=
  let st := fget 0 s.fab.rr (siteKey s u * 5 + portNum out)
  ((portList.rotate st).filterMap fun p => headFlight s u p).find? fun f => wants f == out

/-- The token passes the route check of a switch (R40). -/
def ridOk (s : State) (t : Flit) : Bool := t.rid == ridOf (ctxOf s t.ctx.toNat).key t.stn t.pos

/-- One hop towards the destination: the neighbour, its input port and the remaining displacement. -/
def hop (f : Flight) : Flight :=
  let t := fun (x y : Int) => { f.tok with dx := BitVec.ofInt 8 x, dy := BitVec.ofInt 8 y }
  match wants f with
  | .e => { f with u := { f.u with x := f.u.x + 1 }, port := .w, rx := f.rx - 1, tok := t (f.rx - 1) f.ry }
  | .w => { f with u := { f.u with x := f.u.x - 1 }, port := .e, rx := f.rx + 1, tok := t (f.rx + 1) f.ry }
  | .n => { f with u := { f.u with y := f.u.y + 1 }, port := .s, ry := f.ry - 1, tok := t f.rx (f.ry - 1) }
  | .s => { f with u := { f.u with y := f.u.y - 1 }, port := .n, ry := f.ry + 1, tok := t f.rx (f.ry + 1) }
  | .loc => f

/-- The header is one that no unit accepts (R57, R58): a reserved bit, kind 7, or POS 11. -/
def badHeader (t : Flit) : Bool := t.rsv != 0 || t.kind == 7 || t.pos == 3

/-- A purge or a fault marker: a kind that no station matches (R58). The model's purges and markers do not travel between units, so such a flit
comes only from outside, and a unit that it reaches takes it off its way without effect (log entry 89). -/
def neverMatches (t : Flit) : Bool := t.kind == 4 || t.kind == kMarker

/-- A delivered token reaches its unit: a CU's arrivals, or an MU's write queues (R36), which discard a header that no unit accepts and a
config token, whose destination is a CU (R57, R58, R362). -/
def deliver (s : State) (u : UId) (t : Flit) (l : Option CfgLoad) : State :=
  let d := injDeliver s u t
  if isMu u.x then
    if badHeader d.1 || d.1.kind == kConfig then trapErr d.2 u d.1.col.toNat 0x11
    else if neverMatches d.1 then d.2
    else { d.2 with cp := { d.2.cp with toQueues := d.2.cp.toQueues ++ [{ u := u, port := .loc, rx := 0, ry := 0, tok := d.1, cfg := none }] } }
  else { d.2 with fab := { d.2.fab with arrivals := d.2.fab.arrivals ++ [{ u := u, own := false, tok := d.1, cfg := l }] } }

/-- The flight's next hop leaves its paddock. -/
def leavesPaddock (x : Ctx) (f : Flight) : Bool :=
  match wants f with
  | .e => f.u.x + 1 ≥ padW x
  | .w => f.u.x == 0
  | .n => f.u.y + 1 ≥ x.ph
  | .s => f.u.y == 0
  | .loc => false

/-- The module coordinate that a flight's next hop reaches; none beyond the module's edge. -/
def hopPos (p : Nat × Nat) : Port → Option (Nat × Nat)
  | .e => some (p.1 + 1, p.2)
  | .w => if p.1 == 0 then none else some (p.1 - 1, p.2)
  | .n => some (p.1, p.2 + 1)
  | .s => if p.2 == 0 then none else some (p.1, p.2 - 1)
  | .loc => some p

/-- The world of the block at a position of the module (R27): that of the paddock that covers it, and where none does the one that its row's
`NSR` bit assigns (R479). -/
def blockSecure (s : State) (p : Nat × Nat) : Bool :=
  match s.ctxs.find? fun y => coversPos y p with
  | some y => isSecure y
  | none => !(dieReg s (dieAt p)).nsr.getLsbD (p.2 % 48)

/-- A token that would leave its paddock would cross into the other world (R27, log entry 89). -/
def crossesWorld (s : State) (u : UId) (out : Port) : Bool :=
  match hopPos (modPos s u) out with
  | none => false
  | some p => blockSecure s p != isSecure (ctxOf s u.ctx)

/-- A border switch refuses a token that would cross between worlds (R27): WORLD, a precise fault (R428) whose record names the switch and
carries the token's header. The token itself is gone, so the fault holds no marker; a paddock that drains counts an orphan, and while
another fault is pending nothing more is recorded (log entry 89). -/
def raiseBorder (s : State) (u : UId) (t : Flit) : State :=
  let x := ctxOf s u.ctx
  if x.cst == .draining then addOrph s u.ctx 1
  else if !emitsTokens x || x.frz.fault then s
  else recordFault s (tokFiring u 0 t)
    { kind := 0x1A, flg := 0, lvl := 0, fks := 0, va := 0, x := relCol x u.x, y := u.y, stn := t.stn.toNat, mod := memberOf x u.x,
      hdr := (packFlit t).extractLsb' 64 96, col := t.col.toNat, cid := 0, seq := faultSeq x, rv := 0, pv := 0 } none false

/-- A token at the border of its paddock is refused (R16, R27, R40). -/
def refuseBorder (s : State) (u : UId) (out : Port) (t : Flit) : State :=
  if crossesWorld s u out then raiseBorder s u t else trapErr s u t.col.toNat 0x11

/-- The tokens of the context move: it covers units and its stop has not been sent. -/
def tokensMove (s : State) (c : Nat) : Bool := emitsTokens (ctxOf s c)

/-- A switch forwards one token (R16); in a context that still loads, as a member of an outing may when another one runs already,
the tokens wait. The granted input wins, a token whose RID or CTX fails is discarded and records
ROUTE, and any other moves one hop or is delivered. -/
def bodyTokenHop (u : UId) (out : Port) (s : State) : State :=
  match (if (ctxOf s u.ctx).cst == .loading then none else grant s u out) with
  | none => s
  | some f =>
    let s := { s with fab := { s.fab with flights := s.fab.flights.erase f,
                                          rr := fset 0 s.fab.rr (siteKey s u * 5 + portNum out) ((portNum f.port + 1) % 5) } }
    if !tokensMove s u.ctx then s
    else if f.tok.ctx.toNat != u.ctx || !ridOk s f.tok then trapErr s u f.tok.col.toNat 0x11
    else if leavesPaddock (ctxOf s u.ctx) f then refuseBorder s u out f.tok
    else match out with
    | .loc => deliver s u f.tok f.cfg
    | _ =>
      let k := injForward s u f.tok
      let g := hop { f with tok := k.1 }
      let x := ctxOf s u.ctx
      if onModule x g.u.x then { k.2 with fab := { k.2.fab with flights := k.2.fab.flights ++ [g] } }
      else sendOut k.2 x (memberAt x g.u.x) (.token g)

/-- TOKEN_HOP. -/
def execTokenHop (u : UId) (out : Port) (s : State) : Host.Outcome State Fault Refusal := done s (bodyTokenHop u out s)

/-- A token reaches a CU (R64): it is discarded with ROUTE (R57, R58), counted as an orphan at a NOP station (R81), or
takes the next arrival sequence number and its place. A purge or a marker matches nothing (R58). A config token is CONFIG_TOKEN_ARRIVAL's to take, and those behind it on its way wait
for that (R362). -/
def bodyTokenArrival (u : UId) (own : Bool) (s : State) : State :=
  match s.fab.arrivals.find? fun a => a.u == u && a.own == own with
  | none => s
  | some a =>
    if a.tok.kind == kConfig && tokensMove s u.ctx then s
    else
    let s := { s with fab := { s.fab with arrivals := s.fab.arrivals.erase a } }
    if !tokensMove s u.ctx then s
    else if badHeader a.tok then trapErr s u a.tok.col.toNat 0x11
    else if neverMatches a.tok then s
    else if holdsOp s u a.tok.stn.toNat 0x00 then addOrph s u.ctx 1
    else
      let q := nextSeq s u
      place q.2 u q.1 a.tok false

/-- TOKEN_ARRIVAL. -/
def execTokenArrival (u : UId) (own : Bool) (s : State) : Host.Outcome State Fault Refusal := done s (bodyTokenArrival u own s)

/-- A spill-table probe returns (R66, R67): the token completes its instance or waits. -/
def bodySpillProbeDone (u : UId) (s : State) : State :=
  match s.fab.probes.find? fun p => p.u == u with
  | none => s
  | some p =>
    let s := { s with fab := { s.fab with probes := s.fab.probes.erase p } }
    if tokensMove s u.ctx then place s u p.seq p.tok true else s

/-- SPILL_PROBE_DONE. -/
def execSpillProbeDone (u : UId) (s : State) : Host.Outcome State Fault Refusal := done s (bodySpillProbeDone u s)

end Sys2Proof.Machine
end

