-- ==== Sys2Proof/Machine/Issue.lean ====
section
/-!
DEFINITION. Issue (R63, R67 to R70): which ready instance of a CU goes next, which others gather with it, what an issue
counts and charges (R403, R406), and the firings that wait for a twin's digest (R470).
-/

namespace Sys2Proof.Machine

open Sys2Proof

/-! ### What holds an instance back -/

/-- A held config token keeps back the instances that became complete after it arrived (R363). -/
def configBlocked (s : State) (F : Ready) : Bool :=
  s.fab.cfgHeld.any fun h => h.u == F.u && readsObj s F.u F.stn h.obj && !h.before.contains (F.stn, F.seq)

/-- The live frame of an ITER.ENTER station and colour (R71). -/
def frameOf (s : State) (u : UId) (stn col : Nat) : Option Frame :=
  s.fab.frames.find? fun r => r.u == u && r.stn == stn && r.col == col

/-- The full iteration of a firing (R72): the k in [HEAD − 255, HEAD] that ITR names. -/
def fullIter (r : Frame) (itr : Nat) : Option Nat :=
  let d := (r.head % 65536 + 65536 - itr % 65536) % 65536
  if d ≤ 255 && d ≤ r.head then some (r.head - d) else none

/-- ITER.ENTER waits while a frame of its station and colour is live or all 16 are in use (R91). -/
def enterWaits (s : State) (F : Ready) : Bool :=
  !isNull F.l && ((frameOf s F.u F.stn (fcol F)).isSome || (s.fab.frames.filter fun r => r.u == F.u).length ≥ 16)

/-- ITER.NEXT.STEP waits until k + 1 − BASE < W (R92). -/
def stepWaits (s : State) (f : Fields) (F : Ready) : Bool :=
  if isNull F.l then false
  else match frameOf s F.u (fld f 0 7) (fcol F) with
  | none => false
  | some r =>
    match fullIter r (fitr F) with
    | none => false
    | some k => r.base ≤ k && k + 1 - r.base ≥ r.w

/-- A request of a CU on its way to another module. -/
def leavingReq (u : UId) : Cargo → Bool
  | .request _ _ c _ _ => c.u == u
  | _ => false

/-- Requests of a CU that wait at a copy unit, a ring, a barrier's retry buffer, a binning engine or a mailbox, or are on their way to another
module (R475). A request that has reached another module is not seen from here (log entry 103). -/
def waitingReqs (s : State) (u : UId) : Bool :=
  (s.cp.queue.any fun r => r.c.u == u) || (s.cp.retry.any fun r => r.req.c.u == u) || (s.cp.puts.any fun p => p.req.c.u == u)
    || (s.cp.binds.any fun b => (b.maker.toList ++ b.waiting).any fun r => r.c.u == u) || (s.svc.parts.any fun r => r.c.u == u)
    || (s.lk.egress.any fun e => leavingReq u e.2.2) || (s.lk.ports.any fun e => e.2.tx.any fun f => leavingReq u f.cargo)

/-- Memory requests of a CU that have neither replied nor been parked (R475). -/
def outstanding (s : State) (u : UId) : Bool :=
  waitingReqs s u ||
  (s.mu.reqs.any fun r => r.c.u == u) || (s.mu.loads.any fun r => r.req.c.u == u) || (s.mu.atomics.any fun r => r.req.c.u == u)
    || (s.tr.walks.any fun r => r.req.c.u == u) || (s.tr.heldHost.any fun r => r.req.c.u == u)
    || (s.un.errs.any fun e => e.reply.any fun t => t.tok.ctx.toNat == u.ctx && e.u.copy == u.copy)

/-- P is an operand and not a predicate (R128, R196, R212, R250). -/
def pOperand (op : BitVec 8) (F : Ready) : Bool :=
  match op.toNat with
  | 0x43 => true
  | 0x57 => true
  | 0x63 => true
  | 0x87 => true
  | 0xA2 => true
  | 0x22 => isCarry F
  | 0x23 => isCarry F
  | 0x25 => isCarry F
  | _ => false

/-- The firing waits, unissued, by the rule of its own entry. -/
def entryWaits (s : State) (F : Ready) : Bool :=
  let w := stationWord s F.u F.stn
  let f := unpack w
  let go := settle true F == .go
  match (opOfWord w).toNat with
  | 0x0A => enterWaits s F
  | 0x0B => f.fn == 0 && stepWaits s f F
  | 0x19 => go && outstanding s F.u
  | n => tileWaits s n f F

/-- A ready instance may issue now. NOP never issues (R81). -/
def mayIssue (s : State) (F : Ready) : Bool :=
  (isRunning (ctxOf s F.u.ctx) || isStopping (ctxOf s F.u.ctx)) && !configBlocked s F && !holdsOp s F.u F.stn 0x00 && (trappingCode s F.u F.stn != 0 || !entryWaits s F)

/-! ### The choice (R68, R69) -/

/-- Puts an instance into a list that stands oldest first. -/
def insertOldest (r : Ready) : List Ready → List Ready
  | [] => [r]
  | a :: as => if olderSeq r.seq a.seq then r :: a :: as else a :: insertOldest r as

/-- A complete instance waits for its tags, outside the ready queue (R283). -/
def tagsWait (s : State) (F : Ready) : Bool :=
  let w := stationWord s F.u F.stn
  trappingCode s F.u F.stn == 0 && tileWaits s (opOfWord w).toNat (unpack w) F

/-- The CU's 64-entry ready queue (R68): the complete instances that are ready, in arrival order. -/
def readyQueue (s : State) (u : UId) : List Ready :=
  ((s.fab.ready.filter fun r => r.u == u && !tagsWait s r).foldr insertOldest []).take 64

/-- The instance is urgent: its station has U = 1, or it has waited 2^14 arrivals (R68). -/
def urgent (s : State) (F : Ready) : Bool :=
  (unpack (stationWord s F.u F.stn)).u || (fget 0 s.fab.seqs (uKey F.u) + 65536 - F.seq % 65536) % 65536 ≥ 2 ^ 14

/-- a goes before b (R68). -/
def goesBefore (s : State) (a b : Ready) : Bool :=
  if urgent s a == urgent s b then olderSeq a.seq b.seq else urgent s a

/-- The instance that issues next. -/
def leader (s : State) (u : UId) : Option Ready :=
  ((readyQueue s u).filter (mayIssue s)).foldl
    (fun b r => match b with | none => some r | some c => if goesBefore s r c then some r else some c) none

/-- Gathering applies to the opcode (R69). -/
def gathers (op : BitVec 8) : Bool :=
  let n := op.toNat
  (0x01 ≤ n && n ≤ 0x09) || (0x0D ≤ n && n ≤ 0x0F) || (0x20 ≤ n && n ≤ 0x3E) || (0x40 ≤ n && n ≤ 0x5A)

/-- Keeps the first instance of each tag that is not among `seen`. -/
def freshTags : List Flit → List Ready → List Ready
  | _, [] => []
  | seen, r :: rs => if seen.any (sameTag r.l) then freshTags seen rs else r :: freshTags (r.l :: seen) rs

/-- The instances that issue together (R69), the leader first and the others oldest first. -/
def lanesOf (s : State) (F : Ready) : List Ready :=
  let w := stationWord s F.u F.stn
  if !gathers (opOfWord w) || !F.near then [F]
  else
    let others := (readyQueue s F.u).filter fun r => r != F && r.stn == F.stn && r.near && mayIssue s r
    let n := if (unpack w).ty == .f64 then 1 else 7
    F :: (freshTags [F.l] (others.foldr insertOldest [])).take n

/-! ### Charges (R406) -/

/-- The energy class of an instance that computes; none where the class is charged at acceptance (EW7). -/
def energyClass (op : BitVec 8) (F : Ready) : Option Nat :=
  let n := op.toNat
  let inOwn := F.l.val.getLsbD 63 != F.l.val.getLsbD 62
  if n == 0x24 || n == 0x25 || n == 0x26 || n == 0x27 || n == 0x3E then some 2
  else if 0x20 ≤ n && n ≤ 0x3D then some 1
  else if 0x4E ≤ n && n ≤ 0x56 then some 4
  else if 0x40 ≤ n && n ≤ 0x5A then some 3
  else if (0x60 ≤ n && n ≤ 0x65) || (0x80 ≤ n && n ≤ 0x8A) then some (if inOwn then 5 else 6)
  else if n == 0x69 || n == 0x70 || n == 0xB0 || n == 0xB1 || n == 0xBE || n == 0xC2 || n == 0xC3 then some 6
  else if (0x66 ≤ n && n ≤ 0x73) || (0x90 ≤ n && n ≤ 0x9D) || n == 0xB2 then some 5
  else if (0xA0 ≤ n && n ≤ 0xAC) || (0xD0 ≤ n && n ≤ 0xD9) then none
  else some 0

/-- Charges one instance at issue: class 0 where R62 settles it. -/
def chargeIssue (op : BitVec 8) (F : Ready) (s : State) : State :=
  if settle (!pOperand op F) F != .go then charge s F.u 0 1
  else match energyClass op F with
  | some k => charge s F.u k 1
  | none => s

/-! ### Commit points of a REDUNDANT context (R470) -/

/-- HASH (R143). -/
def hashFn (l r : Word) : Word :=
  let x := l + r * 0x9E3779B97F4A7C15
  let x := (x ^^^ (x >>> 30)) * 0xBF58476D1CE4E5B9
  let x := (x ^^^ (x >>> 27)) * 0x94D049BB133111EB
  x ^^^ (x >>> 31)

/-- The digest of a sequence (R470). -/
def digestOf (vs : List Word) : Word := vs.foldl hashFn 0

/-- The digest of a commit point (R470). -/
def commitDigest (s : State) (F : Ready) : Word :=
  digestOf [BitVec.ofNat 64 (F.u.x + 2 ^ 8 * F.u.y + 2 ^ 15 * F.stn), stationWord s F.u F.stn, F.l.itr.setWidth 64, F.l.val,
            (F.r.map fun t => t.val).getD 0, pVal F]

/-- The word is a capability operation that changes the allocator: no commit point, but performed once (R471), so its two
firings pair. -/
def isCapWord (w : Word) : Bool := 0x6C ≤ (opOfWord w).toNat && (opOfWord w).toNat ≤ 0x6E

/-- What a held firing shows its twin: the digest, or for a capability operation, which has none, only that it is there. -/
def twinDigest (s : State) (F : Ready) : Word := if isCapWord (stationWord s F.u F.stn) then 0 else commitDigest s F

/-- The word is a commit point (R76). -/
def isCommitWord (w : Word) : Bool :=
  let n := (opOfWord w).toNat
  let fn := (unpack w).fn
  (0xA0 ≤ n && n ≤ 0xAC) || (0x80 ≤ n && n ≤ 0x8A) || n == 0x67 || n == 0x68 || (0x90 ≤ n && n ≤ 0x9D)
    || n == 0x14 || n == 0x1E || n == 0x1C || n == 0x1D || n == 0x16 || n == 0xB1 || (n == 0xB2 && fn != 3)
    || (0xB3 ≤ n && n ≤ 0xBD) || (0xC0 ≤ n && n ≤ 0xC5) || (0xD0 ≤ n && n ≤ 0xD3) || n == 0xD8

/-- The firing is a commit point of a REDUNDANT context that has not met its twin's digest (R470), or a capability operation
that has not met its pair (R471). -/
def waitsTwin (s : State) (F : Ready) : Bool :=
  isRedundant (ctxOf s F.u.ctx) && !F.matched && trappingCode s F.u F.stn == 0
    && (isCommitWord (stationWord s F.u F.stn) || isCapWord (stationWord s F.u F.stn))
    && settle (!pOperand (opOfWord (stationWord s F.u F.stn)) F) F == .go

/-! ### One issue -/

/-- Adds modulo 2^64 to a counter of a site (R70). -/
def bump (m : FMap Nat) (k n : Nat) : FMap Nat := fset 0 m k ((fget 0 m k + n) % 2 ^ 64)

/-- The results of a firing are checked by their residues: integer and floating-point arithmetic, and the array's chunk sums (R126, R130, R145). -/
def isChecked (op : BitVec 8) : Bool :=
  let n := op.toNat
  (0x20 ≤ n && n ≤ 0x3E) || (0x40 ≤ n && n ≤ 0x5A) || (0xB3 ≤ n && n ≤ 0xB6) || n == 0xBE

/-- A station whose word holds an uncorrectable error, and a result that fails its check, record their errors at the issue; the firing completes
with its value as formed (R126, R130, R469, R473). -/
def issueErrors (op : BitVec 8) (F : Ready) (s : State) : State :=
  let site := physAt s (modPos s F.u)
  let s := if s.un.upsets.contains (.station site F.stn) then trapErr s F.u (fcol F) 0x12 else s
  if isChecked op && settle (!pOperand op F) F == .go && s.un.upsets.contains (.result site) then trapErr s F.u (fcol F) 0x10 else s

/-- What an issue does before its meaning (R63, R70, R175, R403): the firings leave the ready queue and stand latched, the
counters count, the residues are checked and the instances are charged. -/
def latch (s : State) (F : Ready) (ls : List Ready) : State :=
  let op := opOfWord (stationWord s F.u F.stn)
  let fab := { s.fab with ready := s.fab.ready.filter fun r => !ls.contains r,
                          issueCount := bump s.fab.issueCount (siteKey s F.u) 1,
                          laneSum := bump s.fab.laneSum (siteKey s F.u) ls.length,
                          issues := fset 0 s.fab.issues (uKey F.u * 128 + F.stn)
                            ((fget 0 s.fab.issues (uKey F.u * 128 + F.stn) + ls.length) % 65536) }
  let s := { s with fab := fab, firing := ls }
  let s := ls.foldl (fun s r => issueErrors op r (checkRes r s)) s
  let s := ls.foldl (fun s r => chargeIssue op r s) s
  ls.foldl rematch s

/-- The faulting issue of a trapping station (R48, R67): the oldest instance faults, the others go back. -/
def trapIssue (code : Nat) (s : State) : State :=
  match s.firing with
  | [] => s
  | F :: rest => (rest.foldr (fun r s => returnReady s r) s) |> raise F { kind := 0x0D, fks := code }

/-- What a step does: nothing more, or the meaning of an instruction over the latched firings. -/
inductive Next where
  | idle (s : State)
  | run (i : Instr) (s : State)
deriving DecidableEq, Repr

/-- A CU issues its next instance (R68). -/
def issue (s : State) (u : UId) : Next :=
  match leader s u with
  | none => .idle s
  | some F =>
    if waitsTwin s F then
      .idle { s with fab := { s.fab with ready := s.fab.ready.erase F },
                     un := { s.un with twins := s.un.twins ++ [{ f := F, digest := twinDigest s F }] } }
    else
      let t := latch s F (lanesOf s F)
      if trappingCode s u F.stn != 0 then .idle (trapIssue (trappingCode s u F.stn) t)
      else match decode (stationWord s u F.stn) with
      | .ok i => .run i t
      | .error c => .idle (trapIssue c.code t)

/-- The timer of R497 counts, but while its paddock is frozen. -/
def tickCopy (s : State) (dt : Nat) (p : Copy) : Copy :=
  if isRunning (ctxOf s p.mu.ctx) || (ctxOf s p.mu.ctx).cst == .draining then { p with timer := p.timer.map (· + dt) } else p

/-- The cycle counts as residence (R404): not once a save has been asked for. -/
def countsResidence (x : Ctx) : Bool := isResident x && !x.frz.preempt

/-- Cycles pass (R404, R486, R497): the clock, the residence counts of resident contexts and the timers of copies advance. -/
def tick (s : State) (dt : Nat) : State :=
  { s with clock := s.clock + dt,
           cp := { s.cp with copies := s.cp.copies.map (tickCopy s dt) },
           ctxs := s.ctxs.map fun x => if countsResidence x then { x with residence := x.residence + dt } else x }

end Sys2Proof.Machine
end

