-- ==== Sys2Proof/Machine/Integer.lean ====
section
/-!
DEFINITION. The integer and address instructions, opcodes 0x20 to 0x3E (05 R127 to R143). The residue identities of R130
hold of every result formed here, so no check but that of R63 can fail.
-/

namespace Sys2Proof.Machine

open Sys2Proof

/-- The left operand as an integer of `TY` (R127). -/
def leftInt (f : Fields) (F : Ready) : Int := intOf f.ty F.l.val

/-- The right operand as an integer of `TY` (R127). -/
def rightInt (f : Fields) (F : Ready) (s : State) : Int := intOf f.ty (rightOp f F s)

/-- The left operand's w-bit pattern. -/
def leftPat (f : Fields) (F : Ready) : Nat := lowBits f.ty F.l.val

/-- The right operand's w-bit pattern. -/
def rightPat (f : Fields) (F : Ready) (s : State) : Nat := lowBits f.ty (rightOp f F s)

/-- A lane that computes one value for both targets. -/
def valueLane (f : Fields) (g : Ready → State → Word) (F : Ready) (s : State) : State :=
  laneBoth f (fun F s => emitBoth f F kValue (g F s) s) F s

/-! ### Two operands (R133) -/

/-- The result of ADD (R133). -/
def valAdd (f : Fields) (F : Ready) (s : State) : Word := wrapTy f.ty (leftInt f F + rightInt f F s)
/-- ADD. -/
def execAdd (f : Fields) (s : State) : Host.Outcome State Fault Refusal := runLanes (valueLane f (valAdd f)) s

/-- The result of SUB (R133). -/
def valSub (f : Fields) (F : Ready) (s : State) : Word := wrapTy f.ty (leftInt f F - rightInt f F s)
/-- SUB. -/
def execSub (f : Fields) (s : State) : Host.Outcome State Fault Refusal := runLanes (valueLane f (valSub f)) s

/-- The result of MUL.LO or MUL.HI (R133). -/
def valMul (f : Fields) (F : Ready) (s : State) : Word :=
  let x := leftInt f F * rightInt f F s
  wrapTy f.ty (if f.fn == 0 then x else x / 2 ^ tyW f.ty)
/-- MUL. -/
def execMul (f : Fields) (s : State) : Host.Outcome State Fault Refusal := runLanes (valueLane f (valMul f)) s

/-- Quotient and remainder (R134). -/
def divRem (t : Ty) (a b : Int) : Int × Int :=
  if b == 0 then (if tySgn t then -1 else 2 ^ tyW t - 1, a)
  else if tySgn t && a == tyMin t && b == -1 then (a, 0)
  else (a.tdiv b, a - b * a.tdiv b)

/-- The result of DIV (R134). -/
def valDiv (f : Fields) (F : Ready) (s : State) : Word := wrapTy f.ty (divRem f.ty (leftInt f F) (rightInt f F s)).1
/-- DIV. -/
def execDiv (f : Fields) (s : State) : Host.Outcome State Fault Refusal := runLanes (valueLane f (valDiv f)) s

/-- The result of REM (R134). -/
def valRem (f : Fields) (F : Ready) (s : State) : Word := wrapTy f.ty (divRem f.ty (leftInt f F) (rightInt f F s)).2
/-- REM. -/
def execRem (f : Fields) (s : State) : Host.Outcome State Fault Refusal := runLanes (valueLane f (valRem f)) s

/-- The result of MIN (R133). -/
def valMin (f : Fields) (F : Ready) (s : State) : Word := wrapTy f.ty (min (leftInt f F) (rightInt f F s))
/-- MIN. -/
def execMin (f : Fields) (s : State) : Host.Outcome State Fault Refusal := runLanes (valueLane f (valMin f)) s

/-- The result of MAX (R133). -/
def valMax (f : Fields) (F : Ready) (s : State) : Word := wrapTy f.ty (max (leftInt f F) (rightInt f F s))
/-- MAX. -/
def execMax (f : Fields) (s : State) : Host.Outcome State Fault Refusal := runLanes (valueLane f (valMax f)) s

/-- The result of AND (R133). -/
def valAnd (f : Fields) (F : Ready) (s : State) : Word := extendTy f.ty (leftPat f F &&& rightPat f F s)
/-- AND. -/
def execAnd (f : Fields) (s : State) : Host.Outcome State Fault Refusal := runLanes (valueLane f (valAnd f)) s

/-- The result of OR (R133). -/
def valOr (f : Fields) (F : Ready) (s : State) : Word := extendTy f.ty (leftPat f F ||| rightPat f F s)
/-- OR. -/
def execOr (f : Fields) (s : State) : Host.Outcome State Fault Refusal := runLanes (valueLane f (valOr f)) s

/-- The result of XOR (R133). -/
def valXor (f : Fields) (F : Ready) (s : State) : Word := extendTy f.ty (leftPat f F ^^^ rightPat f F s)
/-- XOR. -/
def execXor (f : Fields) (s : State) : Host.Outcome State Fault Refusal := runLanes (valueLane f (valXor f)) s

/-- The complement of a w-bit pattern. -/
def notPat (t : Ty) (n : Nat) : Nat := 2 ^ tyW t - 1 - n % 2 ^ tyW t

/-- The result of ANDN (R133). -/
def valAndn (f : Fields) (F : Ready) (s : State) : Word := extendTy f.ty (leftPat f F &&& notPat f.ty (rightPat f F s))
/-- ANDN. -/
def execAndn (f : Fields) (s : State) : Host.Outcome State Fault Refusal := runLanes (valueLane f (valAndn f)) s

/-- The result of ADDSAT and ADDSAT.SUB (R135). -/
def valAddsat (f : Fields) (F : Ready) (s : State) : Word :=
  let x := if f.fn == 0 then leftInt f F + rightInt f F s else leftInt f F - rightInt f F s
  wrapTy f.ty (max (tyMin f.ty) (min (tyMax f.ty) x))
/-- ADDSAT. -/
def execAddsat (f : Fields) (s : State) : Host.Outcome State Fault Refusal := runLanes (valueLane f (valAddsat f)) s

/-! ### One operand (R136) -/

/-- The result of ABS and ABS.SAT (R136). -/
def valAbs (f : Fields) (F : Ready) (_s : State) : Word :=
  let a := leftInt f F
  wrapTy f.ty (if a ≥ 0 then a else if f.fn == 1 && a == tyMin f.ty then tyMax f.ty else -a)
/-- ABS. -/
def execAbs (f : Fields) (s : State) : Host.Outcome State Fault Refusal := runLanes (valueLane f (valAbs f)) s

/-- The result of NEG (R136). -/
def valNeg (f : Fields) (F : Ready) (_s : State) : Word := wrapTy f.ty (-leftInt f F)
/-- NEG. -/
def execNeg (f : Fields) (s : State) : Host.Outcome State Fault Refusal := runLanes (valueLane f (valNeg f)) s

/-- The result of NOT (R136). -/
def valNot (f : Fields) (F : Ready) (_s : State) : Word := extendTy f.ty (notPat f.ty (leftPat f F))
/-- NOT. -/
def execNot (f : Fields) (s : State) : Host.Outcome State Fault Refusal := runLanes (valueLane f (valNot f)) s

/-- The number of bits of a pattern: 0 for 0. -/
def bitLen (n : Nat) : Nat := if n == 0 then 0 else n.log2 + 1

/-- The one bits among the low `k` bits. -/
def popCount (n : Nat) : Nat → Nat
  | 0 => 0
  | k + 1 => popCount n k + n / 2 ^ k % 2

/-- The low `k` of `w` bits, reversed. -/
def bitRev (n w : Nat) : Nat → Nat
  | 0 => 0
  | k + 1 => bitRev n w k + n / 2 ^ k % 2 * 2 ^ (w - 1 - k)

/-- The result of CLZ (R136). -/
def valClz (f : Fields) (F : Ready) (_s : State) : Word := BitVec.ofNat 64 (tyW f.ty - bitLen (leftPat f F))
/-- CLZ. -/
def execClz (f : Fields) (s : State) : Host.Outcome State Fault Refusal := runLanes (valueLane f (valClz f)) s

/-- The result of POPC (R136). -/
def valPopc (f : Fields) (F : Ready) (_s : State) : Word := BitVec.ofNat 64 (popCount (leftPat f F) 64)
/-- POPC. -/
def execPopc (f : Fields) (s : State) : Host.Outcome State Fault Refusal := runLanes (valueLane f (valPopc f)) s

/-- The result of BREV (R136). -/
def valBrev (f : Fields) (F : Ready) (_s : State) : Word := extendTy f.ty (bitRev (leftPat f F) (tyW f.ty) (tyW f.ty))
/-- BREV. -/
def execBrev (f : Fields) (s : State) : Host.Outcome State Fault Refusal := runLanes (valueLane f (valBrev f)) s

/-- The result of EXT (R136). -/
def valExt (f : Fields) (F : Ready) (_s : State) : Word := extendTy f.ty (leftPat f F)
/-- EXT. -/
def execExt (f : Fields) (s : State) : Host.Outcome State Fault Refusal := runLanes (valueLane f (valExt f)) s

/-! ### Shifts (R137) -/

/-- The shift amount: the right operand's 64 bits, unsigned. -/
def shiftAmt (f : Fields) (F : Ready) (s : State) : Nat := (rightOp f F s).toNat

/-- The result of SHL (R137). -/
def valShl (f : Fields) (F : Ready) (s : State) : Word :=
  let n := shiftAmt f F s
  if n ≥ tyW f.ty then 0 else extendTy f.ty (leftPat f F * 2 ^ n)
/-- SHL. -/
def execShl (f : Fields) (s : State) : Host.Outcome State Fault Refusal := runLanes (valueLane f (valShl f)) s

/-- The result of SHR (R137). -/
def valShr (f : Fields) (F : Ready) (s : State) : Word :=
  let n := shiftAmt f F s
  if n ≥ tyW f.ty then 0 else extendTy f.ty (leftPat f F / 2 ^ n)
/-- SHR. -/
def execShr (f : Fields) (s : State) : Host.Outcome State Fault Refusal := runLanes (valueLane f (valShr f)) s

/-- The signed reading of a w-bit pattern, whatever `TY`'s sign (R137). -/
def sgnPat (w n : Nat) : Int := if n / 2 ^ (w - 1) % 2 == 1 then (n : Int) - 2 ^ w else n

/-- The result of SAR (R137). -/
def valSar (f : Fields) (F : Ready) (s : State) : Word :=
  wrapTy f.ty (sgnPat (tyW f.ty) (leftPat f F) / 2 ^ min (shiftAmt f F s) (tyW f.ty))
/-- SAR. -/
def execSar (f : Fields) (s : State) : Host.Outcome State Fault Refusal := runLanes (valueLane f (valSar f)) s

/-- A w-bit pattern rotated by n < w toward higher bits. -/
def rotPat (w a n : Nat) : Nat := a * 2 ^ n % 2 ^ w + a / 2 ^ (w - n)

/-- The result of ROT.LEFT and ROT.RIGHT (R137). -/
def valRot (f : Fields) (F : Ready) (s : State) : Word :=
  let w := tyW f.ty
  let n := shiftAmt f F s % w
  extendTy f.ty (rotPat w (leftPat f F) (if f.fn == 0 then n else (w - n) % w))
/-- ROT. -/
def execRot (f : Fields) (s : State) : Host.Outcome State Fault Refusal := runLanes (valueLane f (valRot f)) s

/-! ### Comparison and bit fields (R138, R139) -/

/-- The result of CMP (R138). -/
def valCmp (f : Fields) (F : Ready) (s : State) : Word := truth (relation f.fn.toNat (compare (leftInt f F) (rightInt f F s)))
/-- CMP. -/
def execCmp (f : Fields) (s : State) : Host.Outcome State Fault Refusal := runLanes (valueLane f (valCmp f)) s

/-- The result of BFX (R139). -/
def valBfx (f : Fields) (F : Ready) (_s : State) : Word :=
  let n := fld f 6 6 + 1
  let v := nbits F.l.val.toNat (fld f 0 6) n
  if tySgn f.ty then BitVec.ofInt 64 (sgnPat n v) else BitVec.ofNat 64 v
/-- BFX. -/
def execBfx (f : Fields) (s : State) : Host.Outcome State Fault Refusal := runLanes (valueLane f (valBfx f)) s

/-- The result of BFI (R139). -/
def valBfi (f : Fields) (F : Ready) (s : State) : Word :=
  let lo := fld f 0 6
  let n := fld f 6 6 + 1
  let a := F.l.val.toNat
  BitVec.ofNat 64 (a - nbits a lo n * 2 ^ lo + (rightOp f F s).toNat % 2 ^ n * 2 ^ lo)
/-- BFI. -/
def execBfi (f : Fields) (s : State) : Host.Outcome State Fault Refusal := runLanes (valueLane f (valBfi f)) s

/-! ### Carry chains (R140, R141) -/

/-- ADDC (R140). -/
def laneAddc (f : Fields) (F : Ready) (s : State) : State :=
  lane true true (!isCarry F) f (fun F s =>
    let a := leftPat f F
    let b := rightPat f F s
    emitCarry f F (extendTy f.ty (a + b + carryBit f.ty F)) (BitVec.ofNat 64 (carryOut (tyW f.ty) a b (carryBit f.ty F))) s) F s
/-- ADDC. -/
def execAddc (f : Fields) (s : State) : Host.Outcome State Fault Refusal := runLanes (laneAddc f) s

/-- SUBB (R140). -/
def laneSubb (f : Fields) (F : Ready) (s : State) : State :=
  lane true true (!isCarry F) f (fun F s =>
    let a := leftPat f F
    let b := rightPat f F s
    emitCarry f F (wrapTy f.ty ((a : Int) - b - carryBit f.ty F)) (BitVec.ofNat 64 (borrowOut a b (carryBit f.ty F))) s) F s
/-- SUBB. -/
def execSubb (f : Fields) (s : State) : Host.Outcome State Fault Refusal := runLanes (laneSubb f) s

/-- MULC (R141). -/
def laneMulc (f : Fields) (F : Ready) (s : State) : State :=
  lane true true (!isCarry F) f (fun F s =>
    let x := leftPat f F * rightPat f F s + carryWord f.ty F
    emitCarry f F (extendTy f.ty x) (BitVec.ofNat 64 (x / 2 ^ tyW f.ty)) s) F s
/-- MULC. -/
def execMulc (f : Fields) (s : State) : Host.Outcome State Fault Refusal := runLanes (laneMulc f) s

/-! ### Addresses and hashes (R142, R143) -/

/-- AIDX (R142): the scaled index moves the pointer's offset field, or the station faults WINDOW_INVALID. -/
def laneAidx (f : Fields) (F : Ready) (s : State) : State :=
  laneBoth f (fun F s =>
    match movePtr F.l.val (rightInt f F s * 2 ^ f.fn.toNat) with
    | some v => emitBoth f F kValue v s
    | none => raiseA F 0x07 F.l.val s) F s
/-- AIDX. -/
def execAidx (f : Fields) (s : State) : Host.Outcome State Fault Refusal := runLanes (laneAidx f) s

/-- The result of HASH (R143). -/
def valHash (f : Fields) (F : Ready) (s : State) : Word := hashFn F.l.val (rightOp f F s)
/-- HASH. -/
def execHash (f : Fields) (s : State) : Host.Outcome State Fault Refusal := runLanes (valueLane f (valHash f)) s

end Sys2Proof.Machine
end

