-- ==== Sys2Proof/Machine/Float.lean ====
section
/-!
DEFINITION. The floating-point instructions, opcodes 0x40 to 0x5A (05 R144 to R162).
-/

namespace Sys2Proof.Machine

open Sys2Proof

/-- The rounding mode in `FN`[2:0] (R144). -/
def fnMode (f : Fields) : RMode := modeOf (f.fn.toNat % 8)

/-- The policy in `FN`[3]: SAT when the bit is 0 (R144). -/
def fnSat (f : Fields) : Bool := f.fn.toNat / 8 == 0

/-- The exact left operand of type `TY`. -/
def leftEx (f : Fields) (F : Ready) : Ex := decodeF (fmtD f.ty) (leftPat f F)

/-- rnd(TY, mode, x) of a firing, with the fields of RP and the stochastic word of element 0 (R145). -/
def rndTy (f : Fields) (F : Ready) (s : State) (x : Ex) : Word :=
  BitVec.ofNat 64 (rnd (fmtD f.ty) (fnMode f) (fnSat f) (srOf s F 0) x)

/-- The mode is RDN, which decides the sign of a zero sum (R145). -/
def isRdn (f : Fields) : Bool := fnMode f == .rdn

/-! ### Arithmetic (R148 to R150) -/

/-- The result of FADD (R148). -/
def valFadd (f : Fields) (F : Ready) (s : State) : Word := rndTy f F s (Ex.add (isRdn f) (leftEx f F) (rightEx f F s))
/-- FADD. -/
def execFadd (f : Fields) (s : State) : Host.Outcome State Fault Refusal := runLanes (valueLane f (valFadd f)) s

/-- The result of FSUB (R148). -/
def valFsub (f : Fields) (F : Ready) (s : State) : Word :=
  rndTy f F s (Ex.add (isRdn f) (leftEx f F) (rightEx f F s).negate)
/-- FSUB. -/
def execFsub (f : Fields) (s : State) : Host.Outcome State Fault Refusal := runLanes (valueLane f (valFsub f)) s

/-- The result of FMUL (R148). -/
def valFmul (f : Fields) (F : Ready) (s : State) : Word := rndTy f F s (Ex.mul (leftEx f F) (rightEx f F s))
/-- FMUL. -/
def execFmul (f : Fields) (s : State) : Host.Outcome State Fault Refusal := runLanes (valueLane f (valFmul f)) s

/-- The result of FFMA (R149): P is the addend. -/
def valFfma (f : Fields) (F : Ready) (s : State) : Word :=
  rndTy f F s (Ex.add (isRdn f) (Ex.mul (leftEx f F) (rightEx f F s)) (decodeF (fmtD f.ty) (lowBits f.ty (pVal F))))
/-- A lane whose P is an operand. -/
def laneFfma (f : Fields) (F : Ready) (s : State) : State :=
  lane true true false f (fun F s => emitBoth f F kValue (valFfma f F s) s) F s
/-- FFMA. -/
def execFfma (f : Fields) (s : State) : Host.Outcome State Fault Refusal := runLanes (laneFfma f) s

/-- Element `k` of a packed operand of `TY` (R150). -/
def packedEx (t : Ty) (v : Word) (k : Nat) : Ex := decodeF (fmtD t) (nbits v.toNat (tyW t * k) (tyW t))

/-- The result of FDOT2 (R150): two exact products and the addend, rounded once to F32. -/
def valFdot2 (f : Fields) (F : Ready) (s : State) : Word :=
  let b := rightOp f F s
  let ps := (List.range 2).map fun k => Ex.mul (packedEx f.ty F.l.val k) (packedEx f.ty b k)
  let cs := (F.p.map fun t => decodeF .f32 (t.val.toNat % 2 ^ 32)).toList
  BitVec.ofNat 64 (rnd .f32 (fnMode f) (fnSat f) (srOf s F 0) (Ex.sum (isRdn f) (ps ++ cs)))
/-- FDOT2's lane: P is the addend. -/
def laneFdot2 (f : Fields) (F : Ready) (s : State) : State :=
  lane true true false f (fun F s => emitBoth f F kValue (valFdot2 f F s) s) F s
/-- FDOT2. -/
def execFdot2 (f : Fields) (s : State) : Host.Outcome State Fault Refusal := runLanes (laneFdot2 f) s

/-! ### Minimum, maximum, signs, comparison (R151 to R154) -/

/-- The right operand's pattern in `TY`: an immediate integer is exact there (R127). -/
def rightBits (f : Fields) (F : Ready) (s : State) : Nat :=
  match f.src with
  | .immd => rnd (fmtD f.ty) .rne true 0 (rightEx f F s)
  | _ => rightPat f F s

/-- a comes before b, with −0 below +0 (R151). -/
def fBelow (a b : Ex) : Bool :=
  match Ex.cmp a b with
  | .lt => true
  | .gt => false
  | .eq => a.isZero && a.neg && !b.neg

/-- FMIN or FMAX of two patterns (R151). -/
def fMinMax (t : Ty) (mx nan : Bool) (a b : Nat) : Nat :=
  let x := decodeF (fmtD t) a
  let y := decodeF (fmtD t) b
  if x.isNan && y.isNan || nan && (x.isNan || y.isNan) then (fmtD t).qnan
  else if x.isNan then b
  else if y.isNan then a
  else if (if mx then fBelow x y else fBelow y x) then b else a

/-- The result of FMIN (R151). -/
def valFmin (f : Fields) (F : Ready) (s : State) : Word :=
  BitVec.ofNat 64 (fMinMax f.ty false (f.fn == 1) (leftPat f F) (rightBits f F s))
/-- FMIN. -/
def execFmin (f : Fields) (s : State) : Host.Outcome State Fault Refusal := runLanes (valueLane f (valFmin f)) s

/-- The result of FMAX (R151). -/
def valFmax (f : Fields) (F : Ready) (s : State) : Word :=
  BitVec.ofNat 64 (fMinMax f.ty true (f.fn == 1) (leftPat f F) (rightBits f F s))
/-- FMAX. -/
def execFmax (f : Fields) (s : State) : Host.Outcome State Fault Refusal := runLanes (valueLane f (valFmax f)) s

/-- The result of FABS (R152): the sign bit cleared. -/
def valFabs (f : Fields) (F : Ready) (_s : State) : Word := BitVec.ofNat 64 (leftPat f F % 2 ^ (tyW f.ty - 1))
/-- FABS. -/
def execFabs (f : Fields) (s : State) : Host.Outcome State Fault Refusal := runLanes (valueLane f (valFabs f)) s

/-- The result of FNEG (R152): the sign bit inverted. -/
def valFneg (f : Fields) (F : Ready) (_s : State) : Word := BitVec.ofNat 64 (leftPat f F ^^^ 2 ^ (tyW f.ty - 1))
/-- FNEG. -/
def execFneg (f : Fields) (s : State) : Host.Outcome State Fault Refusal := runLanes (valueLane f (valFneg f)) s

/-- FCMP of two exact values (R153). -/
def fRelation (n : Nat) (x y : Ex) : Bool :=
  let un := x.isNan || y.isNan
  match n with
  | 6 => un
  | 7 => !un
  | 1 => un || Ex.cmp x y != .eq
  | k => !un && relation k (Ex.cmp x y)

/-- The result of FCMP (R153). -/
def valFcmp (f : Fields) (F : Ready) (s : State) : Word := truth (fRelation f.fn.toNat (leftEx f F) (rightEx f F s))
/-- FCMP. -/
def execFcmp (f : Fields) (s : State) : Host.Outcome State Fault Refusal := runLanes (valueLane f (valFcmp f)) s

/-- The class bit of a pattern (R154). -/
def classBit (T : Fmt) (b : Nat) : Nat :=
  match decodeF T b with
  | .nan => 8
  | .inf n => if n then 0 else 7
  | .fin n a _ _ =>
    if a == 0 then (if n then 3 else 4)
    else if magOf T b < 2 ^ T.mant then (if n then 2 else 5)
    else if n then 1 else 6

/-- The result of FCLASS (R154). -/
def valFclass (f : Fields) (F : Ready) (_s : State) : Word := BitVec.ofNat 64 (2 ^ classBit (fmtD f.ty) (leftPat f F))
/-- FCLASS. -/
def execFclass (f : Fields) (s : State) : Host.Outcome State Fault Refusal := runLanes (valueLane f (valFclass f)) s

/-! ### Conversions (R155 to R158) -/

/-- The result type in `IMM`[3:0] (R147). -/
def immTy (f : Fields) : Ty := tyOf (BitVec.ofNat 4 (fld f 0 4))
/-- The mode in `IMM`[6:4]. -/
def immMode (f : Fields) : RMode := modeOf (fld f 4 3)
/-- The policy in `IMM`[7]. -/
def immSat (f : Fields) : Bool := fld f 7 1 == 0

/-- The result of FCVT (R155). -/
def valFcvt (f : Fields) (F : Ready) (s : State) : Word :=
  BitVec.ofNat 64 (rnd (fmtD (immTy f)) (immMode f) (immSat f) (srOf s F 0) (leftEx f F))
/-- FCVT. -/
def execFcvt (f : Fields) (s : State) : Host.Outcome State Fault Refusal := runLanes (valueLane f (valFcvt f)) s

/-- The result of FTOI (R156). -/
def valFtoi (f : Fields) (F : Ready) (s : State) : Word :=
  wrapTy (immTy f) (rndClamp (immMode f) (srOf s F 0) (tyMin (immTy f)) (tyMax (immTy f)) (leftEx f F))
/-- FTOI. -/
def execFtoi (f : Fields) (s : State) : Host.Outcome State Fault Refusal := runLanes (valueLane f (valFtoi f)) s

/-- The result of ITOF (R157). -/
def valItof (f : Fields) (F : Ready) (s : State) : Word :=
  BitVec.ofNat 64 (rnd (fmtD (immTy f)) (immMode f) (immSat f) (srOf s F 0) (Ex.ofInt (leftInt f F)))
/-- ITOF. -/
def execItof (f : Fields) (s : State) : Host.Outcome State Fault Refusal := runLanes (valueLane f (valItof f)) s

/-- A pattern rounded to an integral value of its own format (R158). -/
def frndBits (T : Fmt) (m : RMode) (r b : Nat) : Nat :=
  match decodeF T b with
  | .nan => T.qnan
  | .inf _ => b
  | .fin n a d e =>
    let i := rndInt m r n a d e
    if a == 0 then b else if i == 0 then signed T n 0 else rnd T .rne true 0 (Ex.ofInt i)

/-- The result of FRND (R158). -/
def valFrnd (f : Fields) (F : Ready) (s : State) : Word := BitVec.ofNat 64 (frndBits (fmtD f.ty) (fnMode f) (srOf s F 0) (leftPat f F))
/-- FRND. -/
def execFrnd (f : Fields) (s : State) : Host.Outcome State Fault Refusal := runLanes (valueLane f (valFrnd f)) s

/-! ### Division and functions (R159) -/

/-- The result of FDIV (R159). -/
def valFdiv (f : Fields) (F : Ready) (s : State) : Word := rndTy f F s (Ex.div (leftEx f F) (rightEx f F s))
/-- FDIV. -/
def execFdiv (f : Fields) (s : State) : Host.Outcome State Fault Refusal := runLanes (valueLane f (valFdiv f)) s

/-- A unary function of R159 with the fields of RP. -/
def fnTy (f : Fields) (g : Fmt → RMode → Bool → Nat → Ex → Nat) (F : Ready) (s : State) : Word :=
  BitVec.ofNat 64 (g (fmtD f.ty) (fnMode f) (fnSat f) (srOf s F 0) (leftEx f F))

/-- FSQRT (R159). -/
def execFsqrt (f : Fields) (s : State) : Host.Outcome State Fault Refusal := runLanes (valueLane f (fnTy f fSqrt)) s

/-- FRCP (R159). -/
def execFrcp (f : Fields) (s : State) : Host.Outcome State Fault Refusal := runLanes (valueLane f (fnTy f fRcp)) s

/-- FRSQ (R159). -/
def execFrsq (f : Fields) (s : State) : Host.Outcome State Fault Refusal := runLanes (valueLane f (fnTy f fRsq)) s

/-- FEXP2 (R159). -/
def execFexp2 (f : Fields) (s : State) : Host.Outcome State Fault Refusal := runLanes (valueLane f (fnTy f fExp2)) s

/-- FLOG2 (R159). -/
def execFlog2 (f : Fields) (s : State) : Host.Outcome State Fault Refusal := runLanes (valueLane f (fnTy f fLog2)) s

/-- FSIN (R159). -/
def execFsin (f : Fields) (s : State) : Host.Outcome State Fault Refusal := runLanes (valueLane f (fnTy f (fTrig false))) s

/-- FCOS (R159). -/
def execFcos (f : Fields) (s : State) : Host.Outcome State Fault Refusal := runLanes (valueLane f (fnTy f (fTrig true))) s

/-- FTANH (R159). -/
def execFtanh (f : Fields) (s : State) : Host.Outcome State Fault Refusal := runLanes (valueLane f (fnTy f fTanh)) s

/-- The result of FSCALE (R160). Beyond ±8192 every finite value of set A already rounds as at ±8192. -/
def valFscale (f : Fields) (F : Ready) (s : State) : Word :=
  rndTy f F s (Ex.scale (leftEx f F) (max (-8192) (min 8192 (rightOp f F s).toInt)))
/-- FSCALE. -/
def execFscale (f : Fields) (s : State) : Host.Outcome State Fault Refusal := runLanes (valueLane f (valFscale f)) s

/-! ### Quantisation (R161, R162) -/

/-- The F32 value in the low bits of a word. -/
def f32Of (v : Word) : Ex := decodeF .f32 (v.toNat % 2 ^ 32)

/-- The result of QUANT (R161). -/
def valQuant (f : Fields) (F : Ready) (s : State) : Word :=
  let x := Ex.mul (f32Of F.l.val) (f32Of (rightOp f F s))
  if f.ty == .i8 then wrapTy .i8 (rndClamp (fnMode f) (srOf s F 0) (-128) 127 x) else rndTy f F s x
/-- QUANT. -/
def execQuant (f : Fields) (s : State) : Host.Outcome State Fault Refusal := runLanes (valueLane f (valQuant f)) s

/-- The result of DEQ (R162). -/
def valDeq (f : Fields) (F : Ready) (s : State) : Word :=
  let e := if f.ty == .i8 then Ex.ofInt (leftInt f F) else leftEx f F
  BitVec.ofNat 64 (rnd .f32 (fnMode f) (fnSat f) (srOf s F 0) (Ex.mul e (f32Of (rightOp f F s))))
/-- DEQ. -/
def execDeq (f : Fields) (s : State) : Host.Outcome State Fault Refusal := runLanes (valueLane f (valDeq f)) s

end Sys2Proof.Machine
end

