-- ==== Sys2Proof/Machine/Access.lean ====
section
/-!
DEFINITION. Memory accesses (06, 07): the checks of R165, capabilities (R205), translation with the TLBs and the host
regions (18 R417, R418, R423), the phase buffer (R173, R175, R176, R421), commits (R177, R178), and waiters (R199).
-/

namespace Sys2Proof.Machine

open Sys2Proof

/-! ### Pointers and their checks (R163 to R165, R184) -/

/-- The signed displacement of a memory instruction (R184). -/
def dispOf (f : Fields) : Int :=
  match f.src with
  | .kreg => (BitVec.ofNat 14 (fld f 6 14)).toInt
  | .immd => 0
  | _ => f.imm.toInt

/-- The pointer is valid in its window (R163); `loc` is the size of the space that window 10 reaches. -/
def ptrValid (x : Ctx) (loc : Nat) (p : Word) : Bool :=
  match winOf p with
  | 0 => p.extractLsb' 57 5 == 0
  | 1 => p.extractLsb' 20 28 == 0 && 4 * nbits p.toNat 55 7 < padW x && nbits p.toNat 48 7 < x.ph
  | 2 => p.extractLsb' 20 42 == 0 && nbits p.toNat 0 20 < loc
  | _ => true

/-- Steps 1 and 2 of R165 for `n` bytes at `p` (R164), with the windows that the instruction accepts (R185). -/
def windowFault (x : Ctx) (loc : Nat) (wins : List Nat) (p : Word) (n : Nat) : Option Nat :=
  let q := p + BitVec.ofNat 64 (n - 1)
  if (p.toNat + (n - 1)) / 2 ^ 62 != p.toNat / 2 ^ 62 then some 0x06
  else if !wins.contains (winOf p) || !ptrValid x loc p || !ptrValid x loc q then some 0x07
  else none

/-- The MU that a window-01 pointer names (R163). -/
def muNamed (u : UId) (p : Word) : UId := siteOf u (4 * nbits p.toNat 55 7 + 3) (nbits p.toNat 48 7)

/-- The 20-bit offset of a pointer of window 01 or 10. -/
def offOf (p : Word) : Nat := nbits p.toNat 0 20

/-- The window-01 pointer to an offset of an MU. -/
def muPtr (m : UId) (off : Nat) : Word := BitVec.ofNat 64 (2 ^ 62 + m.x / 4 * 2 ^ 55 + m.y * 2 ^ 48 + off)

/-- The FVA of a displaced pointer (R427). -/
def presented (f : Fields) (F : Ready) : Word := F.l.val + BitVec.ofInt 64 (dispOf f)

/-- The displaced pointer of R184; none where the displacement leaves the offset field. -/
def dispPtr (f : Fields) (F : Ready) : Option Word := shiftPtr F.l.val (dispOf f)

/-! ### Requests -/

/-- A request leaves for an MU's request port (R188), or for the module that holds the MU (R434), with the values its
instruction took from K when it issued. -/
def sendReq (mu : UId) (i : Instr) (F : Ready) (k : List Word) (s : State) : State :=
  let x := ctxOf s F.u.ctx
  if onModule x mu.x then
    { s with mu := { s.mu with reqs := s.mu.reqs ++
        [{ mu := mu, i := i, c := F, k := k, iseq := fget 0 s.fab.issues (uKey F.u * 128 + F.stn) }] } }
  else sendOut s x (memberAt x mu.x) (.request mu (stationWord s F.u F.stn) F k (fget 0 s.fab.issues (uKey F.u * 128 + F.stn)))

/-- The MU at which a plain access is made (R173, R180): the home MU, or for a scratchpad of another member that MU itself, whose
phase buffer then commits its stores (R171). -/
def accessMu (s : State) (F : Ready) (p : Word) : UId :=
  let m := muNamed F.u p
  if winOf p == 1 && !onModule (ctxOf s F.u.ctx) m.x then m else muOf F.u

/-- What a context's colour or capability unit does for a firing is done there (R73, R204): at once, or as a request where the unit
stands on another member of an outing. -/
def atHub (i : Instr) (k : List Word) (body : Ready → State → State) (F : Ready) (s : State) : State :=
  if hubHere (ctxOf s F.u.ctx) then body F s else sendReq (hubOf F.u) i F k s

/-- The fields of a request's instruction. -/
def reqFields (q : Req) : Fields := (fieldsOf q.i).getD (unpack 0)

/-- The value that a request took with it: its right operand. -/
def reqK (q : Req) (n : Nat) : Word := q.k.getD n 0

/-- The firing's context. -/
def reqCtx (s : State) (q : Req) : Ctx := ctxOf s q.c.u.ctx

/-- A request's reply to both targets (R186). -/
def reply (q : Req) (v : Word) (s : State) : State := replyBoth q.mu (reqFields q) q.c v v s

/-- A reply with its own value for each target. -/
def reply2 (q : Req) (v w : Word) (s : State) : State := replyBoth q.mu (reqFields q) q.c v w s

/-- The answer of a unit to a read that is no memory instruction: a value token to both targets (R58, R59). -/
def answer (q : Req) (v : Word) (s : State) : State := emitBoth (reqFields q) q.c kValue v s

/-- A precise fault of a request at a pointer. -/
def reqFault (q : Req) (k : Nat) (va : Word) (s : State) : State := raiseA q.c k va s

/-- The performed request is a commit point of its colour (R76). -/
def reqCommit (q : Req) (s : State) : State := commitPt s q.c.u.ctx q.c.u.copy (fcol q.c)

/-- An element of `n` bytes, `d` bytes past the address of a capability pointer, lies beyond the capability's length (R205). -/
def capBeyond (s : State) (m : UId) (p : Word) (d n : Nat) : Bool :=
  winOf p == 3 && match capEntry s m (capIdx p) with
    | .ok e => capOff p + d + n > e.len
    | .error _ => false

/-- The global virtual address of a pointer of window 00 or 11, after step 3 of R165 (R184): the capability checks of the MU `m`, then
alignment to `al` bytes. -/
def resolveVa (s : State) (m : UId) (p : Word) (n al : Nat) (wr : Bool) : Except FaultInfo Nat :=
  let r : Except FaultInfo Nat := if winOf p == 3 then capDeref s m p n wr else .ok (nbits p.toNat 0 57)
  match r with
  | .error e => .error e
  | .ok va => if va % al != 0 then .error { kind := 0x08, va := p } else .ok va

/-! ### Translation of a station's access (R417, R418, R423) -/

/-- The result of a translation at an MU: a fault, a request that waits, or an address. -/
inductive XRes where
  | fault (e : XFault)
  | waits (s : State)
  | ok (a : XAddr) (s : State)

/-- The L1 TLB of an MU. -/
def l1Of (s : State) (m : UId) : List Leaf := fget [] s.tr.l1 (siteKey s m)

/-- Fills an MU's L1 TLB: 256 entries, least recently used out (R417). -/
def l1Put (s : State) (m : UId) (l : Leaf) : State :=
  { s with tr := { s.tr with l1 := fset [] s.tr.l1 (siteKey s m) (tlbPut 256 (l1Of s m) l) } }

/-- Fills a die's L2 TLB: 16,384 entries. -/
def l2Put (s : State) (d : Nat) (l : Leaf) : State :=
  { s with tr := { s.tr with l2 := fset [] s.tr.l2 d (tlbPut 16384 (fget [] s.tr.l2 d) l) } }

/-- The order of R417 without the walk: ranges, L1, L2; none where a walk is needed. -/
def lookUp (s : State) (m : UId) (x : Ctx) (acc : Access) (va : Nat) : Option (Except XFault XAddr × State) :=
  let a := asOf s x.as
  if !a.v then some (.error ⟨0x01, 0, 0, va⟩, s)
  else match rangeIn (ctxRanges s x) va with
  | some r => some (rangeCheck s acc (isSecure x) r va, s)
  | none =>
    match tlbFind (l1Of s m) x.as va with
    | some l => some (leafCheck s acc (isSecure x) l va, l1Put s m l)
    | none =>
      match tlbFind (fget [] s.tr.l2 (dieOf s m)) x.as va with
      | some l => some (leafCheck s acc (isSecure x) l va, l1Put (l2Put s (dieOf s m) l) m l)
      | none => none

/-- Changes a host region. -/
def updRegion (s : State) (n : Nat) (f : Region → Region) : State :=
  { s with tr := { s.tr with regions := s.tr.regions.map fun r => if r.num == n then f r else r } }

/-- A device access to a host address passes only when the device owns its region and no host access waits for it (R423); otherwise it is
held, and in HOST it raises the transfer. -/
def hostGate (s : State) (q : Req) (phys : Nat) : Option State :=
  match findRegion s (regionOf phys) with
  | none => none
  | some r =>
    if r.own == .device && !r.snoop then none
    else
      let s := { s with tr := { s.tr with heldHost := s.tr.heldHost ++ [{ region := r.num, req := q, since := s.clock, eng := none }] } }
      some (if r.own == .host then updRegion s r.num fun r => { r with own := .toDevice, since := s.clock } else s)

/-- The translation of a request's access: a miss starts a walk, after which the request is tried again. -/
def translate (s : State) (q : Req) (acc : Access) (va : Nat) : XRes :=
  match lookUp s q.mu (reqCtx s q) acc va with
  | none => .waits { s with tr := { s.tr with walks := s.tr.walks ++ [{ mu := q.mu, as := (reqCtx s q).as, va := va, req := q }] } }
  | some (.error e, _) => .fault (match q.walked with | some (v, l) => if v / 4096 == va / 4096 then { e with lvl := l } else e | none => e)
  | some (.ok a, s1) =>
    if a.hr then match hostGate s1 q a.phys with
      | some s2 => .waits s2
      | none => .ok a s1
    else .ok a s1

/-- The fault of a failed translation (R418, R427). -/
def xInfo (e : XFault) : FaultInfo := { kind := e.kind, flg := e.flg, lvl := e.lvl, va := BitVec.ofNat 64 e.va }

/-- The rest of a request once its address is translated; a fault is taken, a wait keeps the request. -/
def withPhys (s : State) (q : Req) (acc : Access) (va : Nat) (k : XAddr → State → State) : State :=
  match translate s q acc va with
  | .fault e => raise q.c (xInfo e) s
  | .waits t => t
  | .ok a t => k a t

/-! ### Scratchpad words -/

/-- The I-structure state of the word at a location (R198): 0 FULL, 1 EMPTY, 2 DEFERRED. -/
def isState (s : State) (loc : Nat) : Nat := fget 0 s.mu.isst (loc / 8)

/-- Sets it. -/
def setIs (s : State) (loc st : Nat) : State := { s with mu := { s.mu with isst := fset 0 s.mu.isst (loc / 8) st } }

/-- A live barrier slot holds the byte at a location (R215). -/
def inSlot (s : State) (loc : Nat) : Bool := (fget none s.cp.bars (loc / 16 * 16)).isSome

/-- A live ring header holds the byte at a location (R256). -/
def inRing (s : State) (loc : Nat) : Bool := (fget none s.cp.rings (loc / 32 * 32)).isSome

/-- The fault of an access performed at the MU that holds a live slot or header (R226, R258). -/
def liveFault (s : State) (loc n : Nat) : Option Nat :=
  if (List.range n).any fun k => inSlot s (loc + k) then some 0x09
  else if (List.range n).any fun k => inRing s (loc + k) then some 0x1D
  else none

/-- A byte of a scratchpad as a plain load sees it: 0 in a word that is not FULL (R198). -/
def scratchByte (s : State) (loc : Nat) : Byte := if isState s loc == 0 then rd8 s loc else 0

/-- A live slot or header holds some of `n` bytes. -/
def anyLive (s : State) (loc n : Nat) : Bool := (List.range n).any fun k => inSlot s (loc + k) || inRing s (loc + k)

/-- The MU's discard counter of write-once words (R198). -/
def addIsdrop (s : State) (loc : Nat) : State :=
  let k := siteKey s (unitAt loc)
  { s with mu := { s.mu with isdrop := fset 0 s.mu.isdrop k (min (2 ^ 32 - 1) (fget 0 s.mu.isdrop k + 1)) } }

/-- The MU's discard counter of live slots and headers (R226, R258). -/
def addBsdrop (s : State) (loc : Nat) : State :=
  let k := siteKey s (unitAt loc)
  { s with cp := { s.cp with bsdrop := fset 0 s.cp.bsdrop k (min (2 ^ 32 - 1) (fget 0 s.cp.bsdrop k + 1)) } }

/-- One byte written by a commit or an engine: dropped in a live slot or header and in a word that is not FULL. -/
def putByte (s : State) (loc : Nat) (b : Byte) : State :=
  if inSlot s loc || inRing s loc || isState s loc != 0 then s else wrBytes s loc [b]

/-- The words of a written range that are not FULL. -/
def notFullWords (s : State) (locs : List Nat) : List Nat :=
  ((locs.map fun l => l / 8 * 8).filter fun l => isState s l != 0).eraseDups

/-- Writes bytes past the phase buffer, to memory or a scratchpad, with the discards of R198, R226 and R258. -/
def putBytes (s : State) (ws : List (Nat × Byte)) : State :=
  let locs := ws.map fun w => w.1
  let hit := locs.find? fun l => inSlot s l || inRing s l
  let s1 := ws.foldl (fun s w => putByte s w.1 w.2) s
  let s2 := match hit with | some l => addBsdrop s1 l | none => s1
  (notFullWords s locs).foldl addIsdrop s2

/-! ### The phase buffer (R173, R175, R176, R421) -/

/-- An entry holds a store of the same CU and colour to a line (R173). -/
def ownEntry (m : UId) (F : Ready) (la : Word) (e : PbEntry) : Bool :=
  e.mu == m && e.la == la && e.col == fcol F && e.sx == F.u.x && e.sy == F.u.y

/-- The latest buffered byte `b` of a line by stores of the same CU and colour. -/
def ownByte (s : State) (m : UId) (F : Ready) (la : Word) (b : Nat) : Option Byte :=
  ((s.mu.pbuf.filter fun e => ownEntry m F la e && e.mask.getLsbD b).foldl
    (fun (r : Option (Nat × Byte)) e =>
      let t := fget 0 e.stamps b
      match r with
      | some (u, _) => if u ≤ t then some (t, e.data.extractLsb' (8 * b) 8) else r
      | none => some (t, e.data.extractLsb' (8 * b) 8)) none).map fun r => r.2

/-- The newest buffered tag of a line by stores of the same CU and colour (R194). -/
def ownTag (s : State) (m : UId) (F : Ready) (la : Word) : Option (BitVec 16) :=
  (s.mu.pbuf.filter fun e => ownEntry m F la e && e.ntag.isSome).foldl
    (fun (r : Option (Nat × BitVec 16)) e =>
      match r with
      | some (u, _) => if u ≤ e.tagAt then some (e.tagAt, e.ntag.getD 0) else r
      | none => some (e.tagAt, e.ntag.getD 0)) none |>.map fun r => r.2

/-- The number of MUs of the paddock that this module holds. -/
def muCount (x : Ctx) : Nat := x.pw * x.ph

/-- Bytes of an MU's shadow slice (R397). -/
def sliceSize (x : Ctx) : Nat := x.shs / max 1 (muCount x) / 4096 * 4096

/-- Tokens of a copy's emitter that lie beyond its window of 256 positions (R352). -/
def aheadTokens (p : Copy) : Nat := ((p.toks ++ p.toks2).filter fun t => t.itr ≥ p.pos + 256).length

/-- Bytes of the slice in use: moved entries of 128 bytes, overflow waiters of 32, and as many for an emitter's tokens beyond
its window (R176, R199, R352). -/
def sliceUsed (s : State) (m : UId) : Nat :=
  128 * (s.mu.pbuf.filter fun e => e.mu == m && e.shadow).length
    + 32 * (s.mu.waiters.filter fun w => w.mu == m && w.idx ≥ 1024).length
    + 32 * ((s.cp.copies.filter fun p => p.mu == m).map aheadTokens).sum

/-- A store as the buffer takes it: its line, the location of the line, the byte offset and bytes, a new tag, and the page
record of its translation. -/
structure StoreOp where
  la : Word
  loc : Nat
  off : Nat
  bytes : List Byte
  ntag : Option (BitVec 16)
  page : Option PageRec
  host : Bool
deriving DecidableEq, Repr

/-- The bytes placed in a line's data. -/
def placeBytes (d : BitVec 512) (off : Nat) : List Byte → BitVec 512
  | [] => d
  | b :: bs =>
    placeBytes ((d &&& ~~~(0xFF#512 <<< (8 * off))) ||| ((b.setWidth 512) <<< (8 * off))) (off + 1) bs

/-- The mask of `n` bytes from `off`. -/
def maskBits (off n : Nat) : BitVec 64 := BitVec.ofNat 64 ((2 ^ n - 1) * 2 ^ off)

/-- One byte of a store joins an entry: of two stores of one station under one tag, the one with the later issue remains, whichever comes
first (R177). -/
def mergeByte (iseq now : Nat) (e : PbEntry) (b : Nat × Byte) : PbEntry :=
  if e.mask.getLsbD b.1 && olderSeq iseq (fget 0 e.bseqs b.1) then e
  else { e with data := placeBytes e.data b.1 [b.2], mask := e.mask ||| maskBits b.1 1, stamps := fset 0 e.stamps b.1 now,
                bseqs := fset 0 e.bseqs b.1 iseq }

/-- A store overwrites an entry's bytes, and SEQ takes the later issue (R176). -/
def mergeStore (e : PbEntry) (o : StoreOp) (iseq now : Nat) : PbEntry :=
  let t := o.ntag.isSome && !(e.ntag.isSome && olderSeq iseq e.tagSeq)
  let e := { e with seq := if olderSeq e.seq iseq then iseq else e.seq, ntag := if t then o.ntag else e.ntag,
                    tagAt := if t then now else e.tagAt, tagSeq := if t then iseq else e.tagSeq }
  (o.bytes.mapIdx fun k b => (o.off + k, b)).foldl (mergeByte iseq now) e

/-- The frames that an MU's frame table holds (R421): those of its uncommitted stores, the entries moved to the slice among them, but not those
that went there directly. Scratchpad lines name none. -/
def framesOf (s : State) (m : UId) : List Nat :=
  ((s.mu.pbuf.filter fun e => e.mu == m && !e.direct && e.loc < unitBase).map fun e => e.loc / 4096).eraseDups

/-- The empty entry of a request's store. -/
def newEntry (q : Req) (o : StoreOp) (shadow : Bool) : PbEntry :=
  { mu := q.mu, shadow := shadow, direct := shadow, la := o.la, data := 0, mask := 0, loc := o.loc, col := fcol q.c,
    itr := fitr q.c, sx := q.c.u.x, sy := q.c.u.y, ss := q.c.stn, seq := q.iseq, ntag := none, page := o.page, host := o.host,
    tagAt := 0, tagSeq := 0, stamps := [], bseqs := [] }

/-- The store joins this entry (R176). -/
def joins (q : Req) (o : StoreOp) (e : PbEntry) : Bool :=
  e.mu == q.mu && e.la == o.la && e.loc == o.loc && e.col == fcol q.c && e.itr == fitr q.c && e.sx == q.c.u.x
    && e.sy == q.c.u.y && e.ss == q.c.stn

/-- Moves the MU's oldest buffer entry to its shadow slice (R176). -/
def moveOldest (m : UId) : List PbEntry → List PbEntry
  | [] => []
  | e :: es => if e.mu == m && !e.shadow then { e with shadow := true } :: es else e :: moveOldest m es

/-- The phase buffer after it accepts a store (R176, R421); none where buffer and slice are full. The store of a context that has been killed is
discarded (R398). -/
def acceptStore (s : State) (q : Req) (o : StoreOp) : Option State :=
  if !isLive (reqCtx s q) then some s else
  let now := s.mu.accepts + 1
  let put (es : List PbEntry) : State := { s with mu := { s.mu with pbuf := es, accepts := now } }
  if s.mu.pbuf.any (joins q o) then
    some (put (s.mu.pbuf.map fun e => if joins q o e then mergeStore e o q.iseq now else e))
  else
    let room := sliceUsed s q.mu + 128 ≤ sliceSize (reqCtx s q)
    let frames := framesOf s q.mu
    let direct := o.loc < unitBase && !frames.contains (o.loc / 4096) && frames.length ≥ 256
    let full := (s.mu.pbuf.filter fun e => e.mu == q.mu && !e.shadow).length ≥ 512
    let e (sh : Bool) : PbEntry := mergeStore (newEntry q o sh) o q.iseq now
    if direct then (if room then some (put (s.mu.pbuf ++ [e true])) else none)
    else if !full then some (put (s.mu.pbuf ++ [e false]))
    else if room then some (put (moveOldest q.mu s.mu.pbuf ++ [e false]))
    else none

/-- A store is accepted and its completion token sent (R169, R186), or it faults PHASE_OVERFLOW (R176). -/
def storeReq (q : Req) (o : StoreOp) (va : Word) (s : State) : State :=
  match acceptStore s q o with
  | some t => reply q 0 t
  | none => reqFault q 0x0C va s

/-- The page record of a translation (R421). -/
def pageOf (x : Ctx) (a : XAddr) : Option PageRec := a.leaf.map fun l => { as := x.as, base := l.vbase, size := l.size }

/-- The line pointer of a global virtual address. -/
def lineVa (va : Nat) : Word := BitVec.ofNat 64 (va / 64 * 64)

/-! ### Commits (R177, R178) -/

/-- The entries' commit keys compared (R177). The copies of a REDUNDANT context each have an order of their own; the primary's entries come
first. -/
def entryLe (x : Ctx) (a b : PbEntry) : Bool :=
  if a.mu.copy != b.mu.copy then a.mu.copy < b.mu.copy
  else match keyCmp x a.mu.copy a.sx a.sy a.col a.itr a.ss b.sx b.sy b.col b.itr b.ss with
  | .lt => true
  | .gt => false
  | .eq => !olderSeq b.seq a.seq

/-- Inserts an entry in commit-key order. -/
def insertKey (x : Ctx) (e : PbEntry) : List PbEntry → List PbEntry
  | [] => [e]
  | a :: as => if entryLe x a e then a :: insertKey x e as else e :: a :: as

/-- The entries in commit-key order. -/
def sortKey (x : Ctx) (es : List PbEntry) : List PbEntry := es.foldl (fun r e => insertKey x e r) []

/-- The bytes that an entry writes. -/
def entryWrites (e : PbEntry) : List (Nat × Byte) :=
  (List.range 64).filterMap fun b => if e.mask.getLsbD b then some (e.loc + b, e.data.extractLsb' (8 * b) 8) else none

/-! ### Uncorrectable reads (R468, R477) -/

/-- A read of a scratchpad line is reported uncorrectable by an armed injection (R477). -/
def injLine (s : State) (loc : Nat) : Bool :=
  loc ≥ unitBase && injAt s (unitAt loc) 3 && (injOf s (dieOf s (unitAt loc))).iof / 64 == loc % 2 ^ 20 / 64

/-- A read at a location consumes an uncorrectable error (R469, R477). -/
def readFails (s : State) (loc : Nat) : Bool := injLine s loc || s.un.upsets.contains (.line (loc / 64))

/-- An armed injection that a read at some locations meets has fired (R477). -/
def readFire (s : State) (ls : List Nat) : State :=
  match ls.find? (injLine s) with
  | some l => injFire s (unitAt l)
  | none => s

/-- The commit of an entry whose own words, or of part of a line whose words hold an uncorrectable error records it against the store's colour
(R178, R469, R477, log entry 90). -/
def commitError (s : State) (e : PbEntry) : State :=
  let part := e.mask != 0 && e.mask != BitVec.allOnes 64
  if !(part && readFails s e.loc) && !(s.un.upsets.contains (.buffer (physAt s (modPos s e.mu)))) then s
  else trapErr (if part then readFire s [e.loc] else s) (if e.loc ≥ unitBase then { unitAt e.loc with copy := e.mu.copy } else e.mu) e.col 0x12

/-- The tag that an entry carries is written with its data (R121). Host lines keep no tag (R117), and an LTAG.SET on a line with a live slot
or header is discarded there (R197, R226, R258). -/
def commitTag (s : State) (e : PbEntry) : State :=
  match e.ntag with
  | none => s
  | some t =>
    if e.host then s
    else if e.mask == 0 && anyLive s e.loc 64 then addBsdrop s e.loc
    else setLineTag s e.loc t

/-- Writes one entry to its destination and sets CM of its colour (R178, R179). -/
def commitEntry (s : State) (e : PbEntry) : State :=
  let s := commitTag (putBytes (commitError s e) (entryWrites e)) e
  commitPt s e.mu.ctx e.mu.copy e.col

/-- The host regions that the covered entries of a context name and the device does not own (R183). -/
def hostBlocks (s : State) (c : Nat) (cov : PbEntry → Bool) : List Nat :=
  ((s.mu.pbuf.filter fun e => e.mu.ctx == c && cov e && e.host).map fun e => regionOf e.loc).eraseDups.filter fun n =>
    match findRegion s n with | some r => r.own != .device | none => false

/-- The transfer that a device access to a region of the host starts (R423). -/
def wantRegion (s : State) (n : Nat) : State :=
  updRegion s n fun r => if r.own == .host then { r with own := .toDevice, since := s.clock } else r

/-- A commit that meets a host-owned region first transfers it back (R183): it raises the transfers and waits for them. -/
def wantBlocks (s : State) (c : Nat) (cov : PbEntry → Bool) : State := (hostBlocks s c cov).foldl wantRegion s

/-- A boundary's commit of the entries that `cov` names, in commit-key order (R177). The twin's stores outside its own
paddock are performed once, by the primary (R471). -/
def commitWhere (s : State) (c : Nat) (cov : PbEntry → Bool) : State :=
  let es := sortKey (ctxOf s c) (s.mu.pbuf.filter fun e => e.mu.ctx == c && cov e)
  let s := { s with mu := { s.mu with pbuf := s.mu.pbuf.filter fun e => !(e.mu.ctx == c && cov e) } }
  es.foldl (fun s e => if e.mu.copy != 0 && e.loc < unitBase then commitPt s e.mu.ctx e.mu.copy e.col else commitEntry s e) s

/-- A context-scope boundary steps SRG (R114). -/
def stepSrg (s : State) (c : Nat) : State := updCtx s c fun x => { x with srg := srStep x.srg }

/-! ### Waiters (R199) -/

/-- The lowest-numbered free waiter index of an MU, the area first, then the overflow in the slice (R199). -/
def freeWaiter (s : State) (m : UId) : Option Nat :=
  let used := (s.mu.waiters.filter fun w => w.mu == m).map fun w => w.idx
  match (List.range 1024).find? fun i => !used.contains i with
  | some i => some i
  | none =>
    if sliceUsed s m + 32 ≤ sliceSize (ctxOf s m.ctx) then
      ((List.range (used.length + 1)).map (· + 1024)).find? fun i => !used.contains i
    else none

/-- Parks a request on a word, slot or header of its MU (R199); PHASE_OVERFLOW where there is no room. -/
def parkWaiter (q : Req) (wk off arg : Nat) (va : Word) (s : State) : State :=
  match freeWaiter s q.mu with
  | none => reqFault q 0x0C va s
  | some i =>
    let f := reqFields q
    { s with mu := { s.mu with waiters := s.mu.waiters ++
        [{ mu := q.mu, idx := i, wk := wk, off := off, u := q.c.u, col := fcol q.c, itr := fitr q.c, ss := q.c.stn,
           ta := f.ta, tb := f.tb, wty := f.ty, arg := arg }] } }

/-- A request that parks is a commit point of its colour; one that finds no room faults and is none (R76, R199). -/
def parkCommit (q : Req) (wk off arg : Nat) (va : Word) (s : State) : State :=
  match freeWaiter s q.mu with
  | none => reqFault q 0x0C va s
  | some _ => parkWaiter q wk off arg va (reqCommit q s)

/-- The waiters of one kind on a word, slot or header, in parking order. -/
def waitersOn (s : State) (m : UId) (wk off : Nat) : List Waiter :=
  s.mu.waiters.filter fun w => w.mu == m && w.wk == wk && w.off == off

/-- Re-emits one waiter with its tag and targets (R199). -/
def wake (v w' : Word) (s : State) (w : Waiter) : State :=
  emitFrom (emitFrom s w.mu w.u w.col w.itr w.ta kReply v false) w.mu w.u w.col w.itr w.tb kReply w' false

/-- The bytes of a DEFERRED word hold the head of its list of parked readers (R198); a word whose list is empty becomes EMPTY and reads as
zero. -/
def deferHead (s : State) (m : UId) (off : Nat) : State :=
  match waitersOn s m 0 off with
  | [] => setIs (wrN s (locUnit m off) 8 0) (locUnit m off) 1
  | w :: _ => setIs (wrN s (locUnit m off) 8 w.idx) (locUnit m off) 2

/-- Releases a whole list with one value (R199). -/
def releaseAll (s : State) (m : UId) (wk off : Nat) (v : Word) : State :=
  let ws := waitersOn s m wk off
  let s := { s with mu := { s.mu with waiters := s.mu.waiters.filter fun w => !ws.contains w } }
  ws.foldl (wake v v) s

/-! ### Replies of uncorrectable reads (R468) -/

/-- The error message of an MU's read goes first, and the reply, the part for other modules among it, waits for the colour unit (R468). -/
def errorFirst (q : Req) (m : UId) (rep : State → State) (s : State) : State :=
  let t := rep { s with lk := { s.lk with ports := [] } }
  let n := s.fab.flights.length
  let k := s.lk.egress.length
  { t with fab := { t.fab with flights := t.fab.flights.take n }, lk := { t.lk with ports := s.lk.ports, egress := t.lk.egress.take k },
           un := { t.un with errs := t.un.errs ++ [{ u := m, col := fcol q.c, kind := 0x12, reply := t.fab.flights.drop n,
                                                     out := t.lk.egress.drop k }] } }

/-- A reply whose read at a location may consume an uncorrectable error (R468). -/
def readReply (q : Req) (m : UId) (loc : Nat) (rep : State → State) (s : State) : State :=
  if readFails s loc then errorFirst q m rep (readFire s [loc]) else rep s

/-- A read of a unit's own, which no reply follows, records an uncorrectable error against the firing's colour (R469). -/
def readNote (q : Req) (m : UId) (loc : Nat) (s : State) : State :=
  if readFails s loc then trapErr (readFire s [loc]) m (fcol q.c) 0x12 else s

/-- A unit's own reads at some locations record an uncorrectable error against a colour (R469). -/
def noteReads (m : UId) (col : Nat) (ls : List Nat) (s : State) : State :=
  if ls.any (readFails s) then trapErr (readFire s ls) m col 0x12 else s

end Sys2Proof.Machine
end

