-- ==== Sys2Proof/Machine/Memory.lean ====
section
/-!
DEFINITION. Loads, stores, line tags, write-once words, prefetch, PHASE, FENCE and the pool (07 R184 to R203, R210): what
their firings do at issue, and what their requests do at the MU.
-/

namespace Sys2Proof.Machine

open Sys2Proof

/-- The bytes of an access of a type (R192). -/
def tyBytes (t : Ty) : Nat := tyW t / 8

/-- The windows 00, 01 and 11. -/
def wins0113 : List Nat := [0, 1, 3]

/-- A firing whose request goes to the home MU, after steps 1 and 2 of R165 on its displaced pointer. -/
def sendHome (i : Instr) (f : Fields) (wins : List Nat) (n : Nat) (k : List Word) (F : Ready) (s : State) : State :=
  let x := ctxOf s F.u.ctx
  match dispPtr f F with
  | none => raiseA F 0x07 (presented f F) s
  | some p =>
    match windowFault x (poolSize x) wins p n with
    | some e => raiseA F e p s
    | none => sendReq (accessMu s F p) i F k s

/-- A firing whose request goes to the MU that its window-01 pointer names (R180). -/
def sendOwner (i : Instr) (f : Fields) (n : Nat) (k : List Word) (F : Ready) (s : State) : State :=
  let x := ctxOf s F.u.ctx
  match dispPtr f F with
  | none => raiseA F 0x07 (presented f F) s
  | some p =>
    match windowFault x (poolSize x) [1] p n with
    | some e => raiseA F e p s
    | none => sendReq (muNamed F.u p) i F k s

/-- The displaced pointer of a request, whose firing has passed the checks of its window. -/
def reqPtr (q : Req) : Word := (dispPtr (reqFields q) q.c).getD 0

/-! ### LD and ST (R192) -/

/-- Bytes of a line-aligned range as a load of the request sees them (R173): own buffered bytes over memory. -/
def seenBytes (s : State) (q : Req) (la : Word) (loc off n : Nat) (scratch : Bool) : List Byte :=
  (List.range n).map fun k =>
    match ownByte s q.mu q.c la (off + k) with
    | some b => b
    | none => if scratch then scratchByte s (loc + off + k) else rd8 s (loc + off + k)

/-- The value of loaded bytes (R101). -/
def loadVal (t : Ty) (bs : List Byte) : Word := extendTy t (leNat bs)

/-- A load of a pool word that holds an uncorrectable error records it against the firing's colour (R467, R469). -/
def poolError (F : Ready) (p : Word) (s : State) : State :=
  if readFails s (locUnit F.u (offOf p)) then trapErr s F.u (fcol F) 0x12 else s

/-- LD at issue: window 10 is read at once from the pool; every other window sends a request (R187). -/
def laneLd (f : Fields) (F : Ready) (s : State) : State :=
  laneBoth f (fun F s =>
    let n := tyBytes f.ty
    let x := ctxOf s F.u.ctx
    match dispPtr f F with
    | some p =>
      if winOf p == 2 then
        match windowFault x (poolSize x) [2] p n with
        | some e => raiseA F e p s
        | none =>
          if offOf p % n != 0 then raiseA F 0x08 p s
          else poolError F p <| replyBoth F.u f F (loadVal f.ty (rdBytes s (locUnit F.u (offOf p)) n)) (loadVal f.ty (rdBytes s (locUnit F.u (offOf p)) n)) s
      else sendHome (.ld f) f wins0113 n [] F s
    | none => raiseA F 0x07 (presented f F) s) F s
/-- LD. -/
def execLd (f : Fields) (s : State) : Host.Outcome State Fault Refusal := runLanes (laneLd f) s

/-- A scratchpad load of `n` bytes at an MU's offset (R173, R226, R258). -/
def loadScratch (q : Req) (m : UId) (off n : Nat) (va : Word) (s : State) : State :=
  if off % n != 0 then reqFault q 0x08 va s
  else match liveFault s (locUnit m off) n with
  | some e => reqFault q e va s
  | none =>
    let bs := seenBytes s q (muPtr m (off / 64 * 64)) (locUnit m (off / 64 * 64)) (off % 64) n true
    let v := loadVal (reqFields q).ty bs
    readReply q m (locUnit m off) (reply q v) s

/-- All bytes of a range come from own buffered stores (R187). -/
def allOwn (s : State) (q : Req) (la : Word) (off n : Nat) : Bool :=
  (List.range n).all fun k => (ownByte s q.mu q.c la (off + k)).isSome

/-- A translated load joins those whose data are still to be read (R187), unless its own buffered stores hold every byte. -/
def loadGlobal (q : Req) (va n : Nat) (rep : State → State) (a : XAddr) (s : State) : State :=
  if n != 0 && allOwn s q (lineVa va) (va % 64) n then rep s
  else { s with mu := { s.mu with loads := s.mu.loads ++ [{ req := q, va := va, phys := a.phys }] } }

/-- The bytes of a global access at a physical address, as the request sees them. -/
def seenGlobal (s : State) (q : Req) (va phys n : Nat) : List Byte :=
  seenBytes s q (lineVa va) (phys - va % 64) (va % 64) n false

/-- LD at its MU. -/
def performLd (q : Req) (s : State) : State :=
  let f := reqFields q
  let n := tyBytes f.ty
  let p := reqPtr q
  if winOf p == 1 then loadScratch q (muNamed q.c.u p) (offOf p) n p s
  else match resolveVa s q.mu p n n false with
  | .error e => raise q.c e s
  | .ok va => withPhys s q .read va (fun a s =>
      loadGlobal q va n (reply q (loadVal f.ty (seenGlobal s q va a.phys n))) a s)

/-- The data of a plain store at issue: R, or a K register. -/
def storeData (f : Fields) (v : Word) : List Byte := leBytes v.toNat (tyBytes f.ty)

/-- ST at issue: window 10 is written at once into the pool (R168). -/
def laneSt (f : Fields) (F : Ready) (s : State) : State :=
  laneBoth f (fun F s =>
    let n := tyBytes f.ty
    let x := ctxOf s F.u.ctx
    let v := rightOp f F s
    match dispPtr f F with
    | some p =>
      if winOf p == 2 then
        match windowFault x (poolSize x) [2] p n with
        | some e => raiseA F e p s
        | none =>
          if offOf p % n != 0 then raiseA F 0x08 p s
          else replyBoth F.u f F 0 0 (wrBytes s (locUnit F.u (offOf p)) (storeData f v))
      else sendHome (.st f) f wins0113 n [v] F s
    | none => raiseA F 0x07 (presented f F) s) F s
/-- ST. -/
def execSt (f : Fields) (s : State) : Host.Outcome State Fault Refusal := runLanes (laneSt f) s

/-- A scratchpad store as the buffer takes it. -/
def scratchOp (m : UId) (off : Nat) (bs : List Byte) (tag : Option (BitVec 16)) : StoreOp :=
  { la := muPtr m (off / 64 * 64), loc := locUnit m (off / 64 * 64), off := off % 64, bytes := bs, ntag := tag, page := none,
    host := false }

/-- A global store as the buffer takes it. -/
def globalOp (x : Ctx) (va : Nat) (a : XAddr) (bs : List Byte) (tag : Option (BitVec 16)) : StoreOp :=
  { la := lineVa va, loc := a.phys - va % 64, off := va % 64, bytes := bs, ntag := tag, page := pageOf x a, host := a.hr }

/-- A scratchpad store of aligned bytes; one accepted at the MU that holds a live slot or header faults (R226, R258). -/
def storeScratch (q : Req) (m : UId) (off : Nat) (bs : List Byte) (va : Word) (s : State) : State :=
  if off % bs.length != 0 then reqFault q 0x08 va s
  else match (if m == q.mu then liveFault s (locUnit m off) bs.length else none) with
  | some e => reqFault q e va s
  | none => storeReq q (scratchOp m off bs none) va s

/-- ST at its MU. -/
def performSt (q : Req) (s : State) : State :=
  let f := reqFields q
  let bs := storeData f (reqK q 0)
  let p := reqPtr q
  if winOf p == 1 then storeScratch q (muNamed q.c.u p) (offOf p) bs p s
  else match resolveVa s q.mu p bs.length bs.length true with
  | .error e => raise q.c e s
  | .ok va => withPhys s q .write va (fun a s => storeReq q (globalOp (reqCtx s q) va a bs none) (BitVec.ofNat 64 va) s)

/-! ### LDS and STS (R192) -/

/-- The window-01 pointer of an LDS or STS: a displaced 20-bit offset in the home MU; none where R192 refuses it. -/
def homePtr (f : Fields) (F : Ready) : Option Word :=
  let o : Int := (offOf F.l.val : Int) + dispOf f
  if F.l.val.extractLsb' 20 44 == 0 && 0 ≤ o && o < 2 ^ 20 then some (muPtr (muOf F.u) o.toNat) else none

/-- An offset access at issue: the pointer is formed and checked as a window-01 access of the home MU. -/
def sendOffset (i : Instr) (f : Fields) (n : Nat) (k : List Word) (F : Ready) (s : State) : State :=
  let x := ctxOf s F.u.ctx
  match homePtr f F with
  | none => raiseA F 0x07 (presented f F) s
  | some p =>
    match windowFault x (poolSize x) [1] p n with
    | some e => raiseA F e p s
    | none => sendReq (muOf F.u) i F k s

/-- LDS. -/
def execLds (f : Fields) (s : State) : Host.Outcome State Fault Refusal :=
  runLanes (laneBoth f (fun F s => sendOffset (.lds f) f (tyBytes f.ty) [] F s)) s

/-- LDS at the home MU. -/
def performLds (q : Req) (s : State) : State :=
  let p := (homePtr (reqFields q) q.c).getD 0
  loadScratch q q.mu (offOf p) (tyBytes (reqFields q).ty) p s

/-- STS. -/
def execSts (f : Fields) (s : State) : Host.Outcome State Fault Refusal :=
  runLanes (laneBoth f (fun F s => sendOffset (.sts f) f (tyBytes f.ty) [rightOp f F s] F s)) s

/-- STS at the home MU. -/
def performSts (q : Req) (s : State) : State :=
  let p := (homePtr (reqFields q) q.c).getD 0
  storeScratch q q.mu (offOf p) (storeData (reqFields q) (reqK q 0)) p s

/-! ### GLD (R193) -/

/-- GLD at issue: the fill value is read from K. -/
def execGld (f : Fields) (s : State) : Host.Outcome State Fault Refusal :=
  runLanes (laneBoth f (fun F s =>
    if winOf F.l.val != 3 then raiseA F 0x07 F.l.val s
    else sendReq (muOf F.u) (.gld f) F [rightOp f F s, kreg s F.u (fld f 0 6)] s)) s

/-- GLD at its MU. -/
def performGld (q : Req) (s : State) : State :=
  let f := reqFields q
  let b := tyBytes f.ty
  let p := q.c.l.val
  match capLive s q.mu p with
  | .error e => raise q.c e s
  | .ok e =>
    let i := (reqK q 0).toInt
    if i < 0 || (capOff p : Int) + (i + 1) * b > e.len then reply2 q (extendTy f.ty (reqK q 1).toNat) 1 s
    else
      let va := e.base + capOff p + i.toNat * b
      if va % b != 0 then reqFault q 0x08 p s
      else withPhys s q .read va (fun a s =>
        loadGlobal q va b (reply2 q (loadVal f.ty (seenGlobal s q va a.phys b)) 0) a s)

/-! ### Line tags and line-described access (R116 to R121, R194 to R197) -/

/-- The element count, element width in bits and element format of a line format (R118); a raw line counts as 16 F32
elements (R194). None for a reserved code. -/
def lineFmtOf (c : Nat) : Option (Nat × Nat × Ty) :=
  match c with
  | 0x00 => some (16, 32, .n32)
  | 0x01 => some (16, 32, .f32)
  | 0x02 => some (32, 16, .bf16)
  | 0x03 => some (32, 16, .f16)
  | 0x04 => some (64, 8, .e4m3)
  | 0x05 => some (64, 8, .e5m2)
  | 0x06 => some (128, 4, .e2m1)
  | 0x07 => some (64, 8, .i8)
  | 0x10 => some (128, 4, .e2m1)
  | _ => none

/-- The line scale applied to a format (R118, R119): none where `LSC` is not applied. -/
def lineScale (tag : BitVec 16) : Option Ex :=
  let c := (tag.extractLsb' 0 8).toNat
  if c == 0x00 || c == 0x10 then none else some (decodeE8 (tag.extractLsb' 8 8).toNat)

/-- The exact value of an element's bits on a line (R119). -/
def lineDecode (tag : BitVec 16) (t : Ty) (b : Nat) : Ex :=
  let e := if t == .i8 then Ex.ofInt (intOf .i8 (BitVec.ofNat 64 b)) else decodeF (fmtD t) b
  match lineScale tag with
  | none => e
  | some sc => Ex.mul e sc

/-- The element bits that encode a value on a line (R119). -/
def lineEncode (tag : BitVec 16) (t : Ty) (m : RMode) (sat : Bool) (r : Nat) (v : Ex) : Nat :=
  let x := match lineScale tag with
    | none => v
    | some sc => Ex.div v sc
  if t == .i8 then (wrapTy .i8 (rndClamp m r (-128) 127 x)).toNat % 256 else rnd (fmtD t) m sat r x

/-- The current tag of a line (R194): the newest own buffered tag, else that of memory; host lines read as raw (R117). -/
def curTag (s : State) (q : Req) (la : Word) (loc : Nat) (host : Bool) : BitVec 16 :=
  match ownTag s q.mu q.c la with
  | some t => t
  | none => if host then 0x7F00 else lineTag s loc

/-- A LINE_TAG fault with the format found (R120, R427). -/
def tagFault (q : Req) (tag : BitVec 16) (va : Word) (s : State) : State :=
  raise q.c { kind := 0x17, fks := (tag.extractLsb' 0 8).toNat, va := va } s

/-- The element that LDL answers from a line's tag and bytes (R195). -/
def ldlVal (s : State) (q : Req) (tag : BitVec 16) (t : Ty) (b : Nat) : Word :=
  let f := reqFields q
  if tag.extractLsb' 0 8 == 0 then BitVec.ofNat 64 b
  else BitVec.ofNat 64 (rnd .f32 (modeOf (f.fn.toNat % 8)) (f.fn.toNat / 8 == 0) (srOf s q.c 0) (lineDecode tag t b))

/-- LDL on a line whose bytes the request sees: the element's value, or the fault (R194, R195). That the element lies in the capability and in
no live slot or header can be checked only here, once the tag gives its place (R205, R226, R258, log entry 91). -/
def ldlLine (q : Req) (la : Word) (loc : Nat) (scratch host : Bool) (va : Word) (s : State) : State :=
  let tag := curTag s q la loc host
  match lineFmtOf (tag.extractLsb' 0 8).toNat with
  | none => tagFault q tag va s
  | some (n, w, t) =>
    let i := (reqK q 0).toNat
    if i ≥ n then reqFault q 0x07 va s
    else
      let d := i * w / 8
      let m := max 1 (w / 8)
      if capBeyond s q.mu q.c.l.val d m then reqFault q 0x03 va s
      else match (if scratch then liveFault s (loc + d) m else none) with
      | some e => reqFault q e va s
      | none => reply q (ldlVal s q tag t (nbits (leNat (seenBytes s q la loc d m scratch)) (i * w % 8) w)) s

/-- The address of a line-described access without displacement (R194): checked for its window. -/
def sendLine (i : Instr) (k : List Word) (F : Ready) (s : State) : State :=
  let x := ctxOf s F.u.ctx
  let p := F.l.val
  match windowFault x (poolSize x) wins0113 p 1 with
  | some e => raiseA F e p s
  | none => sendReq (accessMu s F p) i F k s

/-- LDL at issue: the element index is taken. -/
def execLdl (f : Fields) (s : State) : Host.Outcome State Fault Refusal :=
  runLanes (laneBoth f (fun F s => sendLine (.ldl f) [rightOp f F s] F s)) s

/-- The line that a line-described request names, after its checks, given to `k` with its pointer, location, and whether it
is scratchpad or host memory. `al` is the alignment asked for, `tags` says that the instruction touches the whole line (R197). -/
def withLine (s : State) (q : Req) (acc : Access) (al : Nat) (tags : Bool) (k : Word → Nat → Option XAddr → State → State) : State :=
  let p := q.c.l.val
  if winOf p == 1 then
    let m := muNamed q.c.u p
    let off := offOf p / 64 * 64
    if offOf p % al != 0 then reqFault q 0x08 p s
    else match (if tags then liveFault s (locUnit m off) 64 else none) with
    | some e => reqFault q e p s
    | none => k (muPtr m off) (locUnit m off) none s
  else match resolveVa s q.mu p 1 al (acc != .read) with
  | .error e => raise q.c e s
  | .ok va => withPhys s q acc va (fun a s => k (lineVa va) (a.phys - va % 64) (some a) s)

/-- The virtual address of a request's line-described access, for a fault record. -/
def lineFva (q : Req) : Word := q.c.l.val

/-- LDL at its MU: a scratchpad line is read at once, a global one when its data are read (R187). -/
def performLdl (q : Req) (s : State) : State :=
  withLine s q .read 64 false (fun la loc a s =>
    match a with
    | none => readReply q (muNamed q.c.u q.c.l.val) loc (ldlLine q la loc true false (lineFva q)) s
    | some x => { s with mu := { s.mu with loads := s.mu.loads ++ [{ req := q, va := la.toNat, phys := x.phys }] } })

/-- STL at issue (R196): P is the value. -/
def execStl (f : Fields) (s : State) : Host.Outcome State Fault Refusal :=
  runLanes (lane true true false f (fun F s => sendLine (.stl f) [rightOp f F s] F s)) s

/-- The bytes that STL writes for element `i` (R196): an E2M1 element merges its nibble into the byte the MU sees. -/
def stlBytes (s : State) (q : Req) (la : Word) (loc : Nat) (scratch : Bool) (i w b : Nat) : List Byte :=
  if w ≥ 8 then leBytes b (w / 8)
  else
    let old := leNat (seenBytes s q la loc (i * w / 8) 1 scratch)
    let lo := i * w % 8
    [BitVec.ofNat 8 (old - nbits old lo w * 2 ^ lo + b % 2 ^ w * 2 ^ lo)]

/-- STL at its MU (R196): it encodes P into the element and buffers the bytes with the tag. -/
def performStl (q : Req) (s : State) : State :=
  withLine s q .write 64 false (fun la loc a s =>
    let f := reqFields q
    let host := (a.map fun x => x.hr).getD false
    let tag := if fld f 16 1 == 1 then BitVec.ofNat 16 (fld f 0 16) else curTag s q la loc host
    let va := lineFva q
    match lineFmtOf (tag.extractLsb' 0 8).toNat with
    | none => tagFault q tag va s
    | some (n, w, t) =>
      let i := (reqK q 0).toNat
      if i ≥ n then reqFault q 0x07 va s
      else if capBeyond s q.mu q.c.l.val (i * w / 8) (max 1 (w / 8)) then reqFault q 0x03 va s
      else if host && fld f 16 1 == 1 && tag != 0x7F00 then tagFault q tag va s
      else match (if a.isNone && muNamed q.c.u q.c.l.val == q.mu then liveFault s (loc + i * w / 8) (max 1 (w / 8)) else none) with
      | some e => reqFault q e va s
      | none =>
        let v := pVal q.c
        let b := if tag.extractLsb' 0 8 == 0 then v.toNat % 2 ^ 32
          else lineEncode tag t (modeOf (f.fn.toNat % 8)) (f.fn.toNat / 8 == 0) (srOf s q.c 0) (decodeF .f32 (v.toNat % 2 ^ 32))
        let bs := stlBytes s q la loc a.isNone i w b
        let o : StoreOp := { la := la, loc := loc, off := i * w / 8, bytes := bs, ntag := some tag,
                             page := a.bind (pageOf (reqCtx s q)), host := host }
        storeReq q o va (if w ≥ 8 then s else readNote q q.mu (loc + i * w / 8) s))

/-- LTAG.GET at issue. -/
def execLtagGet (f : Fields) (s : State) : Host.Outcome State Fault Refusal :=
  runLanes (laneBoth f (fun F s => sendLine (.ltagGet f) [] F s)) s

/-- LTAG.GET at its MU (R197). -/
def performLtagGet (q : Req) (s : State) : State :=
  withLine s q .read 1 true (fun la loc a s =>
    match a with
    | none => reply q ((curTag s q la loc false).setWidth 64) s
    | some x => { s with mu := { s.mu with loads := s.mu.loads ++ [{ req := q, va := la.toNat, phys := x.phys }] } })

/-- LTAG.SET at issue. -/
def execLtagSet (f : Fields) (s : State) : Host.Outcome State Fault Refusal :=
  runLanes (laneBoth f (fun F s => sendLine (.ltagSet f) [rightOp f F s] F s)) s

/-- LTAG.SET at its MU (R197): the tag goes through the phase buffer with an empty MASK. -/
def performLtagSet (q : Req) (s : State) : State :=
  let tag := (reqK q 0).setWidth 16
  withLine s q .write 1 true (fun la loc a s =>
    let host := (a.map fun x => x.hr).getD false
    if (lineFmtOf (tag.extractLsb' 0 8).toNat).isNone || (host && tag != 0x7F00) then tagFault q tag (lineFva q) s
    else storeReq q { la := la, loc := loc, off := 0, bytes := [], ntag := some tag, page := a.bind (pageOf (reqCtx s q)),
                      host := host } (lineFva q) s)

/-! ### Write-once words (R198, R200) -/

/-- The fault of an I-structure operation or atomic at a live slot or header (R226, R258). -/
def bankFault (s : State) (m : UId) (off n : Nat) : Option Nat :=
  if off % n != 0 then some 0x08 else liveFault s (locUnit m off) n

/-- IS.RD at issue. -/
def execIsRd (f : Fields) (s : State) : Host.Outcome State Fault Refusal :=
  runLanes (laneBoth f (fun F s => sendOwner (.isRd f) f 8 [] F s)) s

/-- IS.RD at its bank (R200): a FULL word answers, any other parks the read. -/
def performIsRd (q : Req) (s : State) : State :=
  let p := reqPtr q
  let loc := locUnit q.mu (offOf p)
  match bankFault s q.mu (offOf p) 8 with
  | some e => reqFault q e p s
  | none =>
    if isState s loc == 0 then readReply q q.mu loc (reply q (BitVec.ofNat 64 (rdN s loc 8))) s
    else match freeWaiter s q.mu with
    | none => reqFault q 0x0C p s
    | some _ => deferHead (parkWaiter q 0 (offOf p) 0 p s) q.mu (offOf p)

/-- IS.WR at issue. -/
def execIsWr (f : Fields) (s : State) : Host.Outcome State Fault Refusal :=
  runLanes (laneBoth f (fun F s => sendOwner (.isWr f) f 8 [rightOp f F s] F s)) s

/-- IS.WR at its bank (R200): the write fills the word and releases its readers in order. -/
def performIsWr (q : Req) (s : State) : State :=
  let p := reqPtr q
  let loc := locUnit q.mu (offOf p)
  match bankFault s q.mu (offOf p) 8 with
  | some e => reqFault q e p s
  | none =>
    if isState s loc == 0 then reqFault q 0x1C p s
    else
      let s := reply q 0 (setIs (wrN s loc 8 (reqK q 0).toNat) loc 0)
      reqCommit q (releaseAll s q.mu 0 (offOf p) (reqK q 0))

/-- IS.CLR at issue. -/
def execIsClr (f : Fields) (s : State) : Host.Outcome State Fault Refusal :=
  runLanes (laneBoth f (fun F s => sendOwner (.isClr f) f 8 [] F s)) s

/-- IS.CLR at its bank (R200). -/
def performIsClr (q : Req) (s : State) : State :=
  let p := reqPtr q
  let loc := locUnit q.mu (offOf p)
  match bankFault s q.mu (offOf p) 8 with
  | some e => reqFault q e p s
  | none =>
    if isState s loc == 2 then reqFault q 0x1C p s
    else reqCommit q (reply q 0 (setIs (wrN s loc 8 0) loc 1))

/-! ### PFCH (R201) -/

/-- PFCH at issue. -/
def execPfch (f : Fields) (s : State) : Host.Outcome State Fault Refusal :=
  runLanes (laneBoth f (fun F s => sendReq (muOf F.u) (.pfch f) F [] s)) s

/-- The virtual address that PFCH translates; none where the pointer is invalid, null or revoked, or where the one byte that it is checked for
lies beyond the capability (log entry 109). -/
def pfchVa (s : State) (m : UId) (p : Word) : Option Nat :=
  if winOf p == 0 then (if ptrValid (ctxOf s m.ctx) 0 p then some (nbits p.toNat 0 57) else none)
  else match capDeref s m p 1 false with
  | .ok va => some va
  | .error _ => none

/-- PFCH at its MU (R201): it fills the TLBs and answers a status. -/
def performPfch (q : Req) (s : State) : State :=
  let x := reqCtx s q
  let p := q.c.l.val
  if winOf p == 1 || winOf p == 2 then reply q 0 s
  else match pfchVa s q.mu p with
  | none => reply q 2 s
  | some va =>
    match lookUp s q.mu x .read va with
    | some (.ok _, t) => reply q 0 t
    | some (.error _, t) => reply q 1 t
    | none => { s with tr := { s.tr with walks := s.tr.walks ++ [{ mu := q.mu, as := x.as, va := va, req := q }] } }

/-! ### PHASE, FENCE, POOL.PART (R202, R203, R210) -/

/-- PHASE at issue (R202): the firing arrives in its set and waits for the boundary. R62 settles a null as usual. -/
def lanePhase (f : Fields) (F : Ready) (s : State) : State :=
  laneBoth f (fun F s =>
    { s with fab := { s.fab with parked := s.fab.parked ++
        [{ f := F, ta := f.ta, tb := f.tb, lvl := if fld f 0 3 == 1 then fld f 3 3 else 0 }] } }) F s
/-- PHASE. -/
def execPhase (f : Fields) (s : State) : Host.Outcome State Fault Refusal := runLanes (lanePhase f) s

/-- The CUs of an arrival set: those of the group that holds (gx, gy) at a level, or of the whole context (R202). -/
def phaseCus (x : Ctx) (lvl gx gy : Nat) : List UId :=
  (unitsOf x).filter fun u => !isMu u.x && sameGroup x lvl gx gy u.x u.y

/-- The oldest parked PHASE of a CU in an arrival set. -/
def parkedAt (s : State) (u : UId) (lvl : Nat) : Option Parked := s.fab.parked.find? fun p => p.f.u == u && p.lvl == lvl

/-- The digest of a boundary's covered entries (R470). -/
def boundaryDigest (es : List PbEntry) : Word :=
  digestOf (es.flatMap fun e =>
    [e.la, e.mask] ++ ((List.range 8).map fun k => e.data.extractLsb' (64 * k) 64)
      ++ [BitVec.ofNat 64 ((e.ntag.getD 0).toNat + (if e.ntag.isSome then 2 ^ 16 else 0) + 2 ^ 17 * e.itr)])

/-- The groups of R470's boundary digests: those of level 1, or the whole paddock (R375). -/
def digestGroup (x : Ctx) (u : UId) : Nat :=
  match groupAt x 1 with
  | none => 0
  | some g => linIndex x g u.x u.y

/-- The digest group of an entry: that of the CU that issued its store. -/
def entryGroup (x : Ctx) (e : PbEntry) : Nat := digestGroup x { ctx := x.id, copy := 0, x := e.sx, y := e.sy }

/-- The mismatching digest groups of what a commit of a REDUNDANT context covers (R472). -/
def badOf (x : Ctx) (es : List PbEntry) : List Nat :=
  if !isRedundant x then []
  else (es.map (entryGroup x)).eraseDups.filter fun g =>
    let d (k : Nat) : Word := boundaryDigest (sortKey x (es.filter fun e => e.mu.copy == k && entryGroup x e == g))
    d 0 != d 1

/-- The entries of a context that a boundary covers. -/
def covered (s : State) (c : Nat) (cov : PbEntry → Bool) : List PbEntry := s.mu.pbuf.filter fun e => e.mu.ctx == c && cov e

/-- The mismatching digest groups of a boundary. -/
def badGroups (s : State) (c : Nat) (cov : PbEntry → Bool) : List Nat := badOf (ctxOf s c) (covered s c cov)

/-- A mismatch is recorded against every colour that has a covered entry in a mismatching group, in both copies (R472). -/
def recordBad (x : Ctx) (es : List PbEntry) (s : State) : State :=
  (((es.filter fun e => (badOf x es).contains (entryGroup x e)).map fun e => (e.mu, e.col)).eraseDups).foldl
    (fun s e => trapErr s e.1 e.2 0x13) s

/-- A mismatch of the context has been recorded and has not surfaced yet (R472). -/
def mismatched (s : State) (c : Nat) : Bool := s.un.errs.any fun e => e.u.ctx == c && e.kind == 0x13

/-- A boundary's commit, or in a REDUNDANT context with a mismatch the errors of R472 in place of it. -/
def boundary (s : State) (c : Nat) (cov : PbEntry → Bool) : State :=
  if (badGroups s c cov).isEmpty then commitWhere s c cov else recordBad (ctxOf s c) (covered s c cov) s

/-- The PHASE firings of this module's CUs that a boundary releases: the oldest of each CU of the set. -/
def phaseParked (s : State) (x : Ctx) (lvl gx gy : Nat) : List Parked :=
  (phaseCus x lvl gx gy).filterMap fun u => parkedAt s u lvl

/-- The entries that a PHASE boundary covers (R172, R202). -/
def phaseCovers (x : Ctx) (lvl gx gy : Nat) (e : PbEntry) : Bool := sameGroup x lvl gx gy e.sx e.sy

/-- The boundary's commit on this module (R178, R202); a context-scope boundary steps SRG. -/
def phaseCommit (s : State) (c lvl gx gy : Nat) : State :=
  let s := boundary s c (phaseCovers (ctxOf s c) lvl gx gy)
  if lvl == 0 then stepSrg s c else s

/-- Every party's PHASE emits its completion token (R202), of value 0 as a store's is (log entry 109). -/
def phaseEmit (s : State) (c lvl gx gy : Nat) : State :=
  let ps := phaseParked s (ctxOf s c) lvl gx gy
  let s := { s with fab := { s.fab with parked := s.fab.parked.filter fun p => !ps.contains p } }
  ps.foldl (fun s p => emitFrom (emitFrom s p.f.u p.f.u (fcol p.f) (fitr p.f) p.ta kReply 0 false) p.f.u p.f.u
    (fcol p.f) (fitr p.f) p.tb kReply 0 false) s

/-- The members of an outing that hold CUs of an arrival set. -/
def phaseMembers (x : Ctx) (lvl gx gy : Nat) : List Nat :=
  (((List.range x.ph).flatMap fun y => ((List.range (padW x / 4)).filter fun p => sameGroup x lvl gx gy (4 * p) y).map
    fun p => memberAt x (4 * p)).eraseDups)

/-- Two steps belong to one arrival set. -/
def samePhase (x : Ctx) (a b : PhaseStep) : Bool := a.lvl == b.lvl && sameGroup x a.lvl a.gx a.gy b.gx b.gy

/-- The members from which a stage of a phase has come. -/
def phaseFrom (x : Ctx) (p : PhaseStep) (stage : Nat) : List Nat :=
  (x.phases.filter fun q => samePhase x p q && q.stage == stage).map fun q => q.m

/-- Sends a step of a phase to members. -/
def phaseSend (s : State) (c : Nat) (p : PhaseStep) (ms : List Nat) : State :=
  let x := ctxOf s c
  (ms.filter (· != x.member)).foldl (fun s k => sendOut s x k (.msg (.phase c p))) s

/-- The phase is over on every member (R202): at context scope SRG steps, and the parties' tokens are sent. -/
def phaseOver (s : State) (c : Nat) (p : PhaseStep) : State :=
  let s := updCtx s c fun x => { x with phases := x.phases.filter fun q => !samePhase x p q }
  let s := if p.lvl == 0 then stepSrg s c else s
  phaseEmit s c p.lvl p.gx p.gy

/-- A member's own commit of a phase: the first member of the set then has the others commit, and any other tells it so. -/
def phaseDo (c : Nat) (p : PhaseStep) (s : State) : State :=
  let x := ctxOf s c
  let s := updCtx s c fun x => { x with phases := x.phases.filter fun q => !(samePhase x p q && q.stage == 1) }
  let s := boundary s c (phaseCovers x p.lvl p.gx p.gy)
  if p.m == x.member then phaseSend s c { p with stage := 1 } (List.range x.members.length)
  else phaseSend s c { p with m := x.member, stage := 2 } [p.m]

/-- A member's commit of a phase. It waits until the paddock is thawed (R179), while a host region that it writes belongs to the host (R183),
and while the copies of a REDUNDANT context do not match (R470, R472). -/
def phaseTry (c : Nat) (p : PhaseStep) (s : State) : State :=
  let cov := phaseCovers (ctxOf s c) p.lvl p.gx p.gy
  let wait (s : State) : State := updCtx s c fun x => { x with phases := (x.phases.filter (· != p)) ++ [p] }
  if !isRunning (ctxOf s c) then wait s
  else if !(hostBlocks s c cov).isEmpty then wait (wantBlocks s c cov)
  else if !(badGroups s c cov).isEmpty then wait (if mismatched s c then s else boundary s c cov)
  else phaseDo c p s

/-- A step of a phase of an outing is taken (R202, R374): the first member of the set gathers the arrivals, has every member commit,
and then lets the parties go. -/
def phaseTake (c : Nat) (p : PhaseStep) (s : State) : State :=
  let x := ctxOf s c
  let ms := phaseMembers x p.lvl p.gx p.gy
  let all := List.range x.members.length
  let mine (st : Nat) : PhaseStep := { p with m := x.member, stage := st }
  let note (s : State) : State := updCtx s c fun x => { x with phases := x.phases ++ [p] }
  match p.stage with
  | 0 =>
    let s := note s
    if ms.all (phaseFrom (ctxOf s c) p 0).contains then phaseTry c (mine 1) s else s
  | 1 => phaseTry c p s
  | 2 =>
    let s := note s
    if (all.filter (· != x.member)).all (phaseFrom (ctxOf s c) p 2).contains then phaseSend (phaseOver s c p) c (mine 3) ms else s
  | _ => phaseOver s c p

/-- A PHASE boundary completes (R178, R202): every CU of the set has arrived, the covered stores are committed, SRG steps
at a context-scope boundary, and every party's PHASE emits its completion token. In an outing this module's CUs have arrived, which
the first member of the set is told. A commit that waits for a host region (R183) is taken up again here; the copies of a REDUNDANT context that
do not match commit nothing and release nobody (R472). -/
def bodyPhaseBoundary (c lvl gx gy : Nat) (s : State) : State :=
  let x := ctxOf s c
  let n := (phaseCus x lvl gx gy).length
  let cov := phaseCovers x lvl gx gy
  if !isRunning x || x.freezing || mismatched s c then s
  else match x.phases.find? fun q => q.stage == 1 && q.lvl == lvl && sameGroup x lvl gx gy q.gx q.gy with
  | some q => phaseTry c q s
  | none =>
  if n == 0 || (phaseParked s x lvl gx gy).length != n then s
  else if x.members.length ≤ 1 then
    if !(hostBlocks s c cov).isEmpty then wantBlocks s c cov
    else if !(badGroups s c cov).isEmpty then boundary s c cov
    else phaseEmit (phaseCommit s c lvl gx gy) c lvl gx gy
  else
    let p : PhaseStep := { lvl := lvl, gx := gx, gy := gy, m := x.member, stage := 0 }
    let first := (phaseMembers x lvl gx gy).headD 0
    if (phaseFrom x p 0).contains x.member then s
    else if first == x.member then phaseTake c p s
    else phaseSend (updCtx s c fun x => { x with phases := x.phases ++ [p] }) c p [first]

/-- PHASE_BOUNDARY_COMPLETE. -/
def execPhaseBoundaryComplete (c lvl gx gy : Nat) (s : State) : Host.Outcome State Fault Refusal :=
  done s (bodyPhaseBoundary c lvl gx gy s)

/-- FENCE (R203): its instance carries the count of inputs that were neither null nor end-of-fibre. -/
def laneFence (f : Fields) (F : Ready) (s : State) : State := emitBoth f F kValue F.l.val s
/-- FENCE. -/
def execFence (f : Fields) (s : State) : Host.Outcome State Fault Refusal := runLanes (laneFence f) s

/-- POOL.PART (R210). -/
def lanePoolPart (f : Fields) (F : Ready) (s : State) : State :=
  laneBoth f (fun F s =>
    let x := ctxOf s F.u.ctx
    replyBoth F.u f F (BitVec.ofNat 64 (x.part % 256)) (BitVec.ofNat 64 (poolSize x)) s) F s
/-- POOL.PART. -/
def execPoolPart (f : Fields) (s : State) : Host.Outcome State Fault Refusal := runLanes (lanePoolPart f) s

/-! ### The data of a load are read (R187) -/

/-- What a load answers when its data are read: the bytes of R173, or the tag, of its own instruction. -/
def loadAnswer (g : GAccess) (s : State) : State :=
  let q := g.req
  let f := reqFields q
  let line := g.phys / 64 * 64
  match q.i with
  | .ldl _ => ldlLine q (lineVa g.va) line false (isHost g.phys) (lineFva q) s
  | .ltagGet _ => reply q ((curTag s q (lineVa g.va) line (isHost g.phys)).setWidth 64) s
  | .gld _ => reply2 q (loadVal f.ty (seenGlobal s q g.va g.phys (tyBytes f.ty))) 0 s
  | _ => reply q (loadVal f.ty (seenGlobal s q g.va g.phys (tyBytes f.ty))) s

/-- The data of load number `n` of an MU are read and its reply tokens sent. -/
def bodyGlobalLoad (m : UId) (n : Nat) (s : State) : State :=
  match (s.mu.loads.filter fun g => g.req.mu == m)[n]? with
  | none => s
  | some g => readReply g.req m g.phys (loadAnswer g) { s with mu := { s.mu with loads := s.mu.loads.erase g } }

/-- GLOBAL_LOAD_PERFORM. -/
def execGlobalLoadPerform (m : UId) (n : Nat) (s : State) : Host.Outcome State Fault Refusal := done s (bodyGlobalLoad m n s)

end Sys2Proof.Machine
end

