-- ==== Sys2Proof/Machine/Atomic.lean ====
section
/-!
DEFINITION. The atomics (07 R191, R211 to R214): what their firings do at issue, at the scratchpad bank that holds the word,
and at the memory controller of a global word.
-/

namespace Sys2Proof.Machine

open Sys2Proof

/-- The result of an atomic on patterns of `w` bits: the new pattern, and whether it stored (R211, R212). -/
def atomicNew (i : Instr) (t : Ty) (a b p : Nat) : Nat × Bool :=
  let x := intOf t (BitVec.ofNat 64 a)
  let y := intOf t (BitVec.ofNat 64 b)
  match i with
  | .aadd _ => ((a + b) % 2 ^ tyW t, true)
  | .aaddth _ => ((a + b) % 2 ^ tyW t, true)
  | .amin _ => (if y < x then b else a, true)
  | .amax _ => (if y > x then b else a, true)
  | .aand _ => (a &&& b, true)
  | .aor _ => (a ||| b, true)
  | .axor _ => (a ^^^ b, true)
  | .axchg _ => (b, true)
  | .acas _ => if a == b then (p, true) else (a, false)
  | .afadd _ => (rnd (fmtD t) .rne false 0 (Ex.add false (decodeF (fmtD t) a) (decodeF (fmtD t) b)), true)
  | _ => (a, false)

/-- The reply of an atomic (R211, R212). -/
def atomicReply (i : Instr) (t : Ty) (old : Nat) (stored : Bool) : Word × Word :=
  match i with
  | .acas _ => (extendTy t old, truth stored)
  | _ => (extendTy t old, extendTy t old)

/-- An atomic at issue: steps 1 and 2 of R165, then a request to the owning bank's MU for window 01, and to the home MU for a
global word, which in a REDUNDANT context the primary alone sends (R471). -/
def sendAtomic (i : Instr) (f : Fields) (wins : List Nat) (k : List Word) (F : Ready) (s : State) : State :=
  let x := ctxOf s F.u.ctx
  let p := F.l.val
  match windowFault x (poolSize x) wins p (tyBytes f.ty) with
  | some e => raiseA F e p s
  | none => if winOf p == 1 then sendReq (muNamed F.u p) i F k s else once (sendReq (muOf F.u) i · k) F s

/-- The lane of the atomics whose P is a predicate. -/
def laneAtomic (i : Instr) (f : Fields) : Ready → State → State :=
  laneBoth f (fun F s => sendAtomic i f wins0113 [rightOp f F s] F s)

/-- AADD. -/
def execAadd (f : Fields) (s : State) : Host.Outcome State Fault Refusal := runLanes (laneAtomic (.aadd f) f) s
/-- AMIN. -/
def execAmin (f : Fields) (s : State) : Host.Outcome State Fault Refusal := runLanes (laneAtomic (.amin f) f) s
/-- AMAX. -/
def execAmax (f : Fields) (s : State) : Host.Outcome State Fault Refusal := runLanes (laneAtomic (.amax f) f) s
/-- AAND. -/
def execAand (f : Fields) (s : State) : Host.Outcome State Fault Refusal := runLanes (laneAtomic (.aand f) f) s
/-- AOR. -/
def execAor (f : Fields) (s : State) : Host.Outcome State Fault Refusal := runLanes (laneAtomic (.aor f) f) s
/-- AXOR. -/
def execAxor (f : Fields) (s : State) : Host.Outcome State Fault Refusal := runLanes (laneAtomic (.axor f) f) s
/-- AXCHG. -/
def execAxchg (f : Fields) (s : State) : Host.Outcome State Fault Refusal := runLanes (laneAtomic (.axchg f) f) s
/-- AFADD. -/
def execAfadd (f : Fields) (s : State) : Host.Outcome State Fault Refusal := runLanes (laneAtomic (.afadd f) f) s

/-- ACAS (R212): P is an operand. -/
def execAcas (f : Fields) (s : State) : Host.Outcome State Fault Refusal :=
  runLanes (lane true true false f (fun F s => sendAtomic (.acas f) f wins0113 [rightOp f F s] F s)) s

/-- AADDTH (R213): its threshold is read from K when it issues. -/
def execAaddth (f : Fields) (s : State) : Host.Outcome State Fault Refusal :=
  runLanes (laneBoth f (fun F s => sendAtomic (.aaddth f) f [1] [rightOp f F s, kreg s F.u (fld f 0 6)] F s)) s

/-- AWAIT (R214). -/
def execAwait (f : Fields) (s : State) : Host.Outcome State Fault Refusal :=
  runLanes (laneBoth f (fun F s => sendAtomic (.await f) f [1] [rightOp f F s] F s)) s

/-! ### At the bank (R180, R211) -/

/-- The fault of an atomic at its bank: alignment, a live slot or header, a word that is not FULL (R198, R226, R258). -/
def atomicFault (s : State) (m : UId) (off n : Nat) : Option Nat :=
  match bankFault s m off n with
  | some e => some e
  | none => if isState s (locUnit m off) != 0 then some 0x1C else none

/-- AADDTH's crossing (R213): the waiters of AWAIT on the word go with the new value, each extended by its own type. -/
def releaseAwait (m : UId) (off v : Nat) (s : State) : State :=
  let ws := waitersOn s m 1 off
  let s := { s with mu := { s.mu with waiters := s.mu.waiters.filter fun w => !ws.contains w } }
  ws.foldl (fun s w => wake (extendTy w.wty v) (extendTy w.wty v) s w) s

/-- AADDTH's update crosses its threshold (R213). -/
def crosses (t : Ty) (old new th : Nat) : Bool :=
  let v (n : Nat) : Int := intOf t (BitVec.ofNat 64 n)
  v old < v th && v th ≤ v new

/-- An atomic on a scratchpad word. -/
def performAtomicBank (q : Req) (s : State) : State :=
  let f := reqFields q
  let p := q.c.l.val
  let n := tyBytes f.ty
  let loc := locUnit q.mu (offOf p)
  match atomicFault s q.mu (offOf p) n with
  | some e => reqFault q e p s
  | none =>
    let old := rdN s loc n
    let r := atomicNew q.i f.ty old (lowBits f.ty (reqK q 0)) (lowBits f.ty (pVal q.c))
    let w := atomicReply q.i f.ty old r.2
    let s := readReply q q.mu loc (reply2 q w.1 w.2) (reqCommit q (wrN s loc n r.1))
    match q.i with
    | .aaddth _ => if crosses f.ty old r.1 (lowBits f.ty (reqK q 1)) then releaseAwait q.mu (offOf p) r.1 s else s
    | _ => s

/-- AWAIT at its bank (R214). -/
def performAwait (q : Req) (s : State) : State :=
  let f := reqFields q
  let p := q.c.l.val
  let n := tyBytes f.ty
  match atomicFault s q.mu (offOf p) n with
  | some e => reqFault q e p s
  | none =>
    let old := rdN s (locUnit q.mu (offOf p)) n
    if intOf f.ty (BitVec.ofNat 64 old) ≥ intOf f.ty (reqK q 0) then
      readReply q q.mu (locUnit q.mu (offOf p)) (reply q (extendTy f.ty old)) (reqCommit q s)
    else parkCommit q 1 (offOf p) 0 p s

/-! ### At a memory controller -/

/-- A global atomic at its home MU: checked, translated and sent on (R211, R418). -/
def performAtomic (q : Req) (s : State) : State :=
  let p := q.c.l.val
  let n := tyBytes (reqFields q).ty
  if winOf p == 1 then performAtomicBank q s
  else match resolveVa s q.mu p n n true with
  | .error e => raise q.c e s
  | .ok va => withPhys s q .atomic va (fun a s =>
      { s with mu := { s.mu with atomics := s.mu.atomics ++ [{ req := q, va := va, phys := a.phys }] } })

/-- The commit point of an effect outside the paddock, for both copies' colours (R76, R471). -/
def commitPair (F : Ready) (s : State) : State :=
  let s := commitPt s F.u.ctx F.u.copy (fcol F)
  match twinOf F with
  | some G => commitPt s G.u.ctx G.u.copy (fcol G)
  | none => s

/-- A global atomic is performed at its memory controller. -/
def doGlobalAtomic (g : GAccess) (s : State) : State :=
  let q := g.req
  let f := reqFields q
  let n := tyBytes f.ty
  let old := rdN s g.phys n
  let r := atomicNew q.i f.ty old (lowBits f.ty (reqK q 0)) (lowBits f.ty (pVal q.c))
  let w := atomicReply q.i f.ty old r.2
  commitPair q.c (readReply q q.mu g.phys (replyPair q.mu f q.c w.1 w.2) (wrN s g.phys n r.1))

/-- Global atomic number `n` of an MU is performed. -/
def bodyGlobalAtomic (m : UId) (n : Nat) (s : State) : State :=
  match (s.mu.atomics.filter fun g => g.req.mu == m)[n]? with
  | none => s
  | some g => doGlobalAtomic g { s with mu := { s.mu with atomics := s.mu.atomics.erase g } }

/-- GLOBAL_ATOMIC_PERFORM. -/
def execGlobalAtomicPerform (m : UId) (n : Nat) (s : State) : Host.Outcome State Fault Refusal := done s (bodyGlobalAtomic m n s)

end Sys2Proof.Machine
end

