-- ==== Sys2Proof/Machine/Barrier.lean ====
section
/-!
DEFINITION. Barriers (08 R215 to R233): what a barrier request does at the bank of its slot, completion, release and the retry
buffer.
-/

namespace Sys2Proof.Machine

open Sys2Proof

/-- The offset of a request's slot. -/
def slotOff (q : Req) : Nat := offOf (reqPtr q)

/-- The location of a request's slot. -/
def slotLoc (q : Req) : Nat := locUnit q.mu (slotOff q)

/-- Everything of a barrier that a completion's boundary covers (R221): the stores of the units it counted. -/
def barCovers (done : List UId) (e : PbEntry) : Bool := done.any fun u => u.copy == e.mu.copy && u.x == e.sx && u.y == e.sy

/-- The other members of an outing commit their part of a completed phase too (R221, R374); the slot waits for them. -/
def barShare (m : UId) (off : Nat) (us : List UId) (s : State) : State :=
  let x := ctxOf s m.ctx
  match barAt s (locUnit m off) with
  | none => s
  | some b =>
    if x.members.length ≤ 1 then s
    else tellMembers (setBar s (locUnit m off) (some { b with away := x.members.length - 1 })) m.ctx (.commit m off us)

/-- A member has committed its part. -/
def barCommitted (m : UId) (off : Nat) (s : State) : State :=
  match barAt s (locUnit m off) with
  | none => s
  | some b => setBar s (locUnit m off) (some { b with away := b.away - 1 })

/-- A commit that a slot of another member asks of this one (R221): it waits while a host region that it writes belongs to the host (R183), and
while the copies of a REDUNDANT context do not match (R470). The slot's own member is told when it is done. -/
def takeShare (m : UId) (off : Nat) (us : List UId) (s : State) : State :=
  let c := m.ctx
  let cov := barCovers us
  let rest (x : Ctx) : List (UId × Nat × List UId) := x.shares.filter (· != (m, off, us))
  let wait (s : State) : State := updCtx s c fun x => { x with shares := rest x ++ [(m, off, us)] }
  if !(hostBlocks s c cov).isEmpty then wait (wantBlocks s c cov)
  else if !(badGroups s c cov).isEmpty then wait (if mismatched s c then s else boundary s c cov)
  else
    let t := updCtx (boundary s c cov) c fun x => { x with shares := rest x }
    sendOut t (ctxOf t c) (memberAt (ctxOf t c) m.x) (.msg (.committed m off))

/-- The commits that a slot of another member has asked for are tried again. -/
def retryShares (m : UId) (off : Nat) (s : State) : State :=
  ((ctxOf s m.ctx).shares.filter fun e => e.1 == m && e.2.1 == off).foldl (fun s e => takeShare e.1 e.2.1 e.2.2 s) s

/-- The commit that a completed phase owes. In a REDUNDANT context it waits until the twin's slot has completed too, and a mismatch
leaves it undone (R470, R472); it waits for a host region that it writes and the host owns (R183). -/
def barCommit (m : UId) (off : Nat) (s : State) : State :=
  let c := m.ctx
  let m' : UId := { m with copy := 1 - m.copy }
  let finish (us : List UId) (s : State) : State :=
    if !(hostBlocks s c (barCovers us)).isEmpty then wantBlocks s c (barCovers us)
    else if !(badGroups s c (barCovers us)).isEmpty then (if mismatched s c then s else boundary s c (barCovers us))
    else
      let paid (l : Nat) (s : State) : State :=
        match barAt s l with | some b => setBar s l (some { b with owed := false, done := [] }) | none => s
      let s := paid (locUnit m off) (boundary s c (barCovers us))
      barShare m off us (if isRedundant (ctxOf s c) then paid (locUnit m' off) s else s)
  match barAt s (locUnit m off) with
  | none => s
  | some b =>
    if !isRedundant (ctxOf s c) then finish b.done s
    else match barAt s (locUnit m' off) with
    | some b' => if b'.st == .completing && b'.owed then finish (b.done ++ b'.done) s else s
    | none => s

/-- Completion is evaluated on the counts as they stand, and a commit that is still owed is tried (R219, R220); not while the paddock is frozen
(R227). -/
def evalBar (m : UId) (off : Nat) (s : State) : State :=
  match barAt s (locUnit m off) with
  | none => s
  | some b =>
    if !barsRun (ctxOf s m.ctx) then s
    else if barDue b then barCommit m off (setBar s (locUnit m off) (some (completed b)))
    else if b.st == .completing && b.owed then barCommit m off s
    else s

/-- The parity in which an operation counts (R224). -/
def barPar (b : Bar) : Bool := if b.st == .armed then b.par else !b.par

/-- The issuing unit belongs to the barrier's group (R216). -/
def inBarGroup (s : State) (m : UId) (lvl : Nat) (u : UId) : Bool := sameGroup (ctxOf s m.ctx) lvl m.x m.y u.x u.y

/-- A barrier request at its bank: alignment, a live ring header (R258), then completion as R220 orders it, then the live and owner checks; `plain` is
what happens on a PLAIN slot. -/
def withBar (q : Req) (plain : State → State) (k : Bar → State → State) (s : State) : State :=
  let p := reqPtr q
  if slotOff q % 16 != 0 then reqFault q 0x08 p s
  else
    if (List.range 16).any fun k => inRing s (slotLoc q + k) then reqFault q 0x1D p s
    else
    let s := evalBar q.mu (slotOff q) s
    match barAt s (slotLoc q) with
    | none => plain s
    | some b => if b.own != q.c.u.ctx then reqFault q 0x09 p s else k b s

/-- BARRIER_SLOT at a request's slot. -/
def barFault (q : Req) (s : State) : State := reqFault q 0x09 (reqPtr q) s

/-! ### The seven instructions at issue -/

/-- BAR.INIT. -/
def execBarInit (f : Fields) (s : State) : Host.Outcome State Fault Refusal :=
  runLanes (laneBoth f (fun F s => sendOwner (.barInit f) f 16 [rightOp f F s] F s)) s
/-- BAR.ARRIVE: its count is 1 in mode 11 (R230). -/
def execBarArrive (f : Fields) (s : State) : Host.Outcome State Fault Refusal :=
  runLanes (laneBoth f (fun F s => sendOwner (.barArrive f) f 16 [if f.src == .unary then 1 else rightOp f F s] F s)) s
/-- BAR.EXPECT. -/
def execBarExpect (f : Fields) (s : State) : Host.Outcome State Fault Refusal :=
  runLanes (laneBoth f (fun F s => sendOwner (.barExpect f) f 16 [rightOp f F s] F s)) s
/-- BAR.WAIT. -/
def execBarWait (f : Fields) (s : State) : Host.Outcome State Fault Refusal :=
  runLanes (laneBoth f (fun F s => sendOwner (.barWait f) f 16 [rightOp f F s] F s)) s
/-- BAR.TEST. -/
def execBarTest (f : Fields) (s : State) : Host.Outcome State Fault Refusal :=
  runLanes (laneBoth f (fun F s => sendOwner (.barTest f) f 16 [rightOp f F s] F s)) s
/-- BAR.DROP. -/
def execBarDrop (f : Fields) (s : State) : Host.Outcome State Fault Refusal :=
  runLanes (laneBoth f (fun F s => sendOwner (.barDrop f) f 16 [] F s)) s
/-- BAR.RETIRE. -/
def execBarRetire (f : Fields) (s : State) : Host.Outcome State Fault Refusal :=
  runLanes (laneBoth f (fun F s => sendOwner (.barRetire f) f 16 [] F s)) s

/-! ### At the bank -/

/-- A slot as BAR.INIT leaves it (R215, R229). -/
def freshBar (n lvl own : Nat) : Bar :=
  { exp := n, pnd := n, txb := 0, par := false, st := .armed, lvl := lvl, own := own, units := [], done := [], owed := false, away := 0 }

/-- BAR.INIT at its bank (R229); as with the other barrier instructions, the check of R258 comes first (log entry 110). -/
def performBarInit (q : Req) (s : State) : State :=
  let f := reqFields q
  let p := reqPtr q
  let loc := slotLoc q
  let n := (reqK q 0).toNat
  if slotOff q % 16 != 0 then reqFault q 0x08 p s
  else if (List.range 16).any fun k => inRing s (loc + k) then reqFault q 0x1D p s
  else if (barAt s loc).isSome || !inBarGroup s q.mu f.fn.toNat q.c.u || n == 0 || n > 65535 then barFault q s
  else if isState s loc != 0 || isState s (loc + 8) != 0 then reqFault q 0x1C p s
  else reply q 0 (reqCommit q (setBar s loc (some (freshBar n f.fn.toNat q.c.u.ctx))))

/-- The slot refuses a count (R230): it is idle, or the issuing unit lies outside the group. -/
def countRefused (s : State) (q : Req) (b : Bar) : Bool := b.st == .idle || !inBarGroup s q.mu b.lvl q.c.u

/-- BAR.ARRIVE at its bank (R230). -/
def performBarArrive (q : Req) (s : State) : State :=
  withBar q (barFault q) (fun b s =>
    let n := (reqK q 0).toNat
    if countRefused s q b || n == 0 || n > b.pnd then barFault q s
    else reply q (truth (barPar b)) (reqCommit q (setBar s (slotLoc q) (some { b with pnd := b.pnd - n, units := b.units ++ [q.c.u] })))) s

/-- BAR.DROP at its bank (R230). -/
def performBarDrop (q : Req) (s : State) : State :=
  withBar q (barFault q) (fun b s =>
    if countRefused s q b || b.pnd == 0 || b.exp == 0 then barFault q s
    else reply q (truth (barPar b)) (reqCommit q (setBar s (slotLoc q)
      (some { b with pnd := b.pnd - 1, exp := b.exp - 1, units := b.units ++ [q.c.u] })))) s

/-- BAR.EXPECT and BAR.EXPECT.ARRIVE at their bank (R230). -/
def performBarExpect (q : Req) (s : State) : State :=
  withBar q (barFault q) (fun b s =>
    let n := (reqK q 0).toNat
    let arrive := (reqFields q).fn == 1
    if countRefused s q b || n == 0 || b.txb + n > 2 ^ 31 - 1 || (arrive && b.pnd == 0) then barFault q s
    else
      let b' := { b with txb := b.txb + n }
      if arrive then reply q (truth (barPar b)) (reqCommit q (setBar s (slotLoc q)
        (some { b' with pnd := b.pnd - 1, units := b.units ++ [q.c.u] })))
      else reply q 0 (reqCommit q (setBar s (slotLoc q) (some b')))) s

/-- What BAR.WAIT does (R224). -/
inductive WaitAct where
  | emit | park | hold | fault
deriving DecidableEq, Repr

/-- Table: Wait outcomes. -/
def waitAct (b : Bar) (p : Bool) : WaitAct :=
  match b.st with
  | .armed => if p == b.par then .park else .emit
  | .completing => if p == b.par then .park else .hold
  | .idle => if p == b.par then .fault else .emit

/-- The parity that a request waits for (R231). -/
def waitPar (q : Req) : Bool := (reqK q 0).getLsbD 0

/-- A request enters the retry buffer of its MU (R225). It is performed, and a commit point, only when it is retried. -/
def holdRetry (q : Req) (s : State) : State :=
  { s with cp := { s.cp with retry := s.cp.retry ++ [{ req := q, off := slotOff q, due := false }] } }

/-- BAR.WAIT at its bank (R224, R231). -/
def performBarWait (q : Req) (s : State) : State :=
  withBar q (barFault q) (fun b s =>
    let p := waitPar q
    match waitAct b p with
    | .emit => reply q (truth p) (reqCommit q s)
    | .park => parkCommit q 2 (slotOff q) p.toNat (reqPtr q) s
    | .hold => holdRetry q s
    | .fault => barFault q s) s

/-- The code of a slot's state (R215). -/
def barCode : BarSt → Nat
  | .armed => 1 | .completing => 2 | .idle => 3

/-- A number as a field of `n` bits in two's complement. -/
def twos (n : Nat) (v : Int) : Nat := (v % 2 ^ n).toNat

/-- The 128 bits of a live slot (R215). -/
def barBits (s : State) (m : UId) (off : Nat) (b : Bar) : Nat :=
  let whd := ((waitersOn s m 2 off).head?.map fun w => w.idx).getD 0xFFFFFF
  b.exp + 2 ^ 16 * b.pnd + 2 ^ 32 * twos 32 b.txb + 2 ^ 64 * b.par.toNat + 2 ^ 65 * barCode b.st + 2 ^ 68 * b.lvl
    + 2 ^ 72 * whd + 2 ^ 96 * b.own

/-- BAR.TEST at its bank (R232). A slot inside a live ring header is not PLAIN here: .LO and .HI fault there as R258 has it (log entry 110). -/
def performBarTest (q : Req) (s : State) : State :=
  let fn := (reqFields q).fn.toNat
  if fn == 0 then
    withBar q (barFault q) (fun b s =>
      match waitAct b (waitPar q) with
      | .emit => reply q 1 (reqCommit q s)
      | .park => reply q 0 (reqCommit q s)
      | .hold => holdRetry q s
      | .fault => barFault q s) s
  else
    withBar q (fun s => reply q 0 (reqCommit q s)) (fun b s =>
      let n := barBits s q.mu (slotOff q) b
      reply q (BitVec.ofNat 64 (if fn == 1 then n else n / 2 ^ 64)) (reqCommit q s)) s

/-- BAR.RETIRE at its bank (R233). -/
def performBarRetire (q : Req) (s : State) : State :=
  withBar q (barFault q) (fun b s =>
    if b.st == .completing || !(waitersOn s q.mu 2 (slotOff q)).isEmpty then barFault q s
    else reply q 0 (reqCommit q (wrN (setBar s (slotLoc q) none) (slotLoc q) 16 0))) s

/-! ### The events -/

/-- BARRIER_COMPLETION (R220): the slot at an offset of an MU completes when both its counts are zero. For a slot of another member, this
member's part of the commit is tried again. -/
def execBarrierCompletion (m : UId) (off : Nat) (s : State) : Host.Outcome State Fault Refusal :=
  done s (if onModule (ctxOf s m.ctx) m.x then evalBar m off s else retryShares m off s)

/-- The index that a waiter's link names: the next of its list (R199). -/
def nextIdx (s : State) (w : Waiter) : Nat :=
  match (waitersOn s w.mu w.wk w.off).dropWhile (· != w) with
  | _ :: n :: _ => n.idx
  | _ => 0xFFFFFF

/-- A waiter entry in the layout of R199. -/
def waiterBytes (s : State) (w : Waiter) : List Byte :=
  leBytes (w.col + 2 ^ 12 * w.itr + 2 ^ 28 * w.u.ctx + 2 ^ 37 * w.u.x + 2 ^ 45 * w.u.y + 2 ^ 52 * w.ss + 2 ^ 59 * w.wk) 8
    ++ leBytes (w.ta.toNat + 2 ^ 12 * w.tb.toNat + 2 ^ 24 * (tyCode w.wty).toNat) 4 ++ leBytes (nextIdx s w) 4 ++ leBytes 0 16

/-- The waiters and the slot of a SAVED context are carried in its hamper (R382). -/
def hamperWaiters (m : UId) (off : Nat) (s : State) : State :=
  let x := ctxOf s m.ctx
  let a := slotAddr x m
  match x.cst, barAt s (locUnit m off) with
  | .saved, some b =>
    ((waitersOn s m 2 off).filter fun w => w.idx < 1024).foldl (fun t w => wrBytes t (a + 0x124000 + 32 * w.idx) (waiterBytes s w))
      (wrN s (a + off) 16 (barBits s m off b))
  | _, _ => s

/-- The yard's waiter at a slot (R382, R199): its release reaches the yard and no target. None where no waiter is free. -/
def parkYard (s : State) (w : Nat) : Option State :=
  let m := depUnit s w
  (freeWaiter s m).map fun i =>
    hamperWaiters m (16 * nbits w 0 16) { s with mu := { s.mu with waiters := s.mu.waiters ++
        [{ mu := m, idx := i, wk := 2, off := 16 * nbits w 0 16, u := m, col := 0, itr := 0, ss := 0, ta := 0xC00, tb := 0xC00,
           wty := .i64, arg := nbits w 47 1 }] } }

/-- A dependence word names a slot and a parity (R381). -/
def depIs (s : State) (loc : Nat) (par : Bool) (w : Nat) : Bool := depSlot s w == loc && (nbits w 47 1 == 1) == par

/-- A head of another module that waits on a phase here is told that it is released. -/
def releaseFar (loc : Nat) (par : Bool) (s : State) : State :=
  let hit (e : Nat × Nat × Nat) : Bool := depIs s loc par e.1
  (s.yard.far.filter hit).foldl (fun s e => sendOne s (e.2.2, s.clock, .msg (.depDone e.1 e.2.1 true)))
    { s with yard := { s.yard with far := s.yard.far.filter fun e => !hit e } }

/-- The release of a phase re-emits the yard's waiters (R382): a head whose last wait is met is eligible. -/
def releaseHeads (loc : Nat) (par : Bool) (s : State) : State :=
  let one (k : Queue) : Queue :=
    let ws := k.waits.filter fun w => !depIs s loc par w
    if k.hs == .waiting && ws.isEmpty then { k with hs := .eligible, since := s.clock, waits := [] } else { k with waits := ws }
  releaseFar loc par { s with yard := { s.yard with queues := s.yard.queues.map fun e => (e.1, one e.2) } }

/-- A wait of a head of this module that was held while another phase completed is tried again (R224, R382): it parks, unless the slot has become
IDLE or no waiter is free. -/
def retryHead (w : Nat) (idle : Bool) (s : State) (q : Nat) : State :=
  match (if idle then none else parkYard s w) with
  | some t => t
  | none => refuseHead s q dependStatus

/-- A wait of another module's head that was held is tried again. -/
def retryFar (idle : Bool) (s : State) (e : Nat × Nat × Nat) : State :=
  match (if idle then none else parkYard s e.1) with
  | some t => t
  | none =>
    sendOne { s with yard := { s.yard with far := s.yard.far.erase e } } (e.2.2, s.clock, .msg (.depDone e.1 e.2.1 false))

/-- The held waits of heads on a slot that has been released are tried again: those of the other parity. -/
def retryHeads (loc : Nat) (par idle : Bool) (s : State) : State :=
  let qs := s.yard.queues.flatMap fun e => (e.2.waits.filter (depIs s loc (!par))).map fun w => (w, e.1)
  let s := qs.foldl (fun s e => retryHead e.1 idle s e.2) s
  (s.yard.far.filter fun e => depIs s loc (!par) e.1).foldl (retryFar idle) s

/-- The release of a completed phase (R219, R221): parity flips, the waiters go, and the held requests become due. -/
def bodyBarrierRelease (m : UId) (off : Nat) (s : State) : State :=
  match barAt s (locUnit m off) with
  | none => s
  | some b =>
    if b.st != .completing || b.owed || b.away != 0 || !barsRun (ctxOf s m.ctx) then s
    else
      let s := setBar s (locUnit m off) (some { b with par := !b.par, st := if b.exp == 0 then .idle else .armed })
      let s := releaseHeads (locUnit m off) b.par (releaseAll s m 2 off (truth b.par))
      let s := retryHeads (locUnit m off) b.par (b.exp == 0) s
      { s with cp := { s.cp with retry := s.cp.retry.map fun r =>
          if r.req.mu == m && r.off == off then { r with due := true } else r } }

/-- BARRIER_RELEASE. -/
def execBarrierRelease (m : UId) (off : Nat) (s : State) : Host.Outcome State Fault Refusal := done s (bodyBarrierRelease m off s)

/-- The oldest due entry of an MU's retry buffer is performed (R225), but while its paddock is frozen or saved (R227). -/
def bodyBarrierRetry (m : UId) (s : State) : State :=
  match (if barsRun (ctxOf s m.ctx) then s.cp.retry.find? fun r => r.req.mu == m && r.due else none) with
  | none => s
  | some r =>
    let s := { s with cp := { s.cp with retry := s.cp.retry.erase r } }
    match r.req.i with
    | .barTest _ => performBarTest r.req s
    | _ => performBarWait r.req s

/-- BARRIER_RETRY. -/
def execBarrierRetry (m : UId) (s : State) : Host.Outcome State Fault Refusal := done s (bodyBarrierRetry m s)

end Sys2Proof.Machine
end

