-- ==== Sys2Proof/Machine/Engine.lean ====
section
/-!
DEFINITION. What the engines of an MU share: tensor maps (11 R274 to R277), the translation of an engine's addresses (18 R412,
R417), the bytes an engine reads, the commit of a command's source range (06 R172), and engine faults (09 R245).
-/

namespace Sys2Proof.Machine

open Sys2Proof

/-! ### Tensor maps (R274 to R277) -/

/-- A field of a descriptor: `n` bits from bit `lo`. -/
def mapF (d : BitVec 512) (lo n : Nat) : Nat := nbits d.toNat lo n
/-- `TBASE`. -/
def mapBase (d : BitVec 512) : Word := d.extractLsb' 0 64
/-- `SBASE`. -/
def mapSbase (d : BitVec 512) : Word := d.extractLsb' 64 64
/-- `D0` to `D3`. -/
def mapD (d : BitVec 512) (k : Nat) : Nat := mapF d (128 + 32 * k) 32
/-- `S1` to `S3`. -/
def mapS (d : BitVec 512) (k : Nat) : Nat := mapF d (192 + 64 * k) 48
/-- `EF` as a code. -/
def mapEf (d : BitVec 512) : Nat := mapF d 448 4
/-- `EF` as a type. -/
def mapTy (d : BitVec 512) : Ty := tyOf (BitVec.ofNat 4 (mapEf d))
/-- `BK`. -/
def mapBk (d : BitVec 512) : Nat := mapF d 452 2
/-- `BN`. -/
def mapBn (d : BitVec 512) : Nat := mapF d 454 2
/-- `SF`. -/
def mapSf (d : BitVec 512) : Nat := mapF d 456 2
/-- `LTP`. -/
def mapLtp (d : BitVec 512) : Nat := mapF d 458 2
/-- `TSF`. -/
def mapTsf (d : BitVec 512) : Nat := mapF d 460 1
/-- `V`. -/
def mapV (d : BitVec 512) : Bool := mapF d 511 1 == 1

/-- The block size that a `BN` code names (R274). -/
def blockSize (bn : Nat) : Nat := [8, 16, 32, 128].getD bn 8

/-- A descriptor is valid (R276). -/
def mapValid (d : BitVec 512) : Bool :=
  let ef := mapTy d
  let bk := mapBk d
  let fp8 := ef == .e4m3 || ef == .e5m2
  let n := if bk == 2 then 128 else blockSize (mapBn d)
  let dims := [0, 1, 2, 3].all fun k => mapD d k ≥ 1 && (k == 0 || mapD d k != 1 || mapS d k == 0)
  let rsv := mapF d 304 16 == 0 && mapF d 368 16 == 0 && mapF d 432 16 == 0 && mapF d 461 50 == 0
  mapV d && rsv && ef != .ln && dims && bk != 3
    && (bk != 0 || (mapBn d == 0 && mapSf d == 0 && mapSbase d == 0))
    && (bk != 1 || ((ef == .e2m1 && mapBn d ≤ 2 && (mapSf d == 1 || mapSf d == 2 || (mapSf d == 0 && mapBn d == 2)))
                    || (fp8 && mapBn d == 3 && (mapSf d == 0 || mapSf d == 3))))
    && (bk != 2 || (fp8 && mapBn d == 3 && (mapSf d == 0 || mapSf d == 3) && mapD d 1 % 128 == 0))
    && (bk == 0 || mapD d 0 % n == 0) && (ef != .e2m1 || mapD d 0 % 2 == 0)

/-- The number of elements of a map. -/
def mapCount (d : BitVec 512) : Nat := mapD d 0 * mapD d 1 * mapD d 2 * mapD d 3

/-- The byte displacement of an element (R274). -/
def mapDisp (d : BitVec 512) (i0 i1 i2 i3 : Nat) : Nat :=
  i0 * tyW (mapTy d) / 8 + i1 * mapS d 1 + i2 * mapS d 2 + i3 * mapS d 3

/-- The byte displacement of the element of a number in the map's order (R274). -/
def mapDispOf (d : BitVec 512) (e : Nat) : Nat :=
  mapDisp d (e % mapD d 0) (e / mapD d 0 % mapD d 1) (e / (mapD d 0 * mapD d 1) % mapD d 2)
    (e / (mapD d 0 * mapD d 1 * mapD d 2))

/-- The bytes of the dense image (R274, R102). -/
def denseLen (d : BitVec 512) : Nat := (mapCount d * tyW (mapTy d) + 7) / 8

/-- The pointer to byte `j` of the dense image in the mapped tensor; none where it leaves the offset field (R142). -/
def denseByte (d : BitVec 512) (j : Nat) : Option Word :=
  let w := tyW (mapTy d)
  let e := j * 8 / w
  movePtr (mapBase d) (mapDispOf d e + (j - e * w / 8) : Nat)

/-- The line format of a type, 0x00 for one that has no code of its own (R118). -/
def fmtCode : Ty → Nat
  | .f32 => 0x01 | .bf16 => 0x02 | .f16 => 0x03 | .e4m3 => 0x04 | .e5m2 => 0x05 | .e2m1 => 0x06 | .i8 => 0x07 | _ => 0

/-- The map's line code (R277). -/
def mapLine (d : BitVec 512) : Nat :=
  if mapTy d == .e2m1 && mapBk d == 1 && mapBn d == 2 && mapSf d == 0 then 0x10 else fmtCode (mapTy d)

/-- The map's policy checks the lines it reads (R277). -/
def mapChecks (d : BitVec 512) : Bool := mapLtp d % 2 == 1
/-- The map's policy stamps the whole lines it writes (R277). -/
def mapStamps (d : BitVec 512) : Bool := mapLtp d ≥ 2

/-- A CU's tensor-map entry. -/
def tmapOf (s : State) (u : UId) (e : Nat) : BitVec 512 := fget 0 s.tn.maps (uKey u * 16 + e)

/-! ### An engine's accesses -/

/-- The result of an engine's access: a fault, a wait for a host region, or a value. -/
inductive EngRes (α : Type) where
  | fault (e : FaultInfo)
  | waits (s : State)
  | ok (a : α) (s : State)

/-- An engine at work: its MU, the command it serves and the copy id its faults carry. -/
structure Eng where
  q : Req
  cid : Nat
deriving DecidableEq, Repr

/-- An engine's access to a host address (R423): it passes when the device owns the region, and is held otherwise. While a host access waits
for the region, only the accesses that were held before it pass. -/
def engGate (g : Eng) (a : XAddr) (s : State) : EngRes Nat :=
  if !a.hr then .ok a.phys s
  else match findRegion s (regionOf a.phys) with
  | none => .fault { kind := 0x01, flg := 16 }
  | some r =>
    let mine (h : HeldHost) : Bool := h.region == r.num && h.eng == some g.cid && h.req.mu == g.q.mu
    let held := s.tr.heldHost.any mine
    if r.own == .device && (held || !r.snoop) then
      .ok a.phys { s with tr := { s.tr with heldHost := s.tr.heldHost.filter fun h => !mine h } }
    else
      let s := if held then s else
        { s with tr := { s.tr with heldHost := s.tr.heldHost ++ [{ region := r.num, req := g.q, since := s.clock, eng := some g.cid }] } }
      .waits (if r.own == .host then updRegion s r.num fun r => { r with own := .toDevice, since := s.clock } else s)

/-- The translation of an engine's address at its MU (R412, R417), with the walk where a TLB misses. -/
def engXlate (g : Eng) (acc : Access) (va : Nat) (s : State) : EngRes Nat :=
  let m := g.q.mu
  let x := reqCtx s g.q
  match lookUp s m x acc va with
  | some (.error e, _) => .fault (xInfo e)
  | some (.ok a, s) => engGate g a s
  | none =>
    match walkPage s x.as va with
    | .absent lvl => .fault { kind := 0x01, lvl := lvl, va := BitVec.ofNat 64 va }
    | .leaf l lvl =>
      let s := noteRead (l1Put (l2Put s (dieOf s m) l) m l) m (fcol g.q.c) (walkUpset s x.as va)
      match atLevel lvl (leafCheck s acc (isSecure x) l va) with
      | .error e => .fault (xInfo e)
      | .ok a => engGate g a s

/-- The last page that an engine translated, with its physical base. -/
abbrev PageHit := Option (Nat × Nat)

/-- The location of one byte at a pointer: its own MU's or another's scratchpad, the firing CU's pool, or translated memory.
A page just translated is not translated again. -/
def engLoc (g : Eng) (acc : Access) (hit : PageHit) (p : Word) (s : State) : EngRes (Nat × PageHit) :=
  if winOf p == 1 then .ok (locUnit (muNamed g.q.c.u p) (offOf p), hit) s
  else if winOf p == 2 then .ok (locUnit g.q.c.u (offOf p), hit) s
  else
    match (if winOf p == 3 then capDeref s g.q.mu p 1 (acc != .read)
           else if ptrValid (reqCtx s g.q) 0 p then .ok (nbits p.toNat 0 57) else .error { kind := 0x07, va := p }) with
    | .error e => .fault e
    | .ok va =>
      let s := capTouch s g.q.mu (fcol g.q.c) p
      match hit with
      | some (k, b) =>
        if k == va / 4096 then .ok (b + va % 4096, hit) s
        else match engXlate g acc va s with
        | .ok a s => .ok (a, some (va / 4096, a - va % 4096)) s
        | .fault e => .fault e
        | .waits s => .waits s
      | none =>
        match engXlate g acc va s with
        | .ok a s => .ok (a, some (va / 4096, a - va % 4096)) s
        | .fault e => .fault e
        | .waits s => .waits s

/-- The locations of a list of pointers; a pointer that a displacement could not form faults WINDOW_INVALID. -/
def engLocs (g : Eng) (acc : Access) (base : Word) : PageHit → List (Option Word) → State → EngRes (List Nat)
  | _, [], s => .ok [] s
  | _, none :: _, _ => .fault { kind := 0x07, va := base }
  | hit, some p :: ps, s =>
    match engLoc g acc hit p s with
    | .fault e => .fault e
    | .waits s => .waits s
    | .ok (a, hit) s =>
      match engLocs g acc base hit ps s with
      | .ok as s => .ok (a :: as) s
      | .fault e => .fault e
      | .waits s => .waits s

/-- The pointers to `n` bytes from a pointer on. -/
def ptrRun (p : Word) (n : Nat) : List (Option Word) := (List.range n).map fun k => movePtr p (k : Nat)

/-! ### The bytes an engine reads -/

/-- The 256 bits of a live ring header (R256). -/
def ringBits (s : State) (m : UId) (off : Nat) (r : Ring) : Nat :=
  let whd := ((waitersOn s m 3 off).head?.map fun w => w.idx).getD 0xFFFFFF
  r.base + 2 ^ 20 * r.kd.toNat + 2 ^ 21 * r.bnd.toNat + 2 ^ 22 * r.own + 2 ^ 32 * r.sz + 2 ^ 53 * r.cnt + 2 ^ 64 * r.rp
    + 2 ^ 84 * r.wp + 2 ^ 104 * r.rsv + 2 ^ 128 * r.rl + 2 ^ 148 * r.free + 2 ^ 169 * r.fill + 2 ^ 192 * whd
    + 2 ^ 216 * r.bpx + 2 ^ 223 * r.bpy + 2 ^ 230 * r.bmod

/-- A ring header; none where it is PLAIN. -/
def ringAt (s : State) (loc : Nat) : Option Ring := fget none s.cp.rings loc

/-- Writes a ring header's fields. -/
def setRing (s : State) (loc : Nat) (r : Option Ring) : State := { s with cp := { s.cp with rings := fset none s.cp.rings loc r } }

/-- The bytes that a scratchpad holds, the fields of live slots and headers included, 0 in a word that is not FULL. -/
def heldByte (s : State) (loc : Nat) : Byte :=
  let m := unitAt loc
  let off := (loc - unitBase) % 2 ^ 20
  match barAt s (loc / 16 * 16) with
  | some b => BitVec.ofNat 8 (nbits (barBits s m (off / 16 * 16) b) (8 * (off % 16)) 8)
  | none =>
    match ringAt s (loc / 32 * 32) with
    | some r => BitVec.ofNat 8 (nbits (ringBits s m (off / 32 * 32) r) (8 * (off % 32)) 8)
    | none => scratchByte s loc

/-- A byte as an engine reads it (R182). -/
def engByte (s : State) (loc : Nat) : Byte := if loc ≥ unitBase then heldByte s loc else rd8 s loc

/-- The line tag that an engine reads: host lines are raw (R117). -/
def engTag (s : State) (loc : Nat) : BitVec 16 := if loc < unitBase && isHost loc then 0x7F00 else lineTag s loc

/-- A line that a CHECK policy refuses (R277). -/
def badLine (s : State) (d : BitVec 512) (locs : List Nat) : Option (BitVec 16) :=
  if !mapChecks d then none
  else (locs.map (engTag s)).find? fun t => (t.extractLsb' 0 8).toNat != mapLine d

/-- Bytes that an engine reads at given pointers, with their locations, under a map's line-tag policy. -/
def engRead (g : Eng) (d : Option (BitVec 512)) (ps : List (Option Word)) (s : State) : EngRes (List Nat) :=
  let base := (ps.headD none).getD 0
  match engLocs g .read base none ps s with
  | .fault e => .fault e
  | .waits s => .waits s
  | .ok ls s =>
    match d.bind fun d => badLine s d ls with
    | some t => .fault { kind := 0x17, fks := (t.extractLsb' 0 8).toNat, va := base }
    | none => .ok ls s

/-! ### Commands' source ranges (R172) -/

/-- The bytes of an entry that lie in `[base, base + n)` of its own kind of address. -/
def rangeMask (base n : Nat) (e : PbEntry) : BitVec 64 :=
  (List.range 64).foldl (fun (m : BitVec 64) b =>
    if base ≤ e.la.toNat + b && e.la.toNat + b < base + n && e.mask.getLsbD b then m ||| ((1 : BitVec 64) <<< b) else m) 0

/-- The entry holds a byte of the range, or with no byte at all a tag for a line of the range (log entry 94). -/
def inRange (base n : Nat) (e : PbEntry) : Bool :=
  e.la.toNat < base + n && base < e.la.toNat + 64 && (rangeMask base n e != 0 || e.mask == 0)

/-- The part of an entry that a partial commit covers. -/
def coveredPart (base n : Nat) (e : PbEntry) : PbEntry := { e with mask := rangeMask base n e }

/-- What a partial commit leaves of an entry; none where nothing is left. -/
def leftPart (base n : Nat) (e : PbEntry) : Option PbEntry :=
  let m := e.mask &&& ~~~(rangeMask base n e)
  if m == 0 then none else some { e with mask := m, ntag := none, tagAt := 0 }

/-- Commits the part of the entries of `cov` that lies in an address range, in commit-key order; the rest stays buffered. -/
def commitRange (s : State) (c base n : Nat) (cov : PbEntry → Bool) : State :=
  let hit (e : PbEntry) : Bool := e.mu.ctx == c && cov e && inRange base n e
  let es := sortKey (ctxOf s c) ((s.mu.pbuf.filter hit).map (coveredPart base n))
  let s := { s with mu := { s.mu with pbuf := s.mu.pbuf.filterMap fun e => if hit e then leftPart base n e else some e } }
  es.foldl (fun s e => if e.mu.copy != 0 && e.loc < unitBase then commitPt s e.mu.ctx e.mu.copy e.col else commitEntry s e) s

/-- The issuing colour's entries, those of the paired colour in the twin among them (R471, R472). -/
def ownColour (F : Ready) (e : PbEntry) : Bool :=
  (e.mu.copy == F.u.copy && e.col == fcol F) || (e.mu.copy != F.u.copy && F.pair == some e.col)

/-- The address at which a source range of a command begins, as the phase buffer names it. -/
def sourceBase (s : State) (F : Ready) (p : Word) (n : Nat) : Option Nat :=
  match (if winOf p == 3 then capDeref s (muOf F.u) p n false else .ok p.toNat) with
  | .ok base => some base
  | .error _ => none

/-- Acceptance commits the issuing colour's stores to the command's source range (R172). -/
def commitSource (F : Ready) (p : Word) (n : Nat) (s : State) : State :=
  match sourceBase s F p n with
  | some base => commitRange s F.u.ctx base n (ownColour F)
  | none => s

/-- The acceptance of a command waits for the commit of its source ranges: a host region that they name and the host owns is first
transferred back (R183), and stores of a REDUNDANT context that differ between its copies are recorded and commit nothing (R375, R472). -/
def sourceWaits (F : Ready) (rs : List (Word × Nat)) (s : State) : Option State :=
  let c := F.u.ctx
  let bs := rs.filterMap fun r => (sourceBase s F r.1 r.2).map fun b => (b, r.2)
  let cov (e : PbEntry) : Bool := ownColour F e && bs.any fun r => inRange r.1 r.2 e
  let es := bs.flatMap fun r => ((covered s c (ownColour F)).filter (inRange r.1 r.2)).map (coveredPart r.1 r.2)
  if !(hostBlocks s c cov).isEmpty then some (wantBlocks s c cov)
  else if (badOf (ctxOf s c) es).isEmpty then none
  else some (if mismatched s c then s else recordBad (ctxOf s c) es s)

/-! ### Engine faults (R245) -/

/-- The copy units and streams of the context move data: it runs and no freeze is asked for, or it drains (R244, R245). -/
def engineRuns (x : Ctx) : Bool := (x.cst == .running && !x.freezing) || x.cst == .draining

/-- Changes a copy of an MU. -/
def updCopy (s : State) (m : UId) (id : Nat) (f : Copy → Copy) : State :=
  { s with cp := { s.cp with copies := s.cp.copies.map fun p => if p.mu == m && p.id == id then f p else p } }

/-- A copy of an MU. -/
def copyOf (s : State) (m : UId) (id : Nat) : Option Copy := s.cp.copies.find? fun p => p.mu == m && p.id == id

/-- The command of a copy as a request of its MU. -/
def copyReq (p : Copy) : Req := { mu := p.mu, i := p.i, c := p.c, k := p.k, iseq := 0 }

/-- A copy as the engine that serves it. -/
def copyEng (p : Copy) : Eng := { q := copyReq p, cid := p.id }

/-- The data that an I/O die holds for a storage read into a ring are given up (R453). -/
def dropData (p : Copy) (s : State) : State :=
  { s with lk := { s.lk with ioData := s.lk.ioData.filter fun e => !(e.mu == p.mu && e.id == p.id) } }

/-- A copy becomes FAILED. SENDK answers a final failure with the sum that no sum equals (R250). -/
def failCopy (p : Copy) (rsn : Nat) (s : State) : State :=
  let s := updCopy (if rsn > 2 then dropData p s else s) p.mu p.id fun p => { p with st := .failed, rsn := rsn, timer := none }
  match p.i with
  | .sendkChain f => if rsn ≤ 2 then s else emitFrom s p.mu p.c.u (fcol p.c) (fitr p.c) f.ta kReply 0xFFFFFFFF false
  | .sendkLast f =>
    if rsn ≤ 2 then s
    else emitFrom (emitFrom s p.mu p.c.u (fcol p.c) (fitr p.c) f.ta kReply 0xFFFFFFFF false) p.mu p.c.u (fcol p.c)
      (fitr p.c) f.tb kReply 1 false
  | _ => s

/-- A translation or permission fault of an engine: FAILED(2) and a precise freeze, or FAILED(5) while draining (R238, R393). -/
def copyFault (p : Copy) (e : FaultInfo) (s : State) : State :=
  if (ctxOf s p.mu.ctx).cst == .draining then
    failCopy p 5 (updCtx s p.mu.ctx fun x => { x with fcp := min 255 (x.fcp + 1) })
  else raiseEngine p.c p.id e (failCopy p 2 s)

end Sys2Proof.Machine
end

