-- ==== Sys2Proof/Machine/Ring.lean ====
section
/-!
DEFINITION. Rings (10 R256 to R273): what a ring request does at the bank of its header, the fill of a message, binding, and
slot returns.
-/

namespace Sys2Proof.Machine

open Sys2Proof

/-- RING_STATE at a request's header. -/
def ringFault (q : Req) (s : State) : State := reqFault q 0x1D (reqPtr q) s

/-- A ring request at its bank (R267): alignment, then RGL, then OWN; `plain` is what happens on a PLAIN header. -/
def withRing (q : Req) (plain : State → State) (k : Ring → State → State) (s : State) : State :=
  if slotOff q % 32 != 0 then reqFault q 0x08 (reqPtr q) s
  else match ringAt s (slotLoc q) with
  | none => plain s
  | some r => if r.own != q.c.u.ctx then ringFault q s else k r s

/-- A position, where reaching the end becomes 0 (R256). -/
def wrapPos (r : Ring) (p : Nat) : Nat := if p ≥ (if r.kd then r.sz else r.cnt) then 0 else p

/-- The offset of a position's slot or record in the scratchpad. -/
def posOff (r : Ring) (p : Nat) : Nat := r.base + (if r.kd then p else p * r.sz)

/-- The offset of the payload of the message at a position (R269). -/
def payOff (r : Ring) (p : Nat) : Nat := posOff r p + (if r.kd then 16 else 0)

/-- The record header at a position of a byte ring (R262): `MLEN` and `PAD`. -/
def recordAt (s : State) (m : UId) (r : Ring) (p : Nat) : Nat × Bool :=
  let n := rdN s (locUnit m (posOff r p)) 4
  (n % 2 ^ 24, nbits n 24 1 == 1)

/-- The bytes of a record of a message (R260). -/
def recordLen (len : Nat) : Nat := 16 + 16 * ((len + 15) / 16)

/-- What the message at a position occupies: one slot, or its record's bytes. -/
def spaceAt (s : State) (m : UId) (r : Ring) (p : Nat) : Nat := if r.kd then recordLen (recordAt s m r p).1 else 1

/-- The position after the message at a position. -/
def afterPos (s : State) (m : UId) (r : Ring) (p : Nat) : Nat := wrapPos r (p + spaceAt s m r p)

/-- The position after the message at `p`, past a pad written there (R263); `more` says that messages follow. The second
component is the pad's bytes. -/
def pastPad (s : State) (m : UId) (r : Ring) (p : Nat) (more : Bool) : Nat × Nat :=
  if r.kd && more && (recordAt s m r p).2 then (0, r.sz - p) else (p, 0)

/-- Claims the message at RP (R269): the advanced header, and the two values of RING.AWAIT. -/
def claim (s : State) (m : UId) (r : Ring) : Ring × Word × Word :=
  let p := r.rp
  let n := (pastPad s m r (afterPos s m r p) (r.fill > 1)).1
  ({ r with rp := n, fill := r.fill - 1, held := r.held + 1 }, muPtr m (payOff r p), BitVec.ofNat 64 (if r.kd then (recordAt s m r p).1 else p))

/-! ### At issue -/

/-- RING.INIT. -/
def execRingInit (f : Fields) (s : State) : Host.Outcome State Fault Refusal :=
  runLanes (laneBoth f (fun F s => sendOwner (.ringInit f) f 32 [rightOp f F s] F s)) s
/-- RING.AWAIT. -/
def execRingAwait (f : Fields) (s : State) : Host.Outcome State Fault Refusal :=
  runLanes (laneBoth f (fun F s => sendOwner (.ringAwait f) f 32 [] F s)) s
/-- RING.RELEASE. -/
def execRingRelease (f : Fields) (s : State) : Host.Outcome State Fault Refusal :=
  runLanes (laneBoth f (fun F s => sendOwner (.ringRelease f) f 32 [rightOp f F s] F s)) s
/-- RING.STAT. -/
def execRingStat (f : Fields) (s : State) : Host.Outcome State Fault Refusal :=
  runLanes (laneBoth f (fun F s => sendOwner (.ringStat f) f 32 [] F s)) s
/-- RING.RETIRE. -/
def execRingRetire (f : Fields) (s : State) : Host.Outcome State Fault Refusal :=
  runLanes (laneBoth f (fun F s => sendOwner (.ringRetire f) f 32 [] F s)) s

/-! ### At the bank -/

/-- A descriptor is valid for a header at an offset (R268). -/
def ringDescOk (v : Word) (off : Nat) : Bool :=
  let n := v.toNat
  let base := nbits n 0 20
  let sz := nbits n 32 21
  let cnt := nbits n 53 9
  let kd := nbits n 20 1 == 1
  let len := if kd then sz else sz * cnt
  nbits n 21 11 == 0 && nbits n 62 2 == 0 && base % 64 == 0 && sz % 64 == 0
    && (if kd then sz ≥ 128 && cnt == 0 else sz ≥ 64 && 2 ≤ cnt && cnt ≤ 256) && base + len ≤ 2 ^ 20
    && (base + len ≤ off || off + 32 ≤ base)

/-- The header that a descriptor makes (R256, R268). -/
def freshRing (v : Word) (own : Nat) : Ring :=
  let n := v.toNat
  let kd := nbits n 20 1 == 1
  let sz := nbits n 32 21
  { base := nbits n 0 20, kd := kd, bnd := false, own := own, sz := sz, cnt := nbits n 53 9, rp := 0, wp := 0, rsv := 0, rl := 0,
    free := if kd then sz else nbits n 53 9, fill := 0, bpx := 0, bpy := 0, bmod := 0, net := none, held := 0 }

/-- RING.INIT at its bank (R268). -/
def performRingInit (q : Req) (s : State) : State :=
  let loc := slotLoc q
  if slotOff q % 32 != 0 then reqFault q 0x08 (reqPtr q) s
  else if (ringAt s loc).isSome then ringFault q s
  else if (barAt s loc).isSome || (barAt s (loc + 16)).isSome then barFault q s
  else if [0, 8, 16, 24].any fun k => isState s (loc + k) != 0 then reqFault q 0x1C (reqPtr q) s
  else if !ringDescOk (reqK q 0) (slotOff q) then ringFault q s
  else reply q 0 (reqCommit q (setRing s loc (some (freshRing (reqK q 0) q.c.u.ctx))))

/-- RING.AWAIT at its bank (R269). -/
def performRingAwait (q : Req) (s : State) : State :=
  withRing q (ringFault q) (fun r s =>
    if r.fill == 0 then parkCommit q 3 (slotOff q) 0 (reqPtr q) s
    else
      let c := claim s q.mu r
      reply2 q c.2.1 c.2.2 (setRing (reqCommit q s) (slotLoc q) (some c.1))) s

/-- Space released in a ring (R265, R270): to `FREE`, or back to the binding MU. -/
def freeSpace (m : UId) (off n : Nat) (r : Ring) (s : State) : State :=
  if r.bnd then
    let x := ctxOf s m.ctx
    let b : UId := siteOf m (4 * (x.pw * r.bmod + r.bpx) + 3) r.bpy
    let s := setRing s (locUnit m off) (some r)
    if onModule x b.x then { s with cp := { s.cp with slotRets := s.cp.slotRets ++ [{ mu := b, ring := m, off := off, n := n }] } }
    else sendOut s x (memberAt x b.x) (.msg (.slotReturn b m off n))
  else setRing s (locUnit m off) (some { r with free := r.free + n })

/-- RING.RELEASE at its bank (R270). `RL` = `RP` holds with no message claimed, and again when every slot is claimed: the count of
claimed messages tells the two apart. -/
def performRingRelease (q : Req) (s : State) : State :=
  withRing q (ringFault q) (fun r s =>
    if r.held == 0 || reqK q 0 != muPtr q.mu (payOff r r.rl) then ringFault q s
    else
      let p := afterPos s q.mu r r.rl
      let g := pastPad s q.mu r p (p != r.rp)
      let n := spaceAt s q.mu r r.rl + g.2
      reply q (BitVec.ofNat 64 n) (reqCommit q (freeSpace q.mu (slotOff q) n { r with rl := g.1, held := r.held - 1 } s))) s

/-- RING.STAT at its bank (R271). -/
def performRingStat (q : Req) (s : State) : State :=
  withRing q (fun s => reply q 0 (reqCommit q s)) (fun r s =>
    reply q (BitVec.ofNat 64 (ringBits s q.mu (slotOff q) r / 2 ^ (64 * (reqFields q).fn.toNat))) (reqCommit q s)) s

/-- The MU of a copy control word's completion object (R235, R442). -/
def cwUnit (s : State) (u : UId) (cw : Word) : UId :=
  let n := cw.toNat
  siteOf u (4 * ((ctxOf s u.ctx).pw * nbits n 56 8 + nbits n 16 7) + 3) (nbits n 23 7)

/-- The offset of the completion object. -/
def cwOff (cw : Word) : Nat := 16 * nbits cw.toNat 0 16

/-- `CK` of a control word. -/
def cwCk (cw : Word) : Nat := nbits cw.toNat 30 2

/-- The command fills a ring (R259). -/
def isRingSend : Instr → Bool
  | .sendRing _ => true
  | .ioreadRing _ => true
  | _ => false

/-- A copy of an MU into a ring that is not COMPLETE (R272, R273). -/
def fillsRing (s : State) (m ring : UId) (off : Nat) : Bool :=
  s.cp.copies.any fun p => p.mu == m && isRingSend p.i && cwUnit s m p.cw == ring && cwOff p.cw == off && p.st != .complete

/-- RING.RETIRE at its bank (R272). -/
def performRingRetire (q : Req) (s : State) : State :=
  withRing q (ringFault q) (fun r s =>
    if r.bnd || r.net.isSome || !(waitersOn s q.mu 3 (slotOff q)).isEmpty || r.rsv != r.wp || fillsRing s q.mu q.mu (slotOff q) then
      ringFault q s
    else reply q 0 (reqCommit q (wrN (setRing s (slotLoc q) none) (slotLoc q) 32 0))) s

/-! ### Filling (R261 to R263) -/

/-- Writes bytes into a ring's data area. -/
def ringBytes (s : State) (m : UId) (r : Ring) (off : Nat) (bs : List Byte) : State :=
  putBytes s ((List.range bs.length).map fun k => (locUnit m (r.base + off + k), bs.getD k 0))

/-- The message of a reservation is filled (R261): record and pad written, WP advanced, and the message handed to the head
waiter or counted. -/
def fillRing (m : UId) (off : Nat) (v : Resv) (len : Nat) (s : State) : State :=
  match ringAt s (locUnit m off) with
  | none => s
  | some r =>
    let s := if r.kd then ringBytes s m r v.place (leBytes len 16) else s
    let s := match v.pad with | some n => ringBytes s m r v.p (leBytes (n + 2 ^ 24) 16) | none => s
    let r := { r with wp := wrapPos r (v.place + (if r.kd then recordLen len else 1)), fill := r.fill + 1 }
    let moved := r.kd && v.pad.isNone && v.place != v.p
    let r := if moved then { r with rp := 0, rl := 0 } else r
    let padded := v.pad.isSome
    let freed := padded && r.rl == v.p
    let r := { r with rp := if padded && r.rp == v.p then 0 else r.rp, rl := if freed then 0 else r.rl }
    let s := if freed then freeSpace m off (r.sz - v.p) r s else setRing s (locUnit m off) (some r)
    match waitersOn s m 3 off, ringAt s (locUnit m off) with
    | w :: _, some r =>
      let c := claim s m r
      let s := { setRing s (locUnit m off) (some c.1) with mu := { s.mu with waiters := s.mu.waiters.erase w } }
      wake c.2.1 c.2.2 s w
    | _, _ => s

/-! ### Binding (R264, R265, R273) -/

/-- The binding of a ring at an MU. -/
def bindingOf (s : State) (m ring : UId) (off : Nat) : Option Binding :=
  s.cp.binds.find? fun b => b.mu == m && b.ring == ring && b.off == off

/-- Changes a binding. -/
def updBinding (s : State) (m ring : UId) (off : Nat) (f : Binding → Binding) : State :=
  { s with cp := { s.cp with binds := s.cp.binds.map fun b => if b.mu == m && b.ring == ring && b.off == off then f b else b } }

/-- The pointer that RING.BIND names: the right operand, displaced (R267). -/
def bindPtr (f : Fields) (F : Ready) (s : State) : Option Word := shiftPtr (rightOp f F s) (dispOf f)

/-- RING.BIND at issue: the checks of its window, then a request to the home MU. -/
def execRingBind (f : Fields) (s : State) : Host.Outcome State Fault Refusal :=
  runLanes (laneBoth f (fun F s =>
    let x := ctxOf s F.u.ctx
    let p := (bindPtr f F s).getD (rightOp f F s + BitVec.ofInt 64 (dispOf f))
    match (if (bindPtr f F s).isNone then some 0x07 else windowFault x (poolSize x) [1] p 32) with
    | some e => raiseA F e p s
    | none => if offOf p % 32 != 0 then raiseA F 0x08 p s else sendReq (muOf F.u) (.ringBind f) F [p] s)) s

/-- RING.BIND's answer: L, unchanged in kind and value. -/
def bindReply (s : State) (q : Req) : State :=
  let f := reqFields q
  let t := q.c.l
  reqCommit q (emitFrom (emitFrom s q.mu q.c.u (fcol q.c) (fitr q.c) f.ta t.kind t.val false) q.mu q.c.u (fcol q.c) (fitr q.c)
    f.tb t.kind t.val false)

/-- A bind message goes to the ring's MU. -/
def askBind (m ring : UId) (off : Nat) (s : State) : State :=
  { s with cp := { s.cp with bindMsgs := s.cp.bindMsgs ++ [{ mu := m, ring := ring, off := off, reply := false, free := 0, rsv := 0,
                                                             kd := false, sz := 0, cnt := 0 }] } }

/-- RING.BIND at the home MU (R273). -/
def performRingBind (q : Req) (s : State) : State :=
  let p := reqK q 0
  let ring := muNamed q.c.u p
  match bindingOf s q.mu ring (offOf p) with
  | some b => if b.pend then updBinding s q.mu ring (offOf p) fun b => { b with waiting := b.waiting ++ [q] } else bindReply s q
  | none =>
    if (s.cp.binds.filter fun b => b.mu == q.mu).length ≥ 8 then reqFault q 0x1D p s
    else
      let s := { s with cp := { s.cp with
        binds := s.cp.binds ++ [{ mu := q.mu, ring := ring, off := offOf p, kd := false, pend := true, sz := 0, cnt := 0, srsv := 0,
                                  sfree := 0, maker := some q, waiting := [] }] } }
      let x := ctxOf s q.mu.ctx
      if onModule x ring.x then askBind q.mu ring (offOf p) s
      else sendOut s x (memberAt x ring.x) (.msg (.bind q.mu ring (offOf p)))

/-- A bind that faults at the ring's MU (R273): the entry is freed, the fault belongs to its maker, and the requests that
waited are cancelled and issue again. -/
def refuseBind (b : Binding) (s : State) : State :=
  let s := { s with cp := { s.cp with binds := s.cp.binds.erase b } }
  let s := match b.maker with | some q => reqFault q 0x1D (reqK q 0) s | none => s
  b.waiting.foldr (fun q s => returnReady s q.c) s

/-- The answer to a bind goes to the binding MU: one of size 0 says that it faults, which at an MU of this module takes effect at once. -/
def answerBind (m : BindMsg) (s : State) : State :=
  let x := ctxOf s m.mu.ctx
  if !onModule x m.mu.x then sendOut s x (memberAt x m.mu.x) (.msg (.bound m.mu m.ring m.off m.free m.rsv m.kd m.sz m.cnt))
  else if m.sz == 0 then (match bindingOf s m.mu m.ring m.off with | some b => refuseBind b s | none => s)
  else { s with cp := { s.cp with bindMsgs := s.cp.bindMsgs ++ [m] } }

/-- A bind reaches the ring's MU (R273). -/
def bindAtRing (m : BindMsg) (s : State) : State :=
  match ringAt s (locUnit m.ring m.off) with
  | none => answerBind { m with reply := true, sz := 0 } s
  | some r =>
    if r.bnd || r.net.isSome || r.own != m.ring.ctx || m.ring == m.mu || r.rsv != r.wp || fillsRing s m.ring m.ring m.off then
      answerBind { m with reply := true, sz := 0 } s
    else
      let x := ctxOf s m.mu.ctx
      let r' := { r with bnd := true, free := 0, bpx := m.mu.x / 4 % x.pw, bpy := m.mu.y, bmod := m.mu.x / (4 * x.pw) }
      answerBind { m with reply := true, free := r.free, rsv := r.rsv, kd := r.kd, sz := r.sz, cnt := r.cnt }
        (setRing s (locUnit m.ring m.off) (some r'))

/-- Bind request number `n` is handled at its ring's MU. -/
def bodyRingBindRequest (n : Nat) (s : State) : State :=
  match (s.cp.bindMsgs.filter fun m => !m.reply)[n]? with
  | none => s
  | some m =>
    bindAtRing m { s with cp := { s.cp with bindMsgs := s.cp.bindMsgs.erase m } }

/-- RING_BIND_REQUEST. -/
def execRingBindRequest (n : Nat) (s : State) : Host.Outcome State Fault Refusal := done s (bodyRingBindRequest n s)

/-- Bind reply number `n` reaches the binding MU (R273): the entry is valid, and its maker and those waiting are answered. -/
def bodyRingBindReply (n : Nat) (s : State) : State :=
  match (s.cp.bindMsgs.filter fun m => m.reply)[n]? with
  | none => s
  | some m =>
    let s := { s with cp := { s.cp with bindMsgs := s.cp.bindMsgs.erase m } }
    match bindingOf s m.mu m.ring m.off with
    | none => s
    | some b =>
      let s := updBinding s m.mu m.ring m.off fun b =>
        { b with pend := false, kd := m.kd, sz := m.sz, cnt := m.cnt, srsv := m.rsv, sfree := b.sfree + m.free, maker := none,
                 waiting := [] }
      (b.maker.toList ++ b.waiting).foldl bindReply s

/-- RING_BIND_REPLY. -/
def execRingBindReply (n : Nat) (s : State) : Host.Outcome State Fault Refusal := done s (bodyRingBindReply n s)

/-- The oldest slot return of a path reaches the binding MU (R265). -/
def bodyRingSlotReturn (m ring : UId) (s : State) : State :=
  match s.cp.slotRets.find? fun e => e.mu == m && e.ring == ring with
  | none => s
  | some e =>
    updBinding { s with cp := { s.cp with slotRets := s.cp.slotRets.erase e } } e.mu e.ring e.off fun b =>
      { b with sfree := b.sfree + e.n }

/-- RING_SLOT_RETURN. -/
def execRingSlotReturn (m ring : UId) (s : State) : Host.Outcome State Fault Refusal := done s (bodyRingSlotReturn m ring s)

end Sys2Proof.Machine
end

