-- ==== Sys2Proof/Machine/Copy.lean ====
section
/-!
DEFINITION. Byte copies (09 R234 to R251): the commands at issue, their acceptance, chunks on their way, what a chunk does where
it lands, acknowledgements, releases, credits and the timer.
-/

namespace Sys2Proof.Machine

open Sys2Proof

/-! ### The commands at issue (R235, R247) -/

/-- A copy command leaves for its home MU with R, its control word, and the word that IMM[11:6] names. -/
def sendCommand (i : Instr) (f : Fields) (cw : Option Nat) (F : Ready) (s : State) : State :=
  sendReq (muOf F.u) i F [rightOp f F s, (cw.map fun lo => kreg s F.u (fld f lo 6)).getD 0, kreg s F.u (fld f 6 6)] s

/-- SEND. -/
def execSend (f : Fields) (s : State) : Host.Outcome State Fault Refusal :=
  runLanes (laneBoth f (sendCommand (.send f) f (some 0))) s
/-- SEND.RING. -/
def execSendRing (f : Fields) (s : State) : Host.Outcome State Fault Refusal :=
  runLanes (laneBoth f (sendCommand (.sendRing f) f (some 0))) s
/-- SENDR. -/
def execSendr (f : Fields) (s : State) : Host.Outcome State Fault Refusal :=
  runLanes (laneBoth f (sendCommand (.sendr f) f (some 0))) s
/-- SENDK.CHAIN: P is an operand (R250). -/
def execSendkChain (f : Fields) (s : State) : Host.Outcome State Fault Refusal :=
  runLanes (lane true true false f (sendCommand (.sendkChain f) f (some 0))) s
/-- SENDK.LAST. -/
def execSendkLast (f : Fields) (s : State) : Host.Outcome State Fault Refusal :=
  runLanes (lane true true false f (sendCommand (.sendkLast f) f (some 0))) s
/-- COPY. -/
def execCopy (f : Fields) (s : State) : Host.Outcome State Fault Refusal :=
  runLanes (laneBoth f (sendCommand (.copy f) f (some 4))) s
/-- COPYO. -/
def execCopyo (f : Fields) (s : State) : Host.Outcome State Fault Refusal :=
  runLanes (laneBoth f (sendCommand (.copyo f) f (some 4))) s

/-! ### Acceptance (R234 to R238) -/

/-- The copy id that the next command of an MU gets (R236). -/
def nextCopyId (s : State) (m : UId) : Nat :=
  let x := ctxOf s m.ctx
  fget 0 s.cp.cseq (uKey m) + 2 ^ 16 * (m.x / 4 % x.pw) + 2 ^ 23 * m.y + 2 ^ 30 * (m.x / (4 * x.pw))

/-- A fresh copy of a command. -/
def newCopy (s : State) (q : Req) : Copy :=
  { mu := q.mu, id := nextCopyId s q.mu, i := q.i, c := q.c, k := q.k, st := .issued, rsn := 0, nch := 0, total := 0, sent := 0,
    cw := reqK q 1, src := 0, dst := 0, len := 0, maps := [], timer := none, crfail := false, resv := none, strm := [], pos := 0,
    n := 0, cnt := 0, aux := [], toks := [], toks2 := [], left := false }

/-- Address checks on `n` bytes at a pointer (R165, R234): the window, its own MU for window 01 unless `far`, the capability, and
alignment. -/
def addrFault (s : State) (q : Req) (far : Bool) (ws : List Nat) (p : Word) (n al : Nat) (wr : Bool) : Option FaultInfo :=
  let x := reqCtx s q
  match windowFault x (poolSize x) ws p n with
  | some e => some { kind := e, va := p }
  | none =>
    if winOf p == 1 then
      if !far && muNamed q.c.u p != q.mu then some { kind := 0x07, va := p }
      else if offOf p % al != 0 then some { kind := 0x08, va := p }
      else none
    else match resolveVa s q.mu p n al wr with
    | .error e => some e
    | .ok _ => none

/-- `LEN` of a control word. -/
def cwLen (cw : Word) : Nat := nbits cw.toNat 32 24

/-- The control word's own check (R235): `len` says that the command uses LEN, `ring` that it fills a ring. -/
def cwFault (s : State) (q : Req) (cw : Word) (len ring : Bool) : Option FaultInfo :=
  let n := cw.toNat
  let x := reqCtx s q
  let bad := cwCk cw == 3 || (cwCk cw == 1) != ring || (cwCk cw == 1 && nbits n 0 1 == 1) || (len && cwLen cw == 0)
    || nbits n 16 7 ≥ x.pw || nbits n 23 7 ≥ x.ph || nbits n 56 8 ≥ max 1 x.members.length
  if bad then some { kind := 0x07, va := q.c.l.val } else none

/-- The first fault of a list of checks. -/
def firstFault (cs : List (Option FaultInfo)) : Option FaultInfo := cs.findSome? id

/-- The fault that a condition gives. -/
def failIf (b : Bool) (k : Nat) (va : Word) : Option FaultInfo := if b then some { kind := k, va := va } else none

/-- A command's copy, where no check fails. -/
def checked (cs : List (Option FaultInfo)) (p : Copy) : Except FaultInfo Copy :=
  match firstFault cs with
  | some e => .error e
  | none => .ok p

/-- The chunks of a length (R239). -/
def chunkCount (n : Nat) : Nat := (n + 4095) / 4096

/-- The element size of SENDR and SENDK, 1 for SEND (R248 to R250). -/
def pushAlign : Instr → Nat
  | .sendr f => tyBytes f.ty
  | .sendkChain _ => 2
  | .sendkLast _ => 2
  | _ => 1

/-- What a ring holds of itself where a command names it (R259): its kind, slot size and count, if it may be filled from this MU. -/
def ringFor (s : State) (q : Req) (cw : Word) : Option (Bool × Nat × Nat) :=
  let m := cwUnit s q.c.u cw
  if m == q.mu then
    match ringAt s (locUnit m (cwOff cw)) with
    | some r => if r.bnd || r.net.isSome || r.own != q.c.u.ctx then none else some (r.kd, r.sz, r.cnt)
    | none => none
  else match bindingOf s q.mu m (cwOff cw) with
  | some b => if b.pend then none else some (b.kd, b.sz, b.cnt)
  | none => none

/-- The ring checks of a command (R248, R259). -/
def ringSendFault (s : State) (q : Req) (cw : Word) : Option FaultInfo :=
  match ringFor s q cw with
  | none => some { kind := 0x1D, va := q.c.l.val }
  | some (kd, sz, _) => failIf (cwLen cw > (if kd then sz - 16 else sz)) 0x0A q.c.l.val

/-- SEND, SEND.RING, SENDR and SENDK at acceptance (R248 to R250). -/
def acceptPush (q : Req) (s : State) : Except FaultInfo Copy :=
  let cw := reqK q 1
  let n := cwLen cw
  let al := pushAlign q.i
  let ring := isRingSend q.i
  let src := q.c.l.val
  let dst := reqK q 0
  checked
    [addrFault s q false wins0113 src (max 1 n) al false,
     if ring then none else addrFault s q true [1] dst (max 1 n) al true,
     cwFault s q cw true ring,
     failIf (n % al != 0) 0x08 src,
     if ring then ringSendFault s q cw else none]
    { newCopy s q with src := src, dst := dst, len := n, total := chunkCount n }

/-- The bytes from a map's base to the end of its last element. -/
def mapExtent (d : BitVec 512) : Nat :=
  mapDisp d (mapD d 0 - 1) (mapD d 1 - 1) (mapD d 2 - 1) (mapD d 3 - 1) + (tyW (mapTy d) + 7) / 8

/-- A TILE fault of a command that finds its descriptor unusable (R279). -/
def mapFault (d : BitVec 512) : Option FaultInfo :=
  if !mapV d then some { kind := 0x1E, fks := 2 }
  else if !mapValid d then some { kind := 0x1E, fks := 1 }
  else none

/-- COPY and COPYO at acceptance (R251). -/
def acceptMap (q : Req) (s : State) : Except FaultInfo Copy :=
  let d := tmapOf s q.c.u (fld (reqFields q) 0 4)
  let cw := reqK q 1
  let n := denseLen d
  let l := q.c.l.val
  let out := match q.i with | .copyo _ => true | _ => false
  match mapFault d with
  | some e => .error e
  | none =>
    checked
      [addrFault s q false [0, 3] (mapBase d) (mapExtent d) 1 out,
       failIf (winOf l == 1 && offOf l + n > 2 ^ 20) 0x07 l,
       addrFault s q (!out) [1] l n 1 (!out),
       cwFault s q cw false false]
      { newCopy s q with src := if out then l else mapBase d, dst := if out then mapBase d else l, len := n, total := chunkCount n,
                         maps := [d] }

/-- The contiguous rows of a map: their pointers and lengths. -/
def mapRows (d : BitVec 512) : List (Word × Nat) :=
  (List.range (mapD d 1 * mapD d 2 * mapD d 3)).filterMap fun r =>
    (movePtr (mapBase d) (mapDispOf d (r * mapD d 0) : Nat)).map fun p => (p, (mapD d 0 * tyW (mapTy d) + 7) / 8)

/-- Commits the issuing colour's stores to the mapped elements (R172). -/
def commitMap (F : Ready) (d : BitVec 512) (s : State) : State := (mapRows d).foldl (fun s r => commitSource F r.1 r.2 s) s

/-- The table of an MU cannot take another copy (R234): 32 entries, none COMPLETE. -/
def tableFull (s : State) (m : UId) : Bool :=
  let ps := s.cp.copies.filter fun p => p.mu == m
  ps.length ≥ 32 && ps.all fun p => p.st != .complete

/-- Reuses the oldest COMPLETE entry of an MU where the table is full (R238). -/
def makeRoom (m : UId) (s : State) : State :=
  if (s.cp.copies.filter fun p => p.mu == m).length < 32 then s
  else match s.cp.copies.find? fun p => p.mu == m && p.st == .complete with
  | some p => { s with cp := { s.cp with copies := s.cp.copies.erase p } }
  | none => s

/-- The copy is a fibre unit that reads (R335): its acceptance is no commit point (R353). -/
def isFibre : Instr → Bool
  | .fscan _ => true | .fisect _ => true | .funion _ => true | .gath _ => true
  | _ => false

/-- A copy enters its table: the id is used up, the command is charged, and the acceptance is a commit point (R238, R406). -/
def enterCopy (p : Copy) (s : State) : State :=
  let s := makeRoom p.mu s
  let s := { s with cp := { s.cp with copies := s.cp.copies ++ [p],
                                      cseq := fset 0 s.cp.cseq (uKey p.mu) ((fget 0 s.cp.cseq (uKey p.mu) + 1) % 65536) } }
  let s := charge s p.c.u 7 1
  if isFibre p.i then s else commitPt s p.c.u.ctx p.c.u.copy (fcol p.c)

/-- A token of a copy to one target of its station. -/
def copyToken (p : Copy) (t : BitVec 12) (kind : BitVec 3) (v : Word) (s : State) : State :=
  emitFrom s p.mu p.c.u (fcol p.c) (fitr p.c) t kind v false

/-- The copy id goes to the targets that the command gives it (R247, R250, R252). -/
def acceptReply (p : Copy) (s : State) : State :=
  let f := (fieldsOf p.i).getD (unpack 0)
  let v := BitVec.ofNat 64 p.id
  match p.i with
  | .sendkChain _ => copyToken p f.tb kReply v s
  | .sendkLast _ => s
  | .stream _ => copyToken p f.tb kReply v s
  | _ => copyToken p f.tb kReply v (copyToken p f.ta kReply v s)

/-- The commit of a byte copy's source range (R172). -/
def commitCopy (p : Copy) (s : State) : State :=
  match p.i with
  | .copy _ => (p.maps.map (commitMap p.c)).foldl (fun s f => f s) s
  | _ => commitSource p.c p.src p.len s

/-- A byte copy is accepted, or its station faults. -/
def acceptCopy (q : Req) (r : Except FaultInfo Copy) (s : State) : State :=
  match r with
  | .error e => raise q.c e s
  | .ok p => acceptReply p (enterCopy p (commitCopy p s))

/-! ### Reservation (R260, R262) -/

/-- Where a message of a byte ring goes: its reservation, what it takes, and the next reservation position. -/
def placeRecord (sz free p len : Nat) : Resv × Nat × Nat :=
  let r := recordLen len
  let t := sz - p
  let wrap (n : Nat) : Nat := if n ≥ sz then 0 else n
  if free == sz then ({ p := p, place := 0, pad := none }, r, wrap r)
  else if r ≤ t then ({ p := p, place := p, pad := none }, r, wrap (p + r))
  else ({ p := p, place := 0, pad := some (t - 16) }, t + r, wrap r)

/-- Where a message goes. -/
def placeMessage (kd : Bool) (sz cnt free p len : Nat) : Resv × Nat × Nat :=
  if kd then placeRecord sz free p len
  else ({ p := p, place := p, pad := none }, 1, if p + 1 ≥ cnt then 0 else p + 1)

/-- A ring message of the MU that is older in its ring's order and has no reservation yet. -/
def ringAhead (s : State) (p : Copy) : Bool :=
  (s.cp.copies.takeWhile fun r => !(r.mu == p.mu && r.id == p.id)).any fun r =>
    r.mu == p.mu && isRingSend r.i && cwUnit s r.mu r.cw == cwUnit s p.mu p.cw && cwOff r.cw == cwOff p.cw
      && r.st == .issued && r.resv.isNone

/-- The oldest unreserved message of a ring is reserved where enough space is held (R260). -/
def bodyRingReservation (m : UId) (id : Nat) (s : State) : State :=
  match copyOf s m id with
  | none => s
  | some p =>
    if !isRingSend p.i || p.st != .issued || p.resv.isSome || ringAhead s p || !isRunning (ctxOf s m.ctx) then s
    else
      let u := cwUnit s m p.cw
      let off := cwOff p.cw
      if u == m then
        match ringAt s (locUnit u off) with
        | none => s
        | some r =>
          let v := placeMessage r.kd r.sz r.cnt r.free r.rsv p.len
          if v.2.1 > r.free then s
          else updCopy (setRing s (locUnit u off) (some { r with free := r.free - v.2.1, rsv := v.2.2 })) m id
            fun p => { p with resv := some v.1 }
      else match bindingOf s m u off with
      | none => s
      | some b =>
        let v := placeMessage b.kd b.sz b.cnt b.sfree b.srsv p.len
        if b.pend || v.2.1 > b.sfree then s
        else updCopy (updBinding s m u off fun b => { b with sfree := b.sfree - v.2.1, srsv := v.2.2 }) m id
          fun p => { p with resv := some v.1 }

/-- RING_RESERVATION. -/
def execRingReservation (m : UId) (id : Nat) (s : State) : Host.Outcome State Fault Refusal := done s (bodyRingReservation m id s)

/-! ### Sending chunks (R239, R242) -/

/-- The copy moves in chunks (R239). -/
def isChunkCopy : Instr → Bool
  | .send _ => true | .sendRing _ => true | .sendr _ => true | .sendkChain _ => true | .sendkLast _ => true
  | .copy _ => true | .copyo _ => true
  | _ => false

/-- The copy is STREAMING, CHUNKS_COMMITTED or REPLAYING. -/
def isMoving (p : Copy) : Bool := p.st == .streaming || p.st == .committed || p.st == .replaying

/-- A failure after which the copy replays (R237). -/
def mayReplay (p : Copy) : Bool := p.st == .failed && p.rsn ≤ 2

/-- The MU that a copy's chunks go to. -/
def copyDest (s : State) (p : Copy) : UId :=
  match p.i with
  | .copyo _ => p.mu
  | .sendRing _ => cwUnit s p.mu p.cw
  | .ioreadRing _ => cwUnit s p.mu p.cw
  | _ => muNamed p.c.u p.dst

/-- The pointers of a copy's source bytes `[lo, lo + n)`. -/
def srcPtrs (p : Copy) (lo n : Nat) : List (Option Word) :=
  match p.i, p.maps with
  | .copy _, d :: _ => (List.range n).map fun k => denseByte d (lo + k)
  | _, _ => (List.range n).map fun k => movePtr p.src (lo + k : Nat)

/-- The pointers of a copy's destination bytes; those of a ring message are relative to its payload. -/
def dstPtrs (p : Copy) (lo n : Nat) : List (Option Word) :=
  match p.i, p.maps with
  | .copyo _, d :: _ => (List.range n).map fun k => denseByte d (lo + k)
  | _, _ => (List.range n).map fun k => movePtr p.dst (lo + k : Nat)

/-- 64 pointers are consecutive bytes. -/
def isRun : List (Option Word) → Bool
  | some a :: some b :: r => b == a + 1 && isRun (some b :: r)
  | [some _] => true
  | _ => false

/-- The dense positions of a whole line that ends at byte `j` of a copy are those of one run at source and destination
(R242). -/
def wholeLine (p : Copy) (j : Nat) : Bool :=
  j ≥ 63 && isRun (srcPtrs p (j - 63) 64) && isRun (dstPtrs p (j - 63) 64)

/-- A line of memory lies wholly among the first `hi` bytes of a map's dense image; `sh` is how far the pointers' offsets are from addresses
modulo 64 (R207 lets an allocation begin anywhere). -/
def lineWritten (d : BitVec 512) (sh line hi : Nat) : Bool :=
  (List.range 64).all fun b => (List.range hi).any fun j =>
    match denseByte d j with | some q => q.toNat % 2 ^ 57 + sh == line + b | none => false

/-- The place of a ring message's payload within a line, which is a record's header past it in a byte ring (R260). -/
def ringPhase (s : State) (p : Copy) : Nat :=
  match p.resv with
  | none => 0
  | some v => if ((ringFor s (copyReq p) p.cw).map fun r => r.1).getD false then (v.place + 16) % 64 else 0

/-- The tags that go with the bytes of a chunk (R242, R277): a stamp on every whole line that a stamping policy writes, else the
source line's tag on a line that is one whole source line. `srcs` and `dsts` are the bytes' locations; a destination in
a scratchpad is given by its offset. -/
def chunkTags (p : Copy) (s : State) (lo : Nat) (srcs dsts : List Nat) : List (Nat × BitVec 16) :=
  let d := p.maps.headD 0
  let stamp := !p.maps.isEmpty && mapStamps d
  let code : BitVec 16 := BitVec.ofNat 16 (0x7F00 + mapLine d)
  (List.range dsts.length).filterMap fun k =>
    let a := dsts.getD k 0
    match p.i with
    | .sendr _ => none
    | .copyo _ =>
      if stamp then
        (match denseByte d (lo + k) with
         | some q =>
           let sh := (a + 64 - q.toNat % 64) % 64
           let line := (q.toNat % 2 ^ 57 + sh) / 64 * 64
           if lineWritten d sh line (lo + k + 1) && !lineWritten d sh line (lo + k) then some (a / 64 * 64, code) else none
         | none => none)
      else if a % 64 == 63 && srcs.getD k 0 % 64 == 63 && wholeLine p (lo + k) then
        some (a / 64 * 64, engTag s (srcs.getD k 0)) else none
    | _ =>
      if a % 64 != 63 || lo + k < 63 then none
      else if stamp then some (a / 64 * 64, code)
      else if srcs.getD k 0 % 64 == 63 && isRun (srcPtrs p (lo + k - 63) 64) then
        some (a / 64 * 64, engTag s (srcs.getD k 0)) else none

/-- The initial running value of SENDK (R250). -/
def sumStart (F : Ready) : Nat :=
  let v := (pVal F).toNat
  nbits v 16 16 % 65535 * 65536 + v % 65536 % 65535

/-- What applying a chunk of a copy does. -/
def chunkOp (p : Copy) (locs : List Nat) : ChunkOp :=
  match p.i with
  | .sendr f => .reduce (f.fn == 1) f.ty
  | .sendkChain _ => .summed (sumStart p.c)
  | .sendkLast _ => .summed (sumStart p.c)
  | .copyo _ => .global locs
  | _ => .plain

/-- The usable ports from which a copy to another module takes its own (R237). -/
def copyPorts (s : State) (p : Copy) : List Nat :=
  let x := ctxOf s p.mu.ctx
  usablePorts s (isSecure x) (memberMid x (memberAt x (copyDest s p).x))

/-- The copy goes to this module. -/
def copyLocal (s : State) (p : Copy) : Bool := onModule (ctxOf s p.mu.ctx) (copyDest s p).x

/-- The path to a copy's destination is UP (R238, R439). -/
def pathUp (s : State) (p : Copy) : Bool := copyLocal s p || !(copyPorts s p).isEmpty

/-- The port of a copy (R237): index id mod k of the k usable ones, counted as the copy starts and as it enters REPLAYING. `aux` keeps
it. -/
def portOf (s : State) (p : Copy) : List Nat :=
  if copyLocal s p then [] else ((copyPorts s p)[p.id % max 1 (copyPorts s p).length]?).toList

/-- The port of a moving copy is usable (R439). -/
def portUp (s : State) (p : Copy) : Bool := copyLocal s p || p.aux.any fun q => linkUsable (rxOf s q).lst

/-- An I/O die holds the data of the copy, a storage read into a ring (R453). -/
def holdsData (s : State) (p : Copy) : Bool := s.lk.ioData.any fun e => e.mu == p.mu && e.id == p.id

/-- A copy enters REPLAYING: it goes on from its first unacknowledged chunk (R238). -/
def enterReplay (s : State) (p : Copy) : Copy :=
  { p with st := .replaying, rsn := 0, sent := p.nch, timer := none, aux := if isChunkCopy p.i || holdsData s p then portOf s p else p.aux }

/-- A copy's chunks on their way and waiting to leave are forgotten at the source. -/
def forgetChunks (m : UId) (id : Nat) (s : State) : State :=
  let mine (k : Chunk) : Bool := k.src == m && k.id == id
  { s with cp := { s.cp with chunks := s.cp.chunks.filter fun k => !mine k },
           lk := { s.lk with egress := s.lk.egress.filter fun e => match e.2.2 with | .data k _ _ _ => !mine k | _ => true } }

/-- A path of a moving copy leaves UP (R238): FAILED(1), or FAILED(5) while draining (R244). -/
def losePath (p : Copy) (s : State) : State :=
  let s := forgetChunks p.mu p.id s
  if (ctxOf s p.mu.ctx).cst == .draining then
    failCopy p 5 (updCtx s p.mu.ctx fun x => { x with fcp := min 255 (x.fcp + 1) })
  else failCopy p 1 s

/-- Some of the source bytes are reported uncorrectable (R469, R477). -/
def srcFails (s : State) (ls : List Nat) : Bool :=
  ls.any (readFails s)

/-- A source error (R238): FAILED(4), and UNCORRECTABLE against the issuing colour. The chunks already sent go on. -/
def sourceError (p : Copy) (ls : List Nat) (s : State) : State :=
  trapErr (failCopy p 4 (readFire s ls)) p.mu (fcol p.c) 0x12

/-- The parts of a chunk that the flits of a port carry, of up to 104 bytes (R434). -/
def chunkParts (k : Chunk) (port : Nat) : List Cargo :=
  (List.range (max 1 ((k.bytes.length + 103) / 104))).map fun j =>
    .data { k with bytes := (k.bytes.drop (104 * j)).take 104, tags := if j == 0 then k.tags else [] } port (104 * j) k.bytes.length

/-- The entry of the twin's firing of a command (R471). -/
def twinCopy (s : State) (p : Copy) : Option Copy :=
  s.cp.copies.find? fun t => t.mu == { p.mu with copy := 1 - p.mu.copy } && t.c.u == { p.c.u with copy := 1 - p.c.u.copy }
    && t.c.stn == p.c.stn && fitr t.c == fitr p.c && p.c.pair == some (fcol t.c)

/-- A chunk goes on its way, or to the module of its destination; what a REDUNDANT context sends to another module its primary sends once (R471). -/
def dispatchChunk (s : State) (p : Copy) (k : Chunk) : State :=
  let x := ctxOf s k.src.ctx
  if onModule x k.dst.x then { s with cp := { s.cp with chunks := s.cp.chunks ++ [k] } }
  else if isRedundant x && k.src.copy != 0 then s
  else (chunkParts k (p.aux.headD 0)).foldl (fun s c => sendOut s x (memberAt x k.dst.x) c) s

/-- The line tags of a chunk; those of a ring message name their lines relative to its payload. -/
def tagsOf (p : Copy) (s : State) (lo : Nat) (srcs dsts : List Nat) : List (Nat × BitVec 16) :=
  (chunkTags p s lo srcs dsts).map fun t => (t.1 - ringPhase s p, t.2)

/-- The chunk of a copy's bytes, read at their locations. -/
def buildChunk (p : Copy) (c lo : Nat) (srcs dsts : List Nat) (s : State) : Chunk :=
  let glob := match p.i with | .copyo _ => true | _ => false
  { src := p.mu, dst := copyDest s p, id := p.id, idx := c, last := c + 1 == p.total,
    off := if glob then 0 else match p.resv with | some _ => lo | none => offOf p.dst + lo,
    bytes := srcs.map (engByte s),
    tags := tagsOf p s lo srcs dsts,
    op := chunkOp p dsts, ring := p.resv.map fun v => { off := cwOff p.cw, resv := v, len := p.len }, cw := p.cw }

/-- Where a chunk's bytes go, as far as the source's MU knows it: global locations for COPYO, offsets otherwise. -/
def chunkDst (p : Copy) (lo n : Nat) (s : State) : EngRes (List Nat) :=
  match p.i with
  | .copyo _ => engLocs (copyEng p) .write p.dst none (dstPtrs p lo n) s
  | .sendRing _ => .ok ((List.range n).map fun k => ringPhase s p + lo + k) s
  | _ => .ok ((List.range n).map fun k => offOf p.dst + lo + k) s

/-- A stamp that a COPYO would write on a host line, which keeps no tag but 0x7F00 (R117). -/
def hostStamp (p : Copy) (tags : List (Nat × BitVec 16)) : Option (BitVec 16) :=
  match p.i, p.maps with
  | .copyo _, d :: _ => if mapStamps d then (tags.find? fun t => isHost t.1 && t.2 != 0x7F00).map fun t => t.2 else none
  | _, _ => none

/-- Chunk `c` of a copy is read and sent (R239, R245). -/
def sendChunk (p : Copy) (c : Nat) (s : State) : State :=
  let lo := 4096 * c
  let n := min 4096 (p.len - lo)
  if !portUp s p then losePath p s
  else match engRead (copyEng p) (match p.i with | .copy _ => p.maps.head? | _ => none) (srcPtrs p lo n) s with
  | .fault e => copyFault p e s
  | .waits t => t
  | .ok srcs t =>
    if srcFails t srcs then sourceError p srcs t
    else match chunkDst p lo n t with
    | .fault e => copyFault p e t
    | .waits t => t
    | .ok dsts t =>
      match hostStamp p (tagsOf p t lo srcs dsts) with
      | some g => copyFault p { kind := 0x17, fks := (g.extractLsb' 0 8).toNat, va := ((dstPtrs p lo n).headD none).getD 0 } t
      | none =>
      let t := charge t p.mu 8 ((n + 63) / 64)
      dispatchChunk (updCopy t p.mu p.id fun p => { p with sent := max p.sent (c + 1), timer := some 0 }) p (buildChunk p c lo srcs dsts t)

/-- A busy reply for chunk 0 is under way or waits for its 64 cycles (R240). -/
def busyWait (s : State) (p : Copy) : Bool := s.cp.acks.any fun a => a.mu == p.mu && a.id == p.id && a.busy

/-- The chunk `c` of a storage read into a ring (R453). -/
def ioChunk (s : State) (p : Copy) (bs : List Byte) (c : Nat) : Chunk :=
  { src := p.mu, dst := copyDest s p, id := p.id, idx := c, last := c + 1 == p.total, off := 4096 * c,
    bytes := (bs.drop (4096 * c)).take 4096, tags := [], op := .io,
    ring := p.resv.map fun v => { off := cwOff p.cw, resv := v, len := p.len }, cw := p.cw }

/-- The data that an I/O die holds for a storage read into a ring leave, from the first chunk that is not sent; with no path to the ring the copy
is FAILED(1) (R439). -/
def sendData (p : Copy) (s : State) : State :=
  match s.lk.ioData.find? fun e => e.mu == p.mu && e.id == p.id with
  | none => s
  | some e =>
    if !portUp s p then losePath p s
    else
      let s := updCopy s p.mu p.id fun q => { q with sent := q.total, aux := p.aux }
      ((List.range p.total).drop p.sent).foldl (fun s c => dispatchChunk s p (ioChunk s p e.data c)) s

/-- A storage read whose data its I/O die holds goes on: after a busy reply, after its path was lost, or after a freeze (R240, R439). -/
def resumeData (p : Copy) (s : State) : State :=
  match p.st with
  | .issued => if busyWait s p then s else sendData p (updCopy s p.mu p.id fun q => { q with st := .streaming })
  | .failed => if p.rsn == 1 && pathUp s p then sendData (enterReplay s p) (updCopy s p.mu p.id fun q => enterReplay s q) else s
  | .complete => s
  | _ => if p.sent < p.total then sendData p s else s

/-- An earlier message of the same ring is not wholly sent (R260). -/
def ringBusy (s : State) (p : Copy) : Bool :=
  isRingSend p.i && (s.cp.copies.takeWhile fun r => !(r.mu == p.mu && r.id == p.id)).any fun r =>
    r.mu == p.mu && (match r.i with | .sendRing _ => true | _ => false) && cwUnit s r.mu r.cw == cwUnit s p.mu p.cw
      && cwOff r.cw == cwOff p.cw && r.sent < r.total && (r.st == .issued || isMoving r || mayReplay r)

/-- The copies that an MU serves at once (R239). -/
def servedCount (s : State) (m : UId) : Nat :=
  (s.cp.copies.filter fun p => p.mu == m && isChunkCopy p.i && (isMoving p || mayReplay p)).length

/-- A moving copy has a chunk to send within its window of four (R239). -/
def mayPump (s : State) (p : Copy) : Bool := isMoving p && p.sent < p.total && p.sent - p.nch < 4 && !ringBusy s p

/-- An issued copy has its resources (R238): one of the four places that the unit serves, its ring space, and no busy reply to wait out. -/
def mayStart (s : State) (p : Copy) : Bool :=
  p.st == .issued && (ctxOf s p.mu.ctx).cst != .draining && servedCount s p.mu < 4 && !(isRingSend p.i && p.resv.isNone)
    && !ringBusy s p && !busyWait s p

/-- The round robin of the copy unit comes to this copy (R239): it is the first after the one served last that has a chunk to send. -/
def takesTurn (s : State) (p : Copy) : Bool :=
  let ps := s.cp.copies.filter fun r => r.mu == p.mu && isChunkCopy r.i
  let last := fget 0 s.cp.turns (uKey p.mu)
  ((((ps.dropWhile fun r => r.id + 1 != last).drop 1 ++ ps).find? fun r => mayPump s r || mayStart s r).map fun r => r.id) == some p.id

/-- The copy that the round robin serves now. -/
def setTurn (p : Copy) (s : State) : State := { s with cp := { s.cp with turns := fset 0 s.cp.turns (uKey p.mu) (p.id + 1) } }

/-- A byte copy goes on (R238, R239): at its turn it starts where its resources are there, or sends its next chunk; after a passing failure it
replays. -/
def startChunks (p : Copy) (s : State) : State :=
  let x := ctxOf s p.mu.ctx
  if !engineRuns x then s
  else if holdsData s p then resumeData p s
  else match p.st with
  | .issued =>
    if mayStart s p && takesTurn s p then
      let q := { p with st := .streaming, aux := portOf s p }
      sendChunk q 0 (setTurn p (updCopy s p.mu p.id fun r => { r with st := .streaming, aux := portOf s p }))
    else s
  | .failed =>
    if x.cst == .draining || p.rsn > 2 || (p.rsn == 1 && !pathUp s p) then s
    else updCopy s p.mu p.id fun q => enterReplay s q
  | .complete => s
  | _ => if mayPump s p && takesTurn s p then sendChunk p p.sent (setTurn p s) else s

/-- Chunk 0, refused 64 cycles ago for a full commit table, may be sent again (R240). -/
def bodyChunkBusyResend (m : UId) (id : Nat) (s : State) : State :=
  match s.cp.acks.find? fun a => a.mu == m && a.id == id && a.busy with
  | none => s
  | some a =>
    if s.clock < a.since + 64 || !engineRuns (ctxOf s m.ctx) then s
    else
      let s := { s with cp := { s.cp with acks := s.cp.acks.erase a } }
      match copyOf s m id with
      | some p => startChunks p s
      | none => s

/-- CHUNK_BUSY_RESEND. -/
def execChunkBusyResend (m : UId) (id : Nat) (s : State) : Host.Outcome State Fault Refusal := done s (bodyChunkBusyResend m id s)

/-- The timer of a copy with unacknowledged chunks expires (R497). -/
def bodyCopyAckTimeout (m : UId) (id : Nat) (s : State) : State :=
  match copyOf s m id with
  | none => s
  | some p =>
    if isChunkCopy p.i && isMoving p && p.nch < p.sent && p.timer.getD 0 ≥ 4096 && engineRuns (ctxOf s m.ctx) then
      updCopy s m id fun q => enterReplay s q
    else s

/-- COPY_ACK_TIMEOUT. -/
def execCopyAckTimeout (m : UId) (id : Nat) (s : State) : Host.Outcome State Fault Refusal := done s (bodyCopyAckTimeout m id s)

/-! ### Messages of copies between MUs -/

/-- A copy whose chunk 0 was refused waits for a commit-table entry: it is ISSUED again (R237, R240, log entry 95). In a drain it ends
FAILED(5) (R244). -/
def waitEntry (m : UId) (id : Nat) (s : State) : State :=
  match copyOf s m id with
  | none => s
  | some p =>
    if !isMoving p || p.nch != 0 then s
    else if (ctxOf s m.ctx).cst == .draining && !holdsData s p then failCopy p 5 (updCtx s m.ctx fun x => { x with fcp := min 255 (x.fcp + 1) })
    else updCopy s m id fun p => { p with st := .issued, sent := 0, timer := none }

/-- An acknowledgement or busy reply comes to the issuing MU (R240). -/
def takeAck (s : State) (m : UId) (id idx : Nat) (busy : Bool) (sum : Nat) : State :=
  let s := { s with cp := { s.cp with acks := s.cp.acks ++ [{ mu := m, id := id, idx := idx, busy := busy, since := s.clock, sum := sum }] } }
  if busy then waitEntry m id s else s

/-- An acknowledgement goes to the issuing MU (R240). -/
def sendAck (s : State) (m : UId) (id idx : Nat) (busy : Bool) (sum : Nat) : State :=
  let x := ctxOf s m.ctx
  if onModule x m.x then takeAck s m id idx busy sum else sendOut s x (memberAt x m.x) (.msg (.ack m id idx busy sum))

/-- A credit goes to the slot that a control word names (R243). -/
def sendCredit (s : State) (m : UId) (id : Nat) (cw : Word) (n : Nat) : State :=
  let u := cwUnit s m cw
  let x := ctxOf s m.ctx
  if cwCk cw != 0 then s
  else if onModule x u.x then
    { s with cp := { s.cp with credits := s.cp.credits ++ [{ slot := u, off := cwOff cw, bytes := n, mu := m, id := id }] } }
  else sendOut s x (memberAt x u.x) (.msg (.credit u (cwOff cw) n m id))

/-- A release leaves for the destination MU (R240); it follows the chunks of its copy. -/
def sendRelease (s : State) (d m : UId) (id : Nat) : State :=
  { s with cp := { s.cp with rels := s.cp.rels ++ [{ dst := d, mu := m, id := id }] } }

/-! ### Applying a chunk (R240 to R243, R249, R250) -/

/-- One element of a reducing copy (R249). -/
def reduceElem (mx : Bool) (t : Ty) (d e : Nat) : Nat :=
  if mx then fMinMax t true false d e
  else if t == .i32 then (d + e) % 2 ^ 32
  else rnd (fmtD t) .rne false 0 (Ex.add false (decodeF (fmtD t) d) (decodeF (fmtD t) e))

/-- Cuts bytes into elements of `b` bytes. -/
def elemsOf (b : Nat) (bs : List Byte) : List Nat :=
  (List.range (bs.length / b)).map fun k => leNat ((bs.drop (k * b)).take b)

/-- The bytes of a reduced chunk. -/
def reduceBytes (mx : Bool) (t : Ty) (old new : List Byte) : List Byte :=
  let b := tyBytes t
  ((elemsOf b old).zip (elemsOf b new)).flatMap fun e => leBytes (reduceElem mx t e.1 e.2) b

/-- The Fletcher-32 running value over 16-bit words (R250). -/
def fletcher (p : Nat) (bs : List Byte) : Nat :=
  let r := (elemsOf 2 bs).foldl (fun (q : Nat × Nat) v => ((q.1 + v) % 65535, (q.2 + (q.1 + v) % 65535) % 65535))
    (p % 65536, p / 65536)
  r.2 * 65536 + r.1

/-- Sets a line's tag; host lines keep none (R117). -/
def engSetTag (s : State) (loc : Nat) (t : BitVec 16) : State :=
  if loc < unitBase && isHost loc then s else setLineTag s loc t

/-- A location lies in a scratchpad of another member of an outing. -/
def isFar (s : State) (loc : Nat) : Bool := loc ≥ unitBase && !onModule (ctxOf s (unitAt loc).ctx) (unitAt loc).x

/-- Bytes that an engine writes in a scratchpad of another member go there, each with the mask of the bits it writes. -/
def farPut (ws : List (Nat × Byte × Byte)) (s : State) : State :=
  match ws with
  | [] => s
  | w :: _ =>
    let u := unitAt w.1
    let x := ctxOf s u.ctx
    sendOut s x (memberAt x u.x) (.msg (.write u (ws.map fun w => ((w.1 - unitBase) % 2 ^ 20, w.2))))

/-- An engine of an MU writes bytes directly (R182); those outside the paddock only in the primary copy (R471). -/
def engPut (m : UId) (ws : List (Nat × Byte)) (s : State) : State :=
  let ws := if m.copy == 0 then ws else ws.filter fun w => w.1 ≥ unitBase
  farPut ((ws.filter fun w => isFar s w.1).map fun w => (w.1, 0xFF, w.2)) (putBytes s (ws.filter fun w => !isFar s w.1))

/-- The lines that the host or an I/O push writes take tag 0x7F00 (R121); host lines keep none. -/
def pushTags (locs : List Nat) (s : State) : State :=
  (locs.map fun l => l / 64).eraseDups.foldl (fun s l => engSetTag s (64 * l) 0x7F00) s

/-- The credit of a COPYO chunk, sent by the issuing MU once per chunk (R241); `cnt` counts the chunks credited. -/
def creditGlobal (k : Chunk) (s : State) : State :=
  match copyOf s k.src k.id with
  | some p =>
    if k.idx == p.cnt then sendCredit (updCopy s k.src k.id fun p => { p with cnt := p.cnt + 1 }) k.src k.id k.cw k.bytes.length else s
  | none => s

/-- A COPYO chunk is written at its home MU (R241): no commit table. -/
def applyGlobal (k : Chunk) (locs : List Nat) (s : State) : State :=
  let s := engPut k.src (locs.zip k.bytes) s
  let s := creditGlobal k (if k.src.copy == 0 then k.tags.foldl (fun s t => engSetTag s t.1 t.2) s else s)
  sendAck (charge s k.src 8 ((k.bytes.length + 63) / 64)) k.src k.id k.idx false 0

/-- Where a chunk's first byte goes: its offset, or for a ring message the payload's place in the ring. -/
def chunkOff (k : Chunk) (s : State) : Nat :=
  match k.ring with
  | none => k.off
  | some m =>
    match ringAt s (locUnit k.dst m.off) with
    | some r => payOff r m.resv.place + k.off
    | none => 0

/-- The bytes of a chunk are written and its line tags set. -/
def writeChunk (k : Chunk) (s : State) : State :=
  let off := chunkOff k s
  let locs := (List.range k.bytes.length).map fun j => locUnit k.dst (off + j)
  let bs := match k.op with
    | .reduce mx t => reduceBytes mx t (locs.map (engByte s)) k.bytes
    | _ => k.bytes
  let s := engPut k.dst (locs.zip bs) s
  let s := if k.op == .io then pushTags locs s else s
  let base := if k.ring.isSome then off - k.off else 0
  k.tags.foldl (fun s t => engSetTag s (locUnit k.dst (base + t.1)) t.2) s

/-- The checksum after a chunk (R250): over the bytes as they stand. -/
def chunkSum (k : Chunk) (sum : Nat) (s : State) : Nat :=
  match k.op with
  | .summed _ => fletcher sum ((List.range k.bytes.length).map fun j => engByte s (locUnit k.dst (chunkOff k s + j)))
  | _ => sum

/-- Replaces the commit entry of a copy. -/
def setCommit (e : CommitEnt) (s : State) : State :=
  { s with cp := { s.cp with commits := (s.cp.commits.filter fun c => !(c.dst == e.dst && c.mu == e.mu && c.id == e.id)) ++ [e] } }

/-- The part of a chunk's application that each copy has: its bytes and tags, its credit, and the ring message that it ends (R240, R243, R260). -/
def landChunk (k : Chunk) (s : State) : State :=
  let s := sendCredit (writeChunk k s) k.src k.id k.cw k.bytes.length
  match k.ring with
  | some m => if k.last then fillRing k.dst m.off m.resv m.len s else s
  | none => s

/-- The entry's next chunk is applied, credited and acknowledged (R240); in a REDUNDANT context what the primary sent from another module lands in
both copies (R471). -/
def applyNext (k : Chunk) (e : CommitEnt) (s : State) : State :=
  let x := ctxOf s k.src.ctx
  let s := landChunk k s
  let sum := chunkSum k e.sum s
  let s := setCommit { e with nxt := e.nxt + 1, sum := sum } (charge s k.dst 8 ((k.bytes.length + 63) / 64))
  let s := if isRedundant x && !onModule x k.src.x then
      landChunk { k with src := { k.src with copy := 1 }, dst := { k.dst with copy := 1 } } s
    else s
  sendAck s k.src k.id k.idx false sum

/-- The chunk's ring message is at WP (R260). -/
def ringTurn (k : Chunk) (s : State) : Bool :=
  match k.ring with
  | none => true
  | some m =>
    match ringAt s (locUnit k.dst m.off) with
    | some r => r.wp == m.resv.p
    | none => false

/-- A chunk meets its commit entry (R240). -/
def meetEntry (k : Chunk) (e : CommitEnt) (s : State) : State :=
  if k.idx < e.nxt then sendAck s k.src k.id k.idx false e.sum
  else if k.idx > e.nxt || !ringTurn k s then s
  else applyNext k e s

/-- A wholly staged chunk at its destination MU (R240). -/
def applyChunk (k : Chunk) (s : State) : State :=
  match k.op with
  | .global locs => applyGlobal k locs s
  | _ =>
    match s.cp.commits.find? fun e => e.dst == k.dst && e.mu == k.src && e.id == k.id with
    | some e => meetEntry k e s
    | none =>
      if k.idx != 0 then s
      else if (s.cp.commits.filter fun e => e.dst == k.dst).length ≥ 64 then sendAck s k.src k.id 0 true 0
      else
        let e : CommitEnt := { dst := k.dst, mu := k.src, id := k.id, nxt := 0, sum := match k.op with | .summed v => v | _ => 0 }
        meetEntry k e (setCommit e s)

/-- The chunk is the first of its copy on its way (R240). -/
def isFirstOf (s : State) (k : Chunk) : Bool :=
  (s.cp.chunks.find? fun j => j.src == k.src && j.id == k.id) == some k

/-- The chunks that stand in the four staging buffers of an MU (R239): the oldest four that have been sent to it. -/
def stagedAt (s : State) (d : UId) : List Chunk := (s.cp.chunks.filter fun k => k.dst == d).take 4

/-- A chunk that waits for its ring's turn after its command has ended (R453); one that has been applied waits no more (R241). -/
def waitsTurn (s : State) (k : Chunk) : Bool :=
  k.op == .io && !ringTurn k s && !(s.cp.commits.any fun e => e.dst == k.dst && e.mu == k.src && e.id == k.id && k.idx < e.nxt)

/-- The chunk in staging buffer `n` of an MU is applied or discarded. After a kill's stop the chunks that were sent are applied too (R398), and
one that waits for a turn is given up. -/
def bodyChunkApply (d : UId) (n : Nat) (s : State) : State :=
  let x := ctxOf s d.ctx
  match (stagedAt s d)[n]? with
  | none => s
  | some k =>
    let t := { s with cp := { s.cp with chunks := s.cp.chunks.erase k } }
    if !(isRunning x || x.cst == .draining || x.dying) || !isFirstOf s k then s
    else if waitsTurn s k then (if x.dying then t else s)
    else applyChunk k t

/-- CHUNK_APPLY. -/
def execChunkApply (d : UId) (n : Nat) (s : State) : Host.Outcome State Fault Refusal := done s (bodyChunkApply d n s)

/-! ### Acknowledgement, release, credit -/

/-- SENDK's tokens at the end (R250): the checksum to TA, and for .LAST its comparison to TB. -/
def sumTokens (p : Copy) (sum : Nat) (s : State) : State :=
  match p.i with
  | .sendkChain f => copyToken p f.ta kReply (BitVec.ofNat 64 sum) s
  | .sendkLast f =>
    copyToken p f.tb kReply (truth (sum != (p.k.getD 2 0).toNat % 2 ^ 32)) (copyToken p f.ta kReply (BitVec.ofNat 64 sum) s)
  | _ => s

/-- The last chunk is acknowledged (R238, R240): COMPLETE, or FAILED(3) where a credit was refused, and the release is sent. -/
def finishCopy (p : Copy) (sum : Nat) (s : State) : State :=
  let s := match p.i with | .copyo _ => s | _ => sendRelease s (copyDest s p) p.mu p.id
  if s.lk.ioData.any fun e => e.mu == p.mu && e.id == p.id && !e.ok then failCopy { p with nch := p.total } 6 s
  else if p.crfail then failCopy { p with nch := p.total } 3 s
  else sumTokens p sum (updCopy (dropData p s) p.mu p.id fun p => { p with st := .complete, timer := none })

/-- An acknowledgement reaches the issuing MU (R238, R240); one already counted is ignored. -/
def countAck (p : Copy) (a : ChunkAck) (s : State) : State :=
  if a.idx < p.nch || !isMoving p then s
  else
    let n := a.idx + 1
    let s := updCopy s p.mu p.id fun p => { p with nch := n, sent := max p.sent n, timer := if n < p.sent then some 0 else none,
                                                   st := .committed }
    if n == p.total then finishCopy p a.sum s else s

/-- Acknowledgement number `n` of an MU arrives; those of one copy come in order. -/
def bodyChunkAck (m : UId) (n : Nat) (s : State) : State :=
  let as := s.cp.acks.filter fun a => a.mu == m && !a.busy
  match as[n]? with
  | none => s
  | some a =>
    if (as.find? fun b => b.id == a.id) != some a then s
    else
      let s := { s with cp := { s.cp with acks := s.cp.acks.erase a } }
      match copyOf s m a.id with
      | some p =>
        let t := countAck p a s
        if copyLocal s p then t else (twinCopy s p).toList.foldl (fun s t => countAck t a s) t
      | none => s

/-- CHUNK_ACK. -/
def execChunkAck (m : UId) (n : Nat) (s : State) : Host.Outcome State Fault Refusal := done s (bodyChunkAck m n s)

/-- Data of a copy wait to leave this module, or stand unacknowledged at a port. -/
def dataPending (s : State) (m : UId) (id : Nat) : Bool :=
  let mine (c : Cargo) : Bool := match c with | .data k _ _ _ => k.src == m && k.id == id | _ => false
  (s.lk.egress.any fun e => mine e.2.2) || s.lk.ports.any fun e => e.2.tx.any fun o => mine o.cargo

/-- Release message number `n` frees its commit entry (R240). It follows the chunks of its copy on one path, so none of them is left behind it
(R241): to another module it leaves once the copy's data have gone, and at the destination MU it comes after the last staged chunk. -/
def bodyCopyRelease (n : Nat) (s : State) : State :=
  match s.cp.rels[n]? with
  | none => s
  | some r =>
    let x := ctxOf s r.mu.ctx
    let t := { s with cp := { s.cp with rels := s.cp.rels.erase r } }
    if !onModule x r.dst.x then
      (if dataPending s r.mu r.id then s else sendOut t x (memberAt x r.dst.x) (.msg (.release r.dst r.mu r.id)))
    else if s.cp.chunks.any fun k => k.src == r.mu && k.id == r.id then s
    else { t with cp := { t.cp with commits := t.cp.commits.filter fun e => !(e.dst == r.dst && e.mu == r.mu && e.id == r.id) },
                  lk := { t.lk with arriving := t.lk.arriving.filter fun k => !(k.src == r.mu && k.id == r.id) } }

/-- COPY_RELEASE. -/
def execCopyRelease (n : Nat) (s : State) : Host.Outcome State Fault Refusal := done s (bodyCopyRelease n s)

/-- A refused credit is noted at the copy, on the module of its MU (R223, R238): its final state is then FAILED(3). -/
def refuseCredit (m : UId) (id : Nat) (s : State) : State :=
  let x := ctxOf s m.ctx
  if onModule x m.x then updCopy s m id fun p => if p.st == .complete then p else { p with crfail := true }
  else sendOut s x (memberAt x m.x) (.msg (.refused m id))

/-- A credit at its slot (R222, R223). -/
def applyCredit (c : Credit) (s : State) : State :=
  let s := evalBar c.slot c.off s
  let loc := locUnit c.slot c.off
  match barAt s loc with
  | none => refuseCredit c.mu c.id s
  | some b =>
    if b.st == .idle || b.txb - c.bytes < -(2 ^ 31) then refuseCredit c.mu c.id s
    else setBar s loc (some { b with txb := b.txb - c.bytes })

/-- Credit number `n` on its way arrives. -/
def bodyBarrierCredit (n : Nat) (s : State) : State :=
  match s.cp.credits[n]? with
  | none => s
  | some c => applyCredit c { s with cp := { s.cp with credits := s.cp.credits.erase c } }

/-- BARRIER_CREDIT. -/
def execBarrierCredit (n : Nat) (s : State) : Host.Outcome State Fault Refusal := done s (bodyBarrierCredit n s)

end Sys2Proof.Machine
end

