-- ==== Sys2Proof/Machine/Stream.lean ====
section
/-!
DEFINITION. Streams (09 R252 to R255): STREAM, STREAMW, SCLOSE and CSTAT, and the AGU streams of an MU.
-/

namespace Sys2Proof.Machine

open Sys2Proof

/-- STREAM. -/
def execStream (f : Fields) (s : State) : Host.Outcome State Fault Refusal :=
  runLanes (laneBoth f (sendCommand (.stream f) f none)) s
/-- STREAMW. -/
def execStreamw (f : Fields) (s : State) : Host.Outcome State Fault Refusal :=
  runLanes (laneBoth f (sendCommand (.streamw f) f (some 6))) s
/-- SCLOSE. -/
def execSclose (f : Fields) (s : State) : Host.Outcome State Fault Refusal :=
  runLanes (laneBoth f (fun F s => sendReq (muOf F.u) (.sclose f) F [] s)) s
/-- CSTAT. -/
def execCstat (f : Fields) (s : State) : Host.Outcome State Fault Refusal :=
  runLanes (laneBoth f (fun F s => sendReq (muOf F.u) (.cstat f) F [] s)) s

/-! ### Acceptance -/

/-- STREAM at acceptance (R252). -/
def acceptStream (q : Req) (s : State) : Except FaultInfo Copy :=
  let d := tmapOf s q.c.u (fld (reqFields q) 0 4)
  let n := mapCount d
  let v := q.c.l.val.toNat
  match mapFault d with
  | some e => .error e
  | none =>
    checked [addrFault s q false wins0113 (mapBase d) (mapExtent d) 1 false, failIf (v ≥ n || n - v > 65535) 0x07 (mapBase d)]
      { newCopy s q with src := mapBase d, maps := [d], pos := v, n := n, cw := 2 ^ 31 }

/-- STREAMW at acceptance (R253): its map may lie in window 00, 01 or 11 (log entry 109). -/
def acceptStreamw (q : Req) (s : State) : Except FaultInfo Copy :=
  let d := tmapOf s q.c.u (fld (reqFields q) 0 4)
  match mapFault d with
  | some e => .error e
  | none =>
    checked [addrFault s q true wins0113 (mapBase d) (mapExtent d) 1 true, cwFault s q (reqK q 1) false false]
      { newCopy s q with dst := mapBase d, maps := [d], n := mapCount d }

/-- A stream is accepted, or its station faults; STREAM's source is its map's elements (R172). -/
def acceptStreaming (q : Req) (r : Except FaultInfo Copy) (s : State) : State :=
  match r with
  | .error e => raise q.c e s
  | .ok p =>
    let s := match q.i with | .stream _ => (p.maps.map (commitMap p.c)).foldl (fun s f => f s) s | _ => s
    acceptReply p (enterCopy p s)

/-! ### AGU streams -/

/-- The AGU streams of an MU in use. -/
def usedStreams (s : State) (m : UId) : List Nat :=
  (s.cp.copies.filter fun p => p.mu == m && (isMoving p || mayReplay p)).flatMap fun p => p.strm

/-- The lowest free AGU streams of an MU, `n` of them (R252). -/
def freeStreams (s : State) (m : UId) (n : Nat) : Option (List Nat) :=
  let l := ([0, 1, 2, 3].filter fun k => !(usedStreams s m).contains k).take n
  if l.length == n then some l else none

/-- The write queues that a command binds, which are its AGU streams too (R253, R352). -/
def queuesOf : Instr → List Nat
  | .streamw f => [fld f 4 2]
  | .femit f => [2 * fld f 8 1, 2 * fld f 8 1 + 1]
  | _ => []

/-- A stream takes its AGU streams and opens, or goes on after a passing failure (R238, R252, R253, R335, R352). -/
def startStream (p : Copy) (s : State) : State :=
  let x := ctxOf s p.mu.ctx
  if !engineRuns x || x.cst == .draining then s
  else match p.st with
  | .issued =>
    let take := match queuesOf p.i with
      | [] => freeStreams s p.mu 1
      | ks => if ks.any fun k => (usedStreams s p.mu).contains k then none else some ks
    (match take with
     | some l => updCopy s p.mu p.id fun p => { p with st := .streaming, strm := l }
     | none => s)
  | .failed => if p.rsn == 2 then updCopy s p.mu p.id fun p => { p with st := .replaying, rsn := 0 } else s
  | _ => s

/-- A stream ends COMPLETE and gives up its AGU streams. -/
def closeStream (p : Copy) (s : State) : State :=
  updCopy s p.mu p.id fun p => { p with st := .complete, strm := [], timer := none }

/-! ### Elements -/

/-- The pointers of the bytes of element `e` of a map. -/
def elemPtrs (d : BitVec 512) (e : Nat) : List (Option Word) :=
  (List.range (max 1 (tyW (mapTy d) / 8))).map fun k => movePtr (mapBase d) (mapDispOf d e + k : Nat)

/-- The bit of an element within its bytes: 4 for an E2M1 element with odd i0 (R274). -/
def elemShift (d : BitVec 512) (e : Nat) : Nat := if tyW (mapTy d) == 4 && e % mapD d 0 % 2 == 1 then 4 else 0

/-- The bits of an element in its bytes. -/
def elemBits (d : BitVec 512) (e : Nat) (bs : List Byte) : Nat := nbits (leNat bs) (elemShift d e) (tyW (mapTy d))

/-- The value that LDL would deliver, rounded RNE, for the element of a line at a location that holds bit `shift` of the byte there (R195, R252,
log entry 38); on overflow the rounding gives infinity, as NONSAT does (log entry 109); a reserved format is none (R120). -/
def decValue (s : State) (loc shift : Nat) : Except Nat Word :=
  let tag := engTag s loc
  let c := (tag.extractLsb' 0 8).toNat
  match lineFmtOf c with
  | none => .error c
  | some (_, w, t) =>
    let i := (8 * (loc % 64) + shift) / w
    let bs := (List.range (max 1 (w / 8))).map fun k => engByte s (loc / 64 * 64 + i * w / 8 + k)
    let b := nbits (leNat bs) (i * w % 8) w
    .ok (BitVec.ofNat 64 (if c == 0 then b else rne32 (lineDecode tag t b)))

/-- The token value of element `e` of a streamed map, whose bytes stand at `ls` (R252). -/
def streamValue (s : State) (i : Instr) (d : BitVec 512) (e : Nat) (ls : List Nat) : Except Nat Word :=
  let plain := extendTy (mapTy d) (elemBits d e (ls.map (engByte s)))
  match i with
  | .stream f => if f.fn == 1 then decValue s (ls.headD 0) (elemShift d e) else .ok plain
  | _ => .ok plain

/-- A line is charged when a stream moves on to it (R406); `total`, which a stream does not use otherwise, keeps the last line
plus one. -/
def chargeLine (p : Copy) (loc : Nat) (s : State) : State :=
  if p.total == loc / 64 + 1 then s else updCopy (charge s p.mu 8 1) p.mu p.id fun p => { p with total := loc / 64 + 1 }

/-- An open STREAM emits its next element, or its end-of-fibre and completes (R252). -/
def streamStep (p : Copy) (s : State) : State :=
  let f := (fieldsOf p.i).getD (unpack 0)
  let d := p.maps.headD 0
  if p.pos ≥ p.n then
    closeStream p (emitFrom s p.mu p.c.u (fcol p.c) (p.cnt % 65536) f.ta kEof (BitVec.ofNat 64 p.cnt) false)
  else match engRead (copyEng p) (some d) (elemPtrs d p.pos) s with
  | .fault e => copyFault p e s
  | .waits t => t
  | .ok ls t =>
    if srcFails t ls then sourceError p ls t
    else match streamValue t p.i d p.pos ls with
    | .error c => copyFault p { kind := 0x17, fks := c, va := ((elemPtrs d p.pos).headD none).getD 0 } t
    | .ok v =>
      let t := emitFrom t p.mu p.c.u (fcol p.c) (p.cnt % 65536) f.ta kValue v false
      updCopy (chargeLine p (ls.headD 0) t) p.mu p.id fun p => { p with pos := p.pos + 1, cnt := p.cnt + 1 }

/-- The copy is a STREAM. -/
def isStream : Instr → Bool
  | .stream _ => true
  | _ => false

/-- STREAM_ELEMENT: element by element while its paddock runs and does not drain (R244, R252). -/
def bodyStreamElement (m : UId) (id : Nat) (s : State) : State :=
  let x := ctxOf s m.ctx
  match copyOf s m id with
  | some p => if isStream p.i && isMoving p && engineRuns x && x.cst != .draining then streamStep p s else s
  | none => s

/-- STREAM_ELEMENT. -/
def execStreamElement (m : UId) (id : Nat) (s : State) : Host.Outcome State Fault Refusal := done s (bodyStreamElement m id s)

/-! ### Write queues (R253) -/

/-- The bytes that a number of elements has. -/
def elemBytes (d : BitVec 512) (n : Nat) : Nat := (n * tyW (mapTy d) + 7) / 8

/-- A STREAMW closes: one credit for the bytes, and COMPLETE (R243, R253, R254). -/
def closeWriter (p : Copy) (bytes : Nat) (s : State) : State :=
  let s := if bytes == 0 then s else sendCredit s p.mu p.id p.cw bytes
  closeStream p s

/-- The bytes of element `e` of a map with a token's value in them. -/
def elemWrites (s : State) (d : BitVec 512) (e : Nat) (ls : List Nat) (v : Word) : List (Nat × Byte) :=
  if tyW (mapTy d) ≥ 8 then ls.zip (leBytes v.toNat ls.length)
  else
    let a := ls.headD 0
    let old := (engByte s a).toNat
    let lo := elemShift d e
    [(a, BitVec.ofNat 8 (old - nbits old lo 4 * 2 ^ lo + v.toNat % 16 * 2 ^ lo))]

/-- The value of a token is written to element `e` of a map (R182, R253). -/
def putElem (m : UId) (d : BitVec 512) (e : Nat) (ls : List Nat) (v : Word) (s : State) : State :=
  let a := ls.headD 0
  if isFar s a && tyW (mapTy d) < 8 then
    farPut [(a, BitVec.ofNat 8 (15 * 2 ^ elemShift d e), BitVec.ofNat 8 (v.toNat % 16 * 2 ^ elemShift d e))] s
  else engPut m (elemWrites s d e ls v) s

/-- A counted token; the n-th closes the stream. -/
def countToken (p : Copy) (wrote : Nat) (s : State) : State :=
  let s := updCopy s p.mu p.id fun p => { p with cnt := p.cnt + 1, pos := p.pos + wrote }
  if p.cnt + 1 == p.n then closeWriter p (elemBytes (p.maps.headD 0) p.n) s else s

/-- A token at an open write queue (R253). `s` holds it no longer; `back` still holds it, for a fault or a wait. -/
def writeToken (p : Copy) (t : Flit) (back s : State) : State :=
  let d := p.maps.headD 0
  let i := t.itr.toNat
  if isEof t then closeWriter p (elemBytes d p.pos) s
  else if i ≥ p.n then addOrph s p.mu.ctx 1
  else if isNull t then countToken p 0 s
  else match engLocs (copyEng p) .write p.dst none (elemPtrs d i) back with
  | .fault e => copyFault p e back
  | .waits b => b
  | .ok ls b =>
    let b := { b with cp := { b.cp with toQueues := s.cp.toQueues } }
    countToken p 1 (chargeLine p (ls.headD 0) (putElem p.mu d i ls t.val b))

/-- The open STREAMW or FEMIT that holds a write queue. -/
def openWriter (s : State) (m : UId) (k : Nat) : Option Copy :=
  s.cp.copies.find? fun p => p.mu == m && (queuesOf p.i).contains k && (isMoving p || mayReplay p)

/-- The copy is a STREAMW. -/
def isStreamw : Instr → Bool
  | .streamw _ => true
  | _ => false

/-- The oldest token at a write queue of an MU is handled (R253); with no open stream it is an orphan. -/
def bodyStreamwToken (m : UId) (k : Nat) (s : State) : State :=
  let x := ctxOf s m.ctx
  match s.cp.toQueues.find? fun f => f.u == m && f.tok.stn.toNat % 4 == k with
  | none => s
  | some f =>
    let s' := { s with cp := { s.cp with toQueues := s.cp.toQueues.erase f } }
    if !engineRuns x then s
    else match openWriter s m k with
    | none => addOrph s' m.ctx 1
    | some p => if isStreamw p.i && isMoving p && x.cst != .draining then writeToken p f.tok s s' else s

/-- STREAMW_TOKEN. -/
def execStreamwToken (m : UId) (k : Nat) (s : State) : Host.Outcome State Fault Refusal := done s (bodyStreamwToken m k s)

/-! ### CSTAT at the copy unit (R255) -/

/-- The code of a copy's state (R237). -/
def copyCode : CopySt → Nat
  | .issued => 0 | .streaming => 1 | .committed => 2 | .complete => 3 | .failed => 4 | .replaying => 5

/-- The status word of a copy (R255). -/
def copyStatus (p : Copy) : Word :=
  BitVec.ofNat 64 (copyCode p.st + (if p.st == .failed then 2 ^ 8 * p.rsn else 0)
    + 2 ^ 12 * ((if isChunkCopy p.i then p.nch else p.cnt) % 2 ^ 13))

/-- CSTAT: a final FAILED entry is freed by the reading. An id with no entry is GONE. -/
def performCstat (q : Req) (s : State) : State :=
  let s := reqCommit q (charge s q.c.u 7 1)
  match copyOf s q.mu q.c.l.val.toNat with
  | none => reply q 7 s
  | some p =>
    let s := if p.st == .failed && p.rsn > 2 then { s with cp := { s.cp with copies := s.cp.copies.erase p } } else s
    reply q (copyStatus p) s

end Sys2Proof.Machine
end

