-- ==== Sys2Proof/Machine/Sparse.lean ====
section
/-!
DEFINITION. Sparse work (13 R331 to R353): the binning engine, the merge-path unit, the fibre units on AGU streams, the emitter,
and the closing of a stream (09 R254).
-/

namespace Sys2Proof.Machine

open Sys2Proof

/-! ### At issue -/

/-- BIN.OPEN takes its four K registers when it issues (R347). -/
def execBinOpen (f : Fields) (s : State) : Host.Outcome State Fault Refusal :=
  runLanes (laneBoth f (fun F s =>
    sendReq (muOf F.u) (.binOpen f) F ((List.range 4).map fun j => kreg s F.u (fld f 0 6 + j)) s)) s
/-- BIN.PUT takes its value (R348). -/
def execBinPut (f : Fields) (s : State) : Host.Outcome State Fault Refusal :=
  runLanes (laneBoth f (fun F s => sendReq (muOf F.u) (.binPut f) F [rightOp f F s] s)) s
/-- BIN.PUT.MAP. -/
def execBinPutMap (f : Fields) (s : State) : Host.Outcome State Fault Refusal :=
  runLanes (laneBoth f (fun F s => sendReq (muOf F.u) (.binPutMap f) F [] s)) s
/-- BIN.PLAY. -/
def execBinPlay (f : Fields) (s : State) : Host.Outcome State Fault Refusal :=
  runLanes (laneBoth f (fun F s => sendReq (muOf F.u) (.binPlay f) F [] s)) s
/-- BIN.CLOSE. -/
def execBinClose (f : Fields) (s : State) : Host.Outcome State Fault Refusal :=
  runLanes (laneBoth f (fun F s => sendReq (muOf F.u) (.binClose f) F [] s)) s
/-- MPATH. -/
def execMpath (f : Fields) (s : State) : Host.Outcome State Fault Refusal :=
  runLanes (laneBoth f (fun F s => sendReq (muOf F.u) (.mpath f) F [] s)) s
/-- FSCAN. -/
def execFscan (f : Fields) (s : State) : Host.Outcome State Fault Refusal :=
  runLanes (laneBoth f (sendCommand (.fscan f) f none)) s
/-- FISECT. -/
def execFisect (f : Fields) (s : State) : Host.Outcome State Fault Refusal :=
  runLanes (laneBoth f (sendCommand (.fisect f) f none)) s
/-- FUNION. -/
def execFunion (f : Fields) (s : State) : Host.Outcome State Fault Refusal :=
  runLanes (laneBoth f (sendCommand (.funion f) f none)) s
/-- GATH: its fill value is taken from K (R351). -/
def execGath (f : Fields) (s : State) : Host.Outcome State Fault Refusal :=
  runLanes (laneBoth f (sendCommand (.gath f) f (some 8))) s
/-- FEMIT: its control word is taken from K (R352). -/
def execFemit (f : Fields) (s : State) : Host.Outcome State Fault Refusal :=
  runLanes (laneBoth f (sendCommand (.femit f) f (some 9))) s

/-! ### Maps, segments and elements (R332, R333) -/

/-- A SPARSE fault with its subcode (R331). -/
def sparseInfo (n : Nat) : FaultInfo := { kind := 0x1F, fks := n }

/-- A SPARSE fault under a condition. -/
def sparseIf (b : Bool) (n : Nat) : Option FaultInfo := if b then some (sparseInfo n) else none

/-- A coordinate format (R332). -/
def isCoord (t : Ty) : Bool := t == .i32 || t == .n32 || t == .i64 || t == .n64

/-- A value format (R332). -/
def isValueFmt (t : Ty) : Bool := t != .ln

/-- A map that a sparse operation cannot use (R332). -/
def badMap (s : State) (q : Req) (d : BitVec 512) (okTy : Ty → Bool) : Option FaultInfo :=
  let p := mapBase d
  let base := winOf p == 0 || winOf p == 3 || (winOf p == 1 && ptrValid (reqCtx s q) 0 p && muNamed q.c.u p == q.mu)
  sparseIf (!mapV d || mapBk d != 0 || !okTy (mapTy d) || !base) 4

/-- The first element and the length of a segment (R333). -/
def segOf (v : Word) : Nat × Nat := (nbits v.toNat 0 32, nbits v.toNat 32 32 - nbits v.toNat 0 32)

/-- A segment that a map of `d0` elements does not have (R333). -/
def badSeg (v : Word) (d0 : Nat) : Option FaultInfo :=
  let a := nbits v.toNat 0 32
  let e := nbits v.toNat 32 32
  sparseIf (a > e || e > d0 || e - a > 65535) 5

/-- The check of a map's base alone (R163, R165, R331): the pointer is valid, and a capability names a live allocation. -/
def baseFault (s : State) (q : Req) (d : BitVec 512) : Option FaultInfo :=
  let p := mapBase d
  if !mapV d then none
  else if winOf p == 3 then (match capLive s q.mu p with | .error e => some e | .ok _ => none)
  else if ptrValid (reqCtx s q) (2 ^ 20) p then none
  else some { kind := 0x07, va := p }

/-- The address checks on elements `[a, a + n)` of a map (R165, R331), which come before every SPARSE fault; a base in window 10 or in another MU
is one of those (R332). An entry with V = 0 names no address. -/
def elemFault (s : State) (q : Req) (d : BitVec 512) (a n : Nat) (wr : Bool) : Option FaultInfo :=
  let w := tyW (mapTy d)
  if n == 0 || !mapV d then baseFault s q d
  else match movePtr (mapBase d) (a * w / 8 : Nat) with
  | none => some { kind := 0x07, va := mapBase d }
  | some p =>
    let m := ((a + n) * w + 7) / 8 - a * w / 8
    if winOf p == 2 then (windowFault (reqCtx s q) (2 ^ 20) [2] p m).map fun k => { kind := k, va := p }
    else addrFault s q true wins0113 p m 1 wr

/-- The line of a byte as the phase buffer names it. -/
def lineKey (s : State) (q : Req) (p : Word) : Word :=
  match winOf p with
  | 0 => lineVa (nbits p.toNat 0 57)
  | 3 => (match capDeref s q.mu p 1 false with | .ok va => lineVa va | .error _ => 0)
  | _ => p &&& ~~~63

/-- The address of a byte within its line. -/
def lineByte (s : State) (q : Req) (p : Word) : Nat :=
  match winOf p with
  | 3 => (match capDeref s q.mu p 1 false with | .ok va => va % 64 | .error _ => 0)
  | _ => p.toNat % 64

/-- A byte as an engine sees it by R173: the command's own buffered stores over memory. -/
def seenByte (s : State) (q : Req) (p : Word) (loc : Nat) : Byte :=
  match ownByte s q.mu q.c (lineKey s q p) (lineByte s q p) with
  | some b => b
  | none => engByte s loc

/-- Bytes at given pointers as an engine sees them by R173, under a map's line-tag policy; the flag says that the read is
uncorrectable. -/
def seenRead (g : Eng) (d : BitVec 512) (ps : List (Option Word)) (s : State) : EngRes (List Byte × Bool) :=
  let base := (ps.headD none).getD 0
  match engLocs g .read base none ps s with
  | .fault e => .fault e
  | .waits s => .waits s
  | .ok ls s =>
    let tags := (ps.zip ls).map fun e => (ownTag s g.q.mu g.q.c (lineKey s g.q (e.1.getD 0))).getD (engTag s e.2)
    match (if mapChecks d then tags.find? fun t => (t.extractLsb' 0 8).toNat != mapLine d else none) with
    | some t => .fault { kind := 0x17, fks := (t.extractLsb' 0 8).toNat, va := base }
    | none =>
      let bs := (ps.zip ls).map fun e => seenByte s g.q (e.1.getD 0) e.2
      .ok (bs, ls.any (readFails s)) (readFire s ls)

/-- The bits of element `e` of a sparse map (R332); an uncorrectable read is recorded against the command's colour. -/
def readElem (g : Eng) (d : BitVec 512) (e : Nat) (s : State) : EngRes Nat :=
  match seenRead g d (elemPtrs d e) s with
  | .fault e => .fault e
  | .waits s => .waits s
  | .ok r s => .ok (elemBits d e r.1) (if r.2 then trapErr s g.q.mu (fcol g.q.c) 0x12 else s)

/-- Coordinates compared in their type's order (R332). -/
def coordLt (t : Ty) (a b : Nat) : Bool := intOf t (BitVec.ofNat 64 a) < intOf t (BitVec.ofNat 64 b)

/-! ### Bin sets (R336 to R341) -/

/-- The key of a bin set. -/
def binKey (m : UId) (n : Nat) : Nat := uKey m * 4 + n

/-- A bin set; none while FREE. -/
def binAt (s : State) (m : UId) (n : Nat) : Option BinSet := fget none s.cp.bins (binKey m n)

/-- Writes a bin set. -/
def setBin (s : State) (m : UId) (n : Nat) (b : Option BinSet) : State :=
  { s with cp := { s.cp with bins := fset none s.cp.bins (binKey m n) b } }

/-- `BLEN`. -/
def binLen (c : Word) : Nat := nbits c.toNat 0 32
/-- `BTY`. -/
def binTy (c : Word) : Ty := tyOf (BitVec.ofNat 4 (nbits c.toNat 32 4))
/-- `BOP`. -/
def binOp (c : Word) : Nat := nbits c.toNat 36 3
/-- Elements of a region. -/
def binRegion (c : Word) : Nat := 2 ^ (nbits c.toNat 39 4 + 6)
/-- The offset of the region buffer. -/
def binBuf (c : Word) : Nat := 128 * nbits c.toNat 43 13
/-- The number of regions. -/
def binRegions (c : Word) : Nat := (binLen c + binRegion c - 1) / binRegion c
/-- Blocks of the region table. -/
def binTable (c : Word) : Nat := (16 * binRegions c + 4095) / 4096

/-- A type that a bin set may have (R336). -/
def binTyOk (t : Ty) : Bool :=
  t == .i32 || t == .n32 || t == .i64 || t == .n64 || t == .bf16 || t == .f32 || t == .f64

/-- A bin control word and area size that R337 refuses. -/
def badBin (s : State) (q : Req) (c cw : Word) : Bool :=
  let n := binLen c
  let t := binTy c
  let b := tyBytes t
  let fl := t == .bf16 || t == .f32 || t == .f64
  nbits c.toNat 56 8 != 0 || !binTyOk t || binOp c > 4 || (binOp c == 4 && fl) || nbits c.toNat 39 4 > 8
    || n == 0 || n > 2 ^ 31 - 1 || n * b > 2 ^ 31 - 1 || binBuf c + binRegion c * b > 2 ^ 20
    || binRegions c > 4096 || cwLen cw < 1 + binTable c || (cwFault s q cw true false).isSome

/-- The status word of a set (R340). -/
def binStatus (b : Option BinSet) : Word :=
  match b with
  | none => 0
  | some b => BitVec.ofNat 64 (b.app + 2 ^ 32 * b.drp + 2 ^ 62 * (if b.st == .opened then 1 else 2))

/-- The set that a bin instruction names. -/
def binSetOf (q : Req) : Nat := fld (reqFields q) 6 2

/-- Writes through an engine, dropped in the twin outside its paddock (R182, R471). -/
def engWrite (m : UId) (loc : Nat) (bs : List Byte) (s : State) : State :=
  engPut m ((List.range bs.length).map fun k => (loc + k, bs.getD k 0)) s

/-- An empty region table entry (R338): HEADB says that the bin is empty, and TAILB is then left open. -/
def emptyEntry (s : State) : List Byte := leBytes 0xFFFFFFFF 4 ++ leBytes (Config.freeWord s.fresh).toNat 4 ++ leBytes 0 8

/-- Writes the region table empty (R339); the page that fails gives the fault. -/
def writeTable (g : Eng) (area : Word) : List Nat → State → EngRes Unit
  | [], s => .ok () s
  | k :: ks, s =>
    match movePtr area (16 * k : Nat) with
    | none => .fault { kind := 0x07, va := area }
    | some p =>
      match engLoc g .write none p s with
      | .fault e => .fault e
      | .waits s => .waits s
      | .ok (a, _) t => writeTable g area ks { engWrite g.q.mu a (emptyEntry t) t with fresh := t.fresh + 1 }

/-- A request is put back at the front of its port to be tried again. -/
def putBack (q : Req) (s : State) : State := { s with mu := { s.mu with reqs := q :: s.mu.reqs } }

/-- A request as an engine of its MU. -/
def reqEng (q : Req) : Eng := { q := q, cid := 0 }

/-- BIN.OPEN at the home MU (R336, R337, R339): the faults of its addresses, those of the table's translation among them, come before SPARSE
(R331). -/
def performBinOpen (q : Req) (s : State) : State :=
  let n := binSetOf q
  let c := reqK q 1
  let cw := reqK q 3
  let b := if binTyOk (binTy c) then tyBytes (binTy c) else 1
  match firstFault
      [addrFault s q false [0, 3] (reqK q 0) (max 1 (binLen c * b)) b true,
       addrFault s q false [0, 3] (reqK q 2) (max 1 (4096 * cwLen cw)) 4096 true] with
  | some e => raise q.c e s
  | none =>
    match writeTable (reqEng q) (reqK q 2) (List.range (min (binRegions c) (256 * cwLen cw))) s with
    | .fault e => raise q.c e s
    | .waits t => putBack q t
    | .ok _ t =>
      match firstFault [sparseIf (binAt s q.mu n).isSome 1, sparseIf (badBin s q c cw) 2] with
      | some e => raise q.c e s
      | none =>
      let t := setBin t q.mu n (some { st := .opened, dest := reqK q 0, ctl := c, area := reqK q 2, cw := cw, app := 0, drp := 0,
                                       blocks := cwLen cw, used := binTable c, region := none, play := none })
      reply q 0 (reqCommit q (charge t q.c.u 7 1))

/-- The set is OPEN. -/
def binOpenNow (s : State) (m : UId) (n : Nat) : Bool :=
  match binAt s m n with | some b => b.st == .opened | none => false

/-- BIN.PUT at the home MU: it waits for the engine to take its update (R341, R348). -/
def performBinPut (q : Req) (s : State) : State :=
  if !binOpenNow s q.mu (binSetOf q) then raise q.c (sparseInfo 1) s
  else
    let s := reqCommit q (charge s q.c.u 7 1)
    { s with cp := { s.cp with puts := s.cp.puts ++ [{ req := q, set := binSetOf q, maps := [], pos := 0, app := 0, drp := 0 }] } }

/-- BIN.PUT.MAP at the home MU (R348): its maps and segment are checked, and its updates wait for the engine. -/
def performBinPutMap (q : Req) (s : State) : State :=
  let f := reqFields q
  let ix := tmapOf s q.c.u (fld f 8 4)
  let vm := tmapOf s q.c.u (fld f 12 4)
  let sg := segOf q.c.l.val
  let ty := ((binAt s q.mu (binSetOf q)).map fun b => binTy b.ctl).getD .ln
  match firstFault
      [elemFault s q ix sg.1 sg.2 false, elemFault s q vm sg.1 sg.2 false,
       sparseIf (!binOpenNow s q.mu (binSetOf q)) 1, badMap s q ix isCoord, badMap s q vm (fun t => t == ty),
       badSeg q.c.l.val (mapD ix 0), badSeg q.c.l.val (mapD vm 0)] with
  | some e => raise q.c e s
  | none =>
    let s := reqCommit q (charge s q.c.u 7 1)
    { s with cp := { s.cp with puts := s.cp.puts ++
        [{ req := q, set := binSetOf q, maps := [ix, vm], pos := 0, app := 0, drp := 0 }] } }

/-- Raises a count that stops at a limit. -/
def countTo (lim n : Nat) : Nat := min lim (n + 1)

/-- The location of a block's first byte. -/
def blockLoc (g : Eng) (area : Word) (blk : Nat) (s : State) : EngRes Nat :=
  match movePtr area (4096 * blk : Nat) with
  | none => .fault { kind := 0x07, va := area }
  | some p =>
    match engLoc g .write none p s with
    | .fault e => .fault e
    | .waits s => .waits s
    | .ok (a, _) s => .ok a s

/-- The location of a region's table entry. -/
def entryLoc (g : Eng) (area : Word) (k : Nat) (s : State) : EngRes Nat :=
  match blockLoc g area (16 * k / 4096) s with
  | .ok a s => .ok (a + 16 * k % 4096) s
  | r => r

/-- Writes update number `n` of a block and counts it in NUSE; four updates stand in one line (R406, log entry 39). -/
def writeUpdate (m : UId) (blk n idx : Nat) (v : List Byte) (s : State) : State :=
  let s := if n % 4 == 0 then charge s m 8 1 else s
  engWrite m (blk + 4084) (leBytes (n + 1) 2) (engWrite m (blk + 16 * n) (leBytes idx 8 ++ v ++ leBytes 0 (8 - v.length)) s)

/-- A fresh block: no next block, no update; its last line and the line of its region's table entry are written (R406). -/
def freshBlock (m : UId) (blk : Nat) (s : State) : State :=
  let s := charge s m 8 2
  engWrite m (blk + 4080) (leBytes 0xFFFFFFFF 4 ++ leBytes 0 12) s

/-- Appends one update to the bin of its region (R338, R341). -/
def appendUpdate (g : Eng) (n : Nat) (b : BinSet) (idx : Nat) (v : List Byte) (s : State) : EngRes Unit :=
  let m := g.q.mu
  match entryLoc g b.area (idx / binRegion b.ctl) s with
  | .fault e => .fault e
  | .waits s => .waits s
  | .ok ent s =>
    let head := rdN s ent 4
    let tail := rdN s (ent + 4) 4
    let newBlock (prev : Option Nat) (s : State) : EngRes Unit :=
      if b.used ≥ b.blocks then .fault (sparseInfo 3)
      else match blockLoc g b.area b.used s with
      | .fault e => .fault e
      | .waits s => .waits s
      | .ok blk s =>
        let s := writeUpdate m blk 0 idx v (freshBlock m blk s)
        let s := match prev with | some p => engWrite m (p + 4080) (leBytes b.used 4) s | none => s
        let s := engWrite m ent (leBytes (if prev.isNone then b.used else head) 4 ++ leBytes b.used 4 ++ leBytes 0 8) s
        .ok () (setBin s m n (some { b with used := b.used + 1, app := countTo (2 ^ 32 - 1) b.app }))
    if head == 0xFFFFFFFF then newBlock none s
    else match blockLoc g b.area tail s with
    | .fault e => .fault e
    | .waits s => .waits s
    | .ok blk s =>
      let nuse := rdN s (blk + 4084) 2
      if nuse ≥ 255 then newBlock (some blk) s
      else .ok () (setBin (writeUpdate m blk nuse idx v s) m n (some { b with app := countTo (2 ^ 32 - 1) b.app }))

/-- An element read is charged when it is the first of its run or begins a line (R406). -/
def chargeRead (m : UId) (d : BitVec 512) (first e : Nat) (s : State) : State :=
  if e == first || ((mapBase d).toNat + e * tyW (mapTy d) / 8) % 64 < max 1 (tyBytes (mapTy d)) then charge s m 8 1 else s

/-- The next update of a put: its index and the bytes of its value. -/
def putUpdate (u : BinPut) (t : Ty) (s : State) : EngRes (Int × List Byte) :=
  let g := reqEng u.req
  match u.maps with
  | [ix, vm] =>
    let first := (segOf u.req.c.l.val).1
    let j := first + u.pos
    let s := chargeRead g.q.mu ix first j (chargeRead g.q.mu vm first j s)
    (match readElem g ix j s with
     | .fault e => .fault e
     | .waits s => .waits s
     | .ok a s =>
       match readElem g vm j s with
       | .fault e => .fault e
       | .waits s => .waits s
       | .ok v s => .ok (intOf (mapTy ix) (BitVec.ofNat 64 a), leBytes v (tyBytes t)) s)
  | _ => .ok (u.req.c.l.val.toInt, leBytes (reqK u.req 0).toNat (tyBytes t)) s

/-- A put with nothing left to append is answered and leaves the engine (R348). -/
def finishPut (u : BinPut) (s : State) : State :=
  let s := { s with cp := { s.cp with puts := s.cp.puts.erase u } }
  if u.maps.isEmpty then reply u.req (BitVec.ofNat 64 u.drp) s
  else reply2 u.req (BitVec.ofNat 64 u.app) (BitVec.ofNat 64 u.drp) s

/-- A put after one of its updates. -/
def advancePut (u u' : BinPut) (s : State) : State :=
  if u'.maps.isEmpty || u'.pos ≥ (segOf u.req.c.l.val).2 then finishPut u' { s with cp := { s.cp with puts := u' :: s.cp.puts.erase u } }
  else { s with cp := { s.cp with puts := s.cp.puts.map fun v => if v == u then u' else v } }

/-- A put that faults (R341): a token put is a station's firing, which the marker holds; a map put keeps its position. -/
def putFault (u : BinPut) (e : FaultInfo) (s : State) : State :=
  if u.maps.isEmpty then raise u.req.c e { s with cp := { s.cp with puts := s.cp.puts.erase u } }
  else raiseEngine u.req.c 0 e s

/-- The engine takes one update of a put (R341). -/
def takeUpdate (u : BinPut) (s : State) : State :=
  match binAt s u.req.mu u.set with
  | none => putFault u (sparseInfo 1) s
  | some b =>
    if !u.maps.isEmpty && u.pos ≥ (segOf u.req.c.l.val).2 then finishPut u s
    else match putUpdate u (binTy b.ctl) s with
    | .fault e => putFault u e s
    | .waits t => t
    | .ok (i, v) t =>
      if i < 0 || i ≥ binLen b.ctl then
        advancePut u { u with pos := u.pos + 1, drp := u.drp + 1 }
          (setBin t u.req.mu u.set (some { b with drp := countTo (2 ^ 30 - 1) b.drp }))
      else match appendUpdate (reqEng u.req) u.set b i.toNat v t with
      | .fault e => putFault u e t
      | .waits t => t
      | .ok _ t => advancePut u { u with pos := u.pos + 1, app := u.app + 1 } t

/-- The engine of an MU takes the next update of put number `n`. -/
def bodyBinUpdateAppend (m : UId) (n : Nat) (s : State) : State :=
  match (s.cp.puts.filter fun u => u.req.mu == m)[n]? with
  | none => s
  | some u => if isRunning (ctxOf s m.ctx) && (u.maps.isEmpty || engineRuns (ctxOf s m.ctx)) then takeUpdate u s else s

/-- BIN_UPDATE_APPEND. -/
def execBinUpdateAppend (m : UId) (n : Nat) (s : State) : Host.Outcome State Fault Refusal := done s (bodyBinUpdateAppend m n s)

/-! ### Replay (R342) -/

/-- BIN.PLAY at the home MU. -/
def performBinPlay (q : Req) (s : State) : State :=
  match binAt s q.mu (binSetOf q) with
  | some b =>
    if b.st != .opened then raise q.c (sparseInfo 1) s
    else
      let s := reqCommit q (charge s q.c.u 7 1)
      reply q (binStatus (some b)) (setBin s q.mu (binSetOf q) (some { b with st := .playing, region := none, play := some q.c }))
  | none => raise q.c (sparseInfo 1) s

/-- BIN.CLOSE at the home MU. -/
def performBinClose (q : Req) (s : State) : State :=
  match binAt s q.mu (binSetOf q) with
  | some b =>
    if b.st != .opened then raise q.c (sparseInfo 1) s
    else reply q (binStatus (some b)) (setBin (reqCommit q (charge s q.c.u 7 1)) q.mu (binSetOf q) none)
  | none => raise q.c (sparseInfo 1) s

/-- A replay begins once no put of its set is left (R342). -/
def bodyBinReplayStart (m : UId) (n : Nat) (s : State) : State :=
  match binAt s m n with
  | none => s
  | some b =>
    if b.st != .playing || b.region.isSome || (s.cp.puts.any fun u => u.req.mu == m && u.set == n) || !engineRuns (ctxOf s m.ctx) then s
    else setBin s m n (some { b with region := some 0 })

/-- BIN_REPLAY_START. -/
def execBinReplayStart (m : UId) (n : Nat) (s : State) : Host.Outcome State Fault Refusal := done s (bodyBinReplayStart m n s)

/-- One update of an element (R342). -/
def binUpdate (op : Nat) (t : Ty) (d u : Nat) : Nat :=
  let x := intOf t (BitVec.ofNat 64 d)
  let y := intOf t (BitVec.ofNat 64 u)
  let fl := (fmtOf t).isSome
  match op with
  | 0 => if fl then rnd (fmtD t) .rne false 0 (Ex.add false (decodeF (fmtD t) d) (decodeF (fmtD t) u)) else (d + u) % 2 ^ tyW t
  | 1 => if fl then fMinMax t false false d u else if y < x then u else d
  | 2 => if fl then fMinMax t true false d u else if y > x then u else d
  | 3 => u
  | _ => d ||| u

/-- The updates of a bin in append order: from a block on, along its chain. -/
def binChain (g : Eng) (area : Word) : Nat → Nat → State → EngRes (List (Nat × Nat))
  | 0, _, s => .ok [] s
  | fuel + 1, blk, s =>
    if blk == 0xFFFFFFFF then .ok [] s
    else match blockLoc g area blk s with
    | .fault e => .fault e
    | .waits s => .waits s
    | .ok a s =>
      let s := noteReads g.q.mu (fcol g.q.c) [a] s
      let us := (List.range (rdN s (a + 4084) 2)).map fun j => (rdN s (a + 16 * j) 8, rdN s (a + 16 * j + 8) 8)
      match binChain g area fuel (rdN s (a + 4080) 4) s with
      | .ok r s => .ok (us ++ r) s
      | r => r

/-- The buffer's element at an offset of the region. -/
def bufElem (m : UId) (buf b k : Nat) (s : State) : Nat :=
  leNat ((List.range b).map fun j => engByte s (locUnit m (buf + k * b + j)))

/-- Applies a bin's updates to the region buffer in append order. -/
def applyBin (m : UId) (c : Word) (first : Nat) (us : List (Nat × Nat)) (s : State) : State :=
  let b := tyBytes (binTy c)
  us.foldl (fun s u =>
    let k := u.1 - first
    let v := binUpdate (binOp c) (binTy c) (bufElem m (binBuf c) b k s) (u.2 % 2 ^ tyW (binTy c))
    engWrite m (locUnit m (binBuf c + k * b)) (leBytes v b) s) s

/-- Replays the bin that starts at block `head` for region `k` (R342): read, apply, write the touched lines back; only those need
leave to write. -/
def replayRegion (g : Eng) (n : Nat) (b : BinSet) (k head : Nat) (s : State) : State :=
  let m := g.q.mu
  let c := b.ctl
  let w := tyBytes (binTy c)
  let first := k * binRegion c
  let len := (min (binRegion c) (binLen c - first)) * w
  let ps := (List.range len).map fun j => movePtr b.dest (first * w + j : Nat)
  let stop (e : FaultInfo) : State := raiseEngine g.q.c 0 e s
  match binChain g b.area (b.used + 1) head s with
  | .fault e => stop e
  | .waits t => t
  | .ok us t =>
    match engLocs g .read b.dest none ps t with
    | .fault e => stop e
    | .waits t => t
    | .ok ls t =>
      let hit (loc : Nat) : Bool := us.any fun u =>
        ((List.range w).any fun j => (ls.getD ((u.1 - first) * w + j) 0) / 64 == loc / 64)
      match engLocs g .write b.dest none (((ps.zip ls).filter fun e => hit e.2).map fun e => e.1) t with
      | .fault e => stop e
      | .waits t => t
      | .ok _ t =>
        let old := (ps.zip ls).map fun e => seenByte t g.q (e.1.getD 0) e.2
        let t := applyBin m c first us (engWrite m (locUnit m (binBuf c)) old (noteReads m (fcol g.q.c) ls t))
        let ws := (List.range len).filterMap fun j =>
          if hit (ls.getD j 0) then some (ls.getD j 0, engByte t (locUnit m (binBuf c + j))) else none
        let t := charge (engPut m ws t) m 8 ((len + 63) / 64 + (ws.length + 63) / 64)
        setBin t m n (some { b with region := some (k + 1) })

/-- The next region at or after `k` whose bin is not empty, with its first block; the number of regions where there is none. -/
def nextRegion (g : Eng) (b : BinSet) : Nat → Nat → State → EngRes (Nat × Nat)
  | 0, k, s => .ok (k, 0) s
  | fuel + 1, k, s =>
    match entryLoc g b.area k s with
    | .fault e => .fault e
    | .waits s => .waits s
    | .ok a s => if rdN s a 4 == 0xFFFFFFFF then nextRegion g b fuel (k + 1) s else .ok (k, rdN s a 4) s

/-- The engine that replays a set. -/
def playEng (m : UId) (n : Nat) (F : Ready) (cw : Word) : Eng :=
  { q := { mu := m, i := .binPlay { unpack 0 with imm := BitVec.ofNat 20 (64 * n) }, c := F, k := [0, cw], iseq := 0 }, cid := 0 }

/-- The replay of a set goes on with its next region that has updates (R342). -/
def bodyBinReplayRegion (m : UId) (n : Nat) (s : State) : State :=
  match binAt s m n with
  | none => s
  | some b =>
    match b.play, b.region with
    | some F, some k =>
      if !engineRuns (ctxOf s m.ctx) || k ≥ binRegions b.ctl then s
      else
        let g := playEng m n F b.cw
        (match nextRegion g b (binRegions b.ctl - k) k s with
         | .fault e => raiseEngine F 0 e s
         | .waits t => t
         | .ok (j, head) t =>
           if j ≥ binRegions b.ctl then setBin t m n (some { b with region := some j }) else replayRegion g n b j head t)
    | _, _ => s

/-- BIN_REPLAY_REGION. -/
def execBinReplayRegion (m : UId) (n : Nat) (s : State) : Host.Outcome State Fault Refusal := done s (bodyBinReplayRegion m n s)

/-- An id that no copy has (R236): a replay's credit belongs to no copy. -/
def noCopy : Nat := 2 ^ 48

/-- A replay past its last region ends (R339, R342): bins empty, blocks free, the credit sent. -/
def bodyBinReplayEnd (m : UId) (n : Nat) (s : State) : State :=
  match binAt s m n with
  | none => s
  | some b =>
    match b.play, b.region with
    | some F, some k =>
      if !engineRuns (ctxOf s m.ctx) || k < binRegions b.ctl then s
      else
        (match writeTable (playEng m n F b.cw) b.area (List.range (binRegions b.ctl)) s with
         | .fault e => raiseEngine F 0 e s
         | .waits t => t
         | .ok _ t =>
           let t := sendCredit t m noCopy b.cw (binLen b.ctl * tyBytes (binTy b.ctl))
           setBin t m n (some { b with st := .opened, app := 0, drp := 0, used := binTable b.ctl, region := none, play := none }))
    | _, _ => s

/-- BIN_REPLAY_END. -/
def execBinReplayEnd (m : UId) (n : Nat) (s : State) : Host.Outcome State Fault Refusal := done s (bodyBinReplayEnd m n s)

/-! ### MPATH (R345) -/

/-- An element of the row-pointer map as an integer. -/
def rpAt (q : Req) (d : BitVec 512) (k : Nat) (s : State) : EngRes Int :=
  match readElem (reqEng q) d k s with
  | .ok b s => .ok (intOf (mapTy d) (BitVec.ofNat 64 b)) s
  | .fault e => .fault e
  | .waits s => .waits s

/-- The search of R345. -/
def mpathSearch (q : Req) (d : BitVec 512) (r0 dia : Int) : Nat → Nat → Nat → State → EngRes Nat
  | 0, lo, _, s => .ok lo s
  | fuel + 1, lo, hi, s =>
    if lo ≥ hi then .ok lo s
    else
      let mid := (lo + hi) / 2
      match rpAt q d (mid + 1) s with
      | .fault e => .fault e
      | .waits s => .waits s
      | .ok r s => if (mid : Int) + 1 + r - r0 ≤ dia then mpathSearch q d r0 dia fuel (mid + 1) hi s
                   else mpathSearch q d r0 dia fuel lo mid s

/-- MPATH once rp's first and last entries are read: the row and the non-zero of part q. -/
def mpathResult (q : Req) (d : BitVec 512) (r0 rm : Int) (s : State) : EngRes (Nat × Nat) :=
  let m := mapD d 0 - 1
  let part := nbits q.c.l.val.toNat 0 32
  let parts := nbits q.c.l.val.toNat 32 32
  if rm < r0 then .fault (sparseInfo 6)
  else if parts == 0 || part > parts then .fault (sparseInfo 5)
  else
    let z := (rm - r0).toNat
    let t := m + z
    let dia := min (part * ((t + parts - 1) / parts)) t
    match mpathSearch q d r0 dia 64 (dia - z) (min dia m) s with
    | .fault e => .fault e
    | .waits s => .waits s
    | .ok lo s => .ok (lo, dia - lo) s

/-- A fault of MPATH: a line that a CHECK policy refuses freezes the paddock as an engine's fault (R332), and the firing issues again after it;
any other is the station's. -/
def mpathFault (q : Req) (e : FaultInfo) (s : State) : State :=
  if e.kind == 0x17 then raiseEngine q.c 0 e (returnReady s q.c) else raise q.c e s

/-- MPATH at the home MU: the faults of its addresses, the translation of its first and last elements among them, come before SPARSE (R331),
and the line-tag check of a read comes after it (R332). -/
def performMpath (q : Req) (s : State) : State :=
  let d := tmapOf s q.c.u (fld (reqFields q) 0 4)
  let fin (r : EngRes (Nat × Nat)) : State :=
    match r with
    | .fault e => mpathFault q e s
    | .waits t => putBack q t
    | .ok v t => reply2 q (BitVec.ofNat 64 v.1) (BitVec.ofNat 64 v.2) (charge t q.c.u 7 1)
  let ends := if !mapV d || mapD d 0 == 0 || winOf (mapBase d) == 2 then [] else elemPtrs d 0 ++ elemPtrs d (mapD d 0 - 1)
  match elemFault s q d 0 (mapD d 0) false with
  | some e => raise q.c e s
  | none =>
    match engLocs (reqEng q) .read (mapBase d) none ends s with
    | .fault e => raise q.c e s
    | .waits t => putBack q t
    | .ok _ t =>
      match firstFault [badMap s q d isCoord, sparseIf (mapD d 0 < 2) 5] with
      | some e => raise q.c e s
      | none =>
        match rpAt q d 0 t with
        | .fault e => mpathFault q e s
        | .waits t => putBack q t
        | .ok r0 t =>
          match rpAt q d (mapD d 0 - 1) t with
          | .fault e => mpathFault q e s
          | .waits t => putBack q t
          | .ok rm t => fin (mpathResult q d r0 rm t)

/-! ### Fibre units at acceptance (R335, R349 to R352) -/

/-- A map of the issuing CU named by four bits of IMM. -/
def cmdMap (s : State) (q : Req) (lo : Nat) : BitVec 512 := tmapOf s q.c.u (fld (reqFields q) lo 4)

/-- A fibre unit's copy: its maps, segments, and in `aux` the second segment's position, length and start, the first's start, the
last coordinates read (plus one), and a count. -/
def fibreCopy (s : State) (q : Req) (ms : List (BitVec 512)) (a b : Nat × Nat) : Copy :=
  { newCopy s q with maps := ms, n := a.2, aux := [0, b.2, b.1, a.1, 0, 0, 0] }

/-- FSCAN at acceptance (R349): with TB discarded it streams coordinates alone. -/
def acceptFscan (q : Req) (s : State) : Except FaultInfo Copy :=
  let f := reqFields q
  let cm := cmdMap s q 0
  let vm := cmdMap s q 4
  let v := q.c.l.val
  let sg := segOf v
  let two := tgtPos f.tb != 3
  checked [elemFault s q cm sg.1 sg.2 false, if two then elemFault s q vm sg.1 sg.2 false else none,
           badMap s q cm isCoord, if two then badMap s q vm isValueFmt else none, badSeg v (mapD cm 0),
           if two then badSeg v (mapD vm 0) else none]
    (fibreCopy s q [cm, vm] sg (0, 0))

/-- FISECT and FUNION at acceptance (R350). -/
def acceptMerge (q : Req) (s : State) : Except FaultInfo Copy :=
  let f := reqFields q
  let vals := f.fn == 0
  let ca := cmdMap s q 0
  let cb := cmdMap s q 4
  let va := cmdMap s q 8
  let vb := cmdMap s q 12
  let a := segOf q.c.l.val
  let b := segOf (reqK q 0)
  let ifv (c : Option FaultInfo) : Option FaultInfo := if vals then c else none
  checked [elemFault s q ca a.1 a.2 false, elemFault s q cb b.1 b.2 false,
           ifv (elemFault s q va a.1 a.2 false), ifv (elemFault s q vb b.1 b.2 false),
           badMap s q ca isCoord, badMap s q cb isCoord, ifv (badMap s q va isValueFmt), ifv (badMap s q vb isValueFmt),
           sparseIf (mapTy ca != mapTy cb) 4, ifv (sparseIf (mapTy va != mapTy vb) 4),
           badSeg q.c.l.val (mapD ca 0), badSeg (reqK q 0) (mapD cb 0), ifv (badSeg q.c.l.val (mapD va 0)),
           ifv (badSeg (reqK q 0) (mapD vb 0))]
    (fibreCopy s q [ca, cb, va, vb] a b)

/-- GATH at acceptance (R351). -/
def acceptGath (q : Req) (s : State) : Except FaultInfo Copy :=
  let ix := cmdMap s q 0
  let tm := cmdMap s q 4
  let sg := segOf q.c.l.val
  checked [elemFault s q ix sg.1 sg.2 false, baseFault s q tm, badMap s q ix isCoord, badMap s q tm isValueFmt, badSeg q.c.l.val (mapD ix 0)]
    (fibreCopy s q [ix, tm] sg (0, 0))

/-- FEMIT at acceptance (R352): `aux` holds the start index, the number written, the number dropped, and n plus one once known. -/
def acceptFemit (q : Req) (s : State) : Except FaultInfo Copy :=
  let cm := cmdMap s q 0
  let vm := cmdMap s q 4
  checked [baseFault s q cm, baseFault s q vm, cwFault s q (reqK q 1) false false, badMap s q cm isCoord, badMap s q vm isValueFmt]
    { newCopy s q with maps := [cm, vm], aux := [q.c.l.val.toNat, 0, 0, 0] }

/-- What a fibre unit keeps in slot `k`. -/
def auxAt (p : Copy) (k : Nat) : Nat := p.aux.getD k 0

/-- FISECT.VAL and FUNION.VAL stream values as well (R350). -/
def wantsValues : Instr → Bool
  | .fisect f => f.fn == 0
  | .funion f => f.fn == 0
  | _ => false

/-- The bytes of elements `[a, a + n)` of a map, as a source range (R172). -/
def elemRange (d : BitVec 512) (a n : Nat) : List (Word × Nat) :=
  let w := tyW (mapTy d)
  if n == 0 then []
  else match movePtr (mapBase d) (a * w / 8 : Nat) with
  | some p => [(p, ((a + n) * w + 7) / 8 - a * w / 8)]
  | none => []

/-- The source range of a fibre unit (R172, log entry 100): the segments of the maps that it streams, for GATH those of its indices and the
whole table. An emitter reads no memory. -/
def fibreRanges (i : Instr) (p : Copy) : List (Word × Nat) :=
  let a := auxAt p 3
  match i, p.maps with
  | .fscan f, [cm, vm] => elemRange cm a p.n ++ (if tgtPos f.tb != 3 then elemRange vm a p.n else [])
  | .gath _, [ix, tm] => elemRange ix a p.n ++ elemRange tm 0 (mapD tm 0)
  | _, [ca, cb, va, vb] =>
    let b := auxAt p 2
    let m := auxAt p 1
    elemRange ca a p.n ++ elemRange cb b m ++ (if wantsValues i then elemRange va a p.n ++ elemRange vb b m else [])
  | _, _ => []

/-- A fibre unit or emitter is accepted, and its source range commits (R172), or its station faults. Only FEMIT answers nothing yet; the others' tokens are their
fibres. -/
def acceptFibre (q : Req) (r : Except FaultInfo Copy) (s : State) : State :=
  match r with
  | .error e => raise q.c e s
  | .ok p => enterCopy p ((fibreRanges q.i p).foldl (fun s r => commitSource q.c r.1 r.2 s) s)

/-! ### Positions (R349 to R351) -/

/-- A map of a fibre unit. -/
def mapAt (p : Copy) (k : Nat) : BitVec 512 := p.maps.getD k 0

/-- The end-of-fibre value (R334). -/
def eofVal (n : Nat) (ord trc : Bool) : Word := BitVec.ofNat 64 (n + 2 ^ 32 * ord.toNat + 2 ^ 33 * trc.toNat)

/-- A token of a fibre at a position (R334). -/
def fibreTok (p : Copy) (t : BitVec 12) (kind : BitVec 3) (v : Word) (s : State) : State :=
  emitFrom s p.mu p.c.u (fcol p.c) (p.cnt % 65536) t kind v false

/-- A fibre ends: end-of-fibre to both targets, and COMPLETE (R334, R335). -/
def endFibre (p : Copy) (ord trc : Bool) (s : State) : State :=
  let f := (fieldsOf p.i).getD (unpack 0)
  let v := eofVal p.cnt ord trc
  closeStream p (fibreTok p f.tb kEof v (fibreTok p f.ta kEof v s))

/-- What one turn of a fibre unit comes to: go on, or stop with a state. -/
inductive Turn where
  | more (p : Copy) (s : State)
  | halt (s : State)

/-- A fibre unit's element read is charged (R406). -/
def chargeElem (p : Copy) (d : BitVec 512) (first e : Nat) (s : State) : State := chargeRead p.mu d first e s

/-- The rest of a turn once element `e` of a run that began at `first` is read; an uncorrectable read makes the unit FAILED(4) (R335, R238). -/
def withElem (p : Copy) (d : BitVec 512) (first e : Nat) (s : State) (k : Nat → State → Turn) : Turn :=
  match seenRead (copyEng p) d (elemPtrs d e) s with
  | .fault e => .halt (copyFault p e s)
  | .waits s => .halt s
  | .ok r s => if r.2 then .halt (sourceError p [] s) else k (elemBits d e r.1) (chargeElem p d first e s)

/-- A coordinate that is not above its predecessor (R349, R350). -/
def notAbove (t : Ty) (prev b : Nat) : Bool := prev != 0 && !coordLt t (prev - 1) b

/-- Stores a fibre unit's progress. -/
def keepFibre (p : Copy) (s : State) : State :=
  updCopy s p.mu p.id fun q => { q with pos := p.pos, cnt := p.cnt, aux := p.aux }

/-- One turn of FSCAN (R349). -/
def turnFscan (p : Copy) (s : State) : Turn :=
  let f := (fieldsOf p.i).getD (unpack 0)
  if p.pos ≥ p.n then .halt (endFibre p false false s)
  else
    let cm := mapAt p 0
    let vm := mapAt p 1
    withElem p cm (auxAt p 3) (auxAt p 3 + p.pos) s fun c s =>
      if notAbove (mapTy cm) (auxAt p 4) c then .halt (endFibre p true false s)
      else
        let fin (v : Nat) (s : State) : Turn :=
          let s := fibreTok p f.tb kValue (extendTy (mapTy vm) v) (fibreTok p f.ta kValue (extendTy (mapTy cm) c) s)
          .halt (keepFibre { p with pos := p.pos + 1, cnt := p.cnt + 1, aux := p.aux.set 4 (c + 1) } s)
        if tgtPos f.tb == 3 then fin 0 s else withElem p vm (auxAt p 3) (auxAt p 3 + p.pos) s fin

/-- One turn of GATH (R351). -/
def turnGath (p : Copy) (s : State) : Turn :=
  let f := (fieldsOf p.i).getD (unpack 0)
  let ix := mapAt p 0
  let tm := mapAt p 1
  let fin (v : Word) (hit : Nat) (s : State) : Turn :=
    .halt (keepFibre { p with pos := p.pos + 1, cnt := p.cnt + 1, aux := p.aux.set 6 (auxAt p 6 + hit) } (fibreTok p f.ta kValue v s))
  if p.pos ≥ p.n then
    let s := fibreTok p f.ta kEof (eofVal p.cnt false false) s
    .halt (closeStream p (fibreTok p f.tb kValue (BitVec.ofNat 64 (auxAt p 6)) s))
  else
    withElem p ix (auxAt p 3) (auxAt p 3 + p.pos) s fun c s =>
      let i := intOf (mapTy ix) (BitVec.ofNat 64 c)
      if 0 ≤ i && i < mapD tm 0 then withElem p tm i.toNat i.toNat s fun v s => fin (extendTy (mapTy tm) v) 0 s
      else fin (extendTy (mapTy tm) (lowBits (mapTy tm) (p.k.getD 1 0))) 1 s

/-- Which segment the merge takes from (R350). -/
inductive Side where
  | a | b | both
deriving DecidableEq, Repr

/-- The value of a side at a position; all zeros where it is absent (R350). -/
def sideElem (p : Copy) (has : Bool) (d : BitVec 512) (first e : Nat) (s : State) (k : Nat → State → Turn) : Turn :=
  if has then withElem p d first e s k else k 0 s

/-- A merge step that has chosen its side (R350): tokens of the position where one is due, and the advance. -/
def mergeStep (p : Copy) (un_ : Bool) (side : Side) (ca cb : Nat) (s : State) : Turn :=
  let f := (fieldsOf p.i).getD (unpack 0)
  let pb := auxAt p 0
  let inA := side != .b
  let inB := side != .a
  let step (out : Nat) : Copy :=
    { p with pos := p.pos + inA.toNat, cnt := p.cnt + out,
             aux := ((p.aux.set 0 (pb + inB.toNat)).set 4 (if inA then ca + 1 else auxAt p 4)).set 5
               (if inB then cb + 1 else auxAt p 5) }
  if !un_ && side != .both then .more (step 0) (keepFibre (step 0) s)
  else if f.fn == 1 then
    let c := extendTy (mapTy (mapAt p 0)) (if inA then ca else cb)
    let w := BitVec.ofNat 64 ((if inA then p.pos else 0xFFFFFFFF) + 2 ^ 32 * (if inB then pb else 0xFFFFFFFF))
    .halt (keepFibre (step 1) (fibreTok p f.tb kValue w (fibreTok p f.ta kValue c s)))
  else
    sideElem p inA (mapAt p 2) (auxAt p 3) (auxAt p 3 + p.pos) s fun va s =>
      sideElem p inB (mapAt p 3) (auxAt p 2) (auxAt p 2 + pb) s fun vb s =>
        let x := extendTy (mapTy (mapAt p 2)) va
        let y := extendTy (mapTy (mapAt p 3)) vb
        .halt (keepFibre (step 1) (fibreTok p f.tb kValue y (fibreTok p f.ta kValue x s)))

/-- One turn of the merge of R350. -/
def turnMerge (un_ : Bool) (p : Copy) (s : State) : Turn :=
  let pb := auxAt p 0
  let lb := auxAt p 1
  let hasA := p.pos < p.n
  let hasB := pb < lb
  let t := mapTy (mapAt p 0)
  if (if un_ then !hasA && !hasB else !hasA || !hasB) then .halt (endFibre p false false s)
  else
    sideElem p hasA (mapAt p 0) (auxAt p 3) (auxAt p 3 + p.pos) s fun ca s =>
      sideElem p hasB (mapAt p 1) (auxAt p 2) (auxAt p 2 + pb) s fun cb s =>
        if (hasA && notAbove t (auxAt p 4) ca) || (hasB && notAbove t (auxAt p 5) cb) then .halt (endFibre p true false s)
        else if p.cnt == 65535 then .halt (endFibre p false true s)
        else
          let side : Side := if !hasB || (hasA && coordLt t ca cb) then .a else if !hasA || coordLt t cb ca then .b else .both
          mergeStep p un_ side ca cb s

/-- One turn of a fibre unit. -/
def fibreTurn (p : Copy) (s : State) : Turn :=
  match p.i with
  | .fscan _ => turnFscan p s
  | .gath _ => turnGath p s
  | .funion _ => turnMerge true p s
  | .fisect _ => turnMerge false p s
  | _ => .halt s

/-- Turns of a fibre unit until it emits, ends or waits. -/
def fibreTurns : Nat → Copy → State → State
  | 0, _, s => s
  | n + 1, p, s =>
    match fibreTurn p s with
    | .halt s => s
    | .more p s => fibreTurns n p s

/-- A fibre unit emits the tokens of its next position, or its end-of-fibre (R335). -/
def bodyFibrePosition (m : UId) (id : Nat) (s : State) : State :=
  let x := ctxOf s m.ctx
  match copyOf s m id with
  | some p =>
    if isFibre p.i && isMoving p && engineRuns x && x.cst != .draining then fibreTurns (p.n + auxAt p 1 + 2) p s else s
  | none => s

/-- FIBRE_POSITION. -/
def execFibrePosition (m : UId) (id : Nat) (s : State) : Host.Outcome State Fault Refusal := done s (bodyFibrePosition m id s)

/-! ### FEMIT (R352) -/

/-- The bytes of `w` written positions. -/
def femitBytes (p : Copy) (w : Nat) : Nat := (w * (tyW (mapTy (mapAt p 0)) + tyW (mapTy (mapAt p 1))) + 7) / 8

/-- An emitter closes (R352): written and dropped counts, the credit, and COMPLETE. -/
def closeFemit (p : Copy) (s : State) : State :=
  let f := (fieldsOf p.i).getD (unpack 0)
  let s := copyToken p f.tb kReply (BitVec.ofNat 64 (auxAt p 2)) (copyToken p f.ta kReply (BitVec.ofNat 64 (auxAt p 1)) s)
  closeWriter p (femitBytes p (auxAt p 1)) s

/-- Takes the token of a position out of a window. -/
def takeTok (ts : List FibTok) (n : Nat) : Option (FibTok × List FibTok) :=
  (ts.find? fun t => t.itr == n).map fun t => (t, ts.erase t)

/-- Stores an emitter's progress. -/
def keepFemit (p : Copy) (s : State) : State :=
  updCopy s p.mu p.id fun q => { q with pos := p.pos, cnt := p.pos, aux := p.aux, toks := p.toks, toks2 := p.toks2 }

/-- Writes an element of an emitter's map. -/
def emitElem (p : Copy) (d : BitVec 512) (e : Nat) (v : Word) (s : State) : EngRes Unit :=
  match engLocs (copyEng p) .write (mapBase d) none (elemPtrs d e) s with
  | .fault e => .fault e
  | .waits s => .waits s
  | .ok ls s => .ok () (chargeLine p (ls.headD 0) (putElem p.mu d e ls v s))

/-- Whole positions at the base of an emitter's window are written in order (R352). -/
def advanceFemit : Nat → Copy → State → State
  | 0, p, s => keepFemit p s
  | n + 1, p, s =>
    match takeTok p.toks p.pos, takeTok p.toks2 p.pos with
    | some (a, as), some (b, bs) =>
      let p' : Copy := { p with pos := p.pos + 1, toks := as, toks2 := bs }
      let k := auxAt p 0 + auxAt p 1
      if a.kind == kNull || b.kind == kNull then advanceFemit n p' s
      else if k ≥ mapD (mapAt p 0) 0 || k ≥ mapD (mapAt p 1) 0 then
        advanceFemit n { p' with aux := p'.aux.set 2 (auxAt p 2 + 1) } s
      else
        (match emitElem p (mapAt p 0) k a.val s with
         | .fault e => copyFault p e (keepFemit p s)
         | .waits t => keepFemit p t
         | .ok _ t =>
           match emitElem p (mapAt p 1) k b.val t with
           | .fault e => copyFault p e (keepFemit p s)
           | .waits t => keepFemit p t
           | .ok _ t => advanceFemit n { p' with aux := p'.aux.set 1 (auxAt p 1 + 1) } t)
    | _, _ => keepFemit p s

/-- An emitter whose base has reached n closes; tokens left for positions at or beyond n are orphans (R352). -/
def tryCloseFemit (m : UId) (id : Nat) (s : State) : State :=
  match copyOf s m id with
  | none => s
  | some p =>
    if isMoving p && auxAt p 3 != 0 && p.pos + 1 == auxAt p 3 then
      closeFemit p (addOrph s m.ctx (p.toks.length + p.toks2.length))
    else s

/-- A token enters an emitter's window (R352): it is an orphan at a position already done or at n and beyond. -/
def femitTake (p : Copy) (second : Bool) (t : Flit) (s : State) : Copy × State :=
  let i := t.itr.toNat
  let mine := if second then p.toks2 else p.toks
  if isEof t then (if second then p else { p with aux := p.aux.set 3 (t.val.toNat % 2 ^ 32 + 1) }, s)
  else if i < p.pos || (auxAt p 3 != 0 && i + 1 ≥ auxAt p 3) || (mine.any fun u => u.itr == i) then (p, addOrph s p.mu.ctx 1)
  else
    let e : FibTok := { itr := i, kind := t.kind, val := t.val }
    (if second then { p with toks2 := p.toks2 ++ [e] } else { p with toks := p.toks ++ [e] }, s)

/-- A token ahead of the window finds no room in the slice (R199, R352). -/
def femitFull (s : State) (p : Copy) (t : Flit) : Bool :=
  !isEof t && t.itr.toNat ≥ p.pos + 256 && sliceUsed s p.mu + 32 > sliceSize (ctxOf s p.mu.ctx)

/-- The emitter that holds a write queue takes the queue's oldest token, where there is one, and goes on (R352). -/
def bodyFemitToken (m : UId) (k : Nat) (s : State) : State :=
  let x := ctxOf s m.ctx
  match openWriter s m k with
  | none => s
  | some p =>
    if isStreamw p.i || !isMoving p || !engineRuns x || x.cst == .draining then s
    else match s.cp.toQueues.find? fun f => f.u == m && f.tok.stn.toNat % 4 == k with
    | none => tryCloseFemit m p.id (advanceFemit 65536 p s)
    | some f =>
      if femitFull s p f.tok then copyFault p { kind := 0x0C } s
      else
        let s := { s with cp := { s.cp with toQueues := s.cp.toQueues.erase f } }
        let r := femitTake p (k % 2 == 1) f.tok s
        tryCloseFemit m p.id (advanceFemit 65536 r.1 r.2)

/-- FEMIT_TOKEN. -/
def execFemitToken (m : UId) (k : Nat) (s : State) : Host.Outcome State Fault Refusal := done s (bodyFemitToken m k s)

/-! ### SCLOSE (R254) -/

/-- The copy is still an open stream. -/
def isOpenStream (p : Copy) : Bool := p.st == .issued || isMoving p || mayReplay p

/-- SCLOSE at the copy unit: the answer is the number of elements emitted or counted; all ones where the id is no open stream. -/
def performSclose (q : Req) (s : State) : State :=
  let s := reqCommit q (charge s q.c.u 7 1)
  match copyOf s q.mu q.c.l.val.toNat with
  | none => reply q (-1) s
  | some p =>
    if !isOpenStream p then reply q (-1) s
    else match p.i with
    | .stream _ => reply q (BitVec.ofNat 64 p.cnt) (closeStream p s)
    | .streamw _ => reply q (BitVec.ofNat 64 p.cnt) (closeWriter p (elemBytes (p.maps.headD 0) p.pos) s)
    | .femit _ => reply q (BitVec.ofNat 64 p.cnt) (closeFemit p s)
    | i => if isFibre i then reply q (BitVec.ofNat 64 p.cnt) (closeStream p s) else reply q (-1) s

end Sys2Proof.Machine
end

