-- ==== Sys2Proof/Machine/Tensor.lean ====
section
/-!
DEFINITION. Tiles and the tensor array (11 R278 to R309): tensor-map entries, tile fills, tags, products, region passes, weight
banks, accumulators and the tile transforms. An operation occupies its arrays from its issue to its end step, which reads
its operands, writes its results and tags, and emits its tokens.
-/

namespace Sys2Proof.Machine

open Sys2Proof

/-- A TILE fault with its subcode (R279). -/
def tileInfo (n : Nat) : FaultInfo := { kind := 0x1E, fks := n }

/-- A TILE fault under a condition. -/
def tileIf (b : Bool) (n : Nat) : Option FaultInfo := if b then some (tileInfo n) else none

/-! ### Starting an operation (R283, R285, R288) -/

/-- BFCH.FWD reserves the remote handle at its issue (R321). -/
def reserveFwd (i : Instr) (F : Ready) (s : State) : State :=
  match i with
  | .bfch f => if f.fn.toNat ≥ 8 then setTagSt s (eastOf F.u) (fld f 11 5) .filling else s
  | _ => s

/-- An operation takes its arrays for a number of cycles, which are charged, and is a commit point of its colour. -/
def startOp (i : Instr) (us : List UId) (cycles : Nat) (k : List Word) (F : Ready) (s : State) : State :=
  let s := us.foldl (fun s u => charge s u 9 cycles) (reserveFwd i F s)
  let s := commitPt s F.u.ctx F.u.copy (fcol F)
  { s with tn := { s.tn with ops := s.tn.ops ++ [{ us := us, i := i, c := F, k := k }] } }

/-- An array instruction's firing: its tag faults, the tile firing rule, its own checks, and its start. `check` answers the
first fault, or the cycles of occupancy and the K registers that the operation keeps. -/
def laneArray (i : Instr) (f : Fields) (check : Ready → State → Except FaultInfo (Nat × List Word)) (F : Ready) (s : State) : State :=
  laneBoth f (fun F s =>
    let op := ((opOf i).getD 0).toNat
    match tileFault s op f F with
    | some n => raiseSub F 0x1E n s
    | none =>
      if !tileReady s op f F then returnReady s F
      else match check F s with
      | .error e => raise F e s
      | .ok r =>
        let us := match tileUse s op f F with | some (.ok n) => n.arrays | _ => []
        startOp i us r.1 r.2 F s) F s

/-- Checks that answer the first fault, else the given occupancy. -/
def checks (es : List (Option FaultInfo)) (cycles : Nat) (k : List Word) : Except FaultInfo (Nat × List Word) :=
  match firstFault es with
  | some e => .error e
  | none => .ok (cycles, k)

/-- The end of an operation: it leaves its arrays. -/
def endOp (o : ArrayOp) (s : State) : State := { s with tn := { s.tn with ops := s.tn.ops.erase o } }

/-- A tag becomes FULL with a result's format, which has no scales (R282). -/
def publish (u : UId) (t ef : Nat) (s : State) : State :=
  setTag s u t { tagOf s u t with st := .full, ef := ef, bk := 0, bn := 0, sf := 0 }

/-- A consuming read has ended (R282). -/
def consume (s : State) (e : UId × Nat) : State :=
  if (tagOf s e.1 e.2).st == .full then setTagSt s e.1 e.2 .empty else s

/-- Consumes some tags under a condition. -/
def consumeIf (b : Bool) (es : List (UId × Nat)) (s : State) : State := if b then es.foldl consume s else s

/-! ### Operands (R280, R286) -/

/-- The format fields of an operand. -/
structure OpFmt where
  ef : Nat
  bk : Nat
  bn : Nat
  sf : Nat
deriving DecidableEq, Repr

/-- A tag's format fields. -/
def tagFmt (g : Tag) : OpFmt := ⟨g.ef, g.bk, g.bn, g.sf⟩
/-- A bank's format fields. -/
def bankFmt (b : Bank) : OpFmt := ⟨b.ef, b.bk, b.bn, b.sf⟩
/-- A map's format fields. -/
def mapFmt (d : BitVec 512) : OpFmt := ⟨mapEf d, mapBk d, mapBn d, mapSf d⟩

/-- A product class (R286): its chunk, 0 for INT8, and the number of tags per operand. -/
structure PClass where
  chunk : Nat
  w : Nat
deriving DecidableEq, Repr

/-- The class of INT8. -/
def PClass.isInt (c : PClass) : Bool := c.chunk == 0
/-- The accumulator type of a class (R286). -/
def PClass.at_ (c : PClass) : Ty := if c.isInt then .i32 else .f32

/-- The class of a pair of FP4 operands (R286): MXFP4 with two E8M0 scales, else scaled FP4. -/
def fp4Class (a b : OpFmt) : Option PClass :=
  let sc (o : OpFmt) : Bool := o.sf == 1 || o.sf == 2
  if a.bk == 1 && b.bk == 1 && a.bn == b.bn && a.bn ≤ 2 then
    if a.sf == 0 && b.sf == 0 && a.bn == 2 then some ⟨32, 1⟩
    else if sc a && sc b then some ⟨blockSize a.bn, 1⟩
    else none
  else none

/-- The class of a pair of operand formats (R286); `bb` are the block scalings that an FP8 B operand may carry. -/
def classOf (bb : List Nat) (a b : OpFmt) : Option PClass :=
  let x := efTy a.ef
  let y := efTy b.ef
  let plain := a.bk == 0 && b.bk == 0
  if x == .bf16 && y == .bf16 && plain then some ⟨32, 1⟩
  else if x == .f16 && y == .f16 && plain then some ⟨32, 1⟩
  else if x == .i8 && y == .i8 && plain then some ⟨0, 1⟩
  else if isFp8 x && isFp8 y && (a.bk == 0 || (a.bk == 1 && a.bn == 3)) && bb.contains b.bk then some ⟨128, 2⟩
  else if x == .e2m1 && y == .e2m1 then fp4Class a b
  else none

/-- The exact value of an element's bits. -/
def elemEx (t : Ty) (b : Nat) : Ex :=
  match fmtOf t with
  | some F => decodeF F b
  | none => Ex.ofInt (intOf t (BitVec.ofNat 64 b))

/-- The elements packed in some bytes (R102). -/
def unpackElems (t : Ty) (n : Nat) (bs : List Byte) : List Nat :=
  let v := leNat bs
  (List.range n).map fun e => nbits v (e * tyW t) (tyW t)

/-- Elements packed into `n` bytes, the rest zero. -/
def packElems (t : Ty) (n : Nat) (es : List Nat) : List Byte :=
  leBytes (es.foldr (fun e v => e % 2 ^ tyW t + 2 ^ tyW t * v) 0) n

/-- A scale of a format (R104, R106, R275). -/
def scaleEx (sf b : Nat) : Ex :=
  match sf with
  | 0 => decodeE8 b
  | 1 => decodeF .e4m3 (b % 256)
  | 2 => decodeF .e5m2 (b % 256)
  | _ => decodeF .f32 (b % 2 ^ 32)

/-- The bytes of a scale (R275). -/
def scaleSize (sf : Nat) : Nat := if sf == 3 then 4 else 1

/-- The scales of a strip row (R280). -/
def rowScales (o : OpFmt) (i : Nat) : Nat := if o.bk == 1 then max 1 (rowElems (efTy o.ef) / blockSize o.bn) else if i == 0 then 1 else 0

/-- The byte of a strip at which row `i` begins. -/
def stripRow (o : OpFmt) (i : Nat) : Nat := if o.bk == 1 then i * rowScales o 0 * scaleSize o.sf else 0

/-- The scales of row `i` from a strip's bytes (R280); none without block scaling. -/
def stripScales (o : OpFmt) (strip : List Byte) (i : Nat) : List Ex :=
  let one (k : Nat) : Ex := scaleEx o.sf (leNat ((strip.drop (stripRow o i + k * scaleSize o.sf)).take (scaleSize o.sf)))
  if o.bk == 0 then [] else (List.range (max 1 (rowScales o i))).map one

/-- An operand as the array streams it: its rows of values and the scales of each row's blocks. -/
structure Operand where
  rows : List (List Ex)
  scales : List (List Ex)

/-- Bytes of row `i` of a tag or pair (R280). -/
def tileRow (s : State) (u : UId) (t w i : Nat) : List Byte :=
  (List.range w).flatMap fun k => rdBytes s (locUnit u (2048 * (tagOf s u (t + k)).toff + 64 * i)) 64

/-- The 512 bytes of a tag's strip. -/
def stripBytes (s : State) (u : UId) (t : Nat) : List Byte := rdBytes s (locUnit u (64 * (tagOf s u t).soff)) 512

/-- The memory of a tag's tile and strip. -/
def tagMemory (s : State) (e : UId × Nat) : List (Nat × Nat) :=
  let g := tagOf s e.1 e.2
  (locUnit e.1 (2048 * g.toff), 2048) :: (if g.bk != 0 && g.sv then [(locUnit e.1 (64 * g.soff), 512)] else [])

/-- An operand from rows of bytes and a strip. -/
def operandOf (o : OpFmt) (w : Nat) (row : Nat → List Byte) (strip : List Byte) : Operand :=
  { rows := (List.range 32).map fun i => (unpackElems (efTy o.ef) (w * rowElems (efTy o.ef)) (row i)).map (elemEx (efTy o.ef)),
    scales := (List.range 32).map fun i => stripScales o strip i }

/-- The operand of a tag or pair. -/
def tagOperand (s : State) (u : UId) (t w : Nat) : Operand :=
  operandOf (tagFmt (tagOf s u t)) w (tileRow s u t w) (stripBytes s u t)

/-- A bank's operand (R290, R291): with `BK` = 2 its scale stands in the bound K register. -/
def bankOperand (s : State) (u : UId) (b : Bank) : Operand :=
  let w := opW b.ef
  let o := operandOf (bankFmt b) w (fun i => (b.rows.drop (64 * w * i)).take (64 * w)) b.strip
  if b.bk == 2 then { o with scales := List.replicate 32 [scaleEx b.sf (kreg s u b.ks).toNat] } else o

/-- A tag that carries scales without a strip (R279). -/
def noStrip (g : Tag) : Bool := g.bk != 0 && !g.sv

/-- The tags of a pair carry one format. -/
def pairFmt (s : State) (u : UId) (t : Nat) : Bool :=
  (List.range (opW (tagOf s u t).ef)).all fun k => tagFmt (tagOf s u (t + k)) == tagFmt (tagOf s u t)

/-! ### The reduction (R122 to R125, R287) -/

/-- The exact sum of a chunk's products; an exact zero is +0 (R124). -/
def chunkDot (a b : List Ex) : Ex :=
  let v := Ex.sum false (List.zipWith Ex.mul a b)
  if v.isZero then .zero else v

/-- One promotion (R123): the F32 accumulator after chunk `c`. -/
def promote (x : Nat) (sa sb v : Ex) : Nat := rne32 (Ex.add false (decodeF .f32 x) (Ex.mul (Ex.mul sa sb) v))

/-- The F32 reduction of R123 over the chunks of two rows. -/
def reduceF (chunk x : Nat) (a b sa sb : List Ex) : Nat :=
  (List.range ((min a.length b.length + chunk - 1) / max 1 chunk)).foldl (fun x c =>
    promote x (sa.getD c .one) (sb.getD c .one) (chunkDot ((a.drop (c * chunk)).take chunk) ((b.drop (c * chunk)).take chunk))) x

/-- The integer of an exact integer value. -/
def exInt : Ex → Int
  | .fin n a _ _ => if n then -(a : Int) else a
  | _ => 0

/-- The I32 reduction (R125). -/
def reduceI (x : Nat) (a b : List Ex) : Nat :=
  (((x : Int) + ((List.zipWith (fun p q => exInt p * exInt q) a b).sum)) % 2 ^ 32).toNat

/-- One element of a product (R287). -/
def dotElem (c : PClass) (x : Nat) (a b sa sb : List Ex) : Nat := if c.isInt then reduceI x a b else reduceF c.chunk x a b sa sb

/-- One row of a product over the 32 columns. -/
def dotRow (c : PClass) (x : List Nat) (a sa : List Ex) (B : Operand) : List Nat :=
  (List.range 32).map fun j => dotElem c (x.getD j 0) a (B.rows.getD j []) sa (B.scales.getD j [])

/-! ### Accumulators (R284) -/

/-- The location of row `i` of an accumulator: the `ACC` granules follow the partition. -/
def accLoc (s : State) (u : UId) (a i : Nat) : Nat := locUnit u (poolSize (ctxOf s u.ctx) + 4096 * a + 128 * i)

/-- The type bit and the zero flag of an accumulator: 1 for a cleared flag, 2 for I32. -/
def accBits (s : State) (u : UId) (a : Nat) : Nat := fget 0 s.tn.accs (uKey u * 64 + a)

/-- Sets the type bit and the zero flag. -/
def setAccBits (s : State) (u : UId) (a v : Nat) : State :=
  { s with tn := { s.tn with accs := fset 0 s.tn.accs (uKey u * 64 + a) v } }

/-- The zero flag is set. -/
def accZero (s : State) (u : UId) (a : Nat) : Bool := nbits (accBits s u a) 0 1 == 0

/-- The type bit of an accumulator. -/
def accTy (s : State) (u : UId) (a : Nat) : Ty := if nbits (accBits s u a) 1 1 == 1 then .i32 else .f32

/-- A row of an accumulator: zeros while its zero flag is set. -/
def accRow (s : State) (u : UId) (a i : Nat) : List Nat :=
  if accZero s u a then List.replicate 32 0 else unpackElems .n32 32 (rdBytes s (accLoc s u a i) 128)

/-- The memory of an accumulator, which is read unless its zero flag is set. -/
def accMemory (s : State) (u : UId) (a : Nat) : List (Nat × Nat) := if accZero s u a then [] else [(accLoc s u a 0, 4096)]

/-- An array's reads of some memory record an uncorrectable error against its firing's colour (R467, R469). -/
def noteArray (F : Ready) (rs : List (Nat × Nat)) (s : State) : State := noteRead s F.u (fcol F) (rs.any fun r => upsetIn s r.1 r.2)

/-- Writes some rows of an accumulator: the zero flag is cleared and the type set, and a row that is not written keeps the
value it read as. -/
def writeAcc (u : UId) (a : Nat) (t : Ty) (rows : List (Nat × List Nat)) (s : State) : State :=
  let zero := accZero s u a
  let s := if zero then wrClear s (accLoc s u a 0) (accLoc s u a 32) else s
  let s := rows.foldl (fun s r => wrBytes s (accLoc s u a r.1) (packElems .n32 128 r.2)) s
  setAccBits s u a (1 + (if t == .i32 then 2 else 0))

/-- A product over some rows of an accumulator (R287). -/
def product (u : UId) (a : Nat) (c : PClass) (A B : Operand) (rows : List Nat) (s : State) : State :=
  let new := rows.map fun i => (i, dotRow c (accRow s u a i) (A.rows.getD i []) (A.scales.getD i []) B)
  writeAcc u a c.at_ new s

/-! ### TMAP (R296) -/

/-- Writes a map entry that passes R276, and emits 0; an invalid one faults. -/
def putMap (f : Fields) (F : Ready) (d : BitVec 512) (s : State) : State :=
  if mapValid d then
    emitBoth f F kValue 0 { s with tn := { s.tn with maps := fset 0 s.tn.maps (uKey F.u * 16 + fld f 0 4) d } }
  else raiseSub F 0x1E 1 s

/-- The 512 bits of 64 bytes. -/
def bits512 (bs : List Byte) : BitVec 512 := BitVec.ofNat 512 (leNat bs)

/-- The 8 words of a descriptor. -/
def mapWords (d : BitVec 512) : List Word := (List.range 8).map fun k => d.extractLsb' (64 * k) 64

/-- A descriptor from the words that a request keeps, from position `n` on. -/
def wordsMap (k : List Word) (n : Nat) : BitVec 512 :=
  (List.range 8).foldl (fun (d : BitVec 512) j => d ||| ((k.getD (n + j) 0).setWidth 512 <<< (64 * j))) 0

/-- A request goes on to an MU of another member with what it has read so far. -/
def passOn (q : Req) (mu : UId) (k : List Word) (s : State) : State :=
  match encode q.i with
  | none => s
  | some w => let x := reqCtx s q; sendOut s x (memberAt x mu.x) (.request mu w q.c k q.iseq)

/-- The MU at which a request of a CU reads a pointer (R173): the home MU, or for a scratchpad of another member that MU itself. -/
def readMu (x : Ctx) (F : Ready) (p : Word) : UId :=
  let m := muNamed F.u p
  if winOf p == 1 && memberAt x m.x != memberAt x F.u.x then m else muOf F.u

/-- The bytes that a request reads of a scratchpad, with an uncorrectable error recorded against its colour (R468). -/
def noteBad (q : Req) (bad : Bool) (s : State) : State := if bad then trapErr s q.mu (fcol q.c) 0x12 else s

/-- TMAP at issue: `.BASE` replaces the base at once; window 10 is read at once; any other read goes to its MU. -/
def laneTmap (f : Fields) (F : Ready) (s : State) : State :=
  laneBoth f (fun F s =>
    let p := F.l.val
    let x := ctxOf s F.u.ctx
    if f.fn == 1 then
      let d := tmapOf s F.u (fld f 0 4)
      if !mapV d then raiseSub F 0x1E 2 s
      else putMap f F (d.extractLsb' 64 448 ++ p) s
    else match windowFault x (poolSize x) [0, 1, 2, 3] p 64 with
    | some e => raiseA F e p s
    | none =>
      if winOf p == 2 then
        if offOf p % 64 != 0 then raiseA F 0x08 p s
        else putMap f F (bits512 (rdBytes s (locUnit F.u (offOf p)) 64)) (poolError F p s)
      else sendReq (readMu x F p) (.tmap f) F [] s) F s
/-- TMAP. -/
def execTmap (f : Fields) (s : State) : Host.Outcome State Fault Refusal := runLanes (laneTmap f) s

/-- The 64 bytes that TMAP has read reach its CU: at once, or with a request that goes home where the CU stands on another member. -/
def tmapArrives (q : Req) (d : BitVec 512) (s : State) : State :=
  if onModule (reqCtx s q) q.c.u.x then putMap (reqFields q) q.c d s else passOn q (muOf q.c.u) (mapWords d) s

/-- TMAP at its MU: it reads 64 bytes as a load (R173). -/
def performTmap (q : Req) (s : State) : State :=
  let p := q.c.l.val
  if !q.k.isEmpty then tmapArrives q (wordsMap q.k 0) s
  else if winOf p == 1 then
    let m := muNamed q.c.u p
    let loc := locUnit m (offOf p)
    if offOf p % 64 != 0 then reqFault q 0x08 p s
    else match liveFault s loc 64 with
    | some e => reqFault q e p s
    | none => tmapArrives q (bits512 (seenBytes s q (muPtr m (offOf p)) loc 0 64 true)) (readNote q m loc s)
  else match resolveVa s q.mu p 64 64 false with
  | .error e => raise q.c e (capTouch s q.mu (fcol q.c) p)
  | .ok va => withPhys (capTouch s q.mu (fcol q.c) p) q .read va fun a s =>
      tmapArrives q (bits512 (seenGlobal s q va a.phys 64)) (readNote q q.mu a.phys s)

/-! ### TFILL (R297, R289) -/

/-- A pointer that a fill may read: windows 00 and 11, the home MU in window 01, the pool in window 10. -/
def fillPtrOk (s : State) (u : UId) (p : Word) : Bool :=
  let x := ctxOf s u.ctx
  (winOf p == 3) || (ptrValid x (poolSize x) p && (winOf p != 1 || muNamed u p == muOf u))

/-- The coordinates of a fill: i0, i1 in L, i2, i3 in R (R297). -/
def fillAt (F : Ready) (k : Nat) : Nat :=
  match k with
  | 0 => nbits F.l.val.toNat 0 32
  | 1 => nbits F.l.val.toNat 32 32
  | 2 => nbits (rVal F).toNat 0 32
  | _ => nbits (rVal F).toNat 32 32

/-- TFILL at issue: its checks, and the tag becomes FILLING with the map's format (R282). -/
def laneTfill (f : Fields) (F : Ready) (s : State) : State :=
  laneBoth f (fun F s =>
    let d := tmapOf s F.u (fld f 0 4)
    let t := fld f 4 5
    let g := tagOf s F.u t
    match tileFault s 0xB1 f F with
    | some n => raiseSub F 0x1E n s
    | none =>
      if !tileReady s 0xB1 f F then returnReady s F
      else match firstFault [tileIf (!mapV d) 2,
          tileIf (fillAt F 0 % min (blockSize (mapBn d)) (rowElems (mapTy d)) != 0 || (mapBk d == 2 && fillAt F 1 % 32 != 0)) 8,
          tileIf (mapBk d != 0 && !g.sv) 3,
          if fillPtrOk s F.u (mapBase d) && (mapBk d == 0 || fillPtrOk s F.u (mapSbase d)) then none
          else some { kind := 0x07, va := mapBase d }] with
      | some e => raise F e s
      | none =>
        let s := setTag s F.u t { g with st := .filling, ef := mapEf d, bk := mapBk d, bn := mapBn d, sf := mapSf d }
        let s := commitPt s F.u.ctx F.u.copy (fcol F)
        { s with tn := { s.tn with fills := s.tn.fills ++ [{ c := F, i := .tfill f, tag := t, map := d, rows := 0 }] } }) F s
/-- TFILL. -/
def execTfill (f : Fields) (s : State) : Host.Outcome State Fault Refusal := runLanes (laneTfill f) s

/-- The elements of tile row `j` that lie inside the tensor. -/
def fillInside (b : Fill) (j : Nat) : Nat :=
  let d := b.map
  if fillAt b.c 1 + j < mapD d 1 && fillAt b.c 2 < mapD d 2 && fillAt b.c 3 < mapD d 3 then
    min (rowElems (mapTy d)) (mapD d 0 - fillAt b.c 0)
  else 0

/-- The pointers of the bytes of tile row `j` that lie inside the tensor. -/
def fillRowPtrs (b : Fill) (j : Nat) : List (Option Word) :=
  let d := b.map
  let at_ := mapDisp d (fillAt b.c 0) (fillAt b.c 1 + j) (fillAt b.c 2) (fillAt b.c 3)
  (List.range ((fillInside b j * tyW (mapTy d) + 7) / 8)).map fun k => movePtr (mapBase d) (at_ + k : Nat)

/-- The index of block `c` of tile row `j` (R275); none where the block lies wholly outside the tensor. -/
def fillScaleIdx (b : Fill) (j c : Nat) : Option Nat :=
  let d := b.map
  let n := blockSize (mapBn d)
  let i0 := fillAt b.c 0 + c * n
  let i1 := fillAt b.c 1 + j
  let outer := fillAt b.c 2 + mapD d 2 * fillAt b.c 3
  if i0 < mapD d 0 && i1 < mapD d 1 && fillAt b.c 2 < mapD d 2 && fillAt b.c 3 < mapD d 3 then
    if mapBk d == 2 then some (i0 / 128 + mapD d 0 / 128 * (i1 / 128 + mapD d 1 / 128 * outer))
    else some (i0 / n + mapD d 0 / n * (i1 + mapD d 1 * outer))
  else none

/-- The code of 1 in a scale format (R297). -/
def oneScale (sf : Nat) : Nat :=
  match sf with
  | 0 => 0x7F | 1 => 0x38 | 2 => 0x3C | _ => 0x3F800000

/-- The pointers of the bytes of a scale. -/
def scalePtrs (d : BitVec 512) (idx : Nat) : List (Option Word) :=
  (List.range (scaleSize (mapSf d))).map fun k => movePtr (mapSbase d) (idx * scaleSize (mapSf d) + k : Nat)

/-- The blocks that a fill's strip holds: row and block. -/
def fillBlocks (d : BitVec 512) : List (Nat × Nat) :=
  if mapBk d == 0 then []
  else if mapBk d == 2 then [(0, 0)]
  else (List.range 32).flatMap fun j => (List.range (rowScales (mapFmt d) 0)).map fun c => (j, c)

/-- The engine that serves a fill: the home MU, with no copy id. -/
def fillEng (b : Fill) : Eng := { q := { mu := muOf b.c.u, i := b.i, c := b.c, k := [], iseq := 0 }, cid := 0 }

/-- Reads bytes at pointers that a fill may read. -/
def fillRead (b : Fill) (ps : List (Option Word)) (s : State) : EngRes (List Byte) :=
  if ps.any fun p => match p with | some p => !fillPtrOk s b.c.u p | none => true then .fault { kind := 0x07, va := mapBase b.map }
  else if ps.isEmpty then .ok [] s
  else match seenRead (fillEng b) b.map ps s with
  | .fault e => .fault e
  | .waits s => .waits s
  | .ok r s => .ok r.1 (noteBad (fillEng b).q r.2 s)

/-- Fills row `j` of a tile. -/
def fillRow (b : Fill) (j : Nat) (s : State) : EngRes Unit :=
  match fillRead b (fillRowPtrs b j) s with
  | .fault e => .fault e
  | .waits s => .waits s
  | .ok bs s =>
    .ok () (wrBytes s (locUnit b.c.u (2048 * (tagOf s b.c.u b.tag).toff + 64 * j)) (bs ++ List.replicate (64 - bs.length) 0))

/-- The byte of the strip at which the scale of a block stands. -/
def blockAt (d : BitVec 512) (e : Nat × Nat) : Nat := stripRow (mapFmt d) e.1 + e.2 * scaleSize (mapSf d)

/-- Reads and writes the scales of some blocks of the strip, in order. -/
def fillScales (b : Fill) : List (Nat × Nat) → State → EngRes Unit
  | [], s => .ok () s
  | e :: r, s =>
    let put (v : List Byte) (s : State) : State := wrBytes s (locUnit b.c.u (64 * (tagOf s b.c.u b.tag).soff + blockAt b.map e)) v
    match fillScaleIdx b e.1 e.2 with
    | none => fillScales b r (put (leBytes (oneScale (mapSf b.map)) (scaleSize (mapSf b.map))) s)
    | some k =>
      match fillRead b (scalePtrs b.map k) s with
      | .fault e => .fault e
      | .waits s => .waits s
      | .ok bs s => fillScales b r (put bs s)

/-- The lines of a fill: the 32 tile rows, then the lines of the strip. -/
def fillLines (b : Fill) : Nat := 32 + ((fillBlocks b.map).length * scaleSize (mapSf b.map) + 63) / 64

/-- Fills one line: a row of the tile, or a line of the strip. -/
def fillLine (b : Fill) (n : Nat) (s : State) : EngRes Unit :=
  if n < 32 then fillRow b n s else fillScales b ((fillBlocks b.map).filter fun e => blockAt b.map e / 64 == n - 32) s

/-- The lines before `n` are written: the fill goes on from there (R289). -/
def keepRows (b : Fill) (n : Nat) (s : State) : State :=
  { s with tn := { s.tn with fills := s.tn.fills.map fun e => if e == b then { e with rows := n } else e } }

/-- The last line of a fill is written (R282): the tag is FULL and the tokens leave. -/
def endFill (b : Fill) (s : State) : State :=
  let s := setTagSt s b.c.u b.tag .full
  emitBoth ((fieldsOf b.i).getD (unpack 0)) b.c kValue 0 { s with tn := { s.tn with fills := s.tn.fills.erase b } }

/-- A fill that faults while its context drains ends without a result, as a copy ends FAILED(5) (R244, R289). -/
def dropFill (b : Fill) (s : State) : State := { s with tn := { s.tn with fills := s.tn.fills.erase b } }

/-- Fills the lines of a list, in order, up to one that faults or waits; those before it stay written, and the tag stays FILLING (R289). -/
def fillFrom (b : Fill) : List Nat → State → State
  | [], s => endFill b s
  | n :: ns, s =>
    match fillLine b n s with
    | .fault e => if (ctxOf s b.c.u.ctx).cst == .draining then dropFill b s else raiseEngine b.c 0 e (keepRows b n s)
    | .waits t => keepRows b n t
    | .ok _ t => fillFrom b ns t

/-- A fill goes on from its first unwritten line (R297, R289), to its end unless a line faults or waits. -/
def bodyTfillComplete (u : UId) (t : Nat) (s : State) : State :=
  match s.tn.fills.find? fun b => b.c.u == u && b.tag == t with
  | none => s
  | some b => if engineRuns (ctxOf s u.ctx) then fillFrom b ((List.range (fillLines b)).drop b.rows) s else s

/-- TFILL_COMPLETE. -/
def execTfillComplete (u : UId) (t : Nat) (s : State) : Host.Outcome State Fault Refusal := done s (bodyTfillComplete u t s)

/-! ### TTAG (R298) -/

/-- The tag of a TTAG word. -/
def ttagOf (f : Fields) : Nat := fld f 6 5

/-- The word of a tag (R281). -/
def tagWord (g : Tag) : Word :=
  let st := match g.st with | .unbound => 0 | .empty => 1 | .filling => 2 | .full => 3
  BitVec.ofNat 64 (st + 2 ^ 2 * g.toff + 2 ^ 9 * g.soff + (if g.sv then 2 ^ 21 else 0) + 2 ^ 22 * g.ef + 2 ^ 26 * g.bk
    + 2 ^ 28 * g.bn + 2 ^ 30 * g.sf)

/-- The tag that a bind word describes: EMPTY (R298). -/
def bindTag (w : Word) : Tag :=
  let n := w.toNat
  { st := .empty, toff := nbits n 2 7, soff := nbits n 9 12, sv := nbits n 21 1 == 1, ef := nbits n 22 4, bk := nbits n 26 2,
    bn := nbits n 28 2, sf := nbits n 30 2 }

/-- The tile or strip of a tag leaves the scratchpad partition (R298). -/
def outsidePool (x : Ctx) (g : Tag) : Bool :=
  2048 * g.toff + 2048 > poolSize x || (g.sv && 64 * g.soff + 512 > poolSize x)

/-- A TTAG form that changes its tag: its states, and what it makes of the tag. -/
def laneTtag (f : Fields) (ok : TagSt → Bool) (g : Ready → State → Tag) (F : Ready) (s : State) : State :=
  laneBoth f (fun F s =>
    let n := g F s
    if !ok (tagOf s F.u (ttagOf f)).st || outsidePool (ctxOf s F.u.ctx) n then raiseSub F 0x1E 3 s
    else
      let s := commitPt (setTag s F.u (ttagOf f) n) F.u.ctx F.u.copy (fcol F)
      emitBoth f F kValue 0 s) F s

/-- TTAG.BIND. -/
def execTtagBind (f : Fields) (s : State) : Host.Outcome State Fault Refusal :=
  runLanes (laneTtag f (fun st => st == .unbound || st == .empty) fun F s => bindTag (rightOp f F s)) s
/-- TTAG.FULL. -/
def execTtagFull (f : Fields) (s : State) : Host.Outcome State Fault Refusal :=
  runLanes (laneTtag f (fun st => st == .empty) fun F s => { tagOf s F.u (ttagOf f) with st := .full }) s
/-- TTAG.EMPTY. -/
def execTtagEmpty (f : Fields) (s : State) : Host.Outcome State Fault Refusal :=
  runLanes (laneTtag f (fun st => st == .full || st == .empty) fun F s => { tagOf s F.u (ttagOf f) with st := .empty }) s
/-- TTAG.STAT. -/
def execTtagStat (f : Fields) (s : State) : Host.Outcome State Fault Refusal :=
  runLanes (laneBoth f fun F s => emitBoth f F kValue (tagWord (tagOf s F.u (ttagOf f))) s) s

/-! ### MMA, MMAS, MMAG (R299, R300) -/

/-- The A tag, the B tag and the accumulator of a product. -/
def mmaA (f : Fields) : Nat := fld f 0 5
/-- The B tag. -/
def mmaB (f : Fields) : Nat := fld f 5 5
/-- The accumulator. -/
def mmaAcc (f : Fields) : Nat := fld f 10 6

/-- The class of a product's tags. -/
def tagClass (s : State) (u : UId) (a b : Nat) : Option PClass := classOf [0, 2] (tagFmt (tagOf s u a)) (tagFmt (tagOf s u b))

/-- The checks of a product of tags (R279, R286, R299): the formats of the pair, the strips, and the type. -/
def pairChecks (s : State) (u : UId) (a b : Nat) (ty : Ty) (scaled : Bool) : List (Option FaultInfo) :=
  let ga := tagOf s u a
  let gb := tagOf s u b
  let c := tagClass s u a b
  let strip (g : Tag) : Bool := g.sv || g.bk != 0
  let strips := (List.range (opW ga.ef)).any (fun k => strip (tagOf s u (a + k))) || (List.range (opW gb.ef)).any fun k => strip (tagOf s u (b + k))
  [tileIf (c.isNone || !pairFmt s u a || !pairFmt s u b || (!scaled && strips)) 5,
   tileIf (noStrip ga || noStrip gb) 3,
   tileIf ((c.map PClass.at_) != some ty) 4]

/-- The issue of MMA and MMAS. -/
def checkMma (f : Fields) (scaled : Bool) (F : Ready) (s : State) : Except FaultInfo (Nat × List Word) :=
  checks (pairChecks s F.u (mmaA f) (mmaB f) f.ty scaled) (32 * opW (tagOf s F.u (mmaA f)).ef) []

/-- MMA. -/
def execMma (f : Fields) (s : State) : Host.Outcome State Fault Refusal := runLanes (laneArray (.mma f) f (checkMma f false)) s
/-- MMAS. -/
def execMmas (f : Fields) (s : State) : Host.Outcome State Fault Refusal := runLanes (laneArray (.mmas f) f (checkMma f true)) s

/-- The tags of an operand of width `w`. -/
def tagsFrom (u : UId) (t w : Nat) : List (UId × Nat) := (List.range w).map fun k => (u, t + k)

/-- The end of MMA and MMAS (R299). -/
def endMma (f : Fields) (F : Ready) (s : State) : State :=
  match tagClass s F.u (mmaA f) (mmaB f) with
  | none => s
  | some c =>
    let A := tagOperand s F.u (mmaA f) c.w
    let B := tagOperand s F.u (mmaB f) c.w
    let s := product F.u (mmaAcc f) c A B (List.range 32) s
    let s := consumeIf (f.fn.getLsbD 0) (tagsFrom F.u (mmaA f) c.w) s
    let s := consumeIf (f.fn.getLsbD 1) (tagsFrom F.u (mmaB f) c.w) s
    emitBoth f F kValue (BitVec.ofNat 64 (mmaAcc f)) s

/-- The number of groups of MMAG (R300). -/
def mmagG (f : Fields) : Nat := f.fn.toNat % 8 + 1
/-- The right operand of MMAG. -/
def mmagR (F : Ready) : Nat := (rVal F).toNat
/-- The row count of a group. -/
def mmagCnt (F : Ready) (g : Nat) : Nat := nbits (mmagR F) (6 * g) 6
/-- The row at which a group begins. -/
def mmagRow (F : Ready) (g : Nat) : Nat := ((List.range g).map (mmagCnt F)).sum

/-- The counts of MMAG overflow (R300). -/
def mmagBad (f : Fields) (F : Ready) : Bool :=
  mmagR F / 2 ^ (6 * mmagG f) != 0 || (List.range (mmagG f)).any (fun g => mmagCnt F g > 32) || mmagRow F (mmagG f) > 32

/-- The issue of MMAG: all B operands are checked, and the counts. -/
def checkMmag (f : Fields) (F : Ready) (s : State) : Except FaultInfo (Nat × List Word) :=
  let w := opW (tagOf s F.u (mmaB f)).ef
  let excess : List (Option FaultInfo) := [if mmagBad f F then some { kind := 0x0B } else none]
  let pairs := (List.range (mmagG f)).flatMap fun g => pairChecks s F.u (mmaA f) (mmaB f + w * g) f.ty true
  checks (pairs ++ excess) (32 * w * mmagG f) []

/-- MMAG. -/
def execMmag (f : Fields) (s : State) : Host.Outcome State Fault Refusal := runLanes (laneArray (.mmag f) f (checkMmag f)) s

/-- One group of MMAG. -/
def mmagGroup (f : Fields) (F : Ready) (w : Nat) (s : State) (g : Nat) : State :=
  let b := mmaB f + w * g
  let rows := (List.range (mmagCnt F g)).map fun k => mmagRow F g + k
  let s := match tagClass s F.u (mmaA f) b with
    | none => s
    | some c => if rows.isEmpty then s
                else product F.u (mmaAcc f) c (tagOperand s F.u (mmaA f) c.w) (tagOperand s F.u b c.w) rows s
  consumeIf (f.fn.getLsbD 3) (tagsFrom F.u b w) s

/-- The end of MMAG (R300). -/
def endMmag (f : Fields) (F : Ready) (s : State) : State :=
  let w := opW (tagOf s F.u (mmaB f)).ef
  let s := (List.range (mmagG f)).foldl (mmagGroup f F w) s
  let s := consumeIf (f.fn.getLsbD 3) (tagsFrom F.u (mmaA f) w) s
  emitBoth f F kValue (BitVec.ofNat 64 (mmaAcc f)) s

/-! ### MMAR (R292, R293, R301) -/

/-- The A tag, the first accumulator and mt of a pass. -/
def mmarA (f : Fields) : Nat := fld f 6 5
/-- The first accumulator. -/
def mmarF (f : Fields) : Nat := fld f 11 6
/-- mt. -/
def mmarMt (F : Ready) : Nat := F.l.val.toNat

/-- The class of a pass in column `q` at region row `p`; none where the bank is EMPTY or does not fit the A tag. -/
def passClass (s : State) (F : Ready) (reg : Word) (t : Nat) (p q : Nat) : Option PClass :=
  match bankOf s (regionCu F.u p q) (regBank reg) with
  | none => none
  | some b => classOf [0, 2] (tagFmt (tagOf s (regionCu F.u p 0) t)) (bankFmt b)

/-- The issue of MMAR: banks, the type, and the strips of the origin's own A tags. -/
def checkMmar (f : Fields) (F : Ready) (s : State) : Except FaultInfo (Nat × List Word) :=
  let reg := kreg s F.u (fld f 0 6)
  let w := opW (tagOf s F.u (mmarA f)).ef
  let own := (List.range (mmarMt F)).map fun t => tagOf s F.u (mmarA f + w * t)
  let cls := (regionCus F.u reg).flatMap fun c => own.map fun g =>
    match bankOf s c (regBank reg) with | none => none | some b => classOf [0, 2] (tagFmt g) (bankFmt b)
  checks [tileIf (cls.contains none) 6, tileIf (own.any noStrip) 3,
          tileIf (cls.any fun c => (c.map PClass.at_) != some f.ty) 4] (32 * w * mmarMt F) [reg]

/-- MMAR. -/
def execMmar (f : Fields) (s : State) : Host.Outcome State Fault Refusal := runLanes (laneArray (.mmar f) f (checkMmar f)) s

/-- One row of one column of a pass: the partials go south through the region's rows in increasing k (R293). -/
def passRow (s : State) (f : Fields) (F : Ready) (reg : Word) (w t q i : Nat) : List Nat :=
  let x0 := if nbits reg.toNat 11 1 == 1 then accRow s (regionCu F.u 0 q) (mmarF f + t) i else List.replicate 32 0
  (List.range (regRows reg)).foldl (fun x p =>
    let a := mmarA f + w * t
    match passClass s F reg a p q, bankOf s (regionCu F.u p q) (regBank reg) with
    | some c, some b =>
      let A := tagOperand s (regionCu F.u p 0) a c.w
      dotRow c x (A.rows.getD i []) (A.scales.getD i []) (bankOperand s (regionCu F.u p q) b)
    | _, _ => x) x0

/-- The results of a pass: the bottom CU, the accumulator and its rows. -/
def passResults (s : State) (f : Fields) (F : Ready) (reg : Word) (w : Nat) : List (UId × Nat × List (Nat × List Nat)) :=
  (List.range (mmarMt F)).flatMap fun t => (List.range (regCols reg)).map fun q =>
    (regionCu F.u (regRows reg - 1) q, mmarF f + t, (List.range 32).map fun i => (i, passRow s f F reg w t q i))

/-- The A tags of a pass. -/
def passTags (F : Ready) (f : Fields) (reg : Word) (w : Nat) : List (UId × Nat) :=
  (List.range (regRows reg)).flatMap fun p => tagsFrom (regionCu F.u p 0) (mmarA f) (w * mmarMt F)

/-- A bank of a pass is not of the class of the A tag that streams through it (R301). -/
def passUnlike (s : State) (f : Fields) (F : Ready) (reg : Word) (w : Nat) : Bool :=
  (List.range (regRows reg)).any fun p => (List.range (mmarMt F)).any fun t => (List.range (regCols reg)).any fun q =>
    (passClass s F reg (mmarA f + w * t) p q).isNone

/-- An A tag of a pass carries scales without a strip (R279). -/
def passNoStrip (s : State) (f : Fields) (F : Ready) (reg : Word) (w : Nat) : Bool :=
  (List.range (regRows reg)).any fun p => (List.range (mmarMt F)).any fun t =>
    noStrip (tagOf s (regionCu F.u p 0) (mmarA f + w * t))

/-- The memory that a pass reads: its A tags, and its first accumulators where it adds to them. -/
def passMemory (s : State) (F : Ready) (f : Fields) (reg : Word) (w : Nat) : List (Nat × Nat) :=
  (passTags F f reg w).flatMap (tagMemory s) ++
    (if nbits reg.toNat 11 1 == 1 then
      (List.range (mmarMt F)).flatMap fun t => (List.range (regCols reg)).flatMap fun q => accMemory s (regionCu F.u 0 q) (mmarF f + t)
     else [])

/-- A region pass completes (R293, R294): it waits until all its A tags are FULL. After a kill nothing fills them any more. -/
def bodyMmarPass (u : UId) (s : State) : State :=
  match s.tn.ops.find? fun o => o.c.u == u && (match o.i with | .mmar _ => true | _ => false) with
  | none => s
  | some o =>
    let f := (fieldsOf o.i).getD (unpack 0)
    let F := o.c
    let reg := o.k.headD 0
    let w := opW (tagOf s u (mmarA f)).ef
    let tags := passTags F f reg w
    if !tags.all (fun e => (tagOf s e.1 e.2).st == .full) then (if (ctxOf s u.ctx).dying then endOp o s else s)
    else if passUnlike s f F reg w then raiseSub F 0x1E 6 (endOp o s)
    else if passNoStrip s f F reg w then raiseSub F 0x1E 3 (endOp o s)
    else
      let rs := passResults s f F reg w
      let s := rs.foldl (fun s r => writeAcc r.1 r.2.1 f.ty r.2.2 s) (noteArray F (passMemory s F f reg w) s)
      let s := consumeIf (f.fn == 1) tags (endOp o s)
      emitBoth f F kValue F.l.val s

/-- MMAR_PASS_COMPLETE. -/
def execMmarPassComplete (u : UId) (s : State) : Host.Outcome State Fault Refusal := done s (bodyMmarPass u s)

/-! ### WLD (R290, R302) -/

/-- The number of destination CUs of a WLD. -/
def wldN (f : Fields) : Nat := if f.fn == 1 then fld f 13 5 + 1 else 1

/-- The lines of a tag's strip that hold scales. -/
def stripLines (g : Tag) : Nat :=
  if g.bk == 0 then 0 else if g.bk == 2 then 1 else (32 * rowScales (tagFmt g) 0 * scaleSize g.sf + 63) / 64

/-- The issue of WLD: a strip where an operand's format needs it, and `ks` 0 unless every bank has a bound scale (R302). -/
def checkWld (f : Fields) (F : Ready) (s : State) : Except FaultInfo (Nat × List Word) :=
  let t := fld f 0 5
  let g := tagOf s F.u t
  let w := opW g.ef
  let heads := (List.range (wldN f)).map fun p => tagOf s F.u (t + w * p)
  checks [tileIf (heads.any fun h => h.bk == 1 && !h.sv) 3,
          if heads.any (fun h => h.bk != 2) && fld f 7 6 != 0 then some { kind := 0x0D, fks := 8 } else none]
    ((32 * w + stripLines g) * wldN f) []

/-- WLD. -/
def execWld (f : Fields) (s : State) : Host.Outcome State Fault Refusal := runLanes (laneArray (.wld f) f (checkWld f)) s

/-- Loads one bank of a column. -/
def wldOne (f : Fields) (F : Ready) (w : Nat) (s : State) (p : Nat) : State :=
  let t := fld f 0 5 + w * p
  let g := tagOf s F.u t
  let b : Bank := { rows := (List.range 32).flatMap (tileRow s F.u t (opW g.ef)), strip := stripBytes s F.u t, ef := g.ef, bk := g.bk,
                    bn := g.bn, sf := g.sf, ks := fld f 7 6 }
  { s with tn := { s.tn with banks := fset none s.tn.banks (uKey (siteOf F.u F.u.x (F.u.y + p)) * 2 + fld f 5 1) (some b) } }

/-- The end of WLD. -/
def endWld (f : Fields) (F : Ready) (s : State) : State :=
  let w := opW (tagOf s F.u (fld f 0 5)).ef
  let s := (List.range (wldN f)).foldl (wldOne f F w) s
  emitBoth f F kValue 0 (consumeIf (fld f 6 1 == 1) (tagsFrom F.u (fld f 0 5) (w * wldN f)) s)

/-- The arrays that a WLD's end waits for besides its own (R290). -/
def wldHeld (s : State) (f : Fields) (F : Ready) : Bool :=
  (List.range (wldN f)).any fun p => p != 0 && !arrayFree s (siteOf F.u F.u.x (F.u.y + p))

/-! ### ACCZ, ACCRD (R303, R304) -/

/-- ACCZ. -/
def execAccz (f : Fields) (s : State) : Host.Outcome State Fault Refusal :=
  runLanes (laneArray (.accz f) f fun _ _ => .ok (1, [])) s

/-- The end of ACCZ. -/
def endAccz (f : Fields) (F : Ready) (s : State) : State :=
  let s := (List.range (fld f 6 6 + 1)).foldl (fun s k => setAccBits s F.u (fld f 0 6 + k) (if f.ty == .i32 then 2 else 0)) s
  emitBoth f F kValue 0 s

/-- ACCRD: the K register of the tensor scales is read at issue. -/
def execAccrd (f : Fields) (s : State) : Host.Outcome State Fault Refusal :=
  runLanes (laneArray (.accrd f) f fun F s => .ok (32, if f.src == .kreg then [kreg s F.u (fld f 0 6)] else [])) s

/-- The bits of a value rounded to a type, integer types included (R112, R113). -/
def rndBits (t : Ty) (m : RMode) (sat : Bool) (r : Nat) (v : Ex) : Nat :=
  match fmtOf t with
  | some F => rnd F m sat r v
  | none => (wrapTy t (rndClamp m r (tyMin t) (tyMax t) v)).toNat % 2 ^ tyW t

/-- The tensor scale of ACCRD and TDOT (R123). -/
def tensorScale (ta tb : Ex) : Ex := decodeF .f32 (rne32 (Ex.mul ta tb))

/-- One element of ACCRD before its rounding (R304). -/
def accrdVal (t : Ty) (sc : Ex) (x : Nat) : Ex :=
  if t == .i32 then Ex.mul (Ex.ofInt (intOf .i32 (BitVec.ofNat 64 x))) sc
  else decodeF .f32 (rne32 (Ex.mul (decodeF .f32 x) sc))

/-- The bits of an element under the rounding of `FN`. -/
def fnBits (f : Fields) (F : Ready) (s : State) (e : Nat) (v : Ex) : Nat :=
  rndBits f.ty (fnMode f) (fnSat f) (srOf s F e) v

/-- Writes row `i` of a result to its tags. -/
def writeRow (u : UId) (ts : List (UId × Nat)) (i : Nat) (bs : List Byte) (s : State) : State :=
  let one (s : State) (k : Nat) : State :=
    wrBytes s (locUnit u (2048 * (tagOf s u (((ts.map fun e => e.2).getD k 0))).toff + 64 * i)) ((bs.drop (64 * k)).take 64)
  (List.range ts.length).foldl one s

/-- Writes the rows of a result and publishes its tags. -/
def writeTile (u : UId) (ts : List (UId × Nat)) (ef : Nat) (row : Nat → List Byte) (s : State) : State :=
  let rows := (List.range 32).map row
  let s := (List.range 32).foldl (fun s i => writeRow u ts i (rows.getD i []) s) s
  ts.foldl (fun s e => publish e.1 e.2 ef s) s

/-- The end of ACCRD. -/
def endAccrd (f : Fields) (F : Ready) (k : List Word) (s : State) : State :=
  let a := fld f 6 6
  let ts := outTags F.u (fld f 12 5) 32 f.ty
  let sc := if f.src == .kreg then
      tensorScale (decodeF .f32 (nbits (k.headD 0).toNat 0 32)) (decodeF .f32 (nbits (k.headD 0).toNat 32 32))
    else .one
  let t := accTy s F.u a
  let row (i : Nat) : List Byte :=
    let xs := accRow s F.u a i
    packElems f.ty (64 * ts.length) ((List.range 32).map fun j => fnBits f F s (32 * i + j) (accrdVal t sc (xs.getD j 0)))
  emitBoth f F kValue 0 (writeTile F.u ts (tyCode f.ty).toNat row s)

/-! ### TCVT, TEXP, TTRN, TRED (R305 to R308) -/

/-- The source tag of a transform, its destination and its consume bit. -/
def tfSrc (f : Fields) : Nat := fld f 0 5
/-- The destination. -/
def tfDst (f : Fields) : Nat := fld f 5 5

/-- The decoded values of row `i` of a tag with their block scales (R275). -/
def rowValues (s : State) (u : UId) (t i : Nat) : List Ex :=
  let g := tagOf s u t
  let ty := efTy g.ef
  let vs := (unpackElems ty (rowElems ty) (tileRow s u t 1 i)).map (elemEx ty)
  let ss := stripScales (tagFmt g) (stripBytes s u t) i
  if g.bk == 0 then vs
  else vs.mapIdx fun e v => Ex.mul (ss.getD (if g.bk == 2 then 0 else e / blockSize g.bn) .one) v

/-- TCVT. -/
def execTcvt (f : Fields) (s : State) : Host.Outcome State Fault Refusal :=
  runLanes (laneArray (.tcvt f) f fun F s =>
    let g := tagOf s F.u (tfSrc f)
    checks [tileIf (efTy g.ef == .ln || rowElems (efTy g.ef) * tyW f.ty > 1024) 5, tileIf (noStrip g) 3] 32 []) s

/-- The end of TCVT. -/
def endTcvt (f : Fields) (F : Ready) (s : State) : State :=
  let n := rowElems (efTy (tagOf s F.u (tfSrc f)).ef)
  let ts := outTags F.u (tfDst f) n f.ty
  let row (i : Nat) : List Byte :=
    packElems f.ty (64 * ts.length) ((rowValues s F.u (tfSrc f) i).mapIdx fun e v => fnBits f F s (n * i + e) v)
  let s := writeTile F.u ts (tyCode f.ty).toNat row s
  emitBoth f F kValue 0 (consumeIf (fld f 10 1 == 1) [(F.u, tfSrc f)] s)

/-- The formats that TRED takes (R308): for the sums those of the product classes and F32, for .MAX every one that decodes to a value. -/
def tredTy (fn : Nat) (t : Ty) : Bool := if fn ≤ 1 then [Ty.bf16, .f16, .e4m3, .e5m2, .e2m1, .i8, .f32].contains t else t != .ln

/-- TRED. -/
def execTred (f : Fields) (s : State) : Host.Outcome State Fault Refusal :=
  runLanes (laneArray (.tred f) f fun F s =>
    let g := tagOf s F.u (tfSrc f)
    checks [tileIf (!tredTy f.fn.toNat (efTy g.ef)) 5, tileIf (noStrip g) 3] 32 []) s

/-- The chunk of a format's class (R122, R308). -/
def tredChunk (g : Tag) : Nat := if isFp8 (efTy g.ef) then 128 else if efTy g.ef == .e2m1 && g.bk == 1 then blockSize g.bn else 32

/-- The larger of two decoded values; a NaN gives way (R151). -/
def maxEx (a b : Ex) : Ex := if a.isNan then b else if b.isNan then a else if fBelow a b then b else a

/-- The sum or the sum of squares of row `i` (R308). -/
def rowSum (s : State) (u : UId) (t i : Nat) (sq : Bool) : Nat :=
  let g := tagOf s u t
  let ty := efTy g.ef
  let vs := (unpackElems ty (rowElems ty) (tileRow s u t 1 i)).map (elemEx ty)
  let ys := if sq then vs else vs.map fun _ => .one
  let ss := stripScales (tagFmt g) (stripBytes s u t) i
  if ty == .i8 then rne32 (Ex.sum false (List.zipWith Ex.mul vs ys))
  else if ty == .f32 then (List.zip vs ys).foldl (fun x e => rne32 (Ex.add false (decodeF .f32 x) (Ex.mul e.1 e.2))) 0
  else reduceF (tredChunk g) 0 vs ys ss (if sq then ss else ss.map fun _ => .one)

/-- The result of row `i`. -/
def tredRow (s : State) (f : Fields) (F : Ready) (i : Nat) : Nat :=
  match f.fn.toNat with
  | 0 => rowSum s F.u (tfSrc f) i false
  | 1 => rowSum s F.u (tfSrc f) i true
  | _ =>
    match rowValues s F.u (tfSrc f) i with
    | [] => Fmt.qnan .f32
    | v :: vs => rne32 (vs.foldl maxEx v)

/-- The end of TRED: 32 F32 values in the first two rows, zeros below. -/
def endTred (f : Fields) (F : Ready) (s : State) : State :=
  let rs := (List.range 32).map (tredRow s f F)
  let row (i : Nat) : List Byte := packElems .f32 64 (if i < 2 then (rs.drop (16 * i)).take 16 else [])
  let s := writeTile F.u [(F.u, tfDst f)] 0xA row s
  emitBoth f F kValue 0 (consumeIf (fld f 10 1 == 1) [(F.u, tfSrc f)] s)

/-- TEXP. -/
def execTexp (f : Fields) (s : State) : Host.Outcome State Fault Refusal :=
  runLanes (laneArray (.texp f) f fun F s =>
    let g := tagOf s F.u (tfSrc f)
    let t := efTy g.ef
    checks [tileIf (!(t == .f32 || t == .bf16 || t == .f16) || g.bk != 0 || tyW f.ty > tyW t) 5] 32 []) s

/-- m_i of TEXP (R306). -/
def texpM (s : State) (f : Fields) (F : Ready) (i : Nat) : Ex :=
  if fld f 15 1 == 1 then decodeF .f32 (rdN s (locUnit F.u (2048 * (tagOf s F.u (fld f 10 5)).toff + 4 * i)) 4) else .zero

/-- The end of TEXP. -/
def endTexp (f : Fields) (F : Ready) (s : State) : State :=
  let n := rowElems (efTy (tagOf s F.u (tfSrc f)).ef)
  let sc := decodeF .f32 (nbits (rVal F).toNat 0 32)
  let row (i : Nat) : List Byte :=
    packElems f.ty 64 ((rowValues s F.u (tfSrc f) i).mapIdx fun e v =>
      fExp2 (fmtD f.ty) (fnMode f) (fnSat f) (srOf s F (n * i + e)) (Ex.mul (Ex.add false v (texpM s f F i).negate) sc))
  let s := writeTile F.u [(F.u, tfDst f)] (tyCode f.ty).toNat row s
  emitBoth f F kValue 0 (consumeIf (fld f 16 1 == 1) [(F.u, tfSrc f)] s)

/-- The formats that TTRN refuses (R307). -/
def ttrnBad (t : Ty) : Bool := t == .ln || tyW t == 4 || tyW t == 64

/-- TTRN. -/
def execTtrn (f : Fields) (s : State) : Host.Outcome State Fault Refusal :=
  runLanes (laneArray (.ttrn f) f fun F s =>
    let g := tagOf s F.u (tfSrc f)
    let h := tagOf s F.u (tfSrc f + 1)
    checks [tileIf (ttrnBad (efTy g.ef) || g.bk != 0 || (wideTag s F.u (tfSrc f) && tagFmt h != tagFmt g)) 5] 32 []) s

/-- The end of TTRN: a 32 × 32 transpose. -/
def endTtrn (f : Fields) (F : Ready) (s : State) : State :=
  let g := tagOf s F.u (tfSrc f)
  let t := efTy g.ef
  let w := if tyW t == 32 then 2 else 1
  let rows := (List.range 32).map fun i => unpackElems t 32 (tileRow s F.u (tfSrc f) w i)
  let row (j : Nat) : List Byte := packElems t (64 * w) (rows.map fun r => r.getD j 0)
  let s := writeTile F.u (tagsFrom F.u (tfDst f) w) g.ef row s
  emitBoth f F kValue 0 (consumeIf (fld f 10 1 == 1) (tagsFrom F.u (tfSrc f) w) s)

/-! ### TDOT (R309) -/

/-- The class of a TDOT's maps: the block scalings are 0 or 1. -/
def tdotClass (a b : BitVec 512) : Option PClass :=
  if mapBk a ≤ 1 && mapBk b ≤ 1 && (mapBk b == 0 || mapBn b == 3 || mapTy b == .e2m1) then classOf [0, 1] (mapFmt a) (mapFmt b) else none

/-- TDOT at issue: it takes both entries and both scales, and makes the checks of R309. -/
def laneTdot (f : Fields) (F : Ready) (s : State) : State :=
  laneBoth f (fun F s =>
    let a := tmapOf s F.u (fld f 0 4)
    let b := tmapOf s F.u (fld f 4 4)
    let n := F.l.val.toNat
    let c := tdotClass a b
    let ch := (c.map fun c => c.chunk).getD 0
    match firstFault [tileIf (!mapV a || !mapV b) 2, tileIf c.isNone 5,
        tileIf (n < 1 || n > mapD a 0 || n > mapD b 0 || ((mapBk a == 1 || mapBk b == 1) && n % max 1 ch != 0)) 8,
        tileIf ((c.map PClass.at_) != some f.ty) 4] with
    | some e => raise F e s
    | none => sendReq (readMu (ctxOf s F.u.ctx) F (mapBase a)) (.tdot f) F ([kreg s F.u (fld f 8 6), kreg s F.u (fld f 14 6)] ++ mapWords a ++ mapWords b) s) F s
/-- TDOT. -/
def execTdot (f : Fields) (s : State) : Host.Outcome State Fault Refusal := runLanes (laneTdot f) s

/-- The pieces that a TDOT of `n` elements reads under a map: the base and the length of its data and of its scales. -/
def tdotPieces (d : BitVec 512) (n : Nat) : List (Word × Nat) :=
  let ns := if mapBk d == 0 then 0 else (n + blockSize (mapBn d) - 1) / blockSize (mapBn d)
  (mapBase d, (n * tyW (mapTy d) + 7) / 8) :: (if ns == 0 then [] else [(mapSbase d, ns * scaleSize (mapSf d))])

/-- Bytes as words, the last one filled with zeros. -/
def byteWords (bs : List Byte) : List Word :=
  (List.range ((bs.length + 7) / 8)).map fun k => BitVec.ofNat 64 (leNat ((bs.drop (8 * k)).take 8))

/-- `n` bytes of some words. -/
def wordBytes (ws : List Word) (n : Nat) : List Byte := (ws.flatMap fun w => leBytes w.toNat 8).take n

/-- The pieces that a request has read, from the words that it keeps after its scales and maps. -/
def piecesOf : List Nat → List Word → List (List Byte)
  | [], _ => []
  | n :: ns, ws => wordBytes (ws.take ((n + 7) / 8)) n :: piecesOf ns (ws.drop ((n + 7) / 8))

/-- The bytes of a piece, read as a load under the map's policy (R173), and whether one of them met an uncorrectable error. -/
def tdotRead (q : Req) (d : BitVec 512) (e : Word × Nat) (s : State) : EngRes (List Byte × Bool) :=
  let live : Option FaultInfo :=
    if winOf e.1 == 1 then (liveFault s (locUnit (muNamed q.c.u e.1) (offOf e.1)) e.2).map fun k => { kind := k, va := e.1 } else none
  match firstFault [addrFault s q true [0, 1, 2, 3] e.1 e.2 1 false, live] with
  | some e => .fault e
  | none => seenRead (reqEng q) d (ptrRun e.1 e.2) s

/-- The values and the scales of one side of a TDOT from its pieces. -/
def tdotSide (d : BitVec 512) (n : Nat) (ps : List (List Byte)) : List Ex × List Ex :=
  let sz := scaleSize (mapSf d)
  let ss := ps.getD 1 []
  ((unpackElems (mapTy d) n (ps.headD [])).map (elemEx (mapTy d)),
   (List.range (ss.length / sz)).map fun k => scaleEx (mapSf d) (leNat ((ss.drop (k * sz)).take sz)))

/-- A tensor scale from its K register (R274). -/
def tsfEx (d : BitVec 512) (k : Word) : Ex := if mapTsf d == 1 then decodeF .f32 (nbits k.toNat 0 32) else decodeF .bf16 (nbits k.toNat 0 16)

/-- The value of a TDOT. -/
def tdotVal (a b : BitVec 512) (ka kb : Word) (c : PClass) (x y : List Ex × List Ex) : Word :=
  if c.isInt then extendTy .i32 (reduceI 0 x.1 y.1)
  else
    let r := decodeF .f32 (reduceF c.chunk 0 x.1 y.1 x.2 y.2)
    BitVec.ofNat 64 (rne32 (Ex.mul r (tensorScale (tsfEx a ka) (tsfEx b kb))))

/-- TDOT with its words `k`, of which those from position 18 on are the pieces already read, and `ps` the pieces still to read, each with its map:
each is read at the MU that holds it. -/
def tdotFrom (q : Req) : List Word → List (BitVec 512 × Word × Nat) → State → State
  | k, [], s =>
    let a := wordsMap k 2
    let b := wordsMap k 10
    let n := q.c.l.val.toNat
    let pa := tdotPieces a n
    let ps := piecesOf ((pa ++ tdotPieces b n).map fun e => e.2) (k.drop 18)
    match tdotClass a b with
    | none => s
    | some c =>
      emitBoth (reqFields q) q.c kValue
        (tdotVal a b (k.getD 0 0) (k.getD 1 0) c (tdotSide a n ps) (tdotSide b n (ps.drop pa.length))) s
  | k, e :: es, s =>
    let m := readMu (reqCtx s q) q.c e.2.1
    if m != q.mu then passOn q m k s
    else match tdotRead q e.1 e.2 s with
    | .fault e => raise q.c e s
    | .waits t => putBack { q with k := k } t
    | .ok r t => tdotFrom q (k ++ byteWords r.1) es (noteBad q r.2 t)

/-- The pieces that remain once some words have been read. -/
def restPieces {α : Type} : Nat → List (α × Word × Nat) → List (α × Word × Nat)
  | _, [] => []
  | 0, es => es
  | w + 1, e :: es => restPieces (w + 1 - (e.2.2 + 7) / 8) es

/-- TDOT at an MU (R309). -/
def performTdot (q : Req) (s : State) : State :=
  let a := wordsMap q.k 2
  let b := wordsMap q.k 10
  let n := q.c.l.val.toNat
  let ps := (tdotPieces a n).map (fun e => (a, e)) ++ (tdotPieces b n).map (fun e => (b, e))
  tdotFrom q q.k (restPieces (q.k.length - 18) ps) s

end Sys2Proof.Machine
end

