-- ==== Sys2Proof/Machine/Butterfly.lean ====
section
/-!
DEFINITION. Butterfly stages (12 R310 to R330): vectors and handles, the stage, chains, stride registers, the loading of weights,
permutation and scaling; and the end of every array operation (11 R282).
-/

namespace Sys2Proof.Machine

open Sys2Proof

/-! ### Vectors (R310, R311) -/

/-- A vector format (R311). -/
def vecTy (t : Ty) : Bool := tyV.contains t

/-- The checks on handles and N that every vector instruction makes (R325, R326). -/
def vecChecks (s : State) (i : Instr) (f : Fields) (F : Ready) (n : Nat) : List (Option FaultInfo) :=
  let g := tagOf s F.u (bfV f)
  [tileIf (!goodN n) 8, tileIf (!vecTy (efTy g.ef) || g.bk != 0) 5, tileIf (badVectors s ((opOf i).getD 0).toNat f F n true) 8]

/-- The cycles of a stage (R311): 512 elements a cycle when every format is at most 16 bits wide, else 256. -/
def stageCycles (ts : List Ty) (n : Nat) : Nat :=
  let g := if ts.all fun t => tyW t ≤ 16 then 512 else 256
  (n + g - 1) / g

/-- N as the station reads it when it issues. -/
def kN (s : State) (f : Fields) (F : Ready) : Word := kreg s F.u (fld f 0 6)

/-- The element bits of a handle's vector. -/
def vecBits (s : State) (u : UId) (h n : Nat) : List Nat :=
  let g := tagOf s u h
  unpackElems (efTy g.ef) n (rdBytes s (locUnit u (2048 * g.toff)) (vecLen (efTy g.ef) n))

/-- A vector's result is written and its handle is FULL (R326); with `.C` the source is EMPTY. -/
def writeVec (i : Instr) (f : Fields) (F : Ready) (n : Nat) (bs : List Nat) (s : State) : State :=
  let d := resultCu ((opOf i).getD 0).toNat f F
  let s := wrBytes s (locUnit d (2048 * (tagOf s d (bfU f)).toff)) (packElems f.ty (vecLen f.ty n) bs)
  let s := publish d (bfU f) (tyCode f.ty).toNat s
  emitBoth f F kValue 0 (consumeIf (fld f 19 1 == 1) [(F.u, bfV f)] s)

/-! ### Stages (R312 to R318) -/

/-- `SK`. -/
def sdSk (w : Word) : Nat := nbits w.toNat 0 4
/-- `WF`. -/
def sdWf (w : Word) : Nat := nbits w.toNat 4 2
/-- `KB`. -/
def sdKb (w : Word) : Nat := nbits w.toNat 6 6
/-- `LP`. -/
def sdLp (w : Word) : Nat := nbits w.toNat 12 4
/-- `WSC`. -/
def sdWsc (w : Word) : Nat := nbits w.toNat 16 8

/-- A stride register is valid (R317). -/
def sdValid (w : Word) : Bool :=
  w.getLsbD 63 && nbits w.toNat 24 39 == 0 && sdWf w != 3 && 2 ^ sdLp w ≤ 64 * blocksPerK (sdWf w)
    && sdKb w + (2 ^ sdLp w + blocksPerK (sdWf w) - 1) / blocksPerK (sdWf w) ≤ 64

/-- A stage on N elements may use a stride register (R317). -/
def stageOk (w : Word) (n : Nat) : Bool := sdValid w && sdSk w < n.log2

/-- The format of a stage's weights (R314). -/
def weightFmt (w : Word) : Fmt :=
  match sdWf w with
  | 0 => .bf16 | 1 => .e4m3 | _ => .e2m1

/-- Weight `k` (w00, w01, w10, w11) of block `e` of a stage (R314, R315). -/
def weightEx (s : State) (u : UId) (w : Word) (e k : Nat) : Ex :=
  let c := blocksPerK (sdWf w)
  let reg := (kreg s u (sdKb w + e / c)).toNat
  let b := nbits reg (e % c * (64 / c) + k * (16 / c)) (16 / c)
  if sdWsc w == 0xFF then .nan else (decodeF (weightFmt w) b).scale ((sdWsc w : Int) - 127)

/-- The exact value that output `i` of a stage rounds (R312, R313). -/
def stageEx (s : State) (u : UId) (w : Word) (rdn : Bool) (x : Array Ex) (i : Nat) : Ex :=
  let k := sdSk w
  let p := i / 2 ^ (k + 1) * 2 ^ k + i % 2 ^ k
  let i0 := p / 2 ^ k * 2 ^ (k + 1) + p % 2 ^ k
  let e := p % 2 ^ sdLp w
  let row := 2 * nbits i k 1
  Ex.sum rdn [Ex.mul (weightEx s u w e row) (x.getD i0 .zero), Ex.mul (weightEx s u w e (row + 1)) (x.getD (i0 + 2 ^ k) .zero)]

/-- One stage: the rounded outputs. `sr` gives the stochastic word of an output. -/
def stage (s : State) (u : UId) (w : Word) (F : Fmt) (m : RMode) (sat : Bool) (sr : Nat → Nat) (x : List Ex) : List Nat :=
  let a := x.toArray
  (List.range x.length).map fun i => rnd F m sat (sr i) (stageEx s u w (m == .rdn) a i)

/-- The values of a handle's vector. -/
def vecEx (s : State) (u : UId) (h n : Nat) : List Ex := (vecBits s u h n).map (elemEx (efTy (tagOf s u h).ef))

/-- BFLY. -/
def execBfly (f : Fields) (s : State) : Host.Outcome State Fault Refusal :=
  runLanes (laneArray (.bfly f) f fun F s =>
    let n := kN s f F
    checks (vecChecks s (.bfly f) f F n.toNat ++ [tileIf (!stageOk (sdreg s F.u (bfJ f)) n.toNat) 8])
      (stageCycles [efTy (tagOf s F.u (bfV f)).ef, f.ty] n.toNat) [n]) s

/-- The end of BFLY (R326). -/
def endBfly (f : Fields) (F : Ready) (k : List Word) (s : State) : State :=
  let n := (k.headD 0).toNat
  let y := stage s F.u (sdreg s F.u (bfJ f)) (fmtD f.ty) (fnMode f) (fnSat f) (srOf s F) (vecEx s F.u (bfV f) n)
  writeVec (.bfly f) f F n y s

/-- The inter-stage format of BFCH (R320). -/
def chainTy (f : Fields) : Ty :=
  match f.fn.toNat % 4 with
  | 0 => .f32 | 1 => .bf16 | _ => f.ty

/-- BFCH. -/
def execBfch (f : Fields) (s : State) : Host.Outcome State Fault Refusal :=
  runLanes (laneArray (.bfch f) f fun F s =>
    let n := kN s f F
    let m := chainM F
    let ts := [efTy (tagOf s F.u (bfV f)).ef, f.ty] ++ (if m > 1 then [chainTy f] else [])
    checks (vecChecks s (.bfch f) f F n.toNat
        ++ [tileIf (badChain f F || (List.range (min 8 m)).any fun k => !stageOk (sdreg s F.u (bfJ f + k)) n.toNat) 8])
      (m * stageCycles ts n.toNat) [n]) s

/-- The stages of a chain: `m` more, from stride register `j` on (R320). -/
def chain (s : State) (f : Fields) (F : Ready) : Nat → Nat → List Ex → List Nat
  | 0, _, _ => []
  | m + 1, j, x =>
    let t := if m == 0 then f.ty else chainTy f
    let y := stage s F.u (sdreg s F.u j) (fmtD t) .rne (!f.fn.getLsbD 2) (fun _ => 0) x
    if m == 0 then y else chain s f F m (j + 1) (y.map (decodeF (fmtD t)))

/-- The end of BFCH (R320, R321). -/
def endBfch (f : Fields) (F : Ready) (k : List Word) (s : State) : State :=
  let n := (k.headD 0).toNat
  writeVec (.bfch f) f F n (chain s f F (chainM F) (bfJ f) (vecEx s F.u (bfV f) n)) s

/-! ### SDSET (R327) -/

/-- The stride register that SDSET writes, and its value. -/
def sdsetJ (f : Fields) : Nat := if f.src == .kreg then fld f 6 3 else fld f 0 3

/-- SDSET. -/
def execSdset (f : Fields) (s : State) : Host.Outcome State Fault Refusal :=
  runLanes (laneArray (.sdset f) f fun F s =>
    let v := if f.src == .kreg then kreg s F.u (fld f 0 6) else F.l.val
    checks [tileIf (!sdValid v) 8] 1 [v]) s

/-- The end of SDSET. -/
def endSdset (f : Fields) (F : Ready) (k : List Word) (s : State) : State :=
  emitBoth f F kValue 0
    { s with fab := { s.fab with sdregs := fset 0 s.fab.sdregs (uKey F.u * 8 + sdsetJ f) (k.headD 0) } }

/-! ### BPERM, BFSC (R329, R330) -/

/-- The `n` low bits of a number in reverse order. -/
def revBits : Nat → Nat → Nat
  | 0, _ => 0
  | n + 1, x => x % 2 * 2 ^ n + revBits n (x / 2)

/-- The permutation of BPERM (R329). -/
def permOf (f : Fields) (F : Ready) (n i : Nat) : Nat :=
  let l := n.log2
  match f.fn.toNat with
  | 0 => revBits l i
  | 1 => let r := nbits F.l.val.toNat 0 4; i * 2 ^ r % n + i / 2 ^ (l - r)
  | _ => i ^^^ F.l.val.toNat

/-- BPERM. -/
def execBperm (f : Fields) (s : State) : Host.Outcome State Fault Refusal :=
  runLanes (laneArray (.bperm f) f fun F s =>
    let n := kN s f F
    let t := efTy (tagOf s F.u (bfV f)).ef
    checks (vecChecks s (.bperm f) f F n.toNat ++ [tileIf (t != f.ty) 5, tileIf (permBad f F n.toNat) 8])
      (stageCycles [t] n.toNat) [n]) s

/-- The end of BPERM: out[π(i)] := in[i]. -/
def endBperm (f : Fields) (F : Ready) (k : List Word) (s : State) : State :=
  let n := (k.headD 0).toNat
  let x := (vecBits s F.u (bfV f) n).toArray
  let dst := ((List.range n).map (permOf f F n)).toArray
  let out := (List.range n).foldl (fun (a : Array Nat) i => a.setIfInBounds (dst.getD i 0) (x.getD i 0)) (Array.replicate n 0)
  writeVec (.bperm f) f F n out.toList s

/-- BFSC. -/
def execBfsc (f : Fields) (s : State) : Host.Outcome State Fault Refusal :=
  runLanes (laneArray (.bfsc f) f fun F s =>
    let n := kN s f F
    checks (vecChecks s (.bfsc f) f F n.toNat) (stageCycles [efTy (tagOf s F.u (bfV f)).ef, f.ty] n.toNat) [n]) s

/-- The end of BFSC. -/
def endBfsc (f : Fields) (F : Ready) (k : List Word) (s : State) : State :=
  let n := (k.headD 0).toNat
  let sc := decodeF .f32 (nbits F.l.val.toNat 0 32)
  let y := (vecEx s F.u (bfV f) n).mapIdx fun i x => rnd (fmtD f.ty) (fnMode f) (fnSat f) (srOf s F i) (Ex.mul x sc)
  writeVec (.bfsc f) f F n y s

/-! ### BWLD (R328) -/

/-- The first K register of BWLD. -/
def bwldKb (f : Fields) : Nat := fld f 0 6
/-- The number of words of BWLD. -/
def bwldN (f : Fields) : Nat := fld f 6 6 + 1
/-- The route of BWLD. -/
def bwldRt (f : Fields) : Nat := fld f 12 3

/-- The target field of a config token that goes by route `rt` to the object of `POS` `pos` and number `n` (R35, R362). -/
def cfgTarget (pos rt n : Nat) : BitVec 12 := BitVec.ofNat 12 (1024 * pos + 128 * rt + n)

/-- The words leave the CU as config tokens, in increasing order; the completion token, which the last of them brings, follows the last
write. -/
def sendWeights (f : Fields) (F : Ready) (bs : List Byte) (s : State) : State :=
  let r : ReplyTo := { u := F.u, col := fcol F, itr := fitr F, ta := f.ta, tb := f.tb, kind := kValue }
  (List.range (bwldN f)).foldl (fun s q =>
    sendConfig s F.u F.u (fcol F) (fitr F) (cfgTarget 1 (bwldRt f) (bwldKb f + q))
      (BitVec.ofNat 64 (leNat ((bs.drop (8 * q)).take 8))) { rd := false, reply := if q + 1 == bwldN f then some r else none, grp := some (uKey F.u * 128 + F.stn, F.seq) }) s

/-- BWLD at issue: a route to an MU faults; window 10 is read at once; any other read goes to its MU. -/
def laneBwld (f : Fields) (F : Ready) (s : State) : State :=
  laneBoth f (fun F s =>
    let p := F.l.val
    let x := ctxOf s F.u.ctx
    if isMu (routeDest s F.u (bwldRt f)).x then raiseSub F 0x1E 7 s
    else match windowFault x (poolSize x) [0, 1, 2, 3] p (8 * bwldN f) with
    | some e => raiseA F e p s
    | none =>
      if winOf p == 2 then
        if offOf p % 8 != 0 then raiseA F 0x08 p s
        else
          let s := commitPt (noteArray F [(locUnit F.u (offOf p), 8 * bwldN f)] s) F.u.ctx F.u.copy (fcol F)
          sendWeights f F (rdBytes s (locUnit F.u (offOf p)) (8 * bwldN f)) s
      else sendReq (readMu x F p) (.bwld f) F [] s) F s
/-- BWLD. -/
def execBwld (f : Fields) (s : State) : Host.Outcome State Fault Refusal := runLanes (laneBwld f) s

/-- BWLD at its MU: it reads its words as a load (R173). -/
def performBwld (q : Req) (s : State) : State :=
  let f := reqFields q
  let p := q.c.l.val
  let n := 8 * bwldN f
  let live : Option FaultInfo :=
    if winOf p == 1 then (liveFault s (locUnit (muNamed q.c.u p) (offOf p)) n).map fun k => { kind := k, va := p } else none
  match firstFault [addrFault s q true [0, 1, 3] p n 8 false, live] with
  | some e => raise q.c e s
  | none =>
    match seenRead (reqEng q) 0 (ptrRun p n) s with
    | .fault e => raise q.c e s
    | .waits t => putBack q t
    | .ok r t => sendWeights f q.c r.1 (noteBad q r.2 (reqCommit q t))

/-! ### The end of an array operation (R282) -/

/-- The results of an operation that has left its arrays. -/
def endOf (o : ArrayOp) (s : State) : State :=
  match o.i with
  | .mma f => endMma f o.c s
  | .mmas f => endMma f o.c s
  | .mmag f => endMmag f o.c s
  | .wld f => endWld f o.c s
  | .accz f => endAccz f o.c s
  | .accrd f => endAccrd f o.c o.k s
  | .tcvt f => endTcvt f o.c s
  | .tred f => endTred f o.c s
  | .texp f => endTexp f o.c s
  | .ttrn f => endTtrn f o.c s
  | .bfly f => endBfly f o.c o.k s
  | .bfch f => endBfch f o.c o.k s
  | .sdset f => endSdset f o.c o.k s
  | .bperm f => endBperm f o.c o.k s
  | .bfsc f => endBfsc f o.c o.k s
  | _ => s

/-- An operation that does not end yet: a pass, which has its own step, and a WLD whose destination array is busy (R290). -/
def opHeld (s : State) (o : ArrayOp) : Bool :=
  match o.i with
  | .mmar _ => true
  | .wld f => wldHeld s f o.c
  | _ => false

/-- The accumulators that an operation reads. -/
def opAccs (i : Instr) : List Nat :=
  match i with
  | .mma f => [fld f 10 6]
  | .mmas f => [fld f 10 6]
  | .mmag f => [fld f 10 6]
  | .accrd f => [fld f 6 6]
  | _ => []

/-- The bytes of the vector that a butterfly operation reads. -/
def vecMemory (s : State) (o : ArrayOp) (e : UId × Nat) : List (Nat × Nat) :=
  let g := tagOf s e.1 e.2
  [(locUnit e.1 (2048 * g.toff), vecLen (efTy g.ef) (o.k.headD 0).toNat)]

/-- The memory that an operation reads: its tags and its accumulators. -/
def opMemory (s : State) (o : ArrayOp) : List (Nat × Nat) :=
  let op := ((opOf o.i).getD 0).toNat
  (match tileUse s op ((fieldsOf o.i).getD (unpack 0)) o.c with
   | some (.ok n) => n.reads.flatMap (if op ≥ 0xC0 then vecMemory s o else tagMemory s)
   | _ => []) ++ (opAccs o.i).flatMap (accMemory s o.c.u)

/-- An operation ends: its arrays are free, and what it has read is noted (R469). -/
def leaveArray (s : State) (o : ArrayOp) : State := noteArray o.c (opMemory s o) (endOp o s)

/-- The array operation of a CU ends. -/
def bodyArrayOpEnd (u : UId) (s : State) : State :=
  match s.tn.ops.find? fun o => o.c.u == u with
  | none => s
  | some o => if opHeld s o || !occupies (ctxOf s u.ctx) then s else endOf o (leaveArray s o)

/-- ARRAY_OP_END. -/
def execArrayOpEnd (u : UId) (s : State) : Host.Outcome State Fault Refusal := done s (bodyArrayOpEnd u s)

end Sys2Proof.Machine
end

