-- ==== Sys2Proof/Machine/Capability.lean ====
section
/-!
DEFINITION. The capability unit (07 R204 to R209): allocation, derivation, revocation and inspection. Its operations act
when they issue; their results leave MU (3, 0).
-/

namespace Sys2Proof.Machine

open Sys2Proof

/-- The pointer to a capability with offset 0. -/
def capPtr (i : Nat) : Word := BitVec.ofNat 64 (3 * 2 ^ 62 + i * 2 ^ 44)

/-- A reply of the capability unit to both copies (R471). -/
def capReply (f : Fields) (F : Ready) (v w : Word) (s : State) : State := replyPair (hubOf F.u) f F v w s

/-- Writes the entry of the next index and takes the index; no checker goes on holding what stood there (log entry 92). -/
def takeIndex (f : Fields) (F : Ready) (e : CapEnt) (s : State) : State :=
  let x := ctxOf s F.u.ctx
  match translateNow s x .write (x.ctb + 16 * x.nextidx) with
  | .error e => raise F (xInfo e) s
  | .ok a =>
    let s := updCtx (dropTab (wrBytes s a.phys (capBytes e)) F.u.ctx x.nextidx) F.u.ctx fun x => { x with nextidx := x.nextidx + 1 }
    capReply f F (capPtr x.nextidx) 0 s

/-- A number rounded up to a multiple. -/
def roundUpTo (n m : Nat) : Nat := (n + m - 1) / m * m

/-- CAP.ALLOC (R206). -/
def bodyCapAlloc (f : Fields) (F : Ready) (s : State) : State :=
  let x := ctxOf s F.u.ctx
  let n := F.l.val.toNat
  let b := roundUpTo x.htop (2 ^ (6 + fld f 0 4))
  if n == 0 || n ≥ 2 ^ 44 then capReply f F 0 3 s
  else if x.nextidx ≥ 2 ^ 18 then capReply f F 0 2 s
  else if b + n > x.hbase + x.hsize then capReply f F 0 1 s
  else
    let t := takeIndex f F { base := b, len := n, root := x.nextidx, w := fld f 4 1 == 0, v := true } s
    if (ctxOf t F.u.ctx).nextidx == x.nextidx then t else updCtx t F.u.ctx fun x => { x with htop := b + n, htopw := true }

/-- CAP.ALLOC. -/
def execCapAlloc (f : Fields) (s : State) : Host.Outcome State Fault Refusal :=
  runLanes (laneBoth f (once (atHub (.capAlloc f) [] (bodyCapAlloc f)))) s

/-- CAP.NARROW (R207) by its right operand. -/
def bodyCapNarrow (f : Fields) (v : Word) (F : Ready) (s : State) : State :=
  let x := ctxOf s F.u.ctx
  let p := F.l.val
  let m := v.toNat
  if winOf p != 3 then raiseA F 0x07 p s
  else if m == 0 || m ≥ 2 ^ 44 then capReply f F 0 3 s
  else match capDeref s (hubOf F.u) p m false, capLive s (hubOf F.u) p with
  | .ok va, .ok e =>
    if x.nextidx ≥ 2 ^ 18 then capReply f F 0 2 s
    else takeIndex f F { base := va, len := m, root := e.root, w := e.w && fld f 6 1 == 0, v := true } (capTouch s (hubOf F.u) (fcol F) p)
  | .error e, _ => raise F e s
  | _, .error e => raise F e s

/-- CAP.NARROW. -/
def execCapNarrow (f : Fields) (s : State) : Host.Outcome State Fault Refusal :=
  runLanes (laneBoth f (once fun F s =>
    atHub (.capNarrow f) [rightOp f F s] (bodyCapNarrow f (rightOp f F s)) F s)) s

/-- CAP.FREE (R208): the bit of the index is set, the status says whether a live index was revoked, and every checker of the paddock has dropped
the line when the status leaves. -/
def bodyCapFree (f : Fields) (F : Ready) (s : State) : State :=
  let x := ctxOf s F.u.ctx
  let p := F.l.val
  let i := capIdx p
  if winOf p != 3 then raiseA F 0x07 p s
  else match translateNow s x .write (x.rvb + i / 8) with
  | .error e => raise F (xInfo e) s
  | .ok a =>
    let old := rd8 s a.phys
    let live := match capLive s (hubOf F.u) p with | .ok _ => true | .error _ => false
    let st : Word := if i == 0 then 2 else if i < x.nextidx && live then 0 else 1
    capReply f F st st (dropBits (wrBytes s a.phys [old ||| BitVec.ofNat 8 (2 ^ (i % 8))]) F.u.ctx i)

/-- CAP.FREE. -/
def execCapFree (f : Fields) (s : State) : Host.Outcome State Fault Refusal :=
  runLanes (laneBoth f (once (atHub (.capFree f) [] (bodyCapFree f)))) s

/-- The state that CAP.INFO reports (R209). -/
def capState (s : State) (m : UId) (p : Word) : Nat :=
  if winOf p != 3 then 4
  else if capIdx p == 0 then 2
  else if capIdx p ≥ (ctxOf s m.ctx).nextidx then 3
  else match capLive s m p with
  | .ok _ => 0
  | .error _ => 1

/-- The value of CAP.INFO (R209). -/
def capInfoVal (f : Fields) (m : UId) (p : Word) (s : State) : Word :=
  let st := capState s m p
  if f.fn == 3 then BitVec.ofNat 64 st
  else if st != 0 then 0
  else match capEntry s m (capIdx p) with
  | .error _ => 0
  | .ok e =>
    if f.fn == 0 then BitVec.ofNat 64 e.len
    else if f.fn == 1 then BitVec.ofNat 64 (capOff p)
    else if f.fn == 2 then BitVec.ofNat 64 e.base
    else truth e.w

/-- CAP.INFO at the capability unit. -/
def bodyCapInfo (f : Fields) (F : Ready) (s : State) : State :=
  let v := capInfoVal f (hubOf F.u) F.l.val s
  replyBoth (hubOf F.u) f F v v (capTouch s (hubOf F.u) (fcol F) F.l.val)

/-- CAP.INFO. -/
def execCapInfo (f : Fields) (s : State) : Host.Outcome State Fault Refusal :=
  runLanes (laneBoth f (atHub (.capInfo f) [] (bodyCapInfo f))) s

/-- The four capability requests at the hub of an outing's first member (R204). -/
def performCapAlloc (q : Req) (s : State) : State := bodyCapAlloc (reqFields q) q.c s
/-- CAP.NARROW at the hub. -/
def performCapNarrow (q : Req) (s : State) : State := bodyCapNarrow (reqFields q) (reqK q 0) q.c s
/-- CAP.FREE at the hub. -/
def performCapFree (q : Req) (s : State) : State := bodyCapFree (reqFields q) q.c s
/-- CAP.INFO at the hub. -/
def performCapInfo (q : Req) (s : State) : State := bodyCapInfo (reqFields q) q.c s

end Sys2Proof.Machine
end

