-- ==== Sys2Proof/Machine/Colour.lean ====
section
/-!
DEFINITION. Activations (03 R73 to R79, R97 to R100): the four colour instructions, the release of a colour, and the
surfacing of an imprecise error with its purge (20 R467).
-/

namespace Sys2Proof.Machine

open Sys2Proof

/-! ### Call records (R74) -/

/-- The lowest free colour of a copy (R73). -/
def lowestFree (x : Ctx) (k : Nat) : Option Nat :=
  ((List.range 4095).map (· + 1)).find? fun c => (recOf x k c).isNone

/-! ### The four instructions (R97 to R100) -/

/-- COLOUR.NEW at the colour unit (R97). -/
def bodyColourNew (f : Fields) (F : Ready) (s : State) : State :=
  match lowestFree (ctxOf s F.u.ctx) F.u.copy with
  | none => raiseK F 0x0F s
  | some c =>
    let r : CallRec := { copy := F.u.copy, col := c, pcol := fcol F, pitr := fitr F, sx := F.u.x, sy := F.u.y, ss := F.stn,
                         narg := fld f 0 3, nrec := 0, state := .opened, cm := false, tries := 0, site := fld f 3 16, fwd := 0,
                         args := List.replicate 7 none }
    emitBoth f F kValue (BitVec.ofNat 64 c) (storeRec s F.u r)
/-- COLOUR.NEW. -/
def execColourNew (f : Fields) (s : State) : Host.Outcome State Fault Refusal :=
  runLanes (laneBoth f (atHub (.colourNew f) [] (bodyColourNew f))) s

/-- The record that COLOUR.ARG writes (R98): that of R, or of its FWD in FORWARD. A FWD colour that is FREE by then names none, as a FREE R does
(log entry 93). -/
def argRec (x : Ctx) (k : Nat) (v : Word) : Option CallRec :=
  if v == 0 || v.toNat > 4095 then none
  else match usedRec x k v.toNat with
  | none => none
  | some r => if r.state == .forward then usedRec x k r.fwd else some r

/-- The record accesses of a COLOUR.ARG (R73): that of R, and that of its FWD. -/
def touchArg (s : State) (c k v : Nat) : State :=
  let t := touchRec s c k v
  match usedRec (ctxOf t c) k v with
  | some r => if r.state == .forward then touchRec t c k r.fwd else t
  | none => t

/-- COLOUR.ARG at the colour unit (R98). The last argument makes an OPEN record LIVE; one that came through a FORWARD colour leaves a record in any
other state as it is (log entry 93). -/
def bodyColourArg (f : Fields) (F : Ready) (s : State) : State :=
  let live := isLive (ctxOf s F.u.ctx)
  let s := touchArg s F.u.ctx F.u.copy (rVal F).toNat
  let x := ctxOf s F.u.ctx
  if live && !isLive x then s
  else match argRec x F.u.copy (rVal F) with
  | none => raiseK F 0x0E s
  | some r =>
    let n := fld f 0 3
    if n ≥ r.narg || (r.args.getD n none).isSome then raiseK F 0x0E s
    else
      let a : CallArg := { val := F.l.val, ax := F.u.x, ay := F.u.y, as := F.stn, ak := F.l.kind }
      let last := r.nrec + 1 == r.narg
      let r' := { r with args := r.args.set n (some a), nrec := r.nrec + 1,
                         state := if last && r.state == .opened then .live else r.state }
      let s := storeRec s F.u r'
      let s := if last && r.col != (rVal F).toNat then
          (match recOf x F.u.copy (rVal F).toNat with | some q => storeRec s F.u { q with state := .free } | none => s)
        else s
      emitFrom s F.u F.u r.col 0 f.ta F.l.kind F.l.val false

/-- COLOUR.ARG (R98): an R token that is null or end-of-fibre names no colour. -/
def laneColourArg (f : Fields) (F : Ready) (s : State) : State :=
  match F.r with
  | none => s
  | some t => if isNull t || isEof t then s else atHub (.colourArg f) [] (bodyColourArg f) F s
/-- COLOUR.ARG. -/
def execColourArg (f : Fields) (s : State) : Host.Outcome State Fault Refusal := runLanes (laneColourArg f) s

/-- COLOUR.RET at the colour unit (R99). -/
def bodyColourRet (f : Fields) (F : Ready) (s : State) : State :=
  withRec s F.u.ctx F.u.copy (fcol F) id fun r s =>
    if r.state == .forward then s
    else
      let s := if r.state == .ended then s else storeRec s F.u { r with state := .returned }
      let s := emitFrom s F.u F.u r.pcol r.pitr f.ta F.l.kind F.l.val false
      emitFrom s F.u F.u r.pcol r.pitr f.tb kValue (BitVec.ofNat 64 r.site) false
/-- COLOUR.RET. R62 settles a null or end-of-fibre L before the rule for colour 0 and for FREE and FORWARD colours is looked at (log entry
93). -/
def execColourRet (f : Fields) (s : State) : Host.Outcome State Fault Refusal :=
  runLanes (laneBoth f (atHub (.colourRet f) [] (bodyColourRet f))) s

/-- COLOUR.END at the colour unit (R100). -/
def bodyColourEnd (F : Ready) (s : State) : State :=
  withRec s F.u.ctx F.u.copy (fcol F) id fun r s =>
    if r.state == .forward || r.state == .ended then s else storeRec s F.u { r with state := .ended }
/-- COLOUR.END. -/
def execColourEnd (f : Fields) (s : State) : Host.Outcome State Fault Refusal :=
  runLanes (atHub (.colourEnd f) [] bodyColourEnd) s

/-- The four colour requests at the hub of an outing's first member. -/
def performColourNew (q : Req) (s : State) : State := bodyColourNew (reqFields q) q.c s
/-- COLOUR.ARG at the hub. -/
def performColourArg (q : Req) (s : State) : State := bodyColourArg (reqFields q) q.c s
/-- COLOUR.RET at the hub. -/
def performColourRet (q : Req) (s : State) : State := bodyColourRet (reqFields q) q.c s
/-- COLOUR.END at the hub. -/
def performColourEnd (q : Req) (s : State) : State := bodyColourEnd q.c s

/-! ### Sweeping colours (R76, R78) -/

/-- The indices of the spill table that hold tokens of some colours of a copy; none is looked at where nothing is spilled. -/
def spilledOf (s : State) (c k : Nat) (cols : List Nat) : List Spilled :=
  if spilledCount s c == 0 then []
  else (List.range (2 ^ (ctxOf s c).splLog)).filterMap fun i =>
    match spillAt s c i with
    | some e => if e.w.u.copy == k && cols.contains e.w.tok.col.toNat then some e else none
    | none => none

/-- The unit belongs to a copy and the colour to a set. -/
def hitBy (c k : Nat) (cols : List Nat) (u : UId) (col : Nat) : Bool := u.ctx == c && u.copy == k && cols.contains col

/-- Discards the waiting tokens of some colours: the matching stores, token holds and spill table. -/
def sweepTokens (s : State) (c k : Nat) (cols : List Nat) : State :=
  let s := (spilledOf s c k cols).foldl spillTake s
  { s with fab := { s.fab with waiting := s.fab.waiting.filter fun w => !hitBy c k cols w.u w.tok.col.toNat } }

/-- How many waiting tokens some colours have. -/
def tokensOf (s : State) (c k : Nat) (cols : List Nat) : Nat :=
  (s.fab.waiting.filter fun w => hitBy c k cols w.u w.tok.col.toNat).length + (spilledOf s c k cols).length

/-- A colour's buffered stores (R76). -/
def buffered (s : State) (c k col : Nat) : Bool := s.mu.pbuf.any fun e => e.mu.ctx == c && e.mu.copy == k && e.col == col

/-- A member's leftover tokens of some colours are swept as orphans (R76). -/
def sweepOrphans (s : State) (c k : Nat) (cols : List Nat) : State := addOrph (sweepTokens s c k cols) c (tokensOf s c k cols)

/-- The kind under which a member of an outing reports that it buffers no store of a colour and has swept its tokens. -/
def sweptKind (k col : Nat) : Nat := 16 + 2 * col + k

/-- A member's part in the release of a colour (R76): while it buffers a store of the colour it does not answer, and is asked again. -/
def sweepMember (s : State) (c k col : Nat) : State :=
  if buffered s c k col then s
  else
    let x := ctxOf s c
    sendOut (sweepOrphans s c k [col]) x 0 (.msg (.sync c x.member (sweptKind k col)))

/-- The members of an outing that have not reported a colour as swept. -/
def unswept (x : Ctx) (k col : Nat) : List Nat :=
  (List.range x.members.length).filter fun m => m != x.member && !x.syncs.contains (sweptKind k col, m)

/-- The release of an ENDED colour completes (R76): none of its stores is buffered on any member, no child record is other than FREE, and
its leftover tokens are swept as orphans. In an outing the other members are asked, and the release waits for their answers. -/
def bodyActivationRelease (c k col : Nat) (s : State) : State :=
  withRec s c k col id fun r s =>
    let x := ctxOf s c
    if !hubHere x || r.state != .ended || buffered s c k col || (x.recs.any fun q => q.copy == k && q.pcol == col && q.col != col) then s
    else if !(unswept x k col).isEmpty then
      (unswept x k col).foldl (fun s m => sendOut s x m (.msg (.sweep c k col))) s
    else
      let s := updCtx (sweepOrphans s c k [col]) c fun x => { x with syncs := x.syncs.filter fun e => e.1 != sweptKind k col }
      storeRec s { ctx := c, copy := k, x := 3, y := 0 } { r with state := .free }

/-- ACTIVATION_RELEASE_COMPLETE. -/
def execActivationReleaseComplete (c k col : Nat) (s : State) : Host.Outcome State Fault Refusal :=
  done s (bodyActivationRelease c k col s)

/-! ### Purges (R78, R79) -/

/-- The activation that an error of a colour purges (R79); none where the context is killed. -/
def purgeTarget (x : Ctx) (k : Nat) : Nat → Nat → Option Nat
  | 0, _ => none
  | n + 1, c =>
    match recOf x k c with
    | none => none
    | some r =>
      match r.state with
      | .opened => some c
      | .live => some c
      | .forward => purgeTarget x k n r.fwd
      | .returned => purgeTarget x k n r.pcol
      | .ended => purgeTarget x k n r.pcol
      | .free => none

/-- The PCOL chain of a colour reaches `c` (R78). -/
def reaches (x : Ctx) (k c : Nat) : Nat → Nat → Bool
  | 0, _ => false
  | n + 1, d => d == c || match recOf x k d with | some r => d != 0 && reaches x k c n r.pcol | none => false

/-- The purge set of a colour (R78). -/
def purgeSet (x : Ctx) (k c : Nat) : List Nat :=
  (x.recs.filter fun r => r.copy == k && reaches x k c 4096 r.col).map fun r => r.col

/-- The write-once words of an MU that a purge leaves without a parked reader become EMPTY, and their bytes zero; any other goes on with the head
of what is left (R198). -/
def emptyDeferred (s : State) (gone : List Waiter) : State :=
  (gone.filter fun w => w.wk == 0).foldl (fun s w => deferHead s w.mu w.off) s

/-- A purge stops the reading fibre units of its set, and their commands that still wait are dropped (R353). -/
def stopCopies (hit : UId → Nat → Bool) (c : CopyState) : CopyState :=
  { c with queue := c.queue.filter fun q => !hit q.mu (fcol q.c),
           copies := c.copies.map fun p => if hit p.mu (fcol p.c) && p.st != .complete then { p with st := .complete, strm := [] } else p,
           toQueues := c.toQueues.filter fun f => !hit f.u f.tok.col.toNat }

/-- Discards everything that a purge set has in flight, buffered or parked (R78 step 4, R189, R472). -/
def discardSet (s : State) (c k : Nat) (cols : List Nat) : State :=
  let hit := hitBy c k cols
  let s := sweepTokens s c k cols
  let gone := s.mu.waiters.filter fun w => hit w.mu w.col
  let s := { s with
    fab := { s.fab with ready := s.fab.ready.filter fun r => !hit r.u (fcol r),
                        frames := s.fab.frames.filter fun r => !hit r.u r.col,
                        probes := s.fab.probes.filter fun p => !hit p.u p.tok.col.toNat,
                        parked := s.fab.parked.filter fun r => !hit r.f.u (fcol r.f) },
    mu := { s.mu with pbuf := s.mu.pbuf.filter fun e => !hit e.mu e.col,
                      waiters := s.mu.waiters.filter fun w => !hit w.mu w.col },
    un := { s.un with twins := s.un.twins.filter fun t => !hit t.f.u (fcol t.f) }, cp := stopCopies hit s.cp }
  emptyDeferred s gone

/-- The marker of a purged activation is gone with it. -/
def dropMarker (s : State) (c k : Nat) (cols : List Nat) : State :=
  updCtx s c fun x => match x.marker with
    | some m => if hitBy c k cols m.f.u (fcol m.f) then { x with marker := none } else x
    | none => x

/-- The colour unit sends a recorded argument to the station that recorded it, which emits it to its TA under the new
colour (R78 step 6). -/
def resendArg (c k col : Nat) (s : State) (a : CallArg) : State :=
  let u : UId := { ctx := c, copy := k, x := a.ax, y := a.ay }
  let x := ctxOf s c
  if onModule x u.x then emitFrom s u u col 0 (unpack (stationWord s u a.as)).ta a.ak a.val false
  else sendOut s x (memberAt x u.x) (.msg (.resend c k col a))

/-- This member's part of a purge (R78 step 4). The phases of an outing whose boundary is not over begin anew with the arrivals that are left,
since the purge withdraws those of its set (R472). -/
def purgeHere (s : State) (c k : Nat) (set : List Nat) : State :=
  updCtx (dropMarker (discardSet s c k set) c k set) c fun x => { x with phases := [] }

/-- The purge of one colour of one copy (R78 steps 2 to 6). -/
def purgeColour (s : State) (c k col kind : Nat) : State :=
  withRec s c k col id fun r s =>
    let x := ctxOf s c
    let set := purgeSet x k col
    if (x.recs.any fun q => q.copy == k && set.contains q.col && q.cm) || r.tries == 3 then killCtx s c kind
    else
      let hub : UId := { ctx := c, copy := k, x := 3, y := 0 }
      let s := tellMembers (purgeHere s c k set) c (.purge c k set)
      let s := (x.recs.filter fun q => q.copy == k && set.contains q.col && q.col != col).foldl
        (fun s q => storeRec s hub { q with state := .free }) s
      match lowestFree (ctxOf s c) k with
      | none => killCtx s c 0x0F
      | some n =>
        let s := storeRec s hub { r with col := n, tries := r.tries + 1 }
        let s := storeRec s hub { r with state := if r.state == .opened then .forward else .free, fwd := n }
        (r.args.filterMap id).foldl (resendArg c k n) s

/-- The colour of a copy with a given spawn path (R472). -/
def colourAt (x : Ctx) (k : Nat) (path : List Nat) : Option Nat :=
  (x.recs.find? fun r => r.copy == k && r.state != .forward && spawnPath x k 4096 r.col == path).map fun r => r.col

/-- A purge inside its freeze: in a REDUNDANT context it is applied in both copies to the activation of one spawn path
(R472). -/
def runPurge (s : State) (c : Nat) (p : PurgeReq) : State :=
  let x := ctxOf s c
  let path := spawnPath x p.copy 4096 p.col
  (copiesOf x).foldl (fun s k =>
    if k == p.copy then purgeColour s c k p.col p.kind
    else match colourAt x k path with
    | some d => purgeColour s c k d p.kind
    | none => s) s

/-- Every other member of an outing has reported that it is frozen. -/
def othersFrozen (x : Ctx) : Bool := (List.range x.members.length).all fun k => k == x.member || x.syncs.contains (1, k)

/-- Runs the purges that wait for the freeze at the colour unit, and clears the purge reason (R78 step 7, R393). -/
def runPurges (s : State) (c : Nat) : State :=
  let s := (ctxOf s c).purges.foldl (fun s p => runPurge s c p) s
  clearReasons (updCtx s c fun x => { x with purges := [] }) c fun f => { f with purge := false }

/-- A purge covers a colour of a copy (R467): it lies in the purge set, in the other copy by its spawn path (R472). -/
def purgeCovers (x : Ctx) (p : PurgeReq) (k c : Nat) : Bool :=
  match (if p.copy == k then some p.col else colourAt x k (spawnPath x p.copy 4096 p.col)) with
  | some d => (purgeSet x k d).contains c
  | none => false

/-- A purge joins those that wait for the freeze: one that a waiting purge covers is that purge, and those that it covers are this one
(R467). -/
def addPurge (x : Ctx) (p : PurgeReq) : List PurgeReq :=
  if x.purges.any fun q => purgeCovers x q p.copy p.col then x.purges
  else (x.purges.filter fun q => !purgeCovers x p q.copy q.col) ++ [p]

/-- The message of a twin's mismatch that the purge `p` settles too (R472). -/
def twinError (x : Ctx) (p : PurgeReq) (e : ErrMsg) : Bool :=
  e.u.ctx == x.id && p.kind == 0x13 && e.kind == 0x13 && e.u.copy != p.copy && !e.sent
    && match purgeTarget x e.u.copy 8192 e.col with | some d => purgeCovers x p e.u.copy d | none => false

/-- An error surfaces at the colour unit (R467, R79). -/
def surface (s : State) (c k col kind : Nat) : State :=
  let x := ctxOf s c
  match x.cst with
  | .draining => killCtx s c kind
  | .running =>
    match purgeTarget x k 8192 col with
    | none => killCtx s c kind
    | some d =>
      let p : PurgeReq := { copy := k, col := d, kind := kind }
      requestFreeze (updCtx s c fun x => { x with purges := addPurge x p }) c fun f => { f with purge := true }
  | .frozen =>
    match purgeTarget x k 8192 col with
    | none => killCtx s c kind
    | some d =>
      let p : PurgeReq := { copy := k, col := d, kind := kind }
      if othersFrozen x then runPurge { s with un := { s.un with errs := s.un.errs.filter fun e => !twinError x p e } } c p
      else requestFreeze (updCtx s c fun x => { x with purges := addPurge x p }) c fun f => { f with purge := true }
  | _ => s

/-- The colour unit has acknowledged an error message: the reply that it held back is sent (R468). -/
def errorDone (s : State) (e : ErrMsg) : State :=
  e.out.foldl sendOne { s with un := { s.un with errs := s.un.errs.erase e }, fab := { s.fab with flights := s.fab.flights ++ e.reply } }

/-- The first member's colour unit has acknowledged the message of a unit of this one. -/
def errorAcked (s : State) (u : UId) (col kind : Nat) : State :=
  match s.un.errs.find? fun e => e.sent && e.u == u && e.col == col && e.kind == kind with
  | some e => errorDone s e
  | none => s

/-- The message number `n` of a context reaches its colour unit: the reply it held back is sent (R468) and the error
surfaces; in an outing the unit stands on the first member, and the reply waits for its acknowledgement. -/
def bodyErrorSurface (c n : Nat) (s : State) : State :=
  match (s.un.errs.filter fun e => e.u.ctx == c)[n]? with
  | none => s
  | some e =>
    let x := ctxOf s c
    if hubHere x then surface (errorDone s e) c e.u.copy e.col e.kind
    else if e.sent then s
    else sendOut { s with un := { s.un with errs := s.un.errs.map fun q => if q == e then { q with sent := true } else q } } x 0
      (.msg (.error e.u e.col e.kind))

/-- ERROR_SURFACE. -/
def execErrorSurface (c n : Nat) (s : State) : Host.Outcome State Fault Refusal := done s (bodyErrorSurface c n s)

end Sys2Proof.Machine
end

