-- ==== Sys2Proof/Machine/Crypto.lean ====
section
/-!
DEFINITION. The two algorithms that 14 R354 and R359 name and do not define: SHA-384 and the ECDSA P-384 check, as the public standards
give them (log entry 41).
-/

namespace Sys2Proof.Machine

open Sys2Proof

/-! ### SHA-384 -/

/-- The round constants: the fractional parts of the cube roots of the first eighty primes. -/
def shaK : List Word :=
  [0x428A2F98D728AE22, 0x7137449123EF65CD, 0xB5C0FBCFEC4D3B2F, 0xE9B5DBA58189DBBC,
   0x3956C25BF348B538, 0x59F111F1B605D019, 0x923F82A4AF194F9B, 0xAB1C5ED5DA6D8118,
   0xD807AA98A3030242, 0x12835B0145706FBE, 0x243185BE4EE4B28C, 0x550C7DC3D5FFB4E2,
   0x72BE5D74F27B896F, 0x80DEB1FE3B1696B1, 0x9BDC06A725C71235, 0xC19BF174CF692694,
   0xE49B69C19EF14AD2, 0xEFBE4786384F25E3, 0x0FC19DC68B8CD5B5, 0x240CA1CC77AC9C65,
   0x2DE92C6F592B0275, 0x4A7484AA6EA6E483, 0x5CB0A9DCBD41FBD4, 0x76F988DA831153B5,
   0x983E5152EE66DFAB, 0xA831C66D2DB43210, 0xB00327C898FB213F, 0xBF597FC7BEEF0EE4,
   0xC6E00BF33DA88FC2, 0xD5A79147930AA725, 0x06CA6351E003826F, 0x142929670A0E6E70,
   0x27B70A8546D22FFC, 0x2E1B21385C26C926, 0x4D2C6DFC5AC42AED, 0x53380D139D95B3DF,
   0x650A73548BAF63DE, 0x766A0ABB3C77B2A8, 0x81C2C92E47EDAEE6, 0x92722C851482353B]
  ++ [0xA2BFE8A14CF10364, 0xA81A664BBC423001, 0xC24B8B70D0F89791, 0xC76C51A30654BE30,
   0xD192E819D6EF5218, 0xD69906245565A910, 0xF40E35855771202A, 0x106AA07032BBD1B8,
   0x19A4C116B8D2D0C8, 0x1E376C085141AB53, 0x2748774CDF8EEB99, 0x34B0BCB5E19B48A8,
   0x391C0CB3C5C95A63, 0x4ED8AA4AE3418ACB, 0x5B9CCA4F7763E373, 0x682E6FF3D6B2B8A3,
   0x748F82EE5DEFB2FC, 0x78A5636F43172F60, 0x84C87814A1F0AB72, 0x8CC702081A6439EC,
   0x90BEFFFA23631E28, 0xA4506CEBDE82BDE9, 0xBEF9A3F7B2C67915, 0xC67178F2E372532B,
   0xCA273ECEEA26619C, 0xD186B8C721C0C207, 0xEADA7DD6CDE0EB1E, 0xF57D4F7FEE6ED178,
   0x06F067AA72176FBA, 0x0A637DC5A2C898A6, 0x113F9804BEF90DAE, 0x1B710B35131C471B,
   0x28DB77F523047D84, 0x32CAAB7B40C72493, 0x3C9EBE0A15C9BEBC, 0x431D67C49C100D4C,
   0x4CC5D4BECB3E42B6, 0x597F299CFC657E2A, 0x5FCB6FAB3AD6FAEC, 0x6C44198C4A475817]

/-- The first hash value: the fractional parts of the square roots of the ninth to the sixteenth prime. -/
def shaH : List Word :=
  [0xCBBB9D5DC1059ED8, 0x629A292A367CD507, 0x9159015A3070DD17, 0x152FECD8F70E5939,
   0x67332667FFC00B31, 0x8EB44A8768581511, 0xDB0C2E0D64F98FA7, 0x47B5481DBEFA4FA4]

/-- A rotation to the right. -/
def rotr (x : Word) (n : Nat) : Word := (x >>> n) ||| (x <<< (64 - n))

/-- The next word of the message schedule; `w` holds the last sixteen, the oldest first. -/
def shaNext (w : List Word) : Word :=
  let a := w.getD 1 0
  let b := w.getD 14 0
  let s0 := rotr a 1 ^^^ rotr a 8 ^^^ (a >>> 7)
  let s1 := rotr b 19 ^^^ rotr b 61 ^^^ (b >>> 6)
  w.getD 0 0 + s0 + w.getD 9 0 + s1

/-- One round with its constant and its word on the eight working variables. -/
def shaRound (k x : Word) (v : List Word) : List Word :=
  let a := v.getD 0 0
  let b := v.getD 1 0
  let c := v.getD 2 0
  let d := v.getD 3 0
  let e := v.getD 4 0
  let f := v.getD 5 0
  let g := v.getD 6 0
  let h := v.getD 7 0
  let t1 := h + (rotr e 14 ^^^ rotr e 18 ^^^ rotr e 41) + ((e &&& f) ^^^ (~~~e &&& g)) + k + x
  let t2 := (rotr a 28 ^^^ rotr a 34 ^^^ rotr a 39) + ((a &&& b) ^^^ (a &&& c) ^^^ (b &&& c))
  [t1 + t2, a, b, c, d + t1, e, f, g]

/-- The rounds of one block: the constants left, the sixteen words ahead, the working variables. -/
def shaRounds : List Word → List Word → List Word → List Word
  | [], _, v => v
  | k :: ks, w, v => shaRounds ks (w.drop 1 ++ [shaNext w]) (shaRound k (w.getD 0 0) v)

/-- The big-endian number of bytes. -/
def beNat (bs : List Byte) : Nat := bs.foldl (fun n b => 256 * n + b.toNat) 0

/-- A number as `n` big-endian bytes. -/
def beBytes (v n : Nat) : List Byte := (leBytes v n).reverse

/-- One block of 128 bytes. -/
def shaBlock (h : List Word) (bs : List Byte) : List Word :=
  let w := (List.range 16).map fun k => BitVec.ofNat 64 (beNat ((bs.drop (8 * k)).take 8))
  List.zipWith (· + ·) h (shaRounds shaK w h)

/-- The padding of a message. -/
def shaPad (bs : List Byte) : List Byte :=
  let n := bs.length
  bs ++ [0x80] ++ List.replicate ((128 - (n + 17) % 128) % 128) 0 ++ beBytes (8 * n) 16

/-- The blocks of a padded message. -/
def shaLoop : Nat → List Byte → List Word → List Word
  | 0, _, h => h
  | n + 1, bs, h => shaLoop n (bs.drop 128) (shaBlock h (bs.take 128))

/-- SHA-384: 48 bytes. -/
def sha384 (bs : List Byte) : List Byte :=
  let p := shaPad bs
  ((shaLoop (p.length / 128) p shaH).take 6).flatMap fun w => beBytes w.toNat 8

/-! ### ECDSA over P-384 -/

/-- The field's prime. -/
def p384 : Nat := 2 ^ 384 - 2 ^ 128 - 2 ^ 96 + 2 ^ 32 - 1
/-- The order of the base point. -/
def n384 : Nat :=
  39402006196394479212279040100143613805079739270465446667946905279627659399113263569398956308152294913554433653942643
/-- The curve's constant term. -/
def b384 : Nat := 0xB3312FA7E23EE7E4988E056BE3F82D19181D9C6EFE8141120314088F5013875AC656398D8A2ED19D2A85C8EDD3EC2AEF
/-- The base point. -/
def g384 : Nat × Nat :=
  (0xAA87CA22BE8B05378EB1C71EF320AD746E1D3B628BA79B9859F741E082542A385502F25DBF55296C3A545E3872760AB7,
   0x3617DE4A96262C6F5D9E98BF9292DC29F8F41DBD289A147CE9DA3113B5F0B8C00A60B1CE1D7E819D7A431D7C90EA0E5F)

/-- A power modulo m, of an exponent of at most `n` bits. -/
def powMod (m : Nat) : Nat → Nat → Nat → Nat
  | 0, _, _ => 1 % m
  | n + 1, b, e =>
    let h := powMod m n (b * b % m) (e / 2)
    if e % 2 == 1 then b * h % m else h

/-- The inverse modulo a prime of 384 bits. -/
def invMod (m a : Nat) : Nat := powMod m 384 a (m - 2)

/-- The sum of two points; none is the point at infinity. -/
def ecAdd : Option (Nat × Nat) → Option (Nat × Nat) → Option (Nat × Nat)
  | none, q => q
  | p, none => p
  | some (x1, y1), some (x2, y2) =>
    if x1 == x2 && (y1 + y2) % p384 == 0 then none
    else
      let l := if x1 == x2 then (3 * x1 * x1 + p384 - 3) % p384 * invMod p384 (2 * y1 % p384) % p384
               else (y2 + p384 - y1) % p384 * invMod p384 ((x2 + p384 - x1) % p384) % p384
      let x := (l * l + 2 * p384 - x1 - x2) % p384
      some (x, (l * ((x1 + p384 - x) % p384) + p384 - y1) % p384)

/-- A multiple of a point by a number of at most `n` bits. -/
def ecMul : Nat → Nat → Option (Nat × Nat) → Option (Nat × Nat)
  | 0, _, _ => none
  | n + 1, k, q =>
    let h := ecMul n (k / 2) (ecAdd q q)
    if k % 2 == 1 then ecAdd q h else h

/-- The point lies on the curve and is not the point at infinity. -/
def onCurve (x y : Nat) : Bool :=
  x < p384 && y < p384 && y * y % p384 == (x * x * x + (p384 - 3) * x + b384) % p384

/-- The ECDSA signature (r, s) of a digest of 48 bytes under the private key `d`, with the secret number `k`. -/
def ecdsaSign (d k : Nat) (dig : List Byte) : List Byte :=
  match ecMul 384 k (some g384) with
  | some (x, _) => beBytes (x % n384) 48 ++ beBytes (invMod n384 k * (beNat dig + x % n384 * d) % n384) 48
  | none => []

/-- The signature (r, s) of a digest of 48 bytes checks against a public key of 96 bytes, x before y, all big-endian. -/
def ecdsaOk (key dig sig : List Byte) : Bool :=
  let qx := beNat (key.take 48)
  let qy := beNat (key.drop 48)
  let r := beNat (sig.take 48)
  let t := beNat (sig.drop 48)
  key.length == 96 && onCurve qx qy && 0 < r && r < n384 && 0 < t && t < n384 &&
    let w := invMod n384 t
    match ecAdd (ecMul 384 (beNat dig * w % n384) (some g384)) (ecMul 384 (r * w % n384) (some (qx, qy))) with
    | some (x, _) => x % n384 == r
    | none => false

end Sys2Proof.Machine
end

