-- ==== Sys2Proof/Machine/Image.lean ====
section
/-!
DEFINITION. Kernel images and argument blocks (14 R354 to R360): what the loader reads, the records of an image, its verification,
and the writing of its records into a paddock.
-/

namespace Sys2Proof.Machine

open Sys2Proof

/-! ### The loader's reads -/

/-- A read by the yard, the loader or another part of the device: bytes, a failed translation, or a host region that the
device does not own yet (R423). -/
inductive DevRes where
  | ok (bs : List Byte)
  | bad (e : XFault)
  | waits (region : Nat)

/-- `n` bytes at a virtual address of an address space, page by page; the first argument bounds the pages. -/
def devRead (s : State) (as : Nat) (sec : Bool) : Nat → Nat → Nat → DevRes
  | 0, _, _ => .ok []
  | k + 1, va, n =>
    if n == 0 then .ok []
    else if va ≥ 2 ^ 57 then .bad ⟨0x01, 0, 0, va⟩
    else
      let m := min n (4096 - va % 4096)
      match translateDev s as sec .read va with
      | .error e => .bad e
      | .ok a =>
        let own := !a.hr || (match findRegion s (regionOf a.phys) with | some r => r.own == .device | none => false)
        if a.hr && (findRegion s (regionOf a.phys)).isNone then .bad ⟨0x01, 16, 0, va⟩
        else if !own then .waits (regionOf a.phys)
        else match devRead s as sec k (va + m) (n - m) with
          | .ok bs => .ok (rdBytes s a.phys m ++ bs)
          | r => r

/-- `n` bytes at a virtual address, as a context's loader reads them. -/
def loaderRead (s : State) (x : Ctx) (va n : Nat) : DevRes := devRead s x.as (isSecure x) (n / 4096 + 2) va n

/-! ### The header and the records (R354, R355) -/

/-- `n` little-endian bytes of a list from `lo` on. -/
def bytesAt (bs : List Byte) (lo n : Nat) : Nat := leNat ((bs.drop lo).take n)

/-- The header's fields that the checks name (R354). -/
structure ImgHead where
  world : Nat
  part : Nat
  pw : Nat
  ph : Nat
  nsec : Nat
  ilen : Nat
  digest : List Byte
deriving DecidableEq, Repr

/-- The header of an image. -/
def imgHead (bs : List Byte) : ImgHead :=
  { world := bytesAt bs 6 1, part := bytesAt bs 7 1, pw := bytesAt bs 8 2, ph := bytesAt bs 10 2, nsec := bytesAt bs 12 4,
    ilen := bytesAt bs 48 8, digest := (bs.drop 64).take 48 }

/-- The header's own checks in step 1 of R359. -/
def headOk (bs : List Byte) : Bool :=
  let h := imgHead bs
  bytesAt bs 0 4 == 0x4E4B584C && bytesAt bs 4 2 == 1 && bytesAt bs 56 8 == 0 && bytesAt bs 208 48 == 0 && 1 ≤ h.nsec
    && h.nsec ≤ 8 && h.ilen % 8 == 0 && 256 + 16 * h.nsec ≤ h.ilen

/-- A record of an image: its section type, site, index (station, entry, register or level), offset, value, data bytes and line
tag, as *Table: Section types* places them. -/
structure ImgRec where
  ty : Nat
  x : Nat
  y : Nat
  idx : Nat
  off : Nat
  val : Nat
  data : List Byte
  tag : BitVec 16
deriving DecidableEq, Repr

/-- The length of the record that begins a list, by its section type. -/
def recSize (ty : Nat) (bs : List Byte) : Nat :=
  match ty with
  | 2 => 8
  | 4 => 72
  | 5 => 16 + (bytesAt bs 8 4 + 7) / 8 * 8
  | 8 => 8
  | _ => 16

/-- A record without data. -/
def recPlain (ty : Nat) (bs : List Byte) (idx off val : Nat) : ImgRec :=
  { ty := ty, x := bytesAt bs 0 1, y := bytesAt bs 1 1, idx := idx, off := off, val := val, data := [], tag := 0 }

/-- A record's bytes as its fields, with the check of its reserved bytes. -/
def recOfBytes (ty : Nat) (bs : List Byte) : Option ImgRec :=
  let z (lo n : Nat) : Bool := bytesAt bs lo n == 0
  let i := bytesAt bs 2 1
  match ty with
  | 1 => if z 3 5 then some (recPlain ty bs i 0 (bytesAt bs 8 8)) else none
  | 2 => if z 3 1 then some (recPlain ty bs i 0 (bytesAt bs 4 4)) else none
  | 3 => if z 3 5 then some (recPlain ty bs i 0 (bytesAt bs 8 8)) else none
  | 4 => if z 3 5 then some (recPlain ty bs i 0 (bytesAt bs 8 64)) else none
  | 5 =>
    let n := bytesAt bs 8 4
    if z 2 2 && z 14 2 && z (16 + n) (recSize 5 bs - 16 - n) then
      some { recPlain ty bs 0 (bytesAt bs 4 4) 0 with data := (bs.drop 16).take n, tag := BitVec.ofNat 16 (bytesAt bs 12 2) }
    else none
  | 6 => if z 2 2 && z 12 4 then some (recPlain ty bs 0 (bytesAt bs 4 4) (bytesAt bs 8 4)) else none
  | 7 => if z 2 2 then some (recPlain ty bs 0 (bytesAt bs 4 4) (bytesAt bs 8 8)) else none
  | _ => if z 3 5 then some { recPlain ty bs (bytesAt bs 0 1) 0 (bytesAt bs 1 2) with x := 0, y := 0 } else none

/-- The records of one section; none where one does not fit. The first argument bounds their number. -/
def recsOf (ty : Nat) : Nat → List Byte → Option (List ImgRec)
  | 0, _ => some []
  | n + 1, bs =>
    if bs.isEmpty then some []
    else
      let k := recSize ty bs
      if bs.length < k then none
      else match recOfBytes ty (bs.take k), recsOf ty n (bs.drop k) with
      | some r, some rs => some (r :: rs)
      | _, _ => none

/-- A section table entry (R355): its type, offset and length; none with nonzero reserved bytes or a bad type. -/
def secOf (bs : List Byte) (k : Nat) : Option (Nat × Nat × Nat) :=
  let e := (bs.drop (256 + 16 * k)).take 16
  let t := bytesAt e 0 4
  if 1 ≤ t && t ≤ 8 && bytesAt e 4 4 == 0 && bytesAt e 8 4 % 8 == 0 then some (t, bytesAt e 8 4, bytesAt e 12 4) else none

/-- Two ranges of bytes share one. -/
def meets (a n b m : Nat) : Bool := n != 0 && m != 0 && a < b + m && b < a + n

/-- No two of a list stand in a relation. -/
def noPair {α : Type} (r : α → α → Bool) : List α → Bool
  | [] => true
  | a :: as => as.all (fun b => !r a b) && noPair r as

/-- The section table is sound: every section lies in the image behind the table, no two overlap, and no type stands twice. -/
def secsOk (h : ImgHead) (ss : List (Nat × Nat × Nat)) : Bool :=
  (ss.all fun e => 256 + 16 * h.nsec ≤ e.2.1 && e.2.1 + e.2.2 ≤ h.ilen)
    && noPair (fun a b => a.1 == b.1 || meets a.2.1 a.2.2 b.2.1 b.2.2) ss

/-- All values of a list of options. -/
def allSome {α : Type} : List (Option α) → Option (List α)
  | [] => some []
  | none :: _ => none
  | some a :: as => (allSome as).map fun r => a :: r

/-- The bytes of a record's range in its unit (R359 step 1): its data, a slot, or a header. -/
def recRange (r : ImgRec) : Nat × Nat :=
  match r.ty with
  | 5 => (r.off, r.data.length)
  | 6 => (r.off, 16)
  | 7 => (r.off, 32)
  | _ => (0, 0)

/-- The record meets the conditions of R355, R268, R370 and R359 step 1 on its own. In a launch of one module it lies in the paddock; the
columns of an outing are R444's to check. -/
def recOk (one : Bool) (h : ImgHead) (r : ImgRec) : Bool :=
  let mu := isMu r.x
  let e := (recRange r).1 + (recRange r).2
  let inside := r.y < h.ph && (!one || r.x < 4 * h.pw)
  match r.ty with
  | 1 => inside && !mu && r.idx < 128
  | 2 => inside && !mu && 1 ≤ r.idx && r.idx ≤ 6
  | 3 => inside && !mu && r.idx ≤ 71
  | 4 => inside && !mu && r.idx ≤ 15
  | 5 => inside && e ≤ (if mu then 2 ^ 20 else 2 ^ 18)
  | 6 => inside && mu && r.off % 16 == 0 && e ≤ 2 ^ 20 && 1 ≤ r.val && r.val ≤ 65535
  | 7 => inside && mu && r.off % 32 == 0 && e ≤ 2 ^ 20 && ringDescOk (BitVec.ofNat 64 r.val) r.off
  | _ => 1 ≤ r.idx && r.idx ≤ 7 && 2 ^ (r.val % 256) ≤ h.pw && 2 ^ (r.val / 256) ≤ h.ph

/-- Two records duplicate each other (R359 step 1). -/
def recDup (a b : ImgRec) : Bool :=
  if 5 ≤ a.ty && a.ty ≤ 7 then
    5 ≤ b.ty && b.ty ≤ 7 && a.x == b.x && a.y == b.y
      && meets (recRange a).1 (recRange a).2 (recRange b).1 (recRange b).2
  else a.ty == b.ty && a.x == b.x && a.y == b.y && a.idx == b.idx

/-- The declarations of the group records. -/
def groupsOf (rs : List ImgRec) : List GroupDecl :=
  (rs.filter fun r => r.ty == 8).map fun r => { lvl := r.idx, gw := 2 ^ (r.val % 256), gh := 2 ^ (r.val / 256) }

/-- Declared levels nest (R371). -/
def groupsNest (gs : List GroupDecl) : Bool :=
  gs.all fun a => gs.all fun b => !(a.lvl < b.lvl) || (b.gw ≤ a.gw && b.gh ≤ a.gh)

/-- Step 1 of R359: the records of an image, where its header, section table and records are well formed; `one` for a launch of one
module. -/
def parseImage (one : Bool) (bs : List Byte) : Option (List ImgRec) :=
  let h := imgHead bs
  if bs.length < 256 || !headOk bs || bs.length < h.ilen then none
  else match allSome ((List.range h.nsec).map (secOf bs)) with
  | none => none
  | some ss =>
    if !secsOk h ss then none
    else match allSome (ss.map fun e => recsOf e.1 e.2.2 ((bs.drop e.2.1).take e.2.2)) with
    | none => none
    | some rss =>
      let rs := rss.flatten
      if rs.all (recOk one h) && noPair recDup rs && groupsNest (groupsOf rs) then some rs else none

/-! ### Verification (R359) -/

/-- A refusal with no field but its code. -/
def plainStatus (code : Nat) : Word := statusWord code 0 0 0 0 0

/-- The members of a launch: 1 where it is no outing. -/
def nmodOf (x : Ctx) : Nat := max 1 x.members.length

/-- The launch takes one module. -/
def isSingle (x : Ctx) : Bool := x.members.length ≤ 1

/-- A record of a site lies at a column that R444 refuses. -/
def columnBad (x : Ctx) (rs : List ImgRec) : Bool := rs.any fun r => r.ty != 8 && r.x ≥ 4 * x.pw * nmodOf x

/-- The sites of CUs that have records, in increasing y, then x (R47). -/
def recSites (x : Ctx) (rs : List ImgRec) : List (Nat × Nat) :=
  (List.range x.ph).flatMap fun y => (List.range (padW x)).filterMap fun cx =>
    if rs.any fun r => r.ty ≤ 4 && r.x == cx && r.y == y then some (cx, y) else none

/-- The records of a section type at a site, by increasing index below `n`. -/
def recsAt (rs : List ImgRec) (ty cx cy n : Nat) : List ImgRec :=
  (List.range n).filterMap fun k => rs.find? fun r => r.ty == ty && r.x == cx && r.y == cy && r.idx == k

/-- A route entry passes check 0x9 (R38, R39). -/
def routeOk (x : Ctx) (cx cy val : Nat) : Bool :=
  let e := BitVec.ofNat 32 val
  let tx : Int := (cx : Int) + (e.extractLsb' 0 8).toInt
  let ty : Int := (cy : Int) + (e.extractLsb' 8 8).toInt
  e.extractLsb' 17 15 == 0 && (!e.getLsbD 16 || (nbits val 0 16 != 0 && 0 ≤ tx && tx < padW x && 0 ≤ ty && ty < x.ph))

/-- The surroundings that the station words of a site are checked against. -/
def siteEnv (rs : List ImgRec) (diag : Bool) (cx cy : Nat) : RtEnv :=
  { diag := diag, x := cx,
    routes := (List.range 6).map fun n =>
      match rs.find? fun r => r.ty == 2 && r.x == cx && r.y == cy && r.idx == n + 1 with
      | some r => BitVec.ofNat 32 r.val
      | none => 0,
    enters := (rs.filter fun r => r.ty == 1 && r.x == cx && r.y == cy && nbits r.val 56 8 == 0x0A).map fun r => r.idx,
    levels := (groupsOf rs).map fun g => g.lvl }

/-- The first content check that a site fails (R47, R359 step 7). -/
def siteFail (x : Ctx) (rs : List ImgRec) (diag : Bool) (p : Nat × Nat) : Option Word :=
  let env := siteEnv rs diag p.1 p.2
  let routes := (recsAt rs 2 p.1 p.2 7).findSome? fun r =>
    if routeOk x p.1 p.2 r.val then none else some (statusWord 0x0D 9 0 p.1 p.2 r.idx)
  let words := (recsAt rs 1 p.1 p.2 128).findSome? fun r =>
    match decodeIn (some env) (BitVec.ofNat 64 r.val) with
    | .ok _ => none
    | .error c => some (statusWord 0x0D c.code r.idx p.1 p.2 0)
  let maps := (recsAt rs 4 p.1 p.2 16).findSome? fun r =>
    if mapValid (BitVec.ofNat 512 r.val) then none else some (statusWord 0x1E 1 r.idx p.1 p.2 0)
  let sds := (recsAt rs 3 p.1 p.2 72).findSome? fun r =>
    if r.idx < 64 || sdValid (BitVec.ofNat 64 r.val) then none else some (statusWord 0x1E 8 (r.idx - 64) p.1 p.2 0)
  [routes, words, maps, sds].findSome? id

/-- The data record at a CU that leaves the scratchpad partition (R359 step 6), the first in the records' order. -/
def poolFail (x : Ctx) (rs : List ImgRec) : Option Word :=
  (rs.find? fun r => r.ty == 5 && !isMu r.x && r.off + r.data.length > poolSize x).map fun r => statusWord 0x0D 8 0 r.x r.y 0

/-- Verification of an image for a launch (R359, R444): the refusal status of the first check that fails, or the records. -/
def verifyImage (s : State) (x : Ctx) (bs : List Byte) : Except Word (List ImgRec) :=
  let h := imgHead bs
  match parseImage (isSingle x) bs with
  | none => .error (plainStatus 0x20)
  | some rs =>
    if sha384 (bs.take 64 ++ (bs.take h.ilen).drop 256) != h.digest then .error (plainStatus 0x21)
    else if h.world == 1 && !ecdsaOk s.boot.key h.digest ((bs.drop 112).take 96) then .error (plainStatus 0x22)
    else if h.world != x.world || (h.world == 2 && !s.yard.diag) then .error (plainStatus 0x23)
    else if h.pw != x.pw || h.ph != x.ph || columnBad x rs then .error (plainStatus 0x24)
    else if h.part != x.part || holdGran h.part + accGran h.part > 15 then .error (statusWord 0x0D 8 0 0 0 0)
    else match poolFail x rs with
    | some w => .error w
    | none =>
      match (recSites x rs).findSome? (siteFail x rs (h.world == 2)) with
      | some w => .error w
      | none => .ok rs

/-! ### The argument block (R357) -/

/-- An entry of an argument block. -/
structure ArgEnt where
  val : Word
  x : Nat
  y : Nat
  stn : Nat
  pos : Nat
  itr : Nat
deriving DecidableEq, Repr

/-- The entry that sixteen bytes hold; none where it refuses the launch. -/
def argEntOf (x : Ctx) (bs : List Byte) : Option ArgEnt :=
  let n := leNat bs
  let e : ArgEnt := { val := BitVec.ofNat 64 n, x := nbits n 64 8, y := nbits n 72 7, stn := nbits n 79 7, pos := nbits n 86 2,
                      itr := nbits n 88 16 }
  if n / 2 ^ 104 != 0 || e.pos == 3 || !inPaddock x e.x e.y || isMu e.x then none else some e

/-- The entries of an argument block, a pointer of 0 naming none; an error is the status ARGS, or a wait for a region. -/
def argEntries (s : State) (x : Ctx) (arg : Word) : Except (Option Nat) (List ArgEnt) :=
  if arg == 0 then .ok []
  else match loaderRead s x arg.toNat 16 with
  | .bad _ => .error none
  | .waits r => .error (some r)
  | .ok hd =>
    let c := bytesAt hd 0 8
    if c > 4096 || bytesAt hd 8 8 != 0 then .error none
    else match loaderRead s x (arg.toNat + 16) (16 * c) with
    | .bad _ => .error none
    | .waits r => .error (some r)
    | .ok bs =>
      match allSome ((List.range c).map fun k => argEntOf x ((bs.drop (16 * k)).take 16)) with
      | some es => .ok es
      | none => .error none

/-! ### Writing a kernel into its paddock (R355, R356, R361) -/

/-- The entries of a map keyed by unit key times `n` that belong to a context are gone. -/
def dropCtx {α : Type} (m : FMap α) (c n : Nat) : FMap α := fclear m (ctxKey c * n) (ctxKey (c + 1) * n)

/-- The first location of a context's unit storage. -/
def ctxLoc (c : Nat) : Nat := unitBase + ctxKey c * 2 ^ 20

/-- The units of a context as a load finds them: what a kernel's records name is at its load value (R38, R46, R278, R281, R290),
and no token, frame or config token is there. -/
def clearKernel (s : State) (c : Nat) : State :=
  { s with
    routes := dropCtx s.routes c 8,
    fab := { s.fab with stations := dropCtx s.fab.stations c 128, trapping := dropCtx s.fab.trapping c 128,
                        kregs := dropCtx s.fab.kregs c 64, sdregs := dropCtx s.fab.sdregs c 8, spillTwin := fclear s.fab.spillTwin (c * 2 ^ 24) ((c + 1) * 2 ^ 24),
                        seqs := dropCtx s.fab.seqs c 1, summary := dropCtx s.fab.summary c 256,
                        issues := dropCtx s.fab.issues c 128 },
    tn := { s.tn with maps := dropCtx s.tn.maps c 16, tags := dropCtx s.tn.tags c 32, banks := dropCtx s.tn.banks c 2 } }

/-- The scratchpads, pools and accumulators of a context as a load finds them (R356, R284), with no live slot or header. -/
def clearUnits (s : State) (c : Nat) : State :=
  let lo := ctxLoc c
  let hi := ctxLoc (c + 1)
  let s := wrClear s lo hi
  { s with
    mtag := fclear s.mtag (lo / 64) (hi / 64),
    mu := { MuState.dropHeld c s.mu with isst := fclear s.mu.isst (lo / 8) (hi / 8) },
    cp := { s.cp with bars := fclear s.cp.bars lo hi, rings := fclear s.cp.rings lo hi,
                      cseq := dropCtx s.cp.cseq c 1, turns := dropCtx s.cp.turns c 1 },
    tn := { s.tn with accs := dropCtx s.tn.accs c 64 } }

/-- A barrier record's slot (R217, R229): of the whole paddock. -/
def recBar (c n : Nat) : Bar :=
  { exp := n, pnd := n, txb := 0, par := false, st := .armed, lvl := 0, own := c, units := [], done := [], owed := false, away := 0 }

/-- The whole lines of an MU scratchpad that a data record covers take its tag (R356). -/
def recTags (s : State) (u : UId) (r : ImgRec) : State :=
  let a := (r.off + 63) / 64
  let b := (r.off + r.data.length) / 64
  (List.range (b - a)).foldl (fun s k => setLineTag s (locUnit u (64 * (a + k))) r.tag) s

/-- Writes one record at a unit of a copy. -/
def writeRec (c k : Nat) (s : State) (r : ImgRec) : State :=
  let u : UId := { ctx := c, copy := k, x := r.x, y := r.y }
  let v := BitVec.ofNat 64 r.val
  match r.ty with
  | 1 => { s with fab := { s.fab with stations := fset 0 s.fab.stations (uKey u * 128 + r.idx) v } }
  | 2 => { s with routes := fset 0 s.routes (uKey u * 8 + r.idx) (BitVec.ofNat 32 r.val) }
  | 3 =>
    if r.idx < 64 then { s with fab := { s.fab with kregs := fset 0 s.fab.kregs (uKey u * 64 + r.idx) v } }
    else { s with fab := { s.fab with sdregs := fset 0 s.fab.sdregs (uKey u * 8 + (r.idx - 64)) v } }
  | 4 => { s with tn := { s.tn with maps := fset 0 s.tn.maps (uKey u * 16 + r.idx) (BitVec.ofNat 512 r.val) } }
  | 5 => let s := wrBytes s (locUnit u r.off) r.data; if isMu u.x then recTags s u r else s
  | 6 => setBar s (locUnit u r.off) (some (recBar c r.val))
  | 7 => setRing s (locUnit u r.off) (some (freshRing v c))
  | _ => s

/-- Writes the records of this module's part of a paddock into every copy, and declares the groups (R377, R444). -/
def writeRecs (s : State) (c : Nat) (rs : List ImgRec) : State :=
  let x := ctxOf s c
  let mine := rs.filter fun r => r.ty != 8 && onModule x r.x
  let s := (copiesOf x).foldl (fun s k => mine.foldl (writeRec c k) s) s
  updCtx s c fun x => { x with groups := groupsOf rs }

/-- An entry token counts as arrived at its station in one copy (R357). -/
def placeArg (c k : Nat) (s : State) (e : ArgEnt) : State :=
  let u : UId := { ctx := c, copy := k, x := e.x, y := e.y }
  let stn := BitVec.ofNat 7 e.stn
  let pos := BitVec.ofNat 2 e.pos
  let t : Flit := { val := e.val, kind := kValue, pos := pos, stn := stn, ctx := BitVec.ofNat 9 c, col := 0,
                    itr := BitVec.ofNat 16 e.itr, res := res15 e.val, rid := ridOf (ctxOf s c).key stn pos, dx := 0, dy := 0,
                    chn := false, rsv := 0 }
  if holdsOp s u e.stn 0x00 then addOrph s c 1
  else
    let q := nextSeq s u
    place q.2 u q.1 t true

/-- The entry tokens (R357): each counts as arrived, in entry order, at its station in every copy. -/
def placeArgs (s : State) (c : Nat) (es : List ArgEnt) : State :=
  let x := ctxOf s c
  (copiesOf x).foldl (fun s k => (es.filter fun e => onModule x e.x).foldl (placeArg c k) s) s

/-- A context as it runs with no fault pending. -/
def unfaulted (s : State) (c : Nat) : State :=
  updCtx s c fun x => { x with cst := .running, freezing := false, frz := noFrz, marker := none, frec := none, prim := none }

/-- One entry token of a copy after those that found a place: it does so too unless it faults SPILL_FULL (R66, R357). -/
def tryArg (c k : Nat) (q : Bool × State) (e : ArgEnt) : Bool × State :=
  let t := placeArg c k (unfaulted q.2 c) e
  (q.1 && (match (ctxOf t c).frec with | some r => r.kind != 0x1B | none => true), t)

/-- The entry tokens find their places in the paddock (R357). -/
def argsFit (s : State) (c : Nat) (es : List ArgEnt) : Bool :=
  let x := ctxOf s c
  ((copiesOf x).foldl (fun q k => (es.filter fun e => onModule x e.x).foldl (tryArg c k) q) (true, s)).1

end Sys2Proof.Machine
end

