-- ==== Sys2Proof/Machine/Kernel.lean ====
section
/-!
DEFINITION. Kernels in use (14 R358 to R369, R498): config tokens, K register access, the load of a launch with the image cache,
the drain by EXIT and by reconfiguration.
-/

namespace Sys2Proof.Machine

open Sys2Proof

/-! ### Config tokens leave (R362, R365, R367, R368) -/

/-- Where the reply of a firing's config token goes. -/
def cfgReply (F : Ready) (ta tb : BitVec 12) (kind : BitVec 3) : ReplyTo :=
  { u := F.u, col := fcol F, itr := fitr F, ta := ta, tb := tb, kind := kind }

/-- The firing is a commit point of its colour (R76). -/
def firingCommit (F : Ready) (s : State) : State := commitPt s F.u.ctx F.u.copy (fcol F)

/-- A firing of a CU sends a config token by a route, to the object of `POS` `pos` and number `n`. -/
def sendCfg (F : Ready) (pos rt n : Nat) (v : Word) (rd : Bool) (r : ReplyTo) (s : State) : State :=
  sendConfig s F.u F.u (fcol F) (fitr F) (cfgTarget pos rt n) v { rd := rd, reply := some r, grp := none }

/-- CFG.W.STN and CFG.W.K send L to the object that the word names; the completion goes to TB (R365). -/
def sendCfgW (f : Fields) (pos n : Nat) (F : Ready) (s : State) : State :=
  sendCfg F pos (tgtRoute f.ta) n F.l.val false (cfgReply F 0xC00 f.tb kReply) (firingCommit F s)

/-- CFG.W.STN. -/
def execCfgWStn (f : Fields) (s : State) : Host.Outcome State Fault Refusal :=
  runLanes (lane false true true f (sendCfgW f 0 (tgtStn f.ta))) s

/-- CFG.W.K. -/
def execCfgWK (f : Fields) (s : State) : Host.Outcome State Fault Refusal :=
  runLanes (lane false true true f (sendCfgW f 1 (fld f 0 6))) s

/-- The K register that KSET and KGET name (R367, R368). -/
def kIndex (f : Fields) (F : Ready) : Nat :=
  if f.src == .unary then fld f 0 6 else nbits (rVal F).toNat 0 6

/-- KSET (R367): a config token to the own CU. -/
def execKset (f : Fields) (s : State) : Host.Outcome State Fault Refusal :=
  runLanes (laneBoth f fun F s =>
    sendCfg F 1 0 (kIndex f F) F.l.val false (cfgReply F f.ta f.tb kValue) (firingCommit F s)) s

/-- KGET (R368): at once from the own CU, as a config-ordered read elsewhere. -/
def bodyKget (f : Fields) (F : Ready) (s : State) : State :=
  if fld f 6 3 == 0 then emitBoth f F kValue (kreg s F.u (kIndex f F)) s
  else sendCfg F 1 (fld f 6 3) (kIndex f F) 0 true (cfgReply F f.ta f.tb kValue) s

/-- KGET. -/
def execKget (f : Fields) (s : State) : Host.Outcome State Fault Refusal := runLanes (laneBoth f (bodyKget f)) s

/-! ### Config tokens arrive (R48, R363) -/

/-- The surroundings of a CU's stations at run time. -/
def cuEnv (s : State) (u : UId) : RtEnv :=
  let x := ctxOf s u.ctx
  { diag := x.world == 2, x := u.x, routes := (List.range 6).map fun n => routeEnt s u (n + 1),
    enters := (List.range 128).filter fun n => opOfWord (stationWord s u n) == 0x0A,
    levels := x.groups.map fun g => g.lvl }

/-- The field code that a word fails on arrival at a CU; 0 for none (R48). -/
def wordCode (s : State) (u : UId) (w : Word) : Nat :=
  match decodeIn (some (cuEnv s u)) w with
  | .ok _ => 0
  | .error c => c.code

/-- The complete instances of a CU that read an object and have not issued: in the ready queue, or held for a twin's digest. -/
def readersOf (s : State) (u : UId) (o : CfgObj) : List (Nat × Nat) :=
  (((s.fab.ready.filter fun r => r.u == u) ++ ((s.un.twins.map fun t => t.f).filter fun r => r.u == u)).filter
    fun r => readsObj s u r.stn o).map fun r => (r.stn, r.seq)

/-- The object that a config token's `POS` and `STN` name (R362); none for a `POS` to which the rule gives no object. -/
def cfgObj (t : Flit) : Option CfgObj :=
  match t.pos.toNat with
  | 0 => some (.stn t.stn.toNat)
  | 1 => some (.kreg (t.stn.toNat % 64))
  | _ => none

/-- A config token that reaches its CU is held (R363): its readers and the check of a station word are fixed (R48). A token that fails the
header check, or names no object, is discarded with ROUTE (R57, log entry 84). -/
def holdConfig (a : Arrival) (s : State) : State :=
  match cfgObj a.tok with
  | none => trapErr s a.u a.tok.col.toNat 0x11
  | some o =>
    if badHeader a.tok then trapErr s a.u a.tok.col.toNat 0x11
    else
      let l := a.cfg.getD { rd := false, reply := none, grp := none }
      let val := if l.rd then none else some a.tok.val
      let code := match o, val with | .stn _, some w => wordCode s a.u w | _, _ => 0
      { s with fab := { s.fab with cfgHeld := s.fab.cfgHeld ++
          [{ u := a.u, obj := o, val := val, reply := l.reply, before := readersOf s a.u o, code := code, grp := l.grp }] } }

/-- A config token, the one numbered `n` of the tokens that have reached CUs, is taken by its CU; one that came the same way before it is
taken first (R362). -/
def bodyConfigArrival (n : Nat) (s : State) : State :=
  match s.fab.arrivals[n]? with
  | none => s
  | some a =>
    if a.tok.kind != kConfig || (s.fab.arrivals.take n).any fun b => b.u == a.u && b.own == a.own then s
    else
      let s := { s with fab := { s.fab with arrivals := s.fab.arrivals.eraseIdx n } }
      if tokensMove s a.u.ctx then holdConfig a s else s

/-- CONFIG_TOKEN_ARRIVAL. -/
def execConfigTokenArrival (n : Nat) (s : State) : Host.Outcome State Fault Refusal := done s (bodyConfigArrival n s)

/-- An instance that a held token waits for has not issued. -/
def stillReady (s : State) (h : HeldCfg) : Bool :=
  h.before.any fun b => (s.fab.ready.any fun r => r.u == h.u && r.stn == b.1 && r.seq == b.2)
    || (s.un.twins.any fun t => t.f.u == h.u && t.f.stn == b.1 && t.f.seq == b.2)

/-- A held token may be applied: its readers have issued, no older token of its object is held, and no operation in progress
reads the register (R291, R318, R363). -/
def cfgMayApply (s : State) (n : Nat) (h : HeldCfg) : Bool :=
  !stillReady s h && !(s.fab.cfgHeld.take n).any (fun g => g.u == h.u && g.obj == h.obj)
    && (match h.obj with | .kreg k => !opReadsK s h.u k | .stn _ => true)

/-- The tokens of a station that wait in any of the three tiers (R64). -/
def stationTokens (s : State) (u : UId) (n : Nat) : List Waiting :=
  (s.fab.waiting ++ (spilledAt s u).map fun e => e.w).filter fun w => w.u == u && w.tok.stn.toNat == n

/-- Takes the tokens that wait at L of a station out of their tiers. -/
def takeLefts (s : State) (u : UId) : List Waiting → List (Waiting × Bool) × State
  | [] => ([], s)
  | w :: ws =>
    match partner s true u w.tok 0 with
    | none => takeLefts s u ws
    | some (k, near, s1) => let r := takeLefts s1 u ws; ((k, near) :: r.1, r.2)

/-- Tokens that wait at a rewritten station, in any tier, meet its new positions (R61, R363). Under a new FENCE word (R203) the counts of an
old one go on, and tokens that waited at L count as arrivals; `counts` says that the old word was a FENCE too. -/
def rematchStation (s : State) (u : UId) (n : Nat) (counts : Bool) : State :=
  let ws := stationTokens s u n
  if holdsOp s u n 0x6B then
    let q := takeLefts s u (ws.filter fun w => w.tok.pos == 0)
    q.1.foldl (fun s e =>
      if counts then fenceAt s u e.1.seq e.2 e.1.tok (nbits e.1.tok.val.toNat 0 32) (nbits e.1.tok.val.toNat 32 32)
      else arriveFence s u e.1.seq e.1.tok true) q.2
  else ws.foldl (fun s w => rematch s (tokFiring u w.seq w.tok)) s

/-- The instances of a station that were formed under its old word and have not issued are waiting tokens again (R363): they fire with the
new contents. A FENCE instance is its count again (R203). -/
def dissolve (s : State) (u : UId) (n : Nat) : State :=
  let hit (r : Ready) : Bool := r.u == u && r.stn == n
  let count (t : Flit) : Flit :=
    if holdsOp s u n 0x6B then
      let w := fenceVal (max 1 (fenceN (stationWord s u n))) t.val.toNat
      { t with val := w, res := res15 w }
    else t
  let back := (s.fab.ready.filter hit).flatMap fun r =>
    (opsOf r).map fun t => ({ u := u, hold := !r.near, seq := r.seq, tok := count t } : Waiting)
  { s with fab := { s.fab with ready := s.fab.ready.filter fun r => !hit r, waiting := back ++ s.fab.waiting } }

/-- The write of a config token (R48, R363). -/
def cfgWrite (h : HeldCfg) (s : State) : State :=
  match h.val, h.obj with
  | none, _ => s
  | some w, .kreg k => { s with fab := { s.fab with kregs := fset 0 s.fab.kregs (uKey h.u * 64 + k) w } }
  | some w, .stn n =>
    let counts := holdsOp s h.u n 0x6B
    let s := dissolve s h.u n
    rematchStation
      { s with fab := { s.fab with stations := fset 0 s.fab.stations (uKey h.u * 128 + n) w,
                                   trapping := fset 0 s.fab.trapping (uKey h.u * 128 + n) h.code } } h.u n counts

/-- The instances that waited for a config token of a K register are checked with its new contents (R283, R363). -/
def recheck (s : State) (u : UId) (o : CfgObj) : State :=
  let hit (r : Ready) : Bool := r.u == u && readsObj s u r.stn o
  (s.fab.ready.filter hit).foldl completeAt { s with fab := { s.fab with ready := s.fab.ready.filter fun r => !hit r } }

/-- A held write of the same BWLD (R328). -/
def sameGrp (h e : HeldCfg) : Bool := h.grp.isSome && e.u == h.u && e.grp == h.grp

/-- The writes of one BWLD arrive in order and reply once: the last of them carries the reply, which waits for those still held. -/
def passReply (h : HeldCfg) : List HeldCfg → List HeldCfg
  | [] => []
  | e :: es => if sameGrp h e then { e with reply := h.reply } :: es else e :: passReply h es

/-- The held token numbered `n` is applied and replies. -/
def bodyConfigApply (n : Nat) (s : State) : State :=
  match s.fab.cfgHeld[n]? with
  | none => s
  | some h =>
    if !tokensMove s h.u.ctx || !cfgMayApply s n h then s
    else
      let s := { s with fab := { s.fab with cfgHeld := s.fab.cfgHeld.eraseIdx n } }
      let v := match h.val, h.obj with | none, .kreg k => kreg s h.u k | _, _ => 0
      let s := recheck (cfgWrite h s) h.u h.obj
      match h.reply with
      | none => s
      | some r =>
        if s.fab.cfgHeld.any (sameGrp h) then { s with fab := { s.fab with cfgHeld := passReply h s.fab.cfgHeld } }
        else emitFrom (emitFrom s h.u r.u r.col r.itr r.ta r.kind v false) h.u r.u r.col r.itr r.tb r.kind v false

/-- CONFIG_TOKEN_APPLY. -/
def execConfigTokenApply (n : Nat) (s : State) : Host.Outcome State Fault Refusal := done s (bodyConfigApply n s)

/-! ### The image cache (R360) -/

/-- The die whose image cache serves the load of a context: that of its origin. -/
def cacheDie (x : Ctx) : Nat :=
  let p := x.place.headD { mx := 0, my := 0 }
  dieAt (p.mx, p.my)

/-- The context is loaded from a verified image in the cache of its die (R360). -/
def tookImage (s : State) (c : Nat) (digest : List Byte) : State :=
  updCtx s c fun x => { x with loadStage := 2, digest := digest, cached := true, ldie := cacheDie x }

/-- The refusal of a record that lies beyond the columns of the launch (R359, R444). -/
def columnStatus (x : Ctx) : Word := plainStatus (if isSingle x then 0x20 else 0x24)

/-- A context loaded from an entry is resident, wherever it stands now: the entry is pinned. -/
def pinned (s : State) (e : CacheEnt) : Bool :=
  s.ctxs.any fun x => x.cached && isLive x && x.cst != .created && x.cst != .saved && x.ldie == e.die && x.digest == e.digest
    && x.world == e.world && x.pw == e.pw && x.ph == e.ph && x.part == e.part

/-- The entry that a launch hits with a header (R360). -/
def cacheHit (s : State) (x : Ctx) (h : ImgHead) : Option CacheEnt :=
  if h.world != x.world || h.pw != x.pw || h.ph != x.ph || h.part != x.part || (h.world == 2 && !s.yard.diag) then none
  else s.yard.cache.find? fun e => e.die == cacheDie x && e.digest == h.digest && e.world == h.world && e.pw == h.pw
    && e.ph == h.ph && e.part == h.part

/-- The entries of a die's cache. -/
def cacheOf (s : State) (d : Nat) : List CacheEnt := s.yard.cache.filter fun e => e.die == d

/-- Every entry of a die's cache is pinned. -/
def cachePinned (s : State) (d : Nat) : Bool := (cacheOf s d).length ≥ 32 && (cacheOf s d).all (pinned s)

/-- Puts an entry at the recent end of the cache, in place of itself or, in a full cache, of the least recently used
unpinned one. -/
def cachePut (s : State) (e : CacheEnt) : State :=
  let rest := s.yard.cache.filter fun c => c != e
  let rest := if (rest.filter fun c => c.die == e.die).length < 32 then rest
    else match rest.find? fun c => c.die == e.die && !pinned s c with
    | some c => rest.erase c
    | none => rest
  { s with yard := { s.yard with cache := rest ++ [e] } }

/-! ### The load of a launch (R358, R359, R392, R498) -/

/-- This module's part of a launch that is refused goes: what was written is cleared, and the id is free. -/
def dropLoad (s : State) (c : Nat) : State :=
  let s := sweepCtx (clearKernel (clearUnits s c) c) c
  { s with ctxs := s.ctxs.filter fun y => y.id != c }

/-- `HEAD` stays at a refused packet (R380): a placement that its load refuses is taken back, unless the queue has placed another
since. -/
def backHead (x : Ctx) (s : State) : State :=
  updQueue s x.queue fun k => if k.head == (x.seq + 1) % 2 ^ 32 then { k with head := x.seq } else k

/-- The load of a launch is refused (R358, R392, R444): no member keeps anything of it, and the queue is suspended. -/
def refuseLoad (s : State) (c : Nat) (st : Word) : State :=
  let x := ctxOf s c
  let s := dropLoad (tellMembers s c (.stop c 4 st.toNat)) c
  if x.member == x.home then refuseHead (backHead x s) x.queue st else s

/-- A loader's read that fails at the root of its address space, where that names an unbacked address, raises a machine check (R413). -/
def loaderCheck (s : State) (c : Nat) (e : XFault) : State :=
  let x := ctxOf s c
  if e.kind == 0x01 && e.lvl == 5 && rootUnbacked s x.as then setCause s x.die 3 else s

/-- The same for the argument block. -/
def argCheck (s : State) (c : Nat) (arg : Word) : State :=
  match loaderRead s (ctxOf s c) arg.toNat 16 with
  | .bad e => if arg == 0 then s else loaderCheck s c e
  | _ => s

/-- The header of a context's image is read (R498): a hit takes the cached copy, a miss goes on to the whole image. -/
def bodyHeaderRead (c : Nat) (s : State) : State :=
  let x := ctxOf s c
  if x.cst != .loading || x.loadStage != 0 then s
  else match loaderRead s x x.img.toNat 256 with
  | .waits r => wantRegion s r
  | .bad e => refuseLoad (loaderCheck s c e) c (plainStatus 0x20)
  | .ok bs =>
    match cacheHit s x (imgHead bs) with
    | some e =>
      if columnBad x ((parseImage false e.image).getD []) then refuseLoad s c (columnStatus x)
      else tookImage (cachePut s e) c e.digest
    | none => updCtx s c fun x => { x with loadStage := 1 }

/-- KERNEL_HEADER_READ. -/
def execKernelHeaderRead (c : Nat) (s : State) : Host.Outcome State Fault Refusal := done s (bodyHeaderRead c s)

/-- An image as it is read: its header first, and then as many bytes as `ILEN` says. -/
def readImage (s : State) (x : Ctx) (img : Word) : DevRes :=
  match loaderRead s x img.toNat 256 with
  | .ok hd => if headOk hd then loaderRead s x img.toNat (imgHead hd).ilen else .ok hd
  | r => r

/-- The image is verified (R359): it goes into the cache, or with every entry pinned its records are written at once (R360). -/
def bodyVerified (c : Nat) (s : State) : State :=
  let x := ctxOf s c
  if x.cst != .loading || x.loadStage != 1 then s
  else match readImage s x x.img with
  | .waits r => wantRegion s r
  | .bad e => refuseLoad (loaderCheck s c e) c (plainStatus 0x20)
  | .ok bs =>
    match verifyImage s x bs with
    | .error st => refuseLoad s c st
    | .ok rs =>
      let d := cacheDie x
      let h := imgHead bs
      if cachePinned s d then
        updCtx (writeRecs (clearKernel (clearUnits s c) c) c rs) c fun x => { x with loadStage := 3, digest := h.digest }
      else
        let e : CacheEnt := { die := d, digest := h.digest, world := h.world, pw := h.pw, ph := h.ph, part := h.part, image := bs }
        tookImage (cachePut s e) c h.digest

/-- KERNEL_VERIFIED. -/
def execKernelVerified (c : Nat) (s : State) : Host.Outcome State Fault Refusal := .next (closeLoad s (bodyVerified c s))

/-- The records of the cached image of a context. -/
def cachedRecs (s : State) (x : Ctx) : List ImgRec :=
  match s.yard.cache.find? fun e => e.die == cacheDie x && e.digest == x.digest && e.world == x.world && e.pw == x.pw
      && e.ph == x.ph && e.part == x.part with
  | some e => (parseImage false e.image).getD []
  | none => []

/-- A context starts to run: RESIDENT-RUNNING, its residence at 0 (R392). -/
def startRun (s : State) (c : Nat) : State :=
  updCtx s c fun x => { x with cst := .running, freezing := false, residence := 0, charged := 0, loadStage := 0 }

/-- This member reports a step of an outing to its home (R385, R444). -/
def report (s : State) (c kind : Nat) : State :=
  let x := ctxOf s c
  let s := updCtx s c fun x => { x with syncs := x.syncs ++ [(kind, x.member)] }
  if x.member == x.home then s else sendOut s x x.home (.msg (.sync c x.member kind))

/-- Every member has reported a step. -/
def allReported (x : Ctx) (kind : Nat) : Bool := (List.range x.members.length).all fun k => x.syncs.contains (kind, k)

/-- This member has reported a step. -/
def hasReported (x : Ctx) (kind : Nat) : Bool := x.syncs.contains (kind, x.member)

/-- The argument block of the kernel that is loaded: that of the launch, or of the reconfiguration (R366). -/
def argOf (x : Ctx) : Word := match x.reconf with | some r => r.2 | none => x.arg

/-- The loaded members of an outing start: their entry tokens are placed. -/
def goLoaded (s : State) (c : Nat) : State :=
  let x := ctxOf s c
  let es := match argEntries s x (argOf x) with | .ok es => es | .error _ => []
  let run (s : State) : State := if x.reconf.isSome then updCtx s c fun x => { x with cst := .running, freezing := false } else startRun s c
  placeArgs (updCtx (run s) c fun x => { x with reconf := none, loadStage := 0, syncs := [] }) c es

/-- A member of an outing whose kernel is in place, and whose entry tokens will find theirs, waits for the others (R385); the home lets all
start. -/
def outingLoaded (s : State) (c : Nat) (es : List ArgEnt) : State :=
  let x := ctxOf s c
  let t := if x.loadStage == 2 then writeRecs (clearKernel (clearUnits s c) c) c (cachedRecs s x) else s
  if !argsFit t c es then refuseLoad s c (plainStatus 0x25)
  else
  let t := if hasReported x 0 then t else report (updCtx t c fun x => { x with loadStage := 4 }) c 0
  if x.member == x.home && allReported (ctxOf t c) 0 then goLoaded (tellMembers t c (.stop c 5 0)) c else t

/-- The load completes (R357, R358): records and entry tokens are in place and the context runs. An entry token that finds no
place refuses the launch. -/
def bodyLoadComplete (c : Nat) (s : State) : State :=
  let x := ctxOf s c
  if x.cst != .loading || x.loadStage < 2 then s
  else match argEntries s x (argOf x) with
  | .error (some r) => wantRegion s r
  | .error none => refuseLoad (argCheck s c (argOf x)) c (plainStatus 0x25)
  | .ok es =>
    if x.members.length > 1 then outingLoaded s c es
    else
      let t := if x.loadStage == 2 then writeRecs (clearKernel (clearUnits s c) c) c (cachedRecs s x) else s
      if argsFit t c es then placeArgs (startRun t c) c es else refuseLoad s c (plainStatus 0x25)

/-- KERNEL_LOAD_COMPLETE. -/
def execKernelLoadComplete (c : Nat) (s : State) : Host.Outcome State Fault Refusal :=
  .next (closeLoad s (bodyLoadComplete c s))

/-! ### EXIT and reconfiguration begin a drain (R366, R369, R396) -/

/-- The count of an EXIT firing (R369). -/
def exitCount (F : Ready) : ExitCount :=
  { code := nbits F.l.val.toNat 0 32, u := F.u, ss := F.stn, col := fcol F, itr := fitr F }

/-- The context leaves RESIDENT-RUNNING for DRAINING (R369): a freeze in progress is abandoned, and the purge that it served
kills the context (R396). -/
def beginDrain (s : State) (c : Nat) (e : List ExitCount) (r : Option (Word × Word)) : State :=
  let x := ctxOf s c
  match x.purges with
  | p :: _ => killCtx s c p.kind
  | [] =>
    let s := updCtx s c fun x => { x with cst := .draining, frz := noFrz, freezing := true, exits := x.exits ++ e, reconf := r,
                                          byYard := false, prim := none, syncs := x.syncs.filter fun e => e.1 == 2 }
    tellMembers s c (match r with | some (img, arg) => .reconf c img arg | none => .stop c 0 0)

/-- EXIT (R369): the first moves the context to DRAINING, and those that issue before the stop reaches them are counted. -/
def bodyExit (F : Ready) (s : State) : State :=
  let c := F.u.ctx
  let s := firingCommit F s
  let x := ctxOf s c
  if !isLive x then s
  else if isStopping x then updCtx s c fun x => { x with exits := x.exits ++ [exitCount F] } else beginDrain s c [exitCount F] none

/-- EXIT. -/
def execExit (f : Fields) (s : State) : Host.Outcome State Fault Refusal := runLanes (lane false false true f bodyExit) s

/-- CFG.W.RECONF (R366): it drains as EXIT does; a context that drains already goes on as its first firing decided. -/
def bodyReconf (F : Ready) (s : State) : State :=
  let c := F.u.ctx
  let s := firingCommit F s
  if !isLive (ctxOf s c) || isStopping (ctxOf s c) then s
  else beginDrain s c [exitCount F] (some (F.l.val, rVal F))

/-- CFG.W.RECONF. -/
def execCfgWReconf (f : Fields) (s : State) : Host.Outcome State Fault Refusal := runLanes (lane false false true f bodyReconf) s

/-! ### The drain (R244, R369) -/

/-- The copy reads or writes element by element: a stream, a fibre unit or an emitter. -/
def isElementwise : Instr → Bool
  | .stream _ => true | .streamw _ => true | .fscan _ => true | .fisect _ => true | .funion _ => true | .gath _ => true
  | .femit _ => true
  | _ => false

/-- The copy is an I/O command (R450). -/
def isIoCommand : Instr → Bool
  | .ioread _ => true | .ioreadRing _ => true | .iowrite _ => true | .netsend _ => true
  | _ => false

/-- A copy that the drain ends at once as FAILED(5) (R238, R452). -/
def drainFails (p : Copy) : Bool := p.st == .issued || mayReplay p || (isIoCommand p.i && isMoving p && !p.left)

/-- What the drain does to the copies of a context: unfinished ones fail, open streams close without a credit, queued commands
are dropped and counted, and bin sets are FREE (R244, R349). -/
def drainCopies (s : State) (c : Nat) : State :=
  let mine (p : Copy) : Bool := p.mu.ctx == c
  let n := (s.cp.copies.filter fun p => mine p && drainFails p).length + (s.cp.queue.filter fun q => q.mu.ctx == c).length
  let step (p : Copy) : Copy :=
    if !mine p then p
    else if drainFails p then { p with st := .failed, rsn := 5, timer := none, strm := [] }
    else if isElementwise p.i && isMoving p then { p with st := .complete, strm := [], timer := none }
    else p
  let s := updCtx s c fun x => { x with fcp := min 255 (x.fcp + n) }
  { s with cp := { s.cp with copies := s.cp.copies.map step, queue := s.cp.queue.filter fun q => q.mu.ctx != c,
                             bins := dropCtx s.cp.bins c 4, puts := s.cp.puts.filter fun u => u.req.mu.ctx != c,
                             toQueues := s.cp.toQueues.filter fun f => f.u.ctx != c } }

/-- Nothing of a context is in flight between units (R394, R369 steps 1 and 2): requests, accesses and array operations. -/
def unitsQuiet (s : State) (c : Nat) : Bool :=
  !(s.mu.reqs.any fun q => q.mu.ctx == c) && !(s.mu.loads.any fun g => g.req.mu.ctx == c)
    && !(s.mu.atomics.any fun g => g.req.mu.ctx == c) && !(s.tr.walks.any fun w => w.req.mu.ctx == c)
    && !(s.tr.heldHost.any fun h => h.req.mu.ctx == c) && !(s.tn.ops.any fun o => o.c.u.ctx == c)
    && !(s.un.errs.any fun e => e.u.ctx == c)

/-- Nothing of a context's engines is in flight but chunks and the refusals of first chunks, which send nothing more (R244, R245). -/
def enginesQuiet (s : State) (c : Nat) : Bool :=
  !(s.cp.acks.any fun a => a.mu.ctx == c && !a.busy) && !(s.cp.credits.any fun a => a.slot.ctx == c)
    && !(s.cp.rels.any fun a => a.mu.ctx == c) && !(s.cp.slotRets.any fun a => a.mu.ctx == c)
    && !(s.cp.bindMsgs.any fun a => a.mu.ctx == c) && !(s.lk.ios.any fun a => a.mu.ctx == c)

/-- The drain of a context has ended (R244, R369). -/
def drained (s : State) (c : Nat) : Bool :=
  unitsQuiet s c && enginesQuiet s c && !(s.cp.chunks.any fun k => k.src.ctx == c) && !(s.tn.fills.any fun f => f.c.u.ctx == c)
    && !(s.cp.copies.any fun p => p.mu.ctx == c && isMoving p)
    && !(s.lk.egress.any fun e => !keepsOut c e)

/-- The counted EXIT whose station has the least commit key (R369, R177). -/
def leastExit (x : Ctx) (es : List ExitCount) : Nat :=
  let le (a b : ExitCount) : Bool :=
    keyCmp x a.u.copy a.u.x a.u.y a.col a.itr a.ss b.u.x b.u.y b.col b.itr b.ss != .gt
  match es with
  | [] => 0
  | e :: es => (es.foldl (fun m a => if le m a then m else a) e).code

/-- A refused reconfiguration (R366): its record carries the status word, and the context is killed. -/
def reconfRefused (s : State) (c : Nat) (st : Word) : State :=
  let x := ctxOf s c
  let e := x.exits.headD { code := 0, u := { ctx := c, copy := 0, x := 0, y := 0 }, ss := 0, col := 0, itr := 0 }
  let r : FaultRec :=
    { kind := 0x0D, flg := 0, lvl := 0, fks := nbits st.toNat 8 4, va := st, x := relCol x e.u.x, y := e.u.y, stn := e.ss,
      mod := memberOf x e.u.x, hdr := 0, col := e.col, cid := 0, seq := x.fseq, rv := 0, pv := 0 }
  let F : Ready := { u := e.u, stn := e.ss, seq := 0, l := mkTok x.key c e.col e.itr 0 kValue 0 false, r := none, p := none, near := false,
                     again := false, matched := false, pair := none }
  killCtx (recordFault s F r none false) c 0x0D

/-- The old kernel leaves the paddock (R366): waiting tokens and instances are orphans, every colour other than 0 is released, and what
the list of survivors does not name is gone. -/
def dropKernel (s : State) (c : Nat) : State :=
  let s := addOrph s c (sweepCount s c)
  let binds := s.cp.binds.filter fun b => b.mu.ctx == c
  let qps := s.lk.qps
  let s := clearKernel (sweepCtx s c) c
  let free (r : CallRec) (s : State) : State := storeRec s { ctx := c, copy := r.copy, x := 3, y := 0 } { r with state := .free }
  let s := (ctxOf s c).recs.foldl (fun s r => free r s) s
  { updCtx s c fun x => { x with exits := [], reconf := none, marker := none, frec := none, purges := [] } with
    cp := { s.cp with binds := s.cp.binds ++ binds.map fun b => { b with waiting := [], maker := none } },
    lk := { s.lk with qps := qps } }

/-- The new kernel of a reconfiguration is verified and loaded into the same paddock, and its entry tokens are placed (R366); the
members of an outing start it together. -/
def reconfLoad (s : State) (c : Nat) (img arg : Word) : State :=
  let x := ctxOf s c
  match readImage s x img with
  | .waits r => wantRegion s r
  | .bad e => reconfRefused (loaderCheck s c e) c (plainStatus 0x20)
  | .ok bs =>
    match verifyImage s x bs with
    | .error st => reconfRefused s c st
    | .ok rs =>
      match argEntries s x arg with
      | .error (some r) => wantRegion s r
      | .error none => reconfRefused (argCheck s c arg) c (plainStatus 0x25)
      | .ok es =>
        let t := writeRecs (dropKernel s c) c rs
        let t := updCtx t c fun x => { x with digest := (imgHead bs).digest, cached := false }
        if x.members.length > 1 then
          let t := updCtx t c fun x => { x with cst := .loading, loadStage := 4, reconf := some (img, arg), syncs := [] }
          if argsFit t c es then report t c 0 else reconfRefused s c (plainStatus 0x25)
        else if argsFit t c es then placeArgs (updCtx t c fun x => { x with cst := .running, freezing := false }) c es
        else reconfRefused s c (plainStatus 0x25)

/-- The host region that the reads of a reconfiguration wait for. -/
def reconfWaits (s : State) (x : Ctx) : Option Nat :=
  match x.reconf with
  | none => none
  | some (img, arg) =>
    match readImage s x img, argEntries s x arg with
    | .waits r, _ => some r
    | _, .error (some r) => some r
    | _, _ => none

/-- What this member tells the home of an outing at the end of its drain: the EXIT firings it counted, its orphans and its failed
copies. -/
def tellEnded (s : State) (c : Nat) : State :=
  let x := ctxOf s c
  let s := updCtx s c fun x => { x with syncs := x.syncs ++ [(2, x.member)] }
  if x.member == x.home then s
  else sendOut s x x.home (.msg (.ended c x.member (x.exits.map fun e => (e.code, e.u, e.ss, e.col, e.itr))
    (x.orph + sweepCount s c) (x.fcp + failCount s c)))

/-- The drained context ends or takes its new kernel; the members of an outing do so together (R366, R369). -/
def drainEnd (s : State) (c : Nat) : State :=
  let x := ctxOf s c
  match x.reconf with
  | some (img, arg) => reconfLoad (tellMembers (updCtx s c fun x => { x with syncs := x.syncs ++ [(3, x.member)] }) c (.stop c 7 0)) c img arg
  | none =>
    let code := leastExit x x.exits
    endCtx (tellMembers s c (.stop c 6 code)) c .exited 0 code

/-- DRAIN_COMPLETE (R366, R369): the stop has reached every unit; once nothing is in flight the context-scope boundary commits,
and the context ends or takes its new kernel. A kill completes once the firings issued before it have (R398). -/
def bodyDrainComplete (c : Nat) (s : State) : State :=
  let x := ctxOf s c
  if x.dying then (if killBusy s c then s else finishKill s c)
  else if x.cst != .draining then s
  else
    let s := if x.freezing then drainCopies (updCtx s c fun x => { x with freezing := false }) c else s
    if !drained s c then s
    else if hasReported x 3 then (match x.reconf with | some (img, arg) => reconfLoad s c img arg | none => s)
    else if hasReported x 2 then (if x.member == x.home && allReported x 2 then drainEnd s c else s)
    else match reconfWaits s x with
    | some r => wantRegion s r
    | none =>
      let t := boundary s c fun _ => true
      if !(hostBlocks s c fun _ => true).isEmpty then wantBlocks s c fun _ => true
      else if t.un.errs.any fun e => e.u.ctx == c then t
      else if x.members.length ≤ 1 then drainEnd (stepSrg t c) c
      else
        let t := tellEnded (stepSrg t c) c
        if x.member == x.home && allReported (ctxOf t c) 2 then drainEnd t c else t

/-- DRAIN_COMPLETE. -/
def execDrainComplete (c : Nat) (s : State) : Host.Outcome State Fault Refusal := .next (closeLoad s (bodyDrainComplete c s))

end Sys2Proof.Machine
end

