-- ==== Sys2Proof/Machine/Context.lean ====
section
/-!
DEFINITION. Contexts (17 R390 to R398, R403 to R411): the registers of a context, the supervisor's commands, freezing, energy,
YIELD, CTXID and ENRD.
-/

namespace Sys2Proof.Machine

open Sys2Proof

/-! ### Registers (R397, R204) -/

/-- The code of a context state (R391). -/
def cstCode : CState → Nat
  | .created => 0 | .loading => 1 | .running => 2 | .frozen => 3 | .draining => 4 | .saved => 5 | .relocating => 6
  | .restoring => 7 | .exited => 8 | .killed => 9

/-- `CXST`. -/
def cxst (x : Ctx) : Nat := cstCode x.cst + 16 * frzBits x.frz + 2 ^ 9 * (x.rcnt % 2 ^ 16) + 2 ^ 25 * x.cerr.toNat

/-- `CXECN`: ECNT, its hidden fraction and ESAT. -/
def cxecn (x : Ctx) : Nat := x.ecnt / 256 + 2 ^ 48 * (x.ecnt % 256) + 2 ^ 63 * x.esat.toNat

/-- The context registers in table order, then the allocator registers (R397, R204). -/
def ctxRegs (x : Ctx) : List Nat :=
  [cxst x, 0, x.splBase + 2 ^ 57 * x.splLog, x.shd, x.shs, x.crb, x.frp, x.hmp, x.srg.toNat, cxecn x, x.ebud, x.wchg, x.ctb, x.rvb,
   x.hbase, x.hsize, x.htop, x.nextidx]

/-- A register of a context; none where the number names none. -/
def ctxRegRead (x : Ctx) (r : Nat) : Option Word := ((ctxRegs x)[r]?).map (BitVec.ofNat 64)

/-- Writes the RW fields of a register. HTOP follows HBASE until it is written itself, by the supervisor or by an allocation (its reset value is
HBASE, R204). -/
def ctxRegSet (r v : Nat) (x : Ctx) : Ctx :=
  let a := nbits v 0 57
  match r with
  | 2 => { x with splBase := a, splLog := nbits v 57 5 }
  | 3 => { x with shd := a }
  | 4 => { x with shs := a }
  | 5 => { x with crb := a }
  | 6 => { x with frp := a }
  | 7 => { x with hmp := nbits v 0 43 }
  | 8 => { x with srg := if nbits v 0 32 == 0 then 1 else BitVec.ofNat 32 v }
  | 9 => { x with ecnt := 256 * nbits v 0 48 + nbits v 48 8 }
  | 10 => { x with ebud := nbits v 0 48 }
  | 12 => { x with ctb := a }
  | 13 => { x with rvb := a }
  | 14 => { x with hbase := a, htop := if x.htopw then x.htop else a }
  | 15 => { x with hsize := a }
  | 16 => { x with htop := a, htopw := true }
  | 17 => { x with nextidx := nbits v 0 19 }
  | _ => x

/-- The bits of a register that a write of 1 clears. -/
def ctxRegClear (r v : Nat) (x : Ctx) : Ctx :=
  if r == 0 then { x with cerr := x.cerr && nbits v 25 1 == 0 }
  else if r == 9 then { x with esat := x.esat && nbits v 63 1 == 0 }
  else x

/-- A write of a register with RW fields: only in CREATED, FROZEN or SAVED (R397). -/
def ctxRegWrite (r v : Nat) (x : Ctx) : Ctx :=
  let x := ctxRegClear r v x
  if r == 0 || r == 1 || r == 11 then x
  else if x.cst == .created || x.cst == .frozen || x.cst == .saved then ctxRegSet r v x
  else { x with cerr := true }

/-! ### Energy (R403 to R406) -/

/-- The static weights of the units of a context on this module (R403). -/
def staticWeight (s : State) (x : Ctx) : Nat :=
  ((unitsOf x).map fun u => ewOf s (dieOf s u) (if isMu u.x then 11 else 10)).sum

/-- Charges reach the energy unit of a context. -/
def toEnergy (s : State) (c n : Nat) : State :=
  let x := ctxOf s c
  if hubHere x then updCtx s c fun x => addEnergy x n else sendOut s x 0 (.msg (.energy c n))

/-- The static charges of the cycles of residence not yet charged (R403, R404). -/
def chargeStatic (c : Nat) (s : State) : State :=
  let x := ctxOf s c
  if x.residence ≤ x.charged then s
  else
    let n := (x.residence - x.charged) * staticWeight s x
    toEnergy (updCtx s c fun x => { x with charged := x.residence }) c n

/-- STATIC_ENERGY_CHARGE. -/
def execStaticEnergyCharge (c : Nat) (s : State) : Host.Outcome State Fault Refusal := done s (chargeStatic c s)

/-- A unit forwards its charges (R403). -/
def bodyEnergyForward (u : UId) (s : State) : State :=
  let n := fget 0 s.fab.charges (uKey u)
  if n == 0 then s
  else toEnergy { s with fab := { s.fab with charges := fset 0 s.fab.charges (uKey u) 0 } } u.ctx n

/-- ENERGY_FORWARD. -/
def execEnergyForward (u : UId) (s : State) : Host.Outcome State Fault Refusal := done s (bodyEnergyForward u s)

/-- The counter has reached a nonzero budget (R388): the yard freezes the context and the supervisor is told. In DRAINING the
request is dropped (R396). -/
def bodyBudgetReached (c : Nat) (s : State) : State :=
  let x := ctxOf s c
  if !x.budHit then s
  else
    let s := updCtx s c fun x => { x with budHit := false }
    if x.cst == .running || x.cst == .frozen then requestFreeze (notice s x.die 7 c) c fun f => { f with budget := true } else s

/-- ENERGY_BUDGET_REACHED. -/
def execEnergyBudgetReached (c : Nat) (s : State) : Host.Outcome State Fault Refusal := done s (bodyBudgetReached c s)

/-! ### Freezing (R392 to R394, R67, R245, R289) -/

/-- Nothing of a context's token front moves: no token on its way to a CU, no probe, nothing but copy data that waits to leave (R245), and no K
write of a BWLD that is still held (R323). -/
def frontQuiet (s : State) (c : Nat) : Bool :=
  !(s.fab.flights.any fun f => f.u.ctx == c) && !(s.fab.arrivals.any fun f => f.u.ctx == c)
    && !(s.fab.probes.any fun f => f.u.ctx == c) && !(s.fab.cfgHeld.any fun h => h.u.ctx == c && h.grp.isSome)
    && !(s.lk.egress.any fun e => !keepsOut c e && !isData e.2.2)
    && !(s.lk.ports.any fun e => e.2.tx.any fun f => cargoCtx f.cargo == c && !isData f.cargo)

/-- Every barrier of the context has finished the commit that it began (R227). The commit of a REDUNDANT context that waits for the match has not
begun (R470, log entry 106). -/
def barsQuiet (s : State) (c : Nat) : Bool :=
  isRedundant (ctxOf s c) || (s.cp.bars.filter fun e => ctxLoc c ≤ e.1 && e.1 < ctxLoc (c + 1)).all fun e =>
    match e.2 with | some b => b.away == 0 && !b.owed | none => true

/-- A freeze may be declared complete (R394): every whole chunk that has been staged is applied, but for one that waits for its turn in a ring, and
every token that a bin set has taken is appended (R245, R344). A put of a whole map goes on after the freeze. -/
def freezeReady (s : State) (c : Nat) : Bool :=
  unitsQuiet s c && enginesQuiet s c && frontQuiet s c && barsQuiet s c
    && !(s.cp.puts.any fun p => p.req.mu.ctx == c && p.maps.isEmpty)
    && !(s.cp.chunks.any fun k => k.src.ctx == c && !waitsTurn s k)

/-- The part of a chunk that waits to leave belongs to a copy. -/
def partOf (p : Copy) (e : Nat × Nat × Cargo) : Bool :=
  match e.2.2 with
  | .data k _ _ _ => k.src == p.mu && k.id == p.id
  | _ => false

/-- Chunks that are only partly staged are discarded: what has arrived of them, and what has not left, whose copies replay (R245). -/
def dropChunks (s : State) (c : Nat) : State :=
  let back (p : Copy) : Copy := if p.mu.ctx == c && isMoving p && s.lk.egress.any (partOf p) then enterReplay s p else p
  { s with cp := { s.cp with copies := s.cp.copies.map back },
           lk := { s.lk with egress := s.lk.egress.filter fun e => keepsOut c e || !isData e.2.2,
                             arriving := s.lk.arriving.filter fun k => k.src.ctx != c } }

/-- The purges that wait run once every member of the context is frozen (R78, R467); a context with no reason left resumes. -/
def settleFrozen (s : State) (c : Nat) : State :=
  let x := ctxOf s c
  if x.cst != .frozen then s
  else if x.purges.isEmpty then (if x.frz == noFrz then resumeCtx s c else s)
  else if hubHere x && othersFrozen x then runPurges s c
  else s

/-- FREEZE_COMPLETE (R394, R403, R480): the charges are in, the supervisor is told of a reason that is its own, and the purges run. -/
def bodyFreezeComplete (c : Nat) (s : State) : State :=
  let x := ctxOf s c
  if x.cst != .running || !x.freezing || !freezeReady s c then s
  else
    let s := updCtx (dropChunks (chargeStatic c (gatherCharges s c)) c) c fun x => { x with cst := .frozen, freezing := false }
    let s := if x.frz.fault || x.frz.budget || x.frz.superv then notice s x.die 2 c else s
    let s := if hubHere x then s else sendOut s x 0 (.msg (.sync c x.member 1))
    settleFrozen s c

/-- FREEZE_COMPLETE. -/
def execFreezeComplete (c : Nat) (s : State) : Host.Outcome State Fault Refusal := done s (bodyFreezeComplete c s)

/-! ### The supervisor's commands (R397, R479) -/

/-- A command or write to a context was ignored (R397). -/
def setCerr (s : State) (c : Nat) : State := updCtx s c fun x => { x with cerr := true }

/-- A command of a hart reaches a context: a non-secure one has no effect on a secure context (R479). -/
def command (c : Nat) (sec : Bool) (legal : Ctx → Bool) (act : State → State) (s : State) : State :=
  let x := ctxOf s c
  if !(s.ctxs.any fun y => y.id == c) || (isSecure x && !sec) then s
  else if legal x then act s
  else setCerr s c

/-- FREEZE (R392, R393): from RESIDENT-RUNNING, or a further reason in FROZEN. -/
def bodyFreeze (c : Nat) (sec : Bool) : State → State :=
  command c sec (fun x => x.cst == .running || x.cst == .frozen) fun s => requestFreeze s c fun f => { f with superv := true }

/-- FREEZE. -/
def execFreeze (c : Nat) (sec : Bool) (s : State) : Host.Outcome State Fault Refusal := done s (bodyFreeze c sec s)

/-- THAW (R393, R430). -/
def bodyThaw (c : Nat) (sec : Bool) : State → State :=
  command c sec (fun x => x.cst == .frozen) fun s =>
    clearReasons s c fun f => { f with fault := false, budget := false, superv := false }

/-- THAW. -/
def execThaw (c : Nat) (sec : Bool) (s : State) : Host.Outcome State Fault Refusal := done s (bodyThaw c sec s)

/-- SAVE (R392, R395, R397): from FROZEN, with a hamper area, and not of an outing. -/
def bodySave (c : Nat) (sec : Bool) : State → State :=
  command c sec (fun x => x.cst == .frozen && x.hmp != 0 && !isOuting x) fun s =>
    updCtx (chargeStatic c s) c fun x => { x with frz := { x.frz with preempt := true } }

/-- SAVE. -/
def execSave (c : Nat) (sec : Bool) (s : State) : Host.Outcome State Fault Refusal := done s (bodySave c sec s)

/-- A resume entry goes to the front of a queue, and out of any other. -/
def putResume (s : State) (c q : Nat) : State :=
  let s := { s with yard := { s.yard with queues := s.yard.queues.map fun e => (e.1, { e.2 with resume := e.2.resume.filter (· != c) }) } }
  updCtx (updQueue s q fun k => { k with resume := c :: k.resume }) c fun x => { x with savedAt := s.clock }

/-- REQUEUE (R392): the saved context becomes a resume entry of a queue of its world that exists. -/
def bodyRequeue (c q : Nat) (sec : Bool) (s : State) : State :=
  command c sec (fun x => x.cst == .saved && (queueOf s q).created && (queueOf s q).qw == isSecure x) (fun s => putResume s c q) s

/-- REQUEUE. -/
def execRequeue (c q : Nat) (sec : Bool) (s : State) : Host.Outcome State Fault Refusal := done s (bodyRequeue c q sec s)

/-- KILL (R398). -/
def bodyKill (c : Nat) (sec : Bool) : State → State := command c sec isLive fun s => killCtx s c 0x29

/-- KILL. -/
def execKill (c : Nat) (sec : Bool) (s : State) : Host.Outcome State Fault Refusal := done s (bodyKill c sec s)

/-- GO (R392): the registers are fixed and the load begins. -/
def bodyGo (c : Nat) (sec : Bool) : State → State :=
  command c sec (fun x => x.cst == .created) fun s => updCtx s c fun x => { x with cst := .loading, loadStage := 0 }

/-- GO. -/
def execGo (c : Nat) (sec : Bool) (s : State) : Host.Outcome State Fault Refusal := done s (bodyGo c sec s)

/-! ### YIELD (R409) -/

/-- The waiting tokens of a colour in a CU's near tiers. -/
def nearTokens (s : State) (u : UId) (col : Nat) : List Waiting := s.fab.waiting.filter fun w => w.u == u && w.tok.col.toNat == col

/-- One token moves to the spill table; it stays where all 16 entries are valid. -/
def yieldTok (a : Nat × State) (w : Waiting) : Nat × State :=
  match spillFree a.2 w.u w.tok with
  | .error _ => a
  | .ok p => (a.1 + 1, spillPut { a.2 with fab := { a.2.fab with waiting := a.2.fab.waiting.erase w } } p w.u w.seq w.tok)

/-- The tokens of a colour move in some CUs: how many did. -/
def yieldCus (us : List UId) (col : Nat) (s : State) : Nat × State :=
  us.foldl (fun a u => (nearTokens a.2 u col).foldl yieldTok a) (0, s)

/-- The CUs of a paddock copy on this module. -/
def copyCus (x : Ctx) (k : Nat) : List UId := (unitsOf x).filter fun u => u.copy == k && !isMu u.x

/-- This member's part of YIELD.ALL, after which the next member takes its part, or the tokens are sent (R409). -/
def yieldOn (u : UId) (col itr : Nat) (ta tb : BitVec 12) (kind : BitVec 3) (v : Word) (n : Nat) (left : List Nat) (s : State) : State :=
  let x := ctxOf s u.ctx
  let r := yieldCus (copyCus x u.copy) col s
  match left with
  | m :: ms => sendOut r.2 x m (.msg (.yieldOn u col itr ta tb kind v (n + r.1) ms))
  | [] => emitFrom (emitFrom r.2 u u col itr ta kind v false) u u col itr tb kValue (BitVec.ofNat 64 (n + r.1)) false

/-- YIELD (R409). `emit` is that of R11, which sends a value token. -/
def bodyYield (f : Fields) (F : Ready) (s : State) : State :=
  if f.fn == 0 then
    let r := yieldCus [F.u] (fcol F) s
    emit F f.tb kValue (BitVec.ofNat 64 r.1) (emit F f.ta kValue F.l.val r.2)
  else
    let x := ctxOf s F.u.ctx
    yieldOn F.u (fcol F) (fitr F) f.ta f.tb kValue F.l.val 0 ((List.range x.members.length).filter (· != x.member)) s

/-- YIELD. -/
def execYield (f : Fields) (s : State) : Host.Outcome State Fault Refusal := runLanes (laneBoth f (bodyYield f)) s

/-! ### CTXID and ENRD (R410, R411) -/

/-- The value of CTXID (R410). -/
def ctxidVal (x : Ctx) : Word :=
  BitVec.ofNat 64 (x.id + 2 ^ 9 * (isRedundant x).toNat + 2 ^ 10 * (isOuting x).toNat + 2 ^ 11 * x.member + 2 ^ 19 * x.world
    + 2 ^ 32 * (x.rcnt % 2 ^ 16))

/-- CTXID. -/
def execCtxid (f : Fields) (s : State) : Host.Outcome State Fault Refusal :=
  runLanes (laneBoth f fun F s => emitBoth f F kValue (ctxidVal (ctxOf s F.u.ctx)) s) s

/-- ENRD at issue (R411): the request carries the charges of its CU. -/
def bodyEnrd (f : Fields) (F : Ready) (s : State) : State :=
  let n := fget 0 s.fab.charges (uKey F.u)
  sendReq (hubOf F.u) (.enrd f) F [BitVec.ofNat 64 n] { s with fab := { s.fab with charges := fset 0 s.fab.charges (uKey F.u) 0 } }

/-- ENRD. -/
def execEnrd (f : Fields) (s : State) : Host.Outcome State Fault Refusal := runLanes (laneBoth f (bodyEnrd f)) s

/-- ENRD at the energy unit (R411). -/
def performEnrd (q : Req) (s : State) : State :=
  let c := q.c.u.ctx
  let s := updCtx (chargeStatic c s) c fun x => addEnergy x (reqK q 0).toNat
  let x := ctxOf s c
  let v := if (reqFields q).fn == 0 then x.ecnt / 256 + 2 ^ 63 * x.esat.toNat else x.ebud
  answer q (BitVec.ofNat 64 v) s

end Sys2Proof.Machine
end

