-- ==== Sys2Proof/Machine/Group.lean ====
section
/-!
DEFINITION. GRP.ID and GRP.SIZE (15 R370 to R376): the indices and the sizes of the groups of a site.
-/

namespace Sys2Proof.Machine

open Sys2Proof

/-- A low and a high field of 32 bits (R376). -/
def pair32 (lo hi : Nat) : Word := BitVec.ofNat 64 (lo % 2 ^ 32 + 2 ^ 32 * hi)

/-- The value of GRP.ID (R376) for the site of a firing. -/
def grpIdVal (f : Fields) (x : Ctx) (cx cy : Nat) : Word :=
  match groupAt x (fld f 0 3) with
  | none => if f.fn == 3 then BitVec.ofNat 64 (siteIndex x none cx cy) else 0
  | some g =>
    match f.fn.toNat with
    | 0 => BitVec.ofNat 64 (linIndex x g cx cy)
    | 1 => pair32 (groupXY g cx cy).1 (groupXY g cx cy).2
    | 2 => BitVec.ofNat 64 (parIndex x g cx cy)
    | _ => BitVec.ofNat 64 (siteIndex x (some g) cx cy)

/-- GRP.ID. -/
def execGrpId (f : Fields) (s : State) : Host.Outcome State Fault Refusal :=
  runLanes (laneBoth f fun F s => emitBoth f F kValue (grpIdVal f (ctxOf s F.u.ctx) F.u.x F.u.y) s) s

/-- The extent of group `k` of size `n` where it is clipped to `w` (R372). -/
def clipped (k n w : Nat) : Nat := min n (w - k * n)

/-- The value of GRP.SIZE (R376). -/
def grpSizeVal (f : Fields) (x : Ctx) (cx cy : Nat) : Word :=
  match groupAt x (fld f 0 3) with
  | none => if f.fn == 0 then pair32 (padW x / 4) x.ph else pair32 1 1
  | some g =>
    if f.fn == 0 then pair32 (clipped (groupXY g cx cy).1 g.gw (padW x / 4)) (clipped (groupXY g cx cy).2 g.gh x.ph)
    else pair32 (groupsAcross x g) ((x.ph + g.gh - 1) / g.gh)

/-- GRP.SIZE. -/
def execGrpSize (f : Fields) (s : State) : Host.Outcome State Fault Refusal :=
  runLanes (laneBoth f fun F s => emitBoth f F kValue (grpSizeVal f (ctxOf s F.u.ctx) F.u.x F.u.y) s) s

end Sys2Proof.Machine
end

