-- ==== Sys2Proof/Machine/Pack.lean ====
section
/-!
DEFINITION. The engine part of an MU's hamper slot as words (17 R399): copy queue and table, commit table, bind requests, barrier retry buffer,
AGU streams, write queues, bin sets and their puts, fibre units and emitter windows. R399 gives the part no layout inside; this one is the
model's (log entry 50).
-/

namespace Sys2Proof.Machine

open Sys2Proof

/-! ### Words out of objects -/

/-- A list with its length before it. -/
def packList {α : Type} (f : α → List Nat) (as : List α) : List Nat := as.length :: as.flatMap f

/-- An optional object. -/
def packOpt {α : Type} (f : α → List Nat) : Option α → List Nat
  | none => [0]
  | some a => 1 :: f a

/-- A number of any size up to 128 bits. -/
def packBig (n : Nat) : List Nat := [n % 2 ^ 64, n / 2 ^ 64]

/-- A unit. -/
def packUnit (u : UId) : List Nat := [u.ctx + 2 ^ 16 * u.copy + 2 ^ 20 * u.x + 2 ^ 36 * u.y]

/-- A token. -/
def packTok (t : Flit) : List Nat := (List.range 3).map fun k => nbits (packFlit t).toNat (64 * k) 64

/-- A firing. -/
def packReady (r : Ready) : List Nat :=
  packUnit r.u ++ [r.stn + 2 ^ 8 * r.seq + 2 ^ 24 * r.near.toNat + 2 ^ 25 * r.again.toNat + 2 ^ 26 * r.matched.toNat] ++ packTok r.l
    ++ packOpt packTok r.r ++ packOpt packTok r.p ++ packOpt (fun n => [n]) r.pair

/-- An instruction as its station word. -/
def packInstr (i : Instr) : List Nat := [((encode i).getD 0).toNat]

/-- A request, without its MU. -/
def packReq (q : Req) : List Nat :=
  packInstr q.i ++ packReady q.c ++ packList (fun w : Word => [w.toNat]) q.k ++ [q.iseq] ++ packOpt (fun w : Nat × Nat => [w.1, w.2]) q.walked

/-- A tensor-map descriptor. -/
def packMap (d : BitVec 512) : List Nat := (List.range 8).map fun k => nbits d.toNat (64 * k) 64

/-- A token of an emitter's window. -/
def packFibTok (t : FibTok) : List Nat := [t.itr + 2 ^ 16 * t.kind.toNat, t.val.toNat]

/-- The state of a copy as a number (R237). -/
def copyStNum : CopySt → Nat
  | .issued => 0 | .streaming => 1 | .committed => 2 | .complete => 3 | .failed => 4 | .replaying => 5

/-- A reservation. -/
def packResv (r : Resv) : List Nat := [r.p, r.place] ++ packOpt (fun n => [n]) r.pad

/-- A copy object, without its MU. -/
def packCopy (p : Copy) : List Nat :=
  [p.id] ++ packInstr p.i ++ packReady p.c ++ packList (fun w : Word => [w.toNat]) p.k
    ++ [copyStNum p.st + 2 ^ 4 * p.rsn + 2 ^ 8 * p.crfail.toNat + 2 ^ 9 * p.left.toNat, p.nch, p.total, p.sent, p.cw.toNat, p.src.toNat, p.dst.toNat,
        p.len] ++ packList packMap p.maps ++ packOpt (fun n => [n]) p.timer ++ packOpt packResv p.resv ++ packList (fun n => [n]) p.strm
    ++ [p.pos, p.n, p.cnt] ++ packList packBig p.aux ++ packList packFibTok p.toks ++ packList packFibTok p.toks2

/-- A bin set. -/
def packBin (b : BinSet) : List Nat :=
  [if b.st == .opened then 1 else 2, b.dest.toNat, b.ctl.toNat, b.area.toNat, b.cw.toNat, b.app, b.drp, b.blocks, b.used]
    ++ packOpt (fun n => [n]) b.region ++ packOpt packReady b.play

/-- A put of the binning engine. -/
def packPut (u : BinPut) : List Nat := packReq u.req ++ [u.set] ++ packList packMap u.maps ++ [u.pos, u.app, u.drp]

/-! ### Objects out of words -/

/-- A reader of words: what it has read, and the words that follow. -/
abbrev Reader (α : Type) := StateT (List Nat) Option α

/-- The next word. -/
def readWord : Reader Nat := fun ws =>
  match ws with
  | [] => none
  | w :: ws => some (w, ws)

/-- A fixed number of objects. -/
def readMany {α : Type} (f : Reader α) : Nat → Reader (List α)
  | 0 => pure []
  | n + 1 => do return (← f) :: (← readMany f n)

/-- A list with its length before it. -/
def readList {α : Type} (f : Reader α) : Reader (List α) := do readMany f (← readWord)

/-- An optional object. -/
def readOpt {α : Type} (f : Reader α) : Reader (Option α) := do
  match ← readWord with
  | 0 => return none
  | 1 => return some (← f)
  | _ => failure

/-- A number of up to 128 bits. -/
def readBig : Reader Nat := do return (← readWord) + 2 ^ 64 * (← readWord)

/-- A 64-bit value. -/
def readVal : Reader Word := do return BitVec.ofNat 64 (← readWord)

/-- A unit. -/
def readUnit : Reader UId := do
  let n ← readWord
  return { ctx := nbits n 0 16, copy := nbits n 16 4, x := nbits n 20 16, y := nbits n 36 28 }

/-- A token. -/
def readTok : Reader Flit := do
  let ws ← readMany readWord 3
  return unpackFlit (BitVec.ofNat 160 (ws.getD 0 0 + 2 ^ 64 * ws.getD 1 0 + 2 ^ 128 * ws.getD 2 0))

/-- A firing. -/
def readReady : Reader Ready := do
  let u ← readUnit
  let n ← readWord
  let l ← readTok
  let r ← readOpt readTok
  let p ← readOpt readTok
  let pair ← readOpt readWord
  return { u := u, stn := nbits n 0 8, seq := nbits n 8 16, l := l, r := r, p := p, near := nbits n 24 1 == 1, again := nbits n 25 1 == 1,
           matched := nbits n 26 1 == 1, pair := pair }

/-- An instruction from its station word. -/
def readInstr : Reader Instr := do
  match decode (← readVal) with
  | .ok i => return i
  | .error _ => failure

/-- A request at MU `m`. -/
def readReq (m : UId) : Reader Req := do
  let i ← readInstr
  let c ← readReady
  let k ← readList readVal
  let n ← readWord
  let w ← readOpt (do return ((← readWord), (← readWord)))
  return { mu := m, i := i, c := c, k := k, iseq := n, walked := w }

/-- A tensor-map descriptor. -/
def readDesc : Reader (BitVec 512) := do
  let ws ← readMany readWord 8
  return BitVec.ofNat 512 (ws.foldr (fun w n => w + 2 ^ 64 * n) 0)

/-- A token of an emitter's window. -/
def readFibTok : Reader FibTok := do
  let n ← readWord
  return { itr := nbits n 0 16, kind := BitVec.ofNat 3 (nbits n 16 3), val := ← readVal }

/-- The state of a copy from its number. -/
def copyStOf (n : Nat) : Option CopySt := [.issued, .streaming, .committed, .complete, .failed, .replaying][n]?

/-- A reservation. -/
def readResv : Reader Resv := do return { p := ← readWord, place := ← readWord, pad := ← readOpt readWord }

/-- A copy object of MU `m`. -/
def readCopy (m : UId) : Reader Copy := do
  let id ← readWord
  let i ← readInstr
  let c ← readReady
  let k ← readList readVal
  let n ← readWord
  let st ← copyStOf (nbits n 0 4)
  let nch ← readWord
  let total ← readWord
  let sent ← readWord
  let cw ← readVal
  let src ← readVal
  let dst ← readVal
  let len ← readWord
  let maps ← readList readDesc
  let timer ← readOpt readWord
  let resv ← readOpt readResv
  let strm ← readList readWord
  let pos ← readWord
  let cn ← readWord
  let cnt ← readWord
  let aux ← readList readBig
  let toks ← readList readFibTok
  let toks2 ← readList readFibTok
  return { mu := m, id := id, i := i, c := c, k := k, st := st, rsn := nbits n 4 4, nch := nch, total := total, sent := sent, cw := cw, src := src,
           dst := dst, len := len, maps := maps, timer := timer, crfail := nbits n 8 1 == 1, resv := resv, strm := strm, pos := pos, n := cn, cnt := cnt,
           aux := aux, toks := toks, toks2 := toks2, left := nbits n 9 1 == 1 }

/-- A bin set. -/
def readBin : Reader BinSet := do
  let st ← readWord
  let dest ← readVal
  let ctl ← readVal
  let area ← readVal
  let cw ← readVal
  let app ← readWord
  let drp ← readWord
  let blocks ← readWord
  let used ← readWord
  let region ← readOpt readWord
  let play ← readOpt readReady
  return { st := if st == 1 then .opened else .playing, dest := dest, ctl := ctl, area := area, cw := cw, app := app, drp := drp, blocks := blocks,
           used := used, region := region, play := play }

/-- A put of the binning engine of MU `m`. -/
def readPut (m : UId) : Reader BinPut := do
  let q ← readReq m
  let n ← readWord
  let maps ← readList readDesc
  return { req := q, set := n, maps := maps, pos := ← readWord, app := ← readWord, drp := ← readWord }

/-! ### The part of one MU -/

/-- An object of the engine part. -/
inductive EngObj where
  | queued (q : Req)
  | copy (p : Copy)
  | commit (e : CommitEnt)
  | bind (k : Nat) (maker : Option Req) (waiting : List Req)
  | retry (r : Retry)
  | tok (t : Flit)
  | bin (n : Nat) (b : BinSet)
  | put (p : BinPut)
  | seqs (cseq turn : Nat)
deriving DecidableEq, Repr

/-- What an object holds, under the number of its kind. -/
def packObj : EngObj → Nat × List Nat
  | .queued q => (1, packReq q)
  | .copy p => (2, packCopy p)
  | .commit e => (3, packUnit e.mu ++ [e.id, e.nxt] ++ packBig e.sum)
  | .bind k m ws => (4, k :: packOpt packReq m ++ packList packReq ws)
  | .retry r => (5, packReq r.req ++ [2 * r.off + r.due.toNat])
  | .tok t => (6, packTok t)
  | .bin n b => (7, n :: packBin b)
  | .put p => (8, packPut p)
  | .seqs c t => (9, [c, t])

/-- An object of a kind at MU `m`. -/
def readObj (m : UId) (kind : Nat) : Reader EngObj := do
  match kind with
  | 1 => return .queued (← readReq m)
  | 2 => return .copy (← readCopy m)
  | 3 => do
    let u ← readUnit
    let id ← readWord
    let nxt ← readWord
    return .commit { dst := m, mu := u, id := id, nxt := nxt, sum := ← readBig }
  | 4 => do
    let k ← readWord
    let q ← readOpt (readReq m)
    return .bind k q (← readList (readReq m))
  | 5 => do
    let q ← readReq m
    let n ← readWord
    return .retry { req := q, off := n / 2, due := n % 2 == 1 }
  | 6 => return .tok (← readTok)
  | 7 => do
    let n ← readWord
    return .bin n (← readBin)
  | 8 => return .put (← readPut m)
  | 9 => do
    let c ← readWord
    return .seqs c (← readWord)
  | _ => failure

/-- An object's record: its kind and length, then its words. -/
def packRecord (o : EngObj) : List Nat :=
  let r := packObj o
  (r.1 + 2 ^ 8 * r.2.length) :: r.2

/-- The object of a record, if the record is whole. -/
def recordObj (m : UId) (kind : Nat) (ws : List Nat) : Option EngObj :=
  match (readObj m kind).run ws with
  | some (o, []) => some o
  | _ => none

/-- The words of the part after the bindings. -/
def engRoom : Nat := 2016

/-- The object has its record in `n` words: it fits, and nothing of it is lost. -/
def packs (m : UId) (o : EngObj) (n : Nat) : Bool := (packRecord o).length ≤ n && recordObj m (packObj o).1 (packObj o).2 == some o

/-- Which objects have their records in `n` words: those that are written, and those that stay in the state. -/
def splitObjs (m : UId) : Nat → List EngObj → List EngObj × List EngObj
  | _, [] => ([], [])
  | n, o :: os =>
    if packs m o n then let r := splitObjs m (n - (packRecord o).length) os; (o :: r.1, r.2)
    else let r := splitObjs m n os; (r.1, o :: r.2)

/-- The objects of some records; none where a record is not whole. The first argument bounds the records. -/
def readRecords (m : UId) : Nat → List Nat → Option (List EngObj)
  | 0, _ => some []
  | _, [] => some []
  | k + 1, w :: ws =>
    if w == 0 then (if ws.all (· == 0) then some [] else none)
    else
      let n := w / 2 ^ 8
      if n > ws.length then none
      else match recordObj m (w % 2 ^ 8) (ws.take n) with
      | none => none
      | some o => (readRecords m k (ws.drop n)).map fun os => o :: os

/-- The objects of an MU that its engine part holds. -/
def engObjs (s : State) (u : UId) : List EngObj :=
  let bs := s.cp.binds.filter fun b => b.mu == u
  let k := uKey u
  .seqs (fget 0 s.cp.cseq k) (fget 0 s.cp.turns k)
    :: (s.cp.retry.filter fun r => r.req.mu == u).map .retry
    ++ ((List.range bs.length).zip bs).filterMap (fun e => if e.2.maker.isNone && e.2.waiting.isEmpty then none
        else some (.bind e.1 e.2.maker e.2.waiting))
    ++ (List.range 4).filterMap (fun n => (fget none s.cp.bins (k * 4 + n)).map (.bin n))
    ++ (s.cp.commits.filter fun e => e.dst == u).map .commit
    ++ (s.cp.copies.filter fun p => p.mu == u).map .copy
    ++ (s.cp.queue.filter fun q => q.mu == u).map .queued
    ++ (s.cp.puts.filter fun p => p.req.mu == u).map .put
    ++ (s.cp.toQueues.filter fun f => f.u == u).map fun f => .tok f.tok

/-- The words of an MU's engine part after its bindings. -/
def enginePart (s : State) (u : UId) : List Nat := (splitObjs u engRoom (engObjs s u)).1.flatMap packRecord

/-- The objects that the bytes at an address hold. -/
def engObjsAt (s : State) (u : UId) (a : Nat) : Option (List EngObj) :=
  readRecords u engRoom ((List.range engRoom).map fun k => rdN s (a + 8 * k) 8)

/-- The bindings of an MU with the requests that go with them. -/
def bindReqs (os : List EngObj) (bs : List Binding) : List Binding :=
  ((List.range bs.length).zip bs).map fun e =>
    match os.findSome? fun o => (match o with | .bind k m ws => if k == e.1 then some (m, ws) else none | _ => none) with
    | some r => { e.2 with maker := r.1, waiting := r.2 }
    | none => { e.2 with maker := none, waiting := [] }

/-- The engines of an MU with the objects `os` and none of their own. -/
def engBack (u : UId) (os : List EngObj) (c : CopyState) : CopyState :=
  let k := uKey u
  let pick {α : Type} (f : EngObj → Option α) : List α := os.filterMap f
  let sq := (os.findSome? fun o => match o with | .seqs a b => some (a, b) | _ => none).getD (0, 0)
  { c with
    retry := (c.retry.filter fun r => r.req.mu != u) ++ pick (fun o => match o with | .retry r => some r | _ => none),
    queue := (c.queue.filter fun q => q.mu != u) ++ pick (fun o => match o with | .queued q => some q | _ => none),
    copies := (c.copies.filter fun p => p.mu != u) ++ pick (fun o => match o with | .copy p => some p | _ => none),
    commits := (c.commits.filter fun e => e.dst != u) ++ pick (fun o => match o with | .commit e => some e | _ => none),
    puts := (c.puts.filter fun p => p.req.mu != u) ++ pick (fun o => match o with | .put p => some p | _ => none),
    toQueues := (c.toQueues.filter fun f => f.u != u)
      ++ pick (fun o => match o with | .tok t => some { u := u, port := .loc, rx := 0, ry := 0, tok := t, cfg := none } | _ => none),
    bins := (pick fun o => match o with | .bin n b => some (n, b) | _ => none).foldl (fun m e => fset none m (k * 4 + e.1) (some e.2))
      (fclear c.bins (k * 4) (k * 4 + 4)),
    binds := (c.binds.filter fun b => b.mu != u) ++ bindReqs os (c.binds.filter fun b => b.mu == u),
    cseq := fset 0 c.cseq k sq.1, turns := fset 0 c.turns k sq.2 }

end Sys2Proof.Machine
end

