-- ==== Sys2Proof/Machine/Hamper.lean ====
section
/-!
DEFINITION. Saving and restoring a context (17 R399 to R402, R407, R431): the parts of the hamper are written to memory and read back. Where
the manual gives a part no layout inside, the model's own is used, and what a part's layout has no room for stays with the context's id
(log entry 50).
-/

namespace Sys2Proof.Machine

open Sys2Proof

/-- The bytes of memory cells of a range that are not zero, moved to another address. -/
def moveCells (m : List Host.Cell) (lo n dst : Nat) (s : State) : State :=
  (m.filter fun c => lo ≤ c.1 && c.1 < lo + n).foldl (fun s c => wrBytes s (dst + (c.1 - lo)) [c.2]) s

/-- A group record's fields (R355). -/
def groupBytes (g : GroupDecl) : List Byte := leBytes (g.lvl + 2 ^ 8 * g.gw.log2 + 2 ^ 16 * g.gh.log2) 8

/-- The header of the context record (R399). -/
def headBytes (x : Ctx) : List Byte :=
  let groups := x.groups.flatMap groupBytes
  leBytes 0x504D4148 4 ++ leBytes 1 2 ++ leBytes x.pw 2 ++ leBytes x.ph 2 ++ leBytes x.part 1 ++ leBytes x.world 1 ++ leBytes x.flg 2
    ++ leBytes x.id 2 ++ leBytes (frzBits { x.frz with preempt := false, purge := false }) 2 ++ leBytes 0 46
    ++ (x.digest ++ leBytes 0 48).take 48 ++ (groups ++ leBytes 0 64).take 64 ++ leBytes 0 80

/-- The registers of the context record: `CXSPL` to `CXWCH`, then the allocator registers (R399). -/
def regBytes (x : Ctx) : List Byte := ((ctxRegs x).drop 2).flatMap fun v => leBytes v 8

/-- The colour free map (R73): bit c is 1 while colour c has no record. -/
def freeMap (x : Ctx) : List Byte :=
  (List.range 512).map fun k => BitVec.ofNat 8 (((List.range 8).map fun b =>
    if 8 * k + b != 0 && (recOf x 0 (8 * k + b)).isNone then 2 ^ b else 0).sum)

/-- The held marker and the copy of its record (R426). -/
def markerBytes (x : Ctx) : List Byte :=
  (match x.marker with
    | some m => recordBytes m.f.u false m.f.seq { m.f.l with kind := kMarker }
    | none => leBytes 0 32)
    ++ (match x.frec with | some r => faultBytes r | none => leBytes 0 64)

/-- The call records that the primary copy's colour unit caches, in order of use (R73). -/
def cachedRecords (x : Ctx) : List CallRec := ((x.rcache.filter fun e => e.1 == 0).filterMap fun e => recOf x 0 e.2).take 64

/-- Writes the context record (R399). -/
def saveRecord (x : Ctx) (s : State) : State :=
  let s := wrClear s x.hmp (x.hmp + slotBase)
  let s := wrBytes s x.hmp (headBytes x)
  let s := wrBytes s (x.hmp + 0x100) (regBytes x)
  let s := wrBytes s (x.hmp + 0x200) (freeMap x)
  let s := wrBytes s (x.hmp + 0x400) ((cachedRecords x).flatMap recBytes)
  wrBytes s (x.hmp + 0x2400) (markerBytes x)

/-- A write of a register of a SAVED context changes the hamper too, from which the restore takes it (R397, R402); one in
unbacked memory is dropped with a machine check (R413). -/
def saveReg (c r : Nat) (s : State) : State :=
  let x := ctxOf s c
  let put (s : State) (k : Nat) : State := wrBytes s (x.hmp + 0x100 + 8 * (k - 2)) (leBytes ((ctxRegs x).getD k 0) 8)
  if x.cst != .saved || x.hmp == 0 || r < 2 || r == 7 then s
  else if !backedRange x.hmp 0x10000 then setCause s x.die 3
  else (if r == 14 then [14, 16] else [r]).foldl put s

/-- The tokens of a tier of a CU in their order (R400). -/
def tierTokens (s : State) (u : UId) (hold : Bool) : List Waiting := s.fab.waiting.filter fun w => w.u == u && w.hold == hold

/-- Token records one after the other. -/
def tokenBytes (ws : List Waiting) : List Byte := ws.flatMap fun w => recordBytes w.u w.hold w.seq w.tok

/-- The pool offset of the token hold (R167). -/
def holdOff (x : Ctx) : Nat := 0x4000 * (16 - holdGran x.part)

/-- An entry of the ready queue (R399): station, tag and sequence number; bit 35 says that it is valid. -/
def readyWord (r : Ready) : Nat := r.stn + 2 ^ 7 * fcol r + 2 ^ 19 * fitr r + 2 ^ 35 + 2 ^ 48 * (r.seq % 65536)

/-- The accumulators' type bits and then their zero flags, 8 bytes each (R284, R399). -/
def accBytes (s : State) (u : UId) : List Byte :=
  let sum (b : Nat → Bool) : Nat := ((List.range 60).map fun a => if b a then 2 ^ a else 0).sum
  leBytes (sum fun a => accTy s u a == .i32) 8 ++ leBytes (sum (accZero s u)) 8

/-- A weight bank (R290, R399): its rows in 4 KiB, its strip in 512 bytes, then its format and binding with a valid bit. -/
def bankBytes (b : Option Bank) : List Byte :=
  match b with
  | none => leBytes 0 0x1400
  | some b =>
    (b.rows ++ leBytes 0 4096).take 4096 ++ (b.strip ++ leBytes 0 512).take 512
      ++ leBytes (1 + 2 * b.ef + 2 ^ 5 * b.bk + 2 ^ 7 * b.bn + 2 ^ 9 * b.sf + 2 ^ 11 * b.ks) 512

/-- A loop frame in 128 bytes (R71, R399). -/
def frameBytes (f : Frame) : List Byte :=
  leBytes (1 + 2 * f.stn + 2 ^ 8 * f.col + 2 ^ 20 * f.w + 2 ^ 29 * f.e + 2 ^ 33 * f.exits + 2 ^ 37 * f.exitn.isSome.toNat + 2 ^ 48 * f.outer) 8
    ++ leBytes f.base 8 ++ leBytes f.head 8 ++ leBytes (f.exitn.getD 0) 8 ++ leBytes f.retired.toNat 32 ++ leBytes 0 64

/-- The frames of a CU. -/
def framesAt (s : State) (u : UId) : List Frame := s.fab.frames.filter fun f => f.u == u

/-- The counters of a CU (R399): the arrival sequence counter, the arrivals of parked PHASE firings by level, the summary counters, and the
progress of each tag's fill, one more than the lines written. -/
def counterBytes (s : State) (u : UId) : List Byte :=
  let k := uKey u
  let phases (l : Nat) : Nat := (s.fab.parked.filter fun p => p.f.u == u && p.lvl == l).length
  let fill (t : Nat) : Nat := ((s.tn.fills.find? fun b => b.c.u == u && b.tag == t).map fun b => b.rows + 1).getD 0
  leBytes (fget 0 s.fab.seqs k) 2 ++ (List.range 8).flatMap (fun l => leBytes (phases l) 2) ++ leBytes 0 238
    ++ (List.range 256).flatMap (fun n => leBytes (fget 0 s.fab.summary (k * 256 + n)) 2) ++ (List.range 32).flatMap fun t => leBytes (fill t) 2

/-- Writes a CU's slot (R399). -/
def saveCu (x : Ctx) (u : UId) (m : List Host.Cell) (s : State) : State :=
  let a := slotAddr x u
  let k := uKey u
  let s := wrClear s a (a + 0x44C00)
  let s := moveCells m (locUnit u 0) 0x40000 a s
  let s := wrBytes s (a + holdOff x) (tokenBytes (tierTokens s u true))
  let s := wrBytes s (a + 0x40000) ((List.range 128).flatMap fun n => leBytes (stationWord s u n).toNat 8)
  let s := wrBytes s (a + 0x40400) ((List.range 16).map fun b => BitVec.ofNat 8 (((List.range 8).map fun j =>
    if trappingCode s u (8 * b + j) != 0 then 2 ^ j else 0).sum))
  let s := wrBytes s (a + 0x40600) ((List.range 64).flatMap fun n => leBytes (fget 0 s.fab.kregs (k * 64 + n)).toNat 8)
  let s := wrBytes s (a + 0x40800) ((List.range 8).flatMap fun n => leBytes (fget 0 s.fab.sdregs (k * 8 + n)).toNat 8)
  let s := wrBytes s (a + 0x40840) ((List.range 6).flatMap fun n => leBytes (routeEnt s u (n + 1)).toNat 4)
  let s := wrBytes s (a + 0x40880) (tokenBytes (tierTokens s u false))
  let s := wrBytes s (a + 0x41080) ((readyQueue s u).flatMap fun r => leBytes (readyWord r) 8)
  let s := wrBytes s (a + 0x41280) ((List.range 16).flatMap fun n => leBytes (tmapOf s u n).toNat 64)
  let s := wrBytes s (a + 0x41680) ((List.range 32).flatMap (fun n => leBytes (tagWord (tagOf s u n)).toNat 8) ++ accBytes s u)
  let s := wrBytes s (a + 0x41800) ((List.range 2).flatMap fun b => bankBytes (bankOf s u b))
  let s := wrBytes s (a + 0x44000) (((framesAt s u).take 16).flatMap frameBytes)
  wrBytes s (a + 0x44800) (counterBytes s u)

/-- Sets one bit of a table in memory. -/
def setBitAt (base : Nat) (s : State) (n : Nat) : State :=
  wrBytes s (base + n / 8) [rd8 s (base + n / 8) ||| BitVec.ofNat 8 (2 ^ (n % 8))]

/-- The offsets of the live slots or headers of an MU. -/
def liveOffs {α : Type} (m : FMap (Option α)) (u : UId) : List Nat :=
  (m.filter fun e => locUnit u 0 ≤ e.1 && e.1 < locUnit u (2 ^ 20) && e.2.isSome).map fun e => e.1 - locUnit u 0

/-- A phase-buffer entry in the layout of R175; `pa` is its page frame tag. -/
def entryBytes (e : PbEntry) (pa : Nat) : List Byte :=
  leBytes e.data.toNat 64 ++ leBytes e.mask.toNat 8 ++ leBytes (e.la.toNat / 64 * 64) 8
    ++ leBytes (e.col + 2 ^ 12 * e.itr + 2 ^ 28 * e.sx + 2 ^ 36 * e.sy + 2 ^ 43 * e.ss + 2 ^ 50 * pa + 2 ^ 58 * e.ntag.isSome.toNat) 8
    ++ leBytes (e.ntag.getD 0).toNat 2 ++ leBytes e.seq 2 ++ leBytes 0 36

/-- The entries of an MU's phase buffer, in order. -/
def bufferOf (s : State) (u : UId) : List PbEntry := s.mu.pbuf.filter fun e => e.mu == u && !e.shadow

/-- The frame tag of an entry (R175): the place of its frame among those that the buffer names; 0 for a scratchpad line. -/
def frameTag (s : State) (u : UId) (e : PbEntry) : Nat :=
  if e.loc < unitBase then (framesOf s u).idxOf (e.loc / 4096) % 256 else 0

/-- A binding entry in the layout of R264. -/
def bindBytes (x : Ctx) (b : Binding) : List Byte :=
  let p := b.ring.x / 4
  leBytes (b.off / 16 + 2 ^ 16 * (p % max 1 x.pw) + 2 ^ 23 * b.ring.y + 2 ^ 30 * (p / max 1 x.pw) + 2 ^ 38 * b.kd.toNat + 2 ^ 39 * b.pend.toNat
    + 2 ^ 40 + 2 ^ 64 * b.sz + 2 ^ 85 * b.cnt + 2 ^ 94 * b.srsv + 2 ^ 128 * b.sfree) 32

/-- Writes an MU's slot (R399): live slots and headers stand in the scratchpad as their fields; the engine part begins with the 8 binding
entries (R264, log entry 50). -/
def saveMu (x : Ctx) (u : UId) (m : List Host.Cell) (s : State) : State :=
  let a := slotAddr x u
  let l := locUnit u 0
  let s := wrClear s a (a + slotSize)
  let s := moveCells m l 0x100000 a s
  let bars := liveOffs s.cp.bars u
  let rings := liveOffs s.cp.rings u
  let s := bars.foldl (fun s o => wrBytes s (a + o) ((List.range 16).map fun b => heldByte s (l + o + b))) s
  let s := rings.foldl (fun s o => wrBytes s (a + o) ((List.range 32).map fun b => heldByte s (l + o + b))) s
  let s := wrBytes s (a + 0x100000) ((List.range 16384).flatMap fun n => leBytes (lineTag s (l + 64 * n)).toNat 2)
  let iss := s.mu.isst.filter fun e => l / 8 ≤ e.1 && e.1 < l / 8 + 131072
  let s := iss.foldl (fun s e => (if nbits e.2 0 1 == 1 then [2 * (e.1 - l / 8)] else []) ++
      (if nbits e.2 1 1 == 1 then [2 * (e.1 - l / 8) + 1] else []) |>.foldl (setBitAt (a + 0x108000)) s) s
  let s := bars.foldl (fun s o => setBitAt (a + 0x110000) s (o / 16)) s
  let s := rings.foldl (fun s o => setBitAt (a + 0x112000) s (o / 32)) s
  let s := wrBytes s (a + 0x114000) ((bufferOf s u).flatMap fun e => entryBytes e (frameTag s u e))
  let s := (s.mu.waiters.filter fun w => w.mu == u && w.idx < 1024).foldl (fun s w => wrBytes s (a + 0x124000 + 32 * w.idx) (waiterBytes s w)) s
  let s := wrBytes s (a + 0x12C000) (((s.cp.binds.filter fun b => b.mu == u).take 8).flatMap (bindBytes x))
  wrBytes s (a + 0x12C100) ((enginePart s u).flatMap fun w => leBytes w 8)

/-- Writes one unit's slot. -/
def saveUnit (x : Ctx) (m : List Host.Cell) (s : State) (u : UId) : State :=
  if isMu u.x then saveMu x u m s else saveCu x u m s

/-- The writes of a step to unbacked memory are dropped, with a machine check on the die that made them (R413). -/
def dropUnbacked (d : Nat) (s : State) : State :=
  let good : MW → Bool
    | .bytes a _ => a ≥ unitBase || backed a
    | .clear _ _ => true
  if s.wlog.all good then s else setCause { s with wlog := s.wlog.filter good } d 3

/-- SAVE_COMPLETE (R392, R399, R407): the hamper is written and the units are free; a save that the yard asked for leaves a resume
entry at the front of the context's queue (R387). -/
def bodySaveComplete (c : Nat) (s : State) : State :=
  let x := ctxOf s c
  if x.cst != .frozen || !x.frz.preempt || x.frz.purge || x.hmp == 0 || isOuting x then s
  else
    let s := chargeStatic c s
    let x := ctxOf s c
    let s := dropUnbacked x.die ((unitsOf x).foldl (saveUnit x s.mem) (saveRecord x s))
    let s := updCtx s c fun x => { x with cst := .saved, frz := { x.frz with preempt := false }, place := [], byYard := false,
                                          savedAt := s.clock }
    if x.byYard then putResume s c x.queue else s

/-- SAVE_COMPLETE. -/
def execSaveComplete (c : Nat) (s : State) : Host.Outcome State Fault Refusal := done s (bodySaveComplete c s)

/-! ### The restore (R402) -/

/-- The bits of a 64-bit word from `lo` up to below `hi`. -/
def bitRun (lo hi : Nat) : Nat := 2 ^ hi - 2 ^ lo

/-- The reserved bits of word `k` of a token record (R57, R400). -/
def tokenRsv (k : Nat) : Nat := match k % 4 with | 2 => bitRun 14 32 | 3 => bitRun 2 64 | _ => 0

/-- The reserved bits of word `k` of a call record (R74). -/
def callRsv (k : Nat) : Nat :=
  match k % 16 with
  | 0 => bitRun 62 64
  | 1 => bitRun 28 64
  | j => if j % 2 == 1 then bitRun 26 64 else 0

/-- The reserved bits of word `k` of a fault record (R427). -/
def faultRsv (k : Nat) : Nat := match k % 8 with | 0 => bitRun 19 32 | 2 => bitRun 30 64 | 4 => bitRun 44 48 | 5 => bitRun 48 64 | _ => 0

/-- The reserved bits of word `k` of the saved registers (R204, R397). -/
def regRsv (k : Nat) : Nat :=
  match k with
  | 0 => bitRun 62 64
  | 5 => bitRun 43 64
  | 6 => bitRun 32 64
  | 7 => bitRun 56 63
  | 8 => bitRun 48 64
  | 9 => 0
  | 15 => bitRun 19 64
  | _ => if k < 16 then bitRun 57 64 else bitRun 0 64

/-- The reserved bits of the word at an offset of the context record (R399). -/
def recordRsv (o : Nat) : Nat :=
  if o < 16 then 0
  else if o < 24 then bitRun 5 64
  else if o < 64 then bitRun 0 64
  else if o < 112 then 0
  else if o < 176 then bitRun 24 64
  else if o < 0x100 then bitRun 0 64
  else if o < 0x200 then regRsv ((o - 0x100) / 8)
  else if o < 0x400 then 0
  else if o < 0x2400 then callRsv ((o - 0x400) / 8)
  else if o < 0x2420 then tokenRsv (o / 8)
  else if o < 0x2460 then faultRsv ((o - 0x2420) / 8)
  else bitRun 0 64

/-- The reserved bits of the word at an offset of a CU slot (R38, R274, R281, R316, R399, R400). -/
def cuRsv (x : Ctx) (o : Nat) : Nat :=
  if o < holdOff x then 0
  else if o < 0x40000 then tokenRsv (o / 8)
  else if o < 0x40410 then 0
  else if o < 0x40600 then bitRun 0 64
  else if o < 0x40800 then 0
  else if o < 0x40840 then bitRun 24 63
  else if o < 0x40858 then bitRun 17 32 + bitRun 49 64
  else if o < 0x40880 then bitRun 0 64
  else if o < 0x41080 then tokenRsv ((o - 0x40880) / 8)
  else if o < 0x41280 then 0
  else if o < 0x41680 then
    (match (o - 0x41280) / 8 % 8 with | 4 => bitRun 48 64 | 5 => bitRun 48 64 | 6 => bitRun 48 64 | 7 => bitRun 13 63 | _ => 0)
  else if o < 0x41780 then bitRun 32 64
  else if o < 0x41790 then bitRun 60 64
  else if o < 0x41800 then bitRun 0 64
  else 0

/-- The reserved bits of the word at an offset of the MU slot at `a` (R175, R199, R215, R256, R264, R399). -/
def muRsv (s : State) (a o : Nat) : Nat :=
  let bit (t n : Nat) : Bool := nbits (rd8 s (a + t + n / 8)).toNat (n % 8) 1 == 1
  if o < 0x100000 then
    if bit 0x110000 (o / 16) then (if o / 8 % 2 == 1 then bitRun 41 64 else 0)
    else if bit 0x112000 (o / 32) then
      (match o / 8 % 4 with | 0 => bitRun 31 32 + bitRun 62 64 | 1 => bitRun 60 64 | 2 => bitRun 57 64 | _ => bitRun 46 64)
    else 0
  else if o < 0x113000 then 0
  else if o < 0x114000 then bitRun 0 64
  else if o < 0x124000 then
    let j := o / 8 % 16
    if j < 9 then 0 else if j == 9 then bitRun 0 6 else if j == 10 then bitRun 59 64 else if j == 11 then bitRun 32 64 else bitRun 0 64
  else if o < 0x12C000 then (match o / 8 % 4 with | 0 => bitRun 62 64 | 1 => bitRun 56 64 | _ => bitRun 0 64)
  else if o < 0x12C100 then
    (match o / 8 % 4 with | 0 => bitRun 41 64 | 1 => bitRun 50 64 | 2 => bitRun 21 64 | _ => bitRun 0 64)
  else 0

/-- The reserved bits of the byte at an offset of a context's hamper. -/
def hamperRsv (s : State) (x : Ctx) (o : Nat) : Byte :=
  let w :=
    if o < slotBase then recordRsv o
    else
      let k := (o - slotBase) / slotSize
      let j := (o - slotBase) % slotSize
      if isMu (k % (4 * x.pw)) then muRsv s (x.hmp + slotBase + k * slotSize) j else cuRsv x j
  BitVec.ofNat 8 (nbits w (8 * (o % 8)) 8)

/-- Bytes of a context's hamper (R399). -/
def hamperSize (x : Ctx) : Nat := slotBase + (copiesOf x).length * (4 * x.pw * x.ph) * slotSize

/-- Every reserved field of a hamper is zero (R9): no byte that holds something has a reserved bit set. -/
def hamperClean (s : State) (x : Ctx) : Bool :=
  s.mem.all fun c => c.1 < x.hmp || x.hmp + hamperSize x ≤ c.1 || c.2 &&& hamperRsv s x (c.1 - x.hmp) == 0

/-- The engine part of every MU of the hamper is whole. -/
def enginesFit (s : State) (x : Ctx) : Bool := ((unitsOf x).filter fun u => isMu u.x).all fun u => (engObjsAt s u (slotAddr x u + 0x12C100)).isSome

/-- The hamper's header fits the resume entry (R402 step 1), no reserved field is set (R9), and the engine parts can be read (log entries 50,
101). -/
def hamperFits (s : State) (x : Ctx) : Bool :=
  let f (o n : Nat) : Nat := rdN s (x.hmp + o) n
  hamperClean s x && enginesFit s x && f 0 4 == 0x504D4148 && f 4 2 == 1 && f 6 2 == x.pw && f 8 2 == x.ph && f 10 1 == x.part && f 11 1 == x.world

/-- RELOCATION_COMPLETE (R392, R402): the check of the hamper. -/
def bodyRelocationComplete (c : Nat) (s : State) : State :=
  let x := ctxOf s c
  let s := if x.cst == .relocating && !backedRange x.hmp 0x10000 then setCause s x.die 3 else s
  if x.cst != .relocating then s
  else if hamperFits s x then updCtx s c fun x => { x with cst := .restoring }
  else killCtx s c 0x20

/-- RELOCATION_COMPLETE. -/
def execRelocationComplete (c : Nat) (s : State) : Host.Outcome State Fault Refusal := done s (bodyRelocationComplete c s)

/-- A token under the context's new route key (R402 step 2). -/
def reKey (key : BitVec 8) (t : Flit) : Flit := { t with rid := ridOf key t.stn t.pos }

/-- The tokens of a copy that token records hold. -/
def readTokens (s : State) (c k a n : Nat) : List Waiting := (List.range n).filterMap fun j => recordOf c k (rdBytes s (a + 32 * j) 32)

/-- Puts `n` values, read at rising addresses, into a map at rising keys. -/
def readMap {α : Type} [DecidableEq α] (d : α) (rd : Nat → α) (base n : Nat) (m : FMap α) : FMap α :=
  (List.range n).foldl (fun m k => fset d m (base + k) (rd k)) m

/-- A firing under the context's new route key. -/
def reKeyed (key : BitVec 8) (r : Ready) : Ready := { r with l := reKey key r.l, r := r.r.map (reKey key), p := r.p.map (reKey key) }

/-- The ready queue of a CU as its slot holds it: the instances that its entries name, with their sequence numbers, and behind them those that
had no place in it. -/
def readyBack (s : State) (u : UId) (a : Nat) : List Ready :=
  let old := readyQueue s u
  let named (w : Nat) : Option Ready :=
    if nbits w 35 1 == 0 then none
    else (old.find? fun r => r.stn == nbits w 0 7 && fcol r == nbits w 7 12 && fitr r == nbits w 19 16).map fun r => { r with seq := nbits w 48 16 }
  (List.range 64).filterMap (fun k => named (rdN s (a + 0x41080 + 8 * k) 8)) ++ s.fab.ready.filter fun r => r.u == u && !old.contains r

/-- A tag from its word (R281). -/
def wordTag (w : Word) : Tag :=
  { bindTag w with st := match nbits w.toNat 0 2 with | 0 => .unbound | 1 => .empty | 2 => .filling | _ => .full }

/-- A weight bank from its bytes; none while it is EMPTY. -/
def bankOfBytes (s : State) (a : Nat) : Option Bank :=
  let w := rdN s (a + 0x1200) 8
  if w % 2 == 0 then none
  else some { rows := rdBytes s a (2048 * opW (nbits w 1 4)), strip := rdBytes s (a + 0x1000) 512, ef := nbits w 1 4, bk := nbits w 5 2,
              bn := nbits w 7 2, sf := nbits w 9 2, ks := nbits w 11 6 }

/-- A loop frame from its bytes; none where the entry is free. -/
def frameOfBytes (s : State) (u : UId) (a : Nat) : Option Frame :=
  let w := rdN s a 8
  let f (n : Nat) : Nat := rdN s (a + 8 * n) 8
  if w % 2 == 0 then none
  else some { u := u, stn := nbits w 1 7, col := nbits w 8 12, outer := nbits w 48 16, w := nbits w 20 9, e := nbits w 29 4, base := f 1, head := f 2,
              retired := BitVec.ofNat 256 (rdN s (a + 32) 32), exitn := if nbits w 37 1 == 1 then some (f 3) else none, exits := nbits w 33 4 }

/-- Reads a CU's tensor state back: maps, tags, accumulator bits, banks and the progress of its fills. -/
def restoreTensor (s : State) (u : UId) (a : Nat) (t : TensorState) : TensorState :=
  let k := uKey u
  let at_ := rdN s (a + 0x41780) 8
  let zf := rdN s (a + 0x41788) 8
  let fill (b : Fill) : Fill := if b.c.u == u then { b with rows := rdN s (a + 0x44800 + 0x300 + 2 * b.tag) 2 - 1 } else b
  { t with maps := readMap 0 (fun j => BitVec.ofNat 512 (rdN s (a + 0x41280 + 64 * j) 64)) (k * 16) 16 t.maps,
           tags := readMap tagReset (fun j => wordTag (BitVec.ofNat 64 (rdN s (a + 0x41680 + 8 * j) 8))) (k * 32) 32 t.tags,
           accs := readMap 0 (fun j => (1 - nbits zf j 1) + 2 * nbits at_ j 1) (k * 64) 60 t.accs,
           banks := readMap none (fun b => bankOfBytes s (a + 0x41800 + 0x1400 * b)) (k * 2) 2 t.banks,
           fills := t.fills.map fill }

/-- Reads a CU's slot back (R402). -/
def restoreCu (x : Ctx) (u : UId) (m : List Host.Cell) (s : State) : State :=
  let a := slotAddr x u
  let k := uKey u
  let w8 (o : Nat) (j : Nat) : Word := BitVec.ofNat 64 (rdN s (a + o + 8 * j) 8)
  let trap (j : Nat) : Nat :=
    if nbits (rd8 s (a + 0x40400 + j / 8)).toNat (j % 8) 1 == 0 then 0 else max 1 (trappingCode s u j)
  let toks := (readTokens s x.id u.copy (a + 0x40880) 64 ++ readTokens s x.id u.copy (a + holdOff x) (512 * holdGran x.part)).map
    fun w => { w with tok := reKey x.key w.tok }
  let t := moveCells m a (holdOff x) (locUnit u 0) (wrClear s (locUnit u 0) (locUnit u 0x40000))
  { t with
    routes := readMap 0 (fun j => BitVec.ofNat 32 (rdN s (a + 0x40840 + 4 * j) 4)) (k * 8 + 1) 6 t.routes,
    fab := { t.fab with stations := readMap 0 (w8 0x40000) (k * 128) 128 t.fab.stations,
                        trapping := readMap 0 trap (k * 128) 128 t.fab.trapping,
                        kregs := readMap 0 (w8 0x40600) (k * 64) 64 t.fab.kregs,
                        sdregs := readMap 0 (w8 0x40800) (k * 8) 8 t.fab.sdregs,
                        waiting := (t.fab.waiting.filter fun w => w.u != u) ++ toks,
                        ready := (t.fab.ready.filter fun r => r.u != u) ++ (readyBack s u a).map (reKeyed x.key),
                        frames := (t.fab.frames.filter fun f => f.u != u)
                          ++ (List.range 16).filterMap (fun n => frameOfBytes s u (a + 0x44000 + 128 * n)),
                        seqs := fset 0 t.fab.seqs k (rdN s (a + 0x44800) 2),
                        summary := readMap 0 (fun n => rdN s (a + 0x44800 + 0x100 + 2 * n) 2) (k * 256) 256 t.fab.summary },
    tn := restoreTensor s u a t.tn }

/-- A live slot from its fields; what they do not hold is what the slot had. -/
def barOfBits (old : Option Bar) (n : Nat) : Bar :=
  let st : BarSt := match nbits n 65 3 with | 1 => .armed | 2 => .completing | _ => .idle
  let b := old.getD { exp := 0, pnd := 0, txb := 0, par := false, st := st, lvl := 0, own := 0, units := [], done := [], owed := false, away := 0 }
  { b with exp := nbits n 0 16, pnd := nbits n 16 16, txb := (BitVec.ofNat 32 (nbits n 32 32)).toInt, par := nbits n 64 1 == 1, st := st,
           lvl := nbits n 68 4, own := nbits n 96 9 }

/-- A live header from its fields; what they do not hold is what the header had. -/
def ringOfBits (old : Option Ring) (n : Nat) : Ring :=
  { base := nbits n 0 20, kd := nbits n 20 1 == 1, bnd := nbits n 21 1 == 1, own := nbits n 22 9, sz := nbits n 32 21, cnt := nbits n 53 9,
    rp := nbits n 64 20, wp := nbits n 84 20, rsv := nbits n 104 20, rl := nbits n 128 20, free := nbits n 148 21, fill := nbits n 169 16,
    bpx := nbits n 216 7, bpy := nbits n 223 7, bmod := nbits n 230 8, net := old.bind fun r => r.net, held := (old.map fun r => r.held).getD 0 }

/-- The entries of a phase buffer with what their slots hold of them; an entry that holds neither a byte nor a tag is gone. -/
def entriesBack (s : State) (a : Nat) : Nat → List PbEntry → List PbEntry
  | _, [] => []
  | k, e :: es =>
    let p := a + 0x114000 + 128 * k
    let w := rdN s (p + 80) 8
    let mask := BitVec.ofNat 64 (rdN s (p + 64) 8)
    let tag := if nbits w 58 1 == 1 then some (BitVec.ofNat 16 (rdN s (p + 88) 2)) else none
    let e := { e with data := BitVec.ofNat 512 (rdN s p 64), mask := mask, la := BitVec.ofNat 64 (rdN s (p + 72) 8), col := nbits w 0 12,
                      itr := nbits w 12 16, sx := nbits w 28 8, sy := nbits w 36 7, ss := nbits w 43 7, ntag := tag, seq := rdN s (p + 90) 2 }
    if mask == 0 && tag.isNone then entriesBack s a (k + 1) es else e :: entriesBack s a (k + 1) es

/-- A waiter of the area with what its entry holds of it. -/
def waiterBack (s : State) (a : Nat) (w : Waiter) : Waiter :=
  let p := a + 0x124000 + 32 * w.idx
  let n := rdN s p 8
  let t := rdN s (p + 8) 4
  { w with col := nbits n 0 12, itr := nbits n 12 16, u := { w.u with x := nbits n 37 8, y := nbits n 45 7 }, ss := nbits n 52 7,
           ta := BitVec.ofNat 12 t, tb := BitVec.ofNat 12 (t / 2 ^ 12), wty := tyOf (BitVec.ofNat 4 (nbits t 24 4)) }

/-- The bindings of an MU with what their entries hold of them; an entry that is not valid is gone. -/
def bindsBack (s : State) (x : Ctx) (a : Nat) : Nat → List Binding → List Binding
  | _, [] => []
  | k, b :: bs =>
    let n := rdN s (a + 0x12C000 + 32 * k) 32
    let ring : UId := { b.ring with x := 4 * (nbits n 30 8 * x.pw + nbits n 16 7) + 3, y := nbits n 23 7 }
    let b := { b with ring := ring, off := 16 * nbits n 0 16, kd := nbits n 38 1 == 1, pend := nbits n 39 1 == 1, sz := nbits n 64 21,
                      cnt := nbits n 85 9, srsv := nbits n 94 20, sfree := nbits n 128 21 }
    if nbits n 40 1 == 0 then bindsBack s x a (k + 1) bs else b :: bindsBack s x a (k + 1) bs

/-- Reads an MU's slot back (R402); the engines' objects that had no room in the slot are those of the state (log entry 50). -/
def restoreMu (x : Ctx) (u : UId) (m : List Host.Cell) (s : State) : State :=
  let a := slotAddr x u
  let l := locUnit u 0
  let t := moveCells m a 0x100000 l (wrClear s l (l + 0x100000))
  let iss (j : Nat) : Nat := nbits (rd8 s (a + 0x108000 + j / 4)).toNat (2 * (j % 4)) 2
  let bit (o n : Nat) : Bool := nbits (rd8 s (a + o + n / 8)).toNat (n % 8) 1 == 1
  let bars := (List.range 65536).filterMap fun n =>
    if bit 0x110000 n then some (l + 16 * n, some (barOfBits (barAt s (l + 16 * n)) (rdN s (a + 16 * n) 16))) else none
  let rings := (List.range 32768).filterMap fun n =>
    if bit 0x112000 n then some (l + 32 * n, some (ringOfBits (ringAt s (l + 32 * n)) (rdN s (a + 32 * n) 32))) else none
  let os := (engObjsAt s u (a + 0x12C100)).getD [] ++ (splitObjs u engRoom (engObjs s u)).2
  let cp := engBack u os t.cp
  { t with
    mtag := readMap 0x7F00 (fun j => BitVec.ofNat 16 (rdN s (a + 0x100000 + 2 * j) 2)) (l / 64) 16384 t.mtag,
    mu := { t.mu with isst := readMap 0 iss (l / 8) 131072 t.mu.isst,
                      pbuf := t.mu.pbuf.filter (fun e => !(e.mu == u && !e.shadow)) ++ entriesBack s a 0 (bufferOf s u),
                      waiters := t.mu.waiters.map fun w => if w.mu == u && w.idx < 1024 then waiterBack s a w else w },
    cp := { cp with toQueues := cp.toQueues.map (fun f => if f.u == u then { f with tok := reKey x.key f.tok } else f),
                      bars := bars.foldl (fun m e => fset none m e.1 e.2) (fclear t.cp.bars l (l + 0x100000)),
                      rings := rings.foldl (fun m e => fset none m e.1 e.2) (fclear t.cp.rings l (l + 0x100000)),
                      binds := cp.binds.filter (fun b => b.mu != u) ++ bindsBack s x a 0 (cp.binds.filter fun b => b.mu == u) } }

/-- Reads one unit's slot back. -/
def restoreUnit (x : Ctx) (m : List Host.Cell) (s : State) (u : UId) : State :=
  if isMu u.x then restoreMu x u m s else restoreCu x u m s

/-- The registers of a context as its hamper holds them (R399). -/
def restoreRegs (s : State) (x : Ctx) : Ctx :=
  let v (k : Nat) : Nat := rdN s (x.hmp + 0x100 + 8 * k) 8
  let y := (List.range 16).foldl (fun y k => if k == 12 then y else ctxRegSet (k + 2) (v k) y) { x with hbase := nbits (v 12) 0 57 }
  { y with esat := nbits (v 7) 63 1 == 1, wchg := v 9, hmp := x.hmp }

/-- The call records of a context with what the hamper's cache holds of them, and without those of colours that its free map frees (R73, R399). -/
def restoreRecs (s : State) (x : Ctx) : Ctx :=
  let freed (c : Nat) : Bool := nbits (rd8 s (x.hmp + 0x200 + c / 8)).toNat (c % 8) 1 == 1
  let x' := (cachedRecords x).foldl (fun (y : Ctx × Nat) r =>
    ({ y.1 with recs := y.1.recs.map fun q => if q == r then recBack s r (x.hmp + 0x400 + 128 * y.2) else q }, y.2 + 1)) (x, 0)
  { x'.1 with recs := x'.1.recs.filter fun r => r.copy != 0 || !freed r.col }

/-- The held marker as the hamper holds it (R426): its token and sequence number, and from the record's copy the values of R and P. -/
def restoreMarker (s : State) (x : Ctx) : Ctx :=
  let a := x.hmp + 0x2400
  match recordOf x.id 0 (rdBytes s a 32), x.marker with
  | some w, some m =>
    let v (o : Nat) (t : Flit) : Flit := { t with val := BitVec.ofNat 64 (rdN s (a + 32 + o) 8) }
    let f := { m.f with seq := w.seq, l := { w.tok with kind := m.f.l.kind }, r := m.f.r.map (v 48), p := m.f.p.map (v 56) }
    { x with marker := some { m with f := reKeyed x.key f } }
  | _, _ => { x with marker := none }

/-- The tokens of a page of the spill table under the new route key (R402 step 2). -/
def reKeyPage (x : Ctx) (s : State) (k : Nat) : State :=
  match translateNow s x .write (x.splBase + 4096 * k) with
  | .error _ => s
  | .ok a =>
    (List.range 128).foldl (fun s j =>
      let p := a.phys + 32 * j
      match recordOf x.id 0 (rdBytes s p 32) with
      | some w => wrBytes s p (leBytes (packFlit (reKey x.key w.tok)).toNat 20)
      | none => s) s

/-- The spilled tokens of a context under its new route key, where any are spilled (R402 step 2). -/
def reKeySpilled (s : State) (c : Nat) : State :=
  let x := ctxOf s c
  if spilledCount s c == 0 then s else (List.range (2 ^ x.splLog / 128)).foldl (reKeyPage x) s

/-- RESTORE_COMPLETE (R392, R402, R414): the units hold what the hamper holds, under the new route key, and the context runs, or
stays FROZEN with the reasons that the hamper keeps. -/
def bodyRestoreComplete (c : Nat) (s : State) : State :=
  let x := ctxOf s c
  if x.cst != .restoring then s
  else
    let frz := frzOf (rdN s (x.hmp + 16) 2)
    let s := if backedRange x.hmp 0x10000 then s else setCause s x.die 3
    let t := (unitsOf x).foldl (restoreUnit x s.mem) s
    let t := updCtx t c fun x =>
      { restoreMarker s (restoreRecs s (restoreRegs s x)) with
        frz := frz, cst := .frozen, freezing := false, rcnt := (x.rcnt + 1) % 2 ^ 16, residence := 0, charged := 0, savedAt := 0 }
    let t := { t with mu := MuState.dropHeld c t.mu }
    let t := reKeySpilled (placeRanges t (ctxOf t c)) c
    if frz == noFrz then resumeCtx t c else t

/-- RESTORE_COMPLETE. -/
def execRestoreComplete (c : Nat) (s : State) : Host.Outcome State Fault Refusal := .next (closeLoad s (bodyRestoreComplete c s))

end Sys2Proof.Machine
end

