-- ==== Sys2Proof/Machine/Queue.lean ====
section
/-!
DEFINITION. Launch queues (16 R378 to R383, R389): their registers, the launch packet and its checks, the waits of a head, and
LAUNCH.
-/

namespace Sys2Proof.Machine

open Sys2Proof

/-! ### Registers and states (R378 to R380) -/

/-- A context launched from the queue on this module is live. -/
def queueLive (s : State) (q : Nat) : Bool := s.ctxs.any fun x => x.queue == q && x.member == x.home && isLive x

/-- `QCTL`. -/
def qctl (k : Queue) : Nat :=
  k.prio + 2 ^ 3 * k.en.toNat + 2 ^ 4 * k.susp.toNat + 2 ^ 5 * k.gle.toNat + 2 ^ 6 * k.qas + 2 ^ 15 * k.qw.toNat + 2 ^ 16 * k.logn
    + 2 ^ 20 * k.qnt + 2 ^ 63 * k.lck.toNat

/-- A register of a queue; none where the number names none. -/
def queueRegRead (k : Queue) (r : Nat) : Option Word :=
  (([k.qbase, qctl k, k.head, k.tail, k.qerr.toNat] : List Nat)[r]?).map (BitVec.ofNat 64)

/-- The entries of a queue's ring. -/
def ringSize (k : Queue) : Nat := 2 ^ k.logn

/-- `TAIL` − `HEAD`. -/
def queueFill (k : Queue) : Nat := (k.tail + 2 ^ 32 - k.head % 2 ^ 32) % 2 ^ 32

/-- A hart of the given world may reach a queue's registers (R479). -/
def queueOpen (s : State) (q : Nat) (sec : Bool) : Bool := q < 64 && (sec || !(queueOf s q).qw)

/-- A supervisor's access that changes a queue. -/
def queueAct (q : Nat) (sec : Bool) (legal : Queue → Bool) (act : Queue → Queue) (s : State) : State :=
  if queueOpen s q sec && legal (queueOf s q) then updQueue s q act else s

/-- QUEUE_CREATE (R380): from DESTROYED. -/
def bodyQueueCreate (q : Nat) (sec : Bool) : State → State :=
  queueAct q sec (fun k => !k.created) fun k => { k with created := true, head := 0, tail := 0, qerr := 0, hs := .fresh, waits := [] }

/-- QUEUE_CREATE. -/
def execQueueCreate (q : Nat) (sec : Bool) (s : State) : Host.Outcome State Fault Refusal := done s (bodyQueueCreate q sec s)

/-- The queue is CREATED or DRAINED: not enabled, and none of its contexts remains. -/
def queueStill (s : State) (q : Nat) (k : Queue) : Bool := k.created && !k.en && !queueLive s q

/-- QUEUE_DESTROY (R380): from CREATED or DRAINED. -/
def bodyQueueDestroy (q : Nat) (sec : Bool) (s : State) : State :=
  queueAct q sec (queueStill s q) (fun k => { k with created := false, hs := .fresh, waits := [] }) s

/-- QUEUE_DESTROY. -/
def execQueueDestroy (q : Nat) (sec : Bool) (s : State) : Host.Outcome State Fault Refusal := done s (bodyQueueDestroy q sec s)

/-- QUEUE_ENABLE (R380): from CREATED or DRAINED. -/
def bodyQueueEnable (q : Nat) (sec : Bool) (s : State) : State := queueAct q sec (queueStill s q) (fun k => { k with en := true }) s

/-- QUEUE_ENABLE. -/
def execQueueEnable (q : Nat) (sec : Bool) (s : State) : Host.Outcome State Fault Refusal := done s (bodyQueueEnable q sec s)

/-- QUEUE_DISABLE (R380): the unplaced packets stay. -/
def bodyQueueDisable (q : Nat) (sec : Bool) : State → State :=
  queueAct q sec (fun k => k.created && k.en) fun k => { k with en := false, hs := .fresh, waits := [] }

/-- QUEUE_DISABLE. -/
def execQueueDisable (q : Nat) (sec : Bool) (s : State) : Host.Outcome State Fault Refusal := done s (bodyQueueDisable q sec s)

/-- QUEUE_SUSPEND (R380). -/
def bodyQueueSuspend (q : Nat) (sec : Bool) : State → State := queueAct q sec (fun k => k.created) fun k => { k with susp := true }

/-- QUEUE_SUSPEND. -/
def execQueueSuspend (q : Nat) (sec : Bool) (s : State) : Host.Outcome State Fault Refusal := done s (bodyQueueSuspend q sec s)

/-- QUEUE_RESUME (R380). -/
def bodyQueueResume (q : Nat) (sec : Bool) : State → State := queueAct q sec (fun k => k.created) fun k => { k with susp := false }

/-- QUEUE_RESUME. -/
def execQueueResume (q : Nat) (sec : Bool) (s : State) : Host.Outcome State Fault Refusal := done s (bodyQueueResume q sec s)

/-- A write of `QTAIL` (R378, R379). -/
def setTail (v : Word) (k : Queue) : Queue :=
  let t := nbits v.toNat 0 32
  if k.gle || queueFill { k with tail := t } > ringSize k then k else { k with tail := t }

/-- QUEUE_TAIL_WRITE. -/
def bodyQueueTail (q : Nat) (v : Word) (sec : Bool) : State → State := queueAct q sec (fun _ => true) (setTail v)

/-- QUEUE_TAIL_WRITE. -/
def execQueueTailWrite (q : Nat) (v : Word) (sec : Bool) (s : State) : Host.Outcome State Fault Refusal :=
  done s (bodyQueueTail q v sec s)

/-- A write of `QHEAD` (R378, R479): secure, and only while the queue is SUSPENDED. -/
def bodyQueueHead (q : Nat) (v : Word) (sec : Bool) : State → State :=
  queueAct q sec (fun k => sec && k.created && k.susp) fun k =>
    { k with head := nbits v.toNat 0 32, hs := .fresh, waits := [] }

/-- QUEUE_HEAD_SKIP. -/
def execQueueHeadSkip (q : Nat) (v : Word) (sec : Bool) (s : State) : Host.Outcome State Fault Refusal :=
  done s (bodyQueueHead q v sec s)

/-- The plain RW fields of `QCTL`: QAS and LOGN only while EN = 0 (R379), QW only while LCK has never been set (R8). -/
def setQctl (v : Nat) (k : Queue) : Queue :=
  let l := nbits v 16 4
  { k with prio := nbits v 0 3, gle := nbits v 5 1 == 1, qas := if k.en then k.qas else nbits v 6 9,
           qw := if k.lckd then k.qw else nbits v 15 1 == 1, logn := if k.en || l < 4 || l > 12 then k.logn else l,
           qnt := nbits v 20 16, lck := nbits v 63 1 == 1, lckd := k.lckd || nbits v 63 1 == 1 }

/-- A write of a queue register (R378, R380): a write of `QCTL` acts by each of its fields. -/
def queueRegWrite (q : Nat) (sec : Bool) (r : Nat) (v : Word) (s : State) : State :=
  let n := v.toNat
  match r with
  | 0 => queueAct q sec (fun k => !k.en) (fun k => { k with qbase := nbits n 0 57 }) s
  | 1 =>
    let s := if nbits n 36 1 == 1 then bodyQueueCreate q sec s else s
    let s := if nbits n 37 1 == 1 then bodyQueueDestroy q sec s else s
    let s := queueAct q sec (fun _ => true) (setQctl n) s
    let s := if nbits n 3 1 == 1 then bodyQueueEnable q sec s else bodyQueueDisable q sec s
    if nbits n 4 1 == 1 then bodyQueueSuspend q sec s else bodyQueueResume q sec s
  | 2 => bodyQueueHead q v sec s
  | 3 => bodyQueueTail q v sec s
  | 4 => queueAct q sec (fun _ => true) (fun k => { k with qerr := k.qerr &&& ~~~v }) s
  | _ => s

/-! ### The launch packet (R381) -/

/-- A launch packet (R381). -/
structure LaunchPkt where
  img : Word
  arg : Word
  pw : Nat
  ph : Nat
  part : Nat
  world : Nat
  flg : Nat
  ebud : Nat
  nmod : Nat
  deps : List Nat
  sgnl : Nat
  mset : Nat
deriving DecidableEq, Repr

/-- The packet that 64 bytes hold. -/
def packetOf (bs : List Byte) : LaunchPkt :=
  let f (o n : Nat) : Nat := leNat ((bs.drop o).take n)
  { img := BitVec.ofNat 64 (f 0 8), arg := BitVec.ofNat 64 (f 8 8), pw := f 16 2, ph := f 18 2, part := f 20 1, world := f 21 1,
    flg := f 22 2, ebud := f 24 6, nmod := f 30 2, deps := [f 32 8, f 40 8], sgnl := f 48 8, mset := f 56 8 }

/-- How many modules a module set holds. -/
def bitCount (n : Nat) : Nat := ((List.range 64).filter fun k => nbits n k 1 == 1).length

/-- The member modules of a module set, in member order (R441). -/
def msetMembers (n : Nat) : List Nat := (List.range 16).filter fun k => nbits n k 1 == 1

/-- The packet is an OUTING. -/
def pktOuting (p : LaunchPkt) : Bool := nbits p.flg 1 1 == 1

/-- A packet that is refused with PACKET (R381, R442): a reserved bit, a world that the queue may not launch, a field outside its
limits, or an outing whose module set does not fit. -/
def badPacket (s : State) (k : Queue) (p : LaunchPkt) : Bool :=
  p.flg ≥ 4 || (p.deps ++ [p.sgnl]).any (fun w => nbits w 48 15 != 0) || p.world > 2 || (p.world != 0 && !k.qw)
    || (p.world == 2 && !s.yard.diag) || p.img.toNat % 256 != 0 || p.arg.toNat % 16 != 0 || p.img.toNat ≥ 2 ^ 57
    || p.arg.toNat ≥ 2 ^ 57 || p.pw == 0 || p.pw > 56 || p.ph == 0 || p.ph > 96
    || (if pktOuting p then
          p.nmod < 2 || p.nmod > 16 || p.mset ≥ 2 ^ 16 || bitCount p.mset != p.nmod || nbits p.mset s.lk.mid 1 == 0
            || p.nmod * p.pw > 64
        else p.nmod != 0 || p.mset != 0)

/-- The location of an entry of a queue's ring. The yard acts for no context, so that no context's world is compared (R418). -/
def entryPhys (s : State) (k : Queue) (acc : Access) (n : Nat) : Option Nat :=
  let va := k.qbase + 64 * (n % ringSize k)
  match translateDev s k.qas k.qw acc va with
  | .ok a => some a.phys
  | .error e =>
    if e.kind != 0x1A then none
    else match translateDev s k.qas (!k.qw) acc va with
      | .ok a => some a.phys
      | .error _ => none

/-- An entry of a queue's ring that cannot be reached raises a machine check on the queue's die where the root of its address space names an
unbacked address (R413). -/
def queueCheck (s : State) (q : Nat) : State :=
  let a := (queueOf s q).qas
  if (asOf s a).v && rootUnbacked s a then setCause s (q / 8) 3 else s

/-- The head's packet; none where its entry cannot be read. -/
def headPacket (s : State) (k : Queue) : Option LaunchPkt :=
  (entryPhys s k .read k.head).map fun a => packetOf (rdBytes s a 64)

/-- The queue has a packet that the yard may look at. -/
def hasHead (k : Queue) : Bool := k.created && k.en && !k.susp && queueFill k != 0

/-! ### The waits of a head (R382) -/

/-- What a wait finds at its slot. -/
inductive WaitRes where
  | met | parked | later | refused
deriving DecidableEq, Repr

/-- A wait at the slot of this module that it names (R224, R382). -/
def depWaitAt (s : State) (w : Nat) : WaitRes :=
  let c := nbits w 30 9
  if !isLive (ctxOf s c) then .refused
  else match barAt s (depSlot s w) with
  | none => .refused
  | some b =>
    if b.own != c || b.st == .idle then .refused
    else match waitAct b (nbits w 47 1 == 1) with
    | .emit => .met
    | .park => .parked
    | .hold => .later
    | .fault => .refused

/-- The valid waits of a packet. -/
def depsOf (p : LaunchPkt) : List Nat := p.deps.filter fun w => nbits w 63 1 == 1

/-- A head whose waits are all met becomes eligible (R382, R384). -/
def headEligible (s : State) (q : Nat) : State := updQueue s q fun k => { k with hs := .eligible, since := s.clock, waits := [] }

/-- A wait of a head of module `home` on a slot of this module is registered: met, held while another phase completes (R224), parked, or
refused; where no waiter is free it is refused (R199). -/
def registerWait (s : State) (w : Nat) : WaitRes × State :=
  match depWaitAt s w with
  | .parked =>
    match parkYard s w with
    | some t => (.parked, t)
    | none => (.refused, s)
  | r => (r, s)

/-- The waits of a head are registered in order, those on another module's slots through a message: whether one was refused, and those that it still
waits for (R382). -/
def registerAll (q : Nat) : List Nat → State → Bool × List Nat × State
  | [], s => (false, [], s)
  | w :: ws, s =>
    if !depHere s w then
      let r := registerAll q ws (sendOut s (ctxOf s (nbits w 30 9)) (nbits w 39 8) (.msg (.depWait w q s.lk.mid)))
      (r.1, w :: r.2.1, r.2.2)
    else
      let e := registerWait (evalBar (depUnit s w) (16 * nbits w 0 16) s) w
      let r := registerAll q ws e.2
      (r.1 || e.1 == .refused, if e.1 == .met then r.2.1 else w :: r.2.1, r.2.2)

/-- The waits of a head are registered (R382). -/
def registerWaits (s : State) (q : Nat) (ws : List Nat) : State :=
  let r := registerAll q ws s
  if ws.any fun w => depHere s w && depWaitAt (evalBar (depUnit s w) (16 * nbits w 0 16) s) w == .refused then
    refuseHead s q dependStatus
  else if r.1 then refuseHead r.2.2 q dependStatus
  else if r.2.1.isEmpty then headEligible r.2.2 q
  else updQueue r.2.2 q fun k => { k with hs := .waiting, waits := r.2.1 }

/-- HEAD_WAIT_REGISTER (R381, R382): a packet becomes head. It is checked, and its waits are registered. -/
def bodyHeadWait (q : Nat) (s : State) : State :=
  let k := queueOf s q
  if !hasHead k || k.hs != .fresh then s
  else match headPacket s k with
  | none => refuseHead (queueCheck s q) q (plainStatus 0x27)
  | some p => if badPacket s k p then refuseHead s q (plainStatus 0x27) else registerWaits s q (depsOf p)

/-- HEAD_WAIT_REGISTER. -/
def execHeadWaitRegister (q : Nat) (s : State) : Host.Outcome State Fault Refusal := done s (bodyHeadWait q s)

/-! ### LAUNCH (R389) -/

/-- The bytes of a packet as eight words of a request. -/
def wordsOf (bs : List Byte) : List Word := (List.range 8).map fun k => BitVec.ofNat 64 (leNat ((bs.drop (8 * k)).take 8))

/-- The bytes of eight words. -/
def bytesOf (ws : List Word) : List Byte := ws.flatMap fun w => leBytes w.toNat 8

/-- LAUNCH at issue (R389): the checks of its pointer; the packet of window 10 is read at once. -/
def bodyLaunch (f : Fields) (F : Ready) (s : State) : State :=
  let x := ctxOf s F.u.ctx
  let p := F.l.val
  match windowFault x (poolSize x) [0, 1, 2, 3] p 64 with
  | some e => raiseA F e p s
  | none =>
    if winOf p == 2 then
      if offOf p % 64 != 0 then raiseA F 0x08 p s
      else sendReq (muOf F.u) (.launch f) F (wordsOf (rdBytes s (locUnit F.u (offOf p)) 64)) (poolError F p s)
    else sendReq (readMu x F p) (.launch f) F [] s

/-- LAUNCH. -/
def execLaunch (f : Fields) (s : State) : Host.Outcome State Fault Refusal := runLanes (laneBoth f (once (bodyLaunch f))) s

/-- Value tokens of an MU to both targets of a firing (R59). -/
def sendBoth (src : UId) (f : Fields) (F : Ready) (v w : Word) (s : State) : State :=
  emitFrom (emitFrom s src F.u (fcol F) (fitr F) f.ta kValue v false) src F.u (fcol F) (fitr F) f.tb kValue w false

/-- The results of LAUNCH, to both copies of a REDUNDANT context (R389, R471). -/
def launchReply (q : Req) (st seq : Word) (s : State) : State :=
  let s := sendBoth q.mu (reqFields q) q.c st seq (commitPair q.c s)
  match twinOf q.c with
  | some G => sendBoth { q.mu with copy := G.u.copy } (reqFields q) G st seq s
  | none => s

/-- The append of a packet to a queue (R389). -/
def appendPacket (q : Req) (bs : List Byte) (s : State) : State :=
  let x := reqCtx s q
  let n := fld (reqFields q) 0 6
  let k := queueOf s n
  let no : Word := BitVec.ofNat 64 (2 ^ 64 - 1)
  if (packetOf bs).world > x.world then reqFault q 0x1A q.c.l.val s
  else if !k.created || !k.en || k.susp || !k.gle then launchReply q 2 no s
  else if k.qas != x.as then launchReply q 3 no s
  else if queueFill k == ringSize k then launchReply q 1 no s
  else match entryPhys s k .write k.tail with
  | none => launchReply q 2 no (queueCheck s n)
  | some a =>
    launchReply q 0 (BitVec.ofNat 64 k.tail)
      (updQueue (wrBytes s a bs) n fun k => { k with tail := (k.tail + 1) % 2 ^ 32 })

/-- The packet that LAUNCH has read goes to the yard of its own module. -/
def launchArrives (q : Req) (bs : List Byte) (s : State) : State :=
  if onModule (reqCtx s q) q.c.u.x then appendPacket q bs s else passOn q (muOf q.c.u) (wordsOf bs) s

/-- LAUNCH at its MU (R389, R173). -/
def performLaunch (q : Req) (s : State) : State :=
  let p := q.c.l.val
  if !q.k.isEmpty then launchArrives q (bytesOf q.k) s
  else if winOf p == 1 then
    let m := muNamed q.c.u p
    let loc := locUnit m (offOf p)
    if offOf p % 64 != 0 then reqFault q 0x08 p s
    else match liveFault s loc 64 with
    | some e => reqFault q e p s
    | none => launchArrives q (seenBytes s q (muPtr m (offOf p)) loc 0 64 true) (readNote q m loc s)
  else match resolveVa s q.mu p 64 64 false with
  | .error e => raise q.c e (capTouch s q.mu (fcol q.c) p)
  | .ok va => withPhys (capTouch s q.mu (fcol q.c) p) q .read va fun a s =>
      launchArrives q (seenGlobal s q va a.phys 64) (readNote q q.mu a.phys s)

end Sys2Proof.Machine
end

