-- ==== Sys2Proof/Machine/Yard.lean ====
section
/-!
DEFINITION. The yard controllers (16 R384 to R388): the choice of a head, the positions of a shape, claims and placement, and
pre-emption.
-/

namespace Sys2Proof.Machine

open Sys2Proof

/-! ### Positions (R385) -/

/-- The module's sites that a paddock of a shape covers at an origin. -/
def sitesOver (pw ph : Nat) (o : Place) : List (Nat × Nat) :=
  (List.range ph).flatMap fun y => (List.range (4 * pw)).map fun x => (o.mx + x, o.my + y)

/-- Two rectangles of one shape share a site. -/
def overlap (pw ph : Nat) (a : Place) (qw qh : Nat) (b : Place) : Bool :=
  a.mx < b.mx + 4 * qw && b.mx < a.mx + 4 * pw && a.my < b.my + qh && b.my < a.my + ph

/-- A context holds a position of the module: placed and not saved, and not ended or killed to the end (R398). -/
def holdsPlace (x : Ctx) : Bool := holdsId x && x.cst != .saved

/-- A position of the shape meets no context but those left out (R385). -/
def freeOf (s : State) (but : Nat → Bool) (pw ph : Nat) (o : Place) : Bool :=
  s.ctxs.all fun x => !holdsPlace x || but x.id || x.place.all fun p => !overlap pw ph o x.pw x.ph p

/-- A unit may be sitesOver (R385): ACTIVE or DERATED, no hole, and for a REDUNDANT launch also QUARANTINED. -/
def siteUsable (s : State) (redundant : Bool) (p : Nat × Nat) : Bool :=
  let k := physAt s p
  let u := (lifeOf s k).ust
  !s.un.holes.contains k && (u ≤ 1 || (redundant && u == 4))

/-- Die `d` takes part and is not held for lid temperature, its own or that of an I/O die (R29, R493). -/
def dieOpen (s : State) (d : Nat) : Bool := s.boot.dies.contains d && !(s.boot.hot.any fun h => h == d || h ≥ 8) && !s.boot.halted

/-- The row may hold the world's paddocks (R480). -/
def rowOpen (s : State) (sec : Bool) (p : Nat × Nat) : Bool := sec || (dieReg s (dieAt p)).nsr.getLsbD (p.2 % 48)

/-- A route within the paddock would cross a channel of a Shenis edge (R433): the paddock covers its sites on both sides. Direction 0
is the east edge of the die, 1 its north edge. -/
def crossesChannel (s : State) (cov : List (Nat × Nat)) (e : Nat × Nat × Nat) : Bool :=
  let dx := 56 * (e.1 % 4)
  let dy := 48 * (e.1 / 4)
  if e.2.1 == 0 then cov.contains (dx + 55, dy + e.2.2) && cov.contains (dx + 56, dy + e.2.2)
  else (List.range 56).any fun x =>
    cov.contains (dx + x, dy + 47) && cov.contains (dx + x, dy + 48)
      && (physAt s (dx + x, dy + 47) % 60 == e.2.2 || physAt s (dx + x, dy + 48) % 60 == e.2.2)

/-- The physical rows that a paddock covers, numbered as the remaps are. -/
def rowsOver (pw ph : Nat) (o : Place) : List Nat :=
  ((List.range ph).flatMap fun y => (List.range pw).map fun k => dieAt (o.mx + 4 * k, o.my + y) * 48 + (o.my + y) % 48).eraseDups

/-- A row is being remapped (R18): one of its units is DRAINED and its first remap is still to come. -/
def remapping (s : State) (row : Nat) : Bool := fget 15 s.un.remap row == 15 && s.un.life.any fun e => e.2.ust == 2 && e.1 / 60 == row

/-- A launch as the yard places it: its shape, its world, and whether it is REDUNDANT. -/
structure Shape where
  pw : Nat
  ph : Nat
  sec : Bool
  redundant : Bool
deriving DecidableEq, Repr

/-- A position meets the conditions of R385 on its sites. A lid above 80 degrees stops only its own die's yard (R29): another die's may place over
the hot die (log entry 97). -/
def placeOk (s : State) (h : Shape) (o : Place) : Bool :=
  let cov := sitesOver h.pw h.ph o
  o.mx + 4 * h.pw ≤ 224 && o.my + h.ph ≤ 96
    && cov.all (fun p => s.boot.dies.contains (dieAt p) && siteUsable s h.redundant p && rowOpen s h.sec p)
    && !(rowsOver h.pw h.ph o).any (remapping s)
    && !s.lk.shenisDown.any (crossesChannel s cov)

/-- The origins in the order of R385's ties: die, row, period. -/
def origins : List Place :=
  (List.range 8).flatMap fun d => (List.range 48).flatMap fun r => (List.range 14).map fun p =>
    { mx := 56 * (d % 4) + 4 * p, my := 48 * (d / 4) + r }

/-- The wear of a position (R385). -/
def placeWear (s : State) (h : Shape) (o : Place) : Nat := ((sitesOver h.pw h.ph o).map fun p => lifeWear (lifeOf s (physAt s p))).sum

/-- The least of a list by a measure, the first of equals. -/
def leastBy {α : Type} (f : α → Nat) (l : List α) : Option α :=
  l.foldl (fun b a => match b with | none => some a | some c => if f a < f c then some a else some c) none

/-- The free positions of a shape, leaving some contexts out. -/
def freePlaces (s : State) (but : Nat → Bool) (h : Shape) : List Place :=
  origins.filter fun o => freeOf s but h.pw h.ph o && placeOk s h o

/-- The position of least wear (R385). -/
def leastPlace (s : State) (h : Shape) (ps : List Place) : Option Place := leastBy (placeWear s h) ps

/-- The positions that a launch takes: one, or for a REDUNDANT launch the two least-worn ones that do not overlap (R385). -/
def choosePlaces (s : State) (but : Nat → Bool) (h : Shape) : List Place :=
  let ps := freePlaces s but h
  if !h.redundant then (leastPlace s h ps).toList
  else
    let pair (a : Place) : Bool := ps.any fun b => !overlap h.pw h.ph a h.pw h.ph b
    match leastPlace s h (ps.filter pair) with
    | none => []
    | some a =>
      match leastPlace s h (ps.filter fun b => !overlap h.pw h.ph a h.pw h.ph b) with
      | none => []
      | some b => [a, b]

/-! ### The choice of a head (R384) -/

/-- The shape of a packet. -/
def pktShape (p : LaunchPkt) : Shape := { pw := p.pw, ph := p.ph, sec := p.world != 0, redundant := nbits p.flg 0 1 == 1 }

/-- The shape of a context. -/
def ctxShape (x : Ctx) : Shape := { pw := x.pw, ph := x.ph, sec := isSecure x, redundant := isRedundant x }

/-- What a queue offers to the yard: its resume entry or its eligible packet, with its shape and the count since which it waits. -/
def offer (s : State) (q : Nat) : Option (Option Nat × Shape × Nat) :=
  let k := queueOf s q
  if !k.created || !k.en || k.susp then none
  else match k.resume with
  | c :: _ => some (some c, ctxShape (ctxOf s c), (ctxOf s c).savedAt)
  | [] =>
    if queueFill k == 0 || k.hs != .eligible then none
    else (headPacket s k).map fun p => (none, pktShape p, k.since)

/-- The effective priority of a head that waits since `t` (R384). -/
def effPrio (s : State) (q t : Nat) : Nat := min 7 ((queueOf s q).prio + (s.clock - t) / 2 ^ 20)

/-- The queues of a die in the round-robin order of a level (R384). -/
def rrQueues (s : State) (d e : Nat) : List Nat :=
  (List.range 8).map fun k => 8 * d + (fget 0 s.yard.rr (d * 8 + e) + k) % 8

/-- The head that a die's decision takes: queue, effective priority and offer (R384). -/
def chosenHead (s : State) (d : Nat) : Option (Nat × Nat × Option Nat × Shape) :=
  ((List.range 8).reverse).findSome? fun e =>
    (rrQueues s d e).findSome? fun q =>
      match offer s q with
      | some (r, h, t) => if effPrio s q t == e then some (q, e, r, h) else none
      | none => none

/-! ### Pre-emption (R387) -/

/-- A resident context qualifies as a victim of a head of effective priority `e` (R387, R395). -/
def isVictim (s : State) (e : Nat) (h : Shape) (x : Ctx) : Bool :=
  let k := queueOf s x.queue
  (x.cst == .running || x.cst == .frozen) && x.hmp != 0 && !isOuting x && !x.frz.preempt
    && (k.prio + 2 ≤ e || (k.qnt != 0 && x.residence ≥ k.qnt * 2 ^ 16 && k.prio ≤ e))
    && !(choosePlaces s (· == x.id) h).isEmpty

/-- The origin's place in the order of ties: die, row, period. -/
def originKey (x : Ctx) : Nat :=
  let o := x.place.headD { mx := 0, my := 0 }
  (dieAt (o.mx, o.my) * 48 + o.my % 48) * 14 + o.mx % 56 / 4

/-- The victim: lowest PRIO, then longest residence, then lowest origin (R387). -/
def chooseVictim (s : State) (e : Nat) (h : Shape) : Option Ctx :=
  leastBy (fun x => ((queueOf s x.queue).prio * 2 ^ 64 + (2 ^ 64 - 1 - min (2 ^ 64 - 1) x.residence)) * 8192 + originKey x)
    (s.ctxs.filter (isVictim s e h))

/-- The yard freezes a context to save it (R387). -/
def preempt (s : State) (x : Ctx) : State :=
  requestFreeze (updCtx (chargeStatic x.id s) x.id fun x => { x with byYard := true }) x.id fun f => { f with preempt := true }

/-- A context that must leave its place (R464): one of its units is DRAINED, or QUARANTINED under a context that is not REDUNDANT. An outing,
or a context without a hamper, stays (R395). -/
def mustMove (s : State) (x : Ctx) : Bool :=
  (x.cst == .running || x.cst == .frozen) && x.hmp != 0 && !isOuting x && !x.byYard && !x.frz.preempt
    && x.place.any fun o => (sitesOver x.pw x.ph o).any fun p =>
      (lifeOf s (physAt s p)).ust == 2 || ((lifeOf s (physAt s p)).ust == 4 && !isRedundant x)

/-- Residents are moved off failed units by the pre-emption path (R464). -/
def moveOff (s : State) : State := (s.ctxs.filter (mustMove s)).foldl preempt s

/-- A save that the yard has asked for is under way and will leave a position of the shape, so that no other context is saved for it (R387). -/
def roomComing (s : State) (h : Shape) : Bool :=
  let leaving (c : Nat) : Bool := s.ctxs.any fun x => x.id == c && isLive x && x.byYard
  s.ctxs.any (fun x => leaving x.id) && !(choosePlaces s leaving h).isEmpty

/-- A yard decision of a die (R384 to R387): a claim for the chosen head, or where it has no position a victim. A decision whose claim
is pending makes no other, and a die that is too hot places nothing (R29): no resume entry either, and it asks for no pre-emption
(log entry 97). -/
def decideHead (s : State) (d : Nat) : State :=
  if !dieOpen s d || s.yard.claims.any fun k => k.die == d then s
  else match chosenHead s d with
  | none => s
  | some (q, e, r, h) =>
    match choosePlaces s (fun _ => false) h with
    | [] =>
      if roomComing s h then s
      else match chooseVictim s e h with
      | some x => preempt s x
      | none => s
    | ps => { s with yard := { s.yard with claims := s.yard.claims ++ [{ die := d, queue := q, e := e, resume := r, place := ps }] } }

/-- The yard of a die decides: residents of failed units first (R464), then its heads. -/
def yardDecide (s : State) (d : Nat) : State := decideHead (moveOff s) d

/-- YARD_DECISION. -/
def execYardDecision (d : Nat) (s : State) : Host.Outcome State Fault Refusal := done s (yardDecide s d)

/-- AGEING_STEP (R384): the effective priority of a queue's head has risen, so its die decides again. -/
def bodyAgeing (q : Nat) (s : State) : State :=
  match offer s q with
  | some (_, _, t) => if s.clock - t ≥ 2 ^ 20 then yardDecide s (q / 8) else s
  | none => s

/-- AGEING_STEP. -/
def execAgeingStep (q : Nat) (s : State) : Host.Outcome State Fault Refusal := done s (bodyAgeing q s)

/-- QUANTUM_EXPIRY (R384, R387): the residence of a context has reached its queue's quantum, and the yard of that queue decides. -/
def bodyQuantum (c : Nat) (s : State) : State :=
  let x := ctxOf s c
  let k := queueOf s x.queue
  if isResident x && k.qnt != 0 && x.residence ≥ k.qnt * 2 ^ 16 then yardDecide s (x.queue / 8) else s

/-- QUANTUM_EXPIRY. -/
def execQuantumExpiry (c : Nat) (s : State) : Host.Outcome State Fault Refusal := done s (bodyQuantum c s)

/-! ### Claim rounds (R386, R392) -/

/-- The lowest context id that is free here and not in `busy` (R390, R441). -/
def freeId (s : State) (busy : List Nat) : Option Nat :=
  (List.range 512).find? fun c => !busy.contains c && !(s.ctxs.any fun x => x.id == c && holdsId x)

/-- The next free value of the machine, as the route key of R40. -/
def drawKey (s : State) : BitVec 8 × State := ((Config.freeWord s.fresh).setWidth 8, { s with fresh := s.fresh + 1 })

/-- A context as placement leaves it (R392). -/
def newCtx (id : Nat) (key : BitVec 8) (p : LaunchPkt) (ps : List Place) (s : State) : Ctx :=
  let o := ps.headD { mx := 0, my := 0 }
  { ctxReset with id := id, cst := .created, key := key, place := ps, die := dieAt (o.mx + 3, o.my), img := p.img, arg := p.arg,
                  pw := p.pw, ph := p.ph, part := p.part, world := p.world, flg := p.flg, ebud := p.ebud, savedAt := s.clock }

/-- Puts a new context into the module, loads its ranges and tells the supervisor (R392, R414, R480). Its wear charge has no fraction yet
(R463). -/
def addCtx (s : State) (x : Ctx) : State :=
  notice (placeRanges { s with ctxs := x :: s.ctxs.filter fun y => y.id != x.id,
                               un := { s.un with wfrac := fset 0 s.un.wfrac x.id 0 } } x) x.die 1 x.id

/-- A queue was last placed at a level (R384). -/
def markRr (s : State) (d e q : Nat) : State :=
  { s with yard := { s.yard with rr := fset 0 s.yard.rr (d * 8 + e) ((q % 8 + 1) % 8) } }

/-- A winning claim of a resume entry (R392): the context is RELOCATING, under a fresh route key. -/
def placeResume (s : State) (k : Claim) (c : Nat) : State :=
  let r := drawKey s
  let o := k.place.headD { mx := 0, my := 0 }
  let s := updQueue r.2 k.queue fun q => { q with resume := q.resume.filter (· != c) }
  updCtx (markRr s k.die k.e k.queue) c fun x =>
    { x with cst := .relocating, key := r.1, place := k.place, residence := 0, charged := 0, die := dieAt (o.mx + 3, o.my) }

/-- A winning claim of a packet (R380, R392, R441): the lowest free id, on every member of an outing. -/
def placePacket (busy : List Nat) (others : Bool) (s : State) (k : Claim) : State :=
  let q := queueOf s k.queue
  match headPacket s q with
  | none => s
  | some p =>
    let out := pktOuting p
    match freeId s (if out then busy else []) with
    | none => s
    | some id =>
      if out && !others then s
      else
        let r := drawKey s
        let ms := if out then msetMembers p.mset else []
        let m := (ms.takeWhile (· != s.lk.mid)).length
        let m := if out then m else 0
        let x := { newCtx id r.1 p k.place s with queue := k.queue, seq := q.head, as := q.qas, prio := q.prio, sgnl := p.sgnl, members := ms,
                                                  member := m, home := m }
        let s := updQueue r.2 k.queue fun q => { q with head := (q.head + 1) % 2 ^ 32, hs := .fresh, waits := [] }
        addCtx (markRr s k.die k.e k.queue) x

/-- A claim may still be honoured: its die may place (R29), its queue still offers what it claims, and the sites are free (R386). -/
def claimStands (s : State) (k : Claim) : Bool :=
  dieOpen s k.die &&
  match offer s k.queue with
  | some (r, h, _) => r == k.resume && !k.place.isEmpty && k.place.all fun o => freeOf s (fun _ => false) h.pw h.ph o && placeOk s h o
  | none => false

/-- One claim of a round is placed, or lost. -/
def settleClaim (busy : List Nat) (others : Bool) (s : State) (k : Claim) : State :=
  if !claimStands s k then s
  else match k.resume with
  | some c => placeResume s k c
  | none => placePacket busy others s k

/-- Inserts a claim: greater effective priority first, then the lower die (R386). -/
def insertClaim (k : Claim) : List Claim → List Claim
  | [] => [k]
  | a :: as => if a.e < k.e || (a.e == k.e && k.die < a.die) then k :: a :: as else a :: insertClaim k as

/-- This module's part of an outing that another module's yard places (R385, R441). -/
def placeInbound (s : State) (i : OutingIn) : State :=
  let p := packetOf i.packet
  match choosePlaces s (fun _ => false) (pktShape p) with
  | [] => s
  | ps =>
    let x := { newCtx i.id i.key p ps s with queue := 64, as := i.as, prio := i.prio, members := i.members, home := i.home,
                                             member := (i.members.takeWhile (· != s.lk.mid)).length }
    if s.ctxs.any fun y => y.id == i.id && holdsId y then s else addCtx s x

/-- CLAIM_ROUND (R386): the claims of the round are settled, and the outings of other modules are placed. `busy` are the ids in use on the
other members of an outing and `others` says that every one of them has a position. -/
def bodyClaimRound (busy : List Nat) (others : Bool) (inbound : List OutingIn) (s : State) : State :=
  let ks := s.yard.claims.foldl (fun l k => insertClaim k l) []
  let s := ks.foldl (settleClaim busy others) { s with yard := { s.yard with claims := [] } }
  inbound.foldl placeInbound s

/-- CLAIM_ROUND. -/
def execClaimRound (busy : List Nat) (others : Bool) (inbound : List OutingIn) (s : State) : Host.Outcome State Fault Refusal :=
  done s (bodyClaimRound busy others inbound s)

end Sys2Proof.Machine
end

