-- ==== Sys2Proof/Machine/Link.lean ====
section
/-!
DEFINITION. The links (19 R432 to R444): the Shenis channels, the Ryenxon ports with their sequence numbers, replays and states, what
arrives from the other modules of an outing, and the states of the Ethernet ports.
-/

namespace Sys2Proof.Machine

open Sys2Proof

/-! ### What the members of an outing tell each other (R434, log entry 42) -/

/-- An EXIT or a reconfiguration of another member reaches this one (R366, R369): it leaves for DRAINING, unless it has already, and a
purge whose freeze is abandoned kills the context (R396). -/
def stopHere (s : State) (c : Nat) (r : Option (Word × Word)) : State :=
  let x := ctxOf s c
  if !(x.cst == .running || x.cst == .frozen) then s
  else match x.purges with
  | p :: _ => killCtx s c p.kind
  | [] => updCtx s c fun x => { x with cst := .draining, frz := noFrz, freezing := true, reconf := r,
                                       byYard := false, prim := none, syncs := x.syncs.filter fun e => e.1 == 2 }

/-- A stop of another member, with what it asks for. -/
def takeStop (s : State) (c kind code : Nat) : State :=
  let x := ctxOf s c
  match kind with
  | 0 => stopHere s c none
  | 1 => killLocal s c code
  | 2 => freezeLocal s c fun f => frzOf (frzBits f ||| code)
  | 3 => clearLocal s c fun f => frzOf (frzBits f &&& (31 ^^^ code))
  | 4 => if x.cst != .loading && x.cst != .created then s
         else
           let s := dropLoad s c
           if x.member == x.home then refuseHead s x.queue (BitVec.ofNat 64 code) else s
  | 5 => if x.cst == .loading then goLoaded s c else s
  | 6 => if x.cst == .draining then endCtx s c .exited 0 code else s
  | _ => if x.cst == .draining then updCtx s c fun x => { x with syncs := x.syncs ++ [(3, x.member)] } else s

/-- What a member reports (R369, R385, R393). -/
def takeSync (s : State) (c m kind : Nat) : State :=
  let s := updCtx s c fun x => { x with syncs := x.syncs ++ [(kind, m)] }
  if kind == 1 then settleFrozen s c else s

/-- A token whose targets this member resolves starts its way at the target's CU. -/
def emitHere (u : UId) (col itr : Nat) (t : BitVec 12) (kind : BitVec 3) (v : Word) (chn : Bool) (s : State) : State :=
  let x := ctxOf s u.ctx
  if tgtPos t == 3 || !emitsTokens x then s
  else sendTok s u (routeDest s u (tgtRoute t)) false (mkTok x.key u.ctx col itr t kind v chn)

/-- A config token of another member starts its way as any other token does (R362). -/
def configHere (u : UId) (col itr : Nat) (t : BitVec 12) (v : Word) (l : CfgLoad) (s : State) : State :=
  let x := ctxOf s u.ctx
  if !emitsTokens x then s
  else sendFlit s u (routeDest s u (tgtRoute t)) false (mkTok x.key u.ctx col itr t kConfig v false) (some l)

/-- Bytes that an engine of another member writes in a scratchpad here, each by its mask (R182). -/
def writeHere (u : UId) (ws : List (Nat × Byte × Byte)) (s : State) : State :=
  putBytes s (ws.map fun w => (locUnit u w.1, (rd8 s (locUnit u w.1) &&& ~~~w.2.1) ||| (w.2.2 &&& w.2.1)))

/-- A wait of another module's yard (R382): it is met, refused, or parked here. -/
def takeDepWait (s : State) (w q home : Nat) : State :=
  let r := registerWait (evalBar (depUnit s w) (16 * nbits w 0 16) s) w
  let answer (ok : Bool) : State := sendOne r.2 (home, s.clock, .msg (.depDone w q ok))
  match r.1 with
  | .met => answer true
  | .refused => answer false
  | _ => { r.2 with yard := { r.2.yard with far := r.2.yard.far ++ [(w, q, home)] } }

/-- The answer to a wait: the head becomes eligible with its last one, or is refused with DEPEND. -/
def takeDepDone (s : State) (w q : Nat) (ok : Bool) : State :=
  let k := queueOf s q
  if k.hs != .waiting || !k.waits.contains w then s
  else if !ok then refuseHead s q dependStatus
  else
    let ws := k.waits.erase w
    if ws.isEmpty then headEligible s q else updQueue s q fun k => { k with waits := ws }

/-- A yard's signal to a slot here (R383); `home` 16 marks its refusal on the way back, which suspends the queue. -/
def takeDepSignal (s : State) (w q home : Nat) : State :=
  if home == 16 then suspendQueue s q dependStatus
  else
    let r := takeSignal s w
    if r.1 then r.2 else sendOne r.2 (home, s.clock, .msg (.depSignal w q 16))

/-- What the messages that need no further care do. -/
def takeMsg (s : State) (m : LinkMsg) : State :=
  match m with
  | .credit u off n mu id => { s with cp := { s.cp with credits := s.cp.credits ++ [{ slot := u, off := off, bytes := n, mu := mu, id := id }] } }
  | .ack mu id i b sum => takeAck s mu id i b sum
  | .release d mu id => { s with cp := { s.cp with rels := s.cp.rels ++ [{ dst := d, mu := mu, id := id }] } }
  | .slotReturn mu r off n => { s with cp := { s.cp with slotRets := s.cp.slotRets ++ [{ mu := mu, ring := r, off := off, n := n }] } }
  | .bind mu r off => askBind mu r off s
  | .bound mu r off free rsv kd sz cnt =>
    answerBind { mu := mu, ring := r, off := off, reply := true, free := free, rsv := rsv, kd := kd, sz := sz, cnt := cnt } s
  | .stop c kind code => takeStop s c kind code
  | .error u col kind =>
    surface (sendOut s (ctxOf s u.ctx) (memberAt (ctxOf s u.ctx) u.x) (.msg (.errorAck u col kind))) u.ctx u.copy col kind
  | .errorAck u col kind => errorAcked s u col kind
  | .emit _ u col itr t kind v chn => emitHere u col itr t kind v chn s
  | .config _ u col itr t v l => configHere u col itr t v l s
  | .refused mu id => refuseCredit mu id s
  | .write u ws => writeHere u ws s
  | .energy c n => updCtx s c fun x => addEnergy x n
  | .wear c n => updCtx s c fun x => { x with wchg := min (2 ^ 64 - 1) (x.wchg + n) }
  | .record c r => updCtx s c fun x => putRec x r
  | .commitPoint c k col => commitPt s c k col
  | .purge c k cols => purgeHere s c k cols
  | .sweep c k col => sweepMember s c k col
  | .resend c k col a => resendArg c k col s a
  | .phase c p => phaseTake c p s
  | .commit u off us => takeShare u off us s
  | .committed u off => barCommitted u off s
  | .yieldOn u col itr ta tb kind v n left => yieldOn u col itr ta tb kind v n left s
  | .reinject f => reinject s f
  | .reconf c img arg => stopHere s c (some (img, arg))
  | .sync c m kind => takeSync s c m kind
  | .ended c m exits orph fcp =>
    updCtx s c fun x =>
      { x with exits := x.exits ++ exits.map fun e => { code := e.1, u := e.2.1, ss := e.2.2.1, col := e.2.2.2.1, itr := e.2.2.2.2 },
               orph := min 65535 (x.orph + orph), fcp := min 255 (x.fcp + fcp), syncs := x.syncs ++ [(2, m)] }
  | .depWait w q home => takeDepWait s w q home
  | .depDone w q ok => takeDepDone s w q ok
  | .depSignal w q home => takeDepSignal s w q home

/-- The yards' messages reach a module whether or not the context they name is live there. -/
def isDepMsg : LinkMsg → Bool
  | .depWait _ _ _ => true | .depDone _ _ _ => true | .depSignal _ _ _ => true
  | _ => false

/-- A fabric message is handled; one for a context that has ended here, and has nothing left to complete, is discarded. -/
def handleMsg (s : State) (m : LinkMsg) : State :=
  if isDepMsg m || holdsId (ctxOf s (cargoCtx (.msg m))) then takeMsg s m else s

/-! ### What a flit carries (R434, R440) -/

/-- A route failure at port `p` (R16, R440): it is charged to the port (R466), whose count stands beyond those of the sites, and recorded against
the token's colour where its context has one here (log entry 17). -/
def portError (p : Nat) (u : UId) (col : Nat) (s : State) : State :=
  unitFailure (if isLive (ctxOf s u.ctx) then { s with un := { s.un with errs := s.un.errs ++ [{ u := u, col := col, kind := 0x11, reply := [] }] } } else s)
    (23040 + p)

/-- A token arrives from another module (R440): it is checked as a switch checks it, and against the port's world. -/
def tokenIn (p : Nat) (f : Flight) (s : State) : State :=
  let c := f.tok.ctx.toNat
  let x := ctxOf s c
  if !isLive x || c != f.u.ctx || !isOuting x || !ridOk s f.tok || isSecure x != (rxOf s p).pws 
    then portError p { f.u with ctx := c } f.tok.col.toNat s
  else { s with fab := { s.fab with flights := s.fab.flights ++ [f] } }

/-- A memory request of another member arrives at the MU it names. -/
def requestIn (p : Nat) (mu : UId) (w : Word) (F : Ready) (k : List Word) (iseq : Nat) (s : State) : State :=
  let x := ctxOf s mu.ctx
  if !holdsId x || isSecure x != (rxOf s p).pws then s
  else match decode w with
  | .error _ => s
  | .ok i => { s with mu := { s.mu with reqs := s.mu.reqs ++ [{ mu := mu, i := i, c := F, k := k, iseq := iseq }] } }

/-- The bit that die `d`'s armed injection flips in the part of a chunk, at offset `a`, that carries its byte (R458, R477). -/
def injBit (p a d : Nat) (r : Chunk × State) : Chunk × State :=
  let j := injOf r.2 d
  if !(j.iar && j.ik == 4 && j.ix == p && a ≤ j.iof && j.iof < a + r.1.bytes.length) then r
  else
    ({ r.1 with bytes := r.1.bytes.modify (j.iof - a) fun b => b ^^^ BitVec.ofNat 8 (2 ^ (j.ibt % 8)) },
     setInj r.2 d { j with iar := false })

/-- The bits that the dies' armed injections flip in a part of a chunk: each die's register may name any port. -/
def injPart (p : Nat) (k : Chunk) (lo : Nat) (s : State) : Chunk × State :=
  (List.range 8).foldl (fun r d => injBit p (chunkOff k s + lo) d r) (k, s)

/-- A part of a chunk arrives (R434): the parts of a chunk are put together, and the whole chunk goes on its way. -/
def partIn (p : Nat) (k : Chunk) (lo total : Nat) (s : State) : State :=
  let r := injPart p k lo s
  let same (e : Chunk) : Bool := e.src == k.src && e.id == k.id && e.idx == k.idx
  let rest := r.2.lk.arriving.filter fun e => !same e
  let sofar := if lo == 0 then some { r.1 with bytes := [] } else (r.2.lk.arriving.find? same).filter fun e => e.bytes.length == lo
  if !holdsId (ctxOf s k.src.ctx) then s
  else match sofar with
  | none => r.2
  | some e =>
    let e := { e with bytes := e.bytes ++ r.1.bytes }
    if e.bytes.length ≥ total then
      { r.2 with lk := { r.2.lk with arriving := rest }, cp := { r.2.cp with chunks := r.2.cp.chunks ++ [e] } }
    else { r.2 with lk := { r.2.lk with arriving := rest ++ [e] } }

/-- One thing that a flit carried is delivered. -/
def deliverCargo (p : Nat) (s : State) (c : Cargo) : State :=
  match c with
  | .token f => tokenIn p f s
  | .request mu w F k iseq => requestIn p mu w F k iseq s
  | .msg m => handleMsg s m
  | .data k _ lo total => partIn p k lo total s

/-- The flit carries copy data. -/
def carriesData : List Cargo → Bool
  | .data _ _ _ _ :: _ => true
  | _ => false

/-! ### The bytes of a flit (R434) -/

/-- One bit of CRC-32C, polynomial 0x1EDC6F41 in the reflected form of RFC 3720. -/
def crcBit (c : BitVec 32) : BitVec 32 := if c.getLsbD 0 then (c >>> 1) ^^^ 0x82F63B78 else c >>> 1

/-- CRC-32C of some bytes. -/
def crc32c (bs : List Byte) : BitVec 32 :=
  ~~~(bs.foldl (fun c b => (List.range 8).foldl (fun c _ => crcBit c) (c ^^^ b.setWidth 32)) 0xFFFFFFFF)

/-- The cargo is a token. -/
def isTokenCargo : Cargo → Bool
  | .token _ => true
  | _ => false

/-- The 20 bytes of a token in a flit. -/
def flitToken (c : Cargo) : List Byte :=
  match c with
  | .token f => leBytes (packFlit f.tok).toNat 20
  | _ => []

/-- The record of a fabric message (R57, R434): `KIND` 6, its context, a nonzero type in [159:152] and zero in [151:142]. The manual gives no
numbers of types and no layout of the rest, which are free (log entry 42). -/
def messageWord (tsq k : Nat) (c : Cargo) : Nat :=
  let n := Config.messageRecord tsq k
  nbits n 0 64 + 2 ^ 64 * 6 + 2 ^ 67 * nbits n 67 9 + 2 ^ 76 * (cargoCtx c % 512) + 2 ^ 85 * nbits n 85 57 + 2 ^ 152 * (nbits n 152 8 % 255 + 1)

/-- `FTY` and the payload of what one flit carries: nothing, with link control for a NAK; up to five tokens; a part of a chunk; or up to five
message records. None for what is not one flit. -/
def cargoPayload (nak : Bool) (tsq : Nat) (cs : List Cargo) : Option (Nat × List Byte) :=
  match cs with
  | [] => some (if nak then 3 else 0, [])
  | [.data k _ lo _] =>
    some (2, leBytes k.id 6 ++ leBytes k.idx 2 ++ leBytes lo 2 ++ leBytes k.bytes.length 1 ++ leBytes 0 1 ++ k.bytes)
  | _ =>
    if cs.length > 5 || cs.any isData then none
    else if cs.all isTokenCargo then some (1, cs.flatMap flitToken)
    else if cs.any isTokenCargo then none
    else some (4, cs.zipIdx.flatMap fun e => leBytes (messageWord tsq e.2 e.1) 20)

/-- The first 124 bytes of a Ryenxon flit: its type and payload, with the acknowledgement and the NAK that ride on it. Copy data carry no
`TSQ`. -/
def flitHead (fsq : Nat) (fak : Option Nat) (nak : Bool) (tsq : Nat) (cs : List Cargo) : Option (List Byte) :=
  (cargoPayload nak tsq cs).map fun e =>
    leBytes (fsq % 4096 + 2 ^ 12 * e.1) 2 ++ leBytes (fak.getD 0 % 4096 + 2 ^ 12 * fak.isSome.toNat + 2 ^ 13 * nak.toNat) 2
      ++ e.2 ++ leBytes 0 (116 - e.2.length) ++ leBytes (if e.1 == 1 || e.1 == 4 then tsq else 0) 4

/-- The `CRC` of a flit. -/
def flitCrc (fsq : Nat) (fak : Option Nat) (nak : Bool) (tsq : Nat) (cs : List Cargo) : Option (BitVec 32) :=
  (flitHead fsq fak nak tsq cs).map crc32c

/-- The 128 bytes of a Ryenxon flit. -/
def flitBytes (fsq : Nat) (fak : Option Nat) (nak : Bool) (tsq : Nat) (cs : List Cargo) : Option (List Byte) :=
  (flitHead fsq fak nak tsq cs).map fun bs => bs ++ leBytes (crc32c bs).toNat 4

/-! ### Sending again (R435, R436) -/

/-- A flit that a port left unacknowledged goes to another usable port to its peer, keeping its transport sequence number (R436);
where there is none with room, it stays, and the count from which no port is usable is noted (R437). -/
def resendFlit (p : Nat) (s : State) (f : OutFlit) : State :=
  let ps := usablePorts s (rxOf s p).pws f.peer
  match ps.filter fun r => (rxOf s r).tx.length < 512 with
  | r :: _ => updRx s r fun q => { q with fsq := (q.fsq + 1) % 4096, since := if q.tx.isEmpty then s.clock else q.since,
                                          tx := q.tx ++ [{ f with fsq := q.fsq, tries := 0, wait := none }] }
  | [] => updRx s p fun q => { q with tx := q.tx ++ [{ f with wait := if ps.isEmpty then some (f.wait.getD s.clock) else none }] }

/-- Moves what a port that is not usable has left; its copy data are never moved, since the copies replay (R436, R439). -/
def movePort (s : State) (p : Nat) : State :=
  let q := rxOf s p
  if linkUsable q.lst then s
  else (q.tx.filter fun f => !isData f.cargo).foldl (resendFlit p) (updRx s p fun q => { q with tx := [] })

/-- Whatever waits and may go now leaves: first what ports that are down have left, then what is new, in order. -/
def flushOut (s : State) : State := flushEgress (s.lk.ports.foldl (fun s e => movePort s e.1) s)

/-- The copies on a port that stops being usable fail and replay by R238 (R439). -/
def losePaths (p : Nat) (s : State) : State :=
  let hit (c : Copy) : Bool := (isChunkCopy c.i || holdsData s c) && isMoving c && c.aux.contains p && !copyLocal s c
  (s.cp.copies.filter hit).foldl (fun s c => losePath c s) s

/-- As a usable port is lost, what waits to leave for its peer in its world counts its wait from now (R437). -/
def restamp (p : Nat) (s : State) : State :=
  let q := rxOf s p
  if !linkUsable q.lst then s
  else
    let loses (e : Nat × Nat × Cargo) : Bool := e.1 == q.peer && (isSecure (ctxOf s (cargoCtx e.2.2)) == q.pws)
    { s with lk := { s.lk with egress := s.lk.egress.map fun e => if loses e then (e.1, s.clock, e.2.2) else e } }

/-- A port stops being usable and is in the state `st`. -/
def leaveUp (p : Nat) (st : LinkSt) (s : State) : State :=
  let s := updRx (restamp p s) p fun q => { q with lst := st, lns := 0, since := s.clock, nak := false }
  flushOut (losePaths p s)

/-- A retrain (R438): the window opens at the first, and the third in one window quarantines the port and interrupts the supervisor. -/
def retrain (p : Nat) (s : State) : State :=
  let q := rxOf s p
  let n := min 3 (q.rtn + 1)
  let s := updRx s p fun q => { q with rtn := n, win := if q.win.isNone then some s.clock else q.win }
  if n ≥ 3 then setCause (leaveUp p .quarantined s) (standIn s (p / 18)) 5 else leaveUp p .training s

/-- The port replays from the first unacknowledged flit (R435); a flit replayed 8 times retrains it (R438). -/
def replay (p : Nat) (s : State) : State :=
  let q := rxOf s p
  if q.tx.isEmpty then s
  else
    let s := updRx s p fun q => { q with lst := .retrying, since := s.clock, tx := q.tx.map fun f => { f with tries := f.tries + 1 } }
    if (rxOf s p).tx.any fun f => f.tries ≥ 8 then retrain p s else s

/-- The state of a usable port by the lanes in use. -/
def laneState (lns : Nat) : LinkSt := if lns ≥ 2 then .up else .degraded

/-- A cumulative acknowledgement (R435): the flits up to `fak` are done, replayed ones are counted, and the port is UP or DEGRADED again once
none is left. -/
def linkAcked (p fak : Nat) (s : State) : State :=
  let q := rxOf s p
  match q.tx.findIdx? fun f => f.fsq == fak with
  | none => s
  | some i =>
    let left := q.tx.drop (i + 1)
    let n := ((q.tx.take (i + 1)).map fun f => f.tries).sum
    let still := left.any fun f => f.tries != 0
    flushOut (updRx s p fun q =>
      { q with tx := left, since := s.clock, rply := min 65535 (q.rply + n),
               lst := if q.lst == .retrying && !still then laneState q.lns else q.lst })

/-! ### Receiving (R435, R436) -/

/-- The flits held out of order that have become next are delivered, each by the port that it came on. -/
def drainHeld (peer : Nat) : Nat → State → State
  | 0, s => s
  | n + 1, s =>
    let next := fget 0 s.lk.rxTsq peer
    match s.lk.held.find? fun e => e.1 == peer && e.2.1 == next with
    | none => s
    | some e =>
      let s := { s with lk := { s.lk with held := s.lk.held.erase e, rxTsq := fset 0 s.lk.rxTsq peer ((next + 1) % 2 ^ 32) } }
      drainHeld peer n (e.2.2.2.foldl (deliverCargo e.2.2.1) s)

/-- A flit is refused at link level: it is answered with NAK and the last good number (R435). -/
def refuseFlit (p : Nat) (s : State) : State := updRx s p fun q => { q with nak := true }

/-- A flit is accepted at link level. -/
def acceptFlit (p : Nat) (s : State) : State := updRx s p fun q => { q with rx := (q.rx + 1) % 4096, nak := false }

/-- A flit of tokens or messages, by its transport sequence number (R436): the next is delivered, a later one is held while there is room,
and one that has been delivered is discarded. Each I/O die's store holds 4,096, and ports 0 to 71 are on I/O die 0. -/
def takeOrdered (p tsq : Nat) (cargo : List Cargo) (s : State) : State :=
  let peer := (rxOf s p).peer
  let next := fget 0 s.lk.rxTsq peer
  let ahead := (tsq + 2 ^ 32 - next) % 2 ^ 32
  if ahead == 0 then
    let s := acceptFlit p { s with lk := { s.lk with rxTsq := fset 0 s.lk.rxTsq peer ((next + 1) % 2 ^ 32) } }
    drainHeld peer 4096 (cargo.foldl (deliverCargo p) s)
  else if ahead ≥ 2 ^ 31 || (s.lk.held.any fun e => e.1 == peer && e.2.1 == tsq) then acceptFlit p s
  else if (s.lk.held.filter fun e => e.2.2.1 / 72 == p / 72).length ≥ 4096 then refuseFlit p s
  else acceptFlit p { s with lk := { s.lk with held := s.lk.held ++ [(peer, tsq, p, cargo)] } }

/-- RYENXON_FLIT_RECEIVE (R435, R436): a flit with a correct CRC and the next link sequence number is accepted, and its acknowledgement
counts; any other is refused. -/
def bodyFlitReceive (p fsq : Nat) (crc : BitVec 32) (fak : Option Nat) (nak : Bool) (tsq : Nat) (cargo : List Cargo) (s : State) : State :=
  let q := rxOf s p
  if !linkUsable q.lst then s
  else if flitCrc fsq fak nak tsq cargo != some crc || fsq % 4096 != q.rx then refuseFlit p s
  else
    let t := if carriesData cargo then cargo.foldl (deliverCargo p) (acceptFlit p s)
      else if cargo.isEmpty then acceptFlit p s
      else takeOrdered p tsq cargo s
    let t := match fak with | some n => linkAcked p n t | none => t
    if nak && linkUsable (rxOf t p).lst then replay p t else t

/-- RYENXON_FLIT_RECEIVE. -/
def execRyenxonFlitReceive (p fsq : Nat) (crc : BitVec 32) (fak : Option Nat) (nak : Bool) (tsq : Nat) (cargo : List Cargo) (s : State) :
    Host.Outcome State Fault Refusal := done s (bodyFlitReceive p fsq crc fak nak tsq cargo s)

/-- RYENXON_NAK (R435, R438): what `fak` acknowledges is done, and the rest is replayed. -/
def bodyRyenxonNak (p fak : Nat) (s : State) : State :=
  if !linkUsable (rxOf s p).lst then s else replay p (linkAcked p fak s)

/-- RYENXON_NAK. -/
def execRyenxonNak (p fak : Nat) (s : State) : Host.Outcome State Fault Refusal := done s (bodyRyenxonNak p fak s)

/-- RYENXON_ACK_TIMEOUT (R435): no acknowledgement has come for 4,096 cycles. -/
def bodyAckTimeout (p : Nat) (s : State) : State :=
  let q := rxOf s p
  if !linkUsable q.lst || q.tx.isEmpty || s.clock < q.since + 4096 then s else replay p s

/-- RYENXON_ACK_TIMEOUT. -/
def execRyenxonAckTimeout (p : Nat) (s : State) : Host.Outcome State Fault Refusal := done s (bodyAckTimeout p s)

/-! ### Ethernet ports (R438, R449) -/

/-- An Ethernet port at reset (R449). -/
def ethReset : EthPort :=
  { lst := .disabled, pen := false, half := false, ealt := false, ertx := 0, rtn := 0, ews := true, elk := false, elkd := false, mac := 0,
    gids := List.replicate 8 0, win := none, since := 0 }

/-- An Ethernet port. -/
def ethOf (s : State) (p : Nat) : EthPort := fget ethReset s.lk.eth p

/-- Changes an Ethernet port. -/
def updEth (s : State) (p : Nat) (f : EthPort → EthPort) : State :=
  { s with lk := { s.lk with eth := fset ethReset s.lk.eth p (f (ethOf s p)) } }

/-- A queue pair at reset (R447, R449): RESET, of the secure world, with `PMTU` 3. -/
def qpReset : Qp := { word := 8, num := BitVec.ofNat 64 (3 * 2 ^ 24), psn := 0, gidl := 0, gidh := 0, ring := none }

/-- A queue pair. -/
def qpOf (s : State) (q : Nat) : Qp := fget qpReset s.lk.qps q

/-- The Ethernet port of a queue pair is usable (R438, R447). -/
def pairUp (s : State) (q : Nat) : Bool := linkUsable (ethOf s (nbits (qpOf s q).word.toNat 13 3)).lst

/-- What waits for its Ethernet port and may go now leaves, in order. -/
def flushNet (s : State) : State :=
  { s with lk := { s.lk with out := s.lk.out ++ s.lk.pend.filter (fun e => pairUp s e.1), pend := s.lk.pend.filter fun e => !pairUp s e.1 } }

/-- The I/O die's supervisor of an Ethernet port: ports 0 to 3 are on I/O die 0, whose interrupt goes to die 0; the others' to die 7. -/
def ethDie (p : Nat) : Nat := if p < 4 then 0 else 7

/-- A retrain of an Ethernet port. -/
def ethRetrain (p : Nat) (s : State) : State :=
  let n := min 3 ((ethOf s p).rtn + 1)
  let s := updEth s p fun q => { q with rtn := n, win := if q.win.isNone then some s.clock else q.win, half := false, since := s.clock,
                                        lst := if n ≥ 3 then .quarantined else .training }
  if n ≥ 3 then setCause s (standIn s (ethDie p)) 5 else s

/-! ### Link events (R438) -/

/-- LINK_ENABLE: `PEN` := 1 takes a DISABLED port to TRAINING. A non-secure write to a port of the secure world is ignored (R479). -/
def bodyLinkEnable (eth : Bool) (p : Nat) (sec : Bool) (s : State) : State :=
  if eth then
    let q := ethOf s p
    if q.lst != .disabled || p ≥ 8 || (q.ews && !sec) then s else updEth s p fun q => { q with pen := true, lst := .training, since := s.clock }
  else
    let q := rxOf s p
    if q.lst != .disabled || p ≥ 144 || (q.pws && !sec) then s else updRx s p fun q => { q with pen := true, lst := .training, since := s.clock }

/-- LINK_ENABLE. -/
def execLinkEnable (eth : Bool) (p : Nat) (sec : Bool) (s : State) : Host.Outcome State Fault Refusal := done s (bodyLinkEnable eth p sec s)

/-- LINK_DISABLE: `PEN` := 0 disables a port in any state, and its unacknowledged flits are moved (R436). -/
def bodyLinkDisable (eth : Bool) (p : Nat) (sec : Bool) (s : State) : State :=
  if eth then
    let q := ethOf s p
    if p ≥ 8 || (q.ews && !sec) then s else updEth s p fun q => { q with pen := false, lst := .disabled, half := false, since := s.clock }
  else
    let q := rxOf s p
    if p ≥ 144 || (q.pws && !sec) then s else leaveUp p .disabled (updRx s p fun q => { q with pen := false })

/-- LINK_DISABLE. -/
def execLinkDisable (eth : Bool) (p : Nat) (sec : Bool) (s : State) : Host.Outcome State Fault Refusal := done s (bodyLinkDisable eth p sec s)

/-- A port that has trained: its peer is known, its sequence numbers start again, and what waits leaves. -/
def linkUp (p : Nat) (e : TrainEnd) (s : State) : State :=
  let old := (rxOf s p).tx
  let s := updRx s p fun q => { q with lst := laneState e.lanes, lns := e.lanes, peer := e.peer % 16, pv := true, since := s.clock, fsq := 0, rx := 0,
                                       tx := [], nak := false }
  flushOut (old.foldl (resendFlit p) s)

/-- TRAINING_COMPLETE: the port is UP or DEGRADED by its lanes, an Ethernet port that trains with its alternate at half width (R488); a peer of the other world, or no lane, is a failure. -/
def bodyTrainingComplete (eth : Bool) (p : Nat) (e : TrainEnd) (s : State) : State :=
  if eth then
    if (ethOf s p).lst != .training then s
    else if e.lanes == 0 then updEth s p fun q => { q with lst := .down, since := s.clock }
    else
      let half := e.lanes == 1 || (ethOf s p).ealt
      flushNet (updEth s p fun q => { q with lst := if half then .degraded else .up, half := half, since := s.clock })
  else if (rxOf s p).lst != .training then s
  else if e.lanes == 0 || e.sec != (rxOf s p).pws then updRx s p fun q => { q with lst := .down, since := s.clock }
  else linkUp p { e with lanes := min 2 e.lanes } s

/-- TRAINING_COMPLETE. -/
def execTrainingComplete (eth : Bool) (p : Nat) (e : TrainEnd) (s : State) : Host.Outcome State Fault Refusal :=
  done s (bodyTrainingComplete eth p e s)

/-- TRAINING_FAILED: the port is DOWN. -/
def bodyTrainingFailed (eth : Bool) (p : Nat) (s : State) : State :=
  if eth then (if (ethOf s p).lst != .training then s else updEth s p fun q => { q with lst := .down, since := s.clock })
  else if (rxOf s p).lst != .training then s else updRx s p fun q => { q with lst := .down, since := s.clock }

/-- TRAINING_FAILED. -/
def execTrainingFailed (eth : Bool) (p : Nat) (s : State) : Host.Outcome State Fault Refusal := done s (bodyTrainingFailed eth p s)

/-- TRAINING_RETRY: 2^20 cycles after a failure the port trains again. -/
def bodyTrainingRetry (eth : Bool) (p : Nat) (s : State) : State :=
  if eth then
    let q := ethOf s p
    if q.lst != .down || s.clock < q.since + 2 ^ 20 then s else updEth s p fun q => { q with lst := .training, since := s.clock }
  else
    let q := rxOf s p
    if q.lst != .down || !q.pen || s.clock < q.since + 2 ^ 20 then s else updRx s p fun q => { q with lst := .training, since := s.clock }

/-- TRAINING_RETRY. -/
def execTrainingRetry (eth : Bool) (p : Nat) (s : State) : Host.Outcome State Fault Refusal := done s (bodyTrainingRetry eth p s)

/-- LANE_LOST: a usable port retrains. -/
def bodyLaneLost (eth : Bool) (p : Nat) (s : State) : State :=
  if eth then (if linkUsable (ethOf s p).lst then ethRetrain p s else s)
  else if linkUsable (rxOf s p).lst then retrain p s else s

/-- LANE_LOST. -/
def execLaneLost (eth : Bool) (p : Nat) (s : State) : Host.Outcome State Fault Refusal := done s (bodyLaneLost eth p s)

/-- RETRAIN_WINDOW_CLOSE: `RTN` returns to 0. -/
def bodyWindowClose (eth : Bool) (p : Nat) (s : State) : State :=
  if eth then (if windowOver s (ethOf s p).win then updEth s p fun q => { q with rtn := 0, win := none } else s)
  else if windowOver s (rxOf s p).win then updRx s p fun q => { q with rtn := 0, win := none } else s

/-- RETRAIN_WINDOW_CLOSE. -/
def execRetrainWindowClose (eth : Bool) (p : Nat) (s : State) : Host.Outcome State Fault Refusal := done s (bodyWindowClose eth p s)

/-- Flits of an outing have waited 2^24 cycles for a usable port of their world to their peer (R437). -/
def portWaits (s : State) (c : Nat) : Bool :=
  let none_ (peer : Nat) : Bool := (usablePorts s (isSecure (ctxOf s c)) peer).isEmpty
  (s.lk.egress.any fun e => cargoCtx e.2.2 == c && e.2.1 + 2 ^ 24 ≤ s.clock && none_ e.1)
    || s.lk.ports.any fun e => e.2.tx.any fun f =>
         cargoCtx f.cargo == c && none_ f.peer && f.wait.any fun w => w + 2 ^ 24 ≤ s.clock

/-- OUTING_PORT_TIMEOUT (R437): the outing is KILLED with LINK_DOWN. -/
def bodyPortTimeout (c : Nat) (s : State) : State := if portWaits s c then killCtx s c 0x16 else s

/-- OUTING_PORT_TIMEOUT. -/
def execOutingPortTimeout (c : Nat) (s : State) : Host.Outcome State Fault Refusal := done s (bodyPortTimeout c s)

/-- ROCE_RETRANSMISSION (R438, R449): `n` retransmissions on the port's queue pairs are counted, and the port is RETRYING until the
retransmitted packets are acknowledged, which `n` = 0 says. -/
def bodyRoceRetransmission (p n : Nat) (s : State) : State :=
  let q := ethOf s p
  if !linkUsable q.lst then s
  else if n == 0 then
    (if q.lst == .retrying then updEth s p fun q => { q with lst := if q.half then .degraded else .up } else s)
  else updEth s p fun q => { q with lst := .retrying, ertx := min 65535 (q.ertx + n) }

/-- ROCE_RETRANSMISSION. -/
def execRoceRetransmission (p n : Nat) (s : State) : Host.Outcome State Fault Refusal := done s (bodyRoceRetransmission p n s)

end Sys2Proof.Machine
end

