-- ==== Sys2Proof/Machine/Io.lean ====
section
/-!
DEFINITION. Storage and network (19 R445 to R457): channels, queue pairs and receive windows, the I/O commands from their acceptance to
their end, the rings that NETRECV binds, and what arrives on a queue pair.
-/

namespace Sys2Proof.Machine

open Sys2Proof

/-! ### Channels, queue pairs and windows (R446, R447, R449) -/

/-- A storage channel: the secure world's at reset (R446). -/
def chanOf (s : State) (c : Nat) : Nat := (fget (BitVec.ofNat 64 (2 ^ 33)) s.lk.chans c).toNat

/-- Changes a queue pair. -/
def updQp (s : State) (q : Nat) (f : Qp → Qp) : State := { s with lk := { s.lk with qps := fset qpReset s.lk.qps q (f (qpOf s q)) } }

/-- `QST`. -/
def qpSt (k : Qp) : Nat := nbits k.word.toNat 0 2
/-- `QSTO`: the pair carries a storage channel. -/
def qpSto (k : Qp) : Bool := k.word.getLsbD 2
/-- `QWS`: the pair is of the secure world. -/
def qpSec (k : Qp) : Bool := k.word.getLsbD 3
/-- `QAS`. -/
def qpAs (k : Qp) : Nat := nbits k.word.toNat 4 9
/-- The I/O die of a queue pair: that of its Ethernet port `QPT` (R447). -/
def qpDie (k : Qp) : Nat := nbits k.word.toNat 13 3 / 4

/-- A receive window at reset (R449). -/
def winReset : RecvWin := { base := 0, len := 0, ctl := BitVec.ofNat 64 (2 ^ 10) }

/-- A receive window. -/
def recvOf (s : State) (w : Nat) : RecvWin := fget winReset s.lk.wins w

/-- What an I/O die sends on a queue pair: it leaves at once, or when the pair's Ethernet port is usable again (log entry 60). -/
def sendNet (s : State) (q : Nat) (bs : List Byte) : State :=
  if pairUp s q then { s with lk := { s.lk with out := s.lk.out ++ [(q, bs)] } }
  else { s with lk := { s.lk with pend := s.lk.pend ++ [(q, bs)] } }

/-- The answers of RoCE v2 (R445, log entry 60): acknowledgement, RNR NAK, remote-access-error NAK. -/
def ansAck : List Byte := [0x00]
/-- RNR NAK. -/
def ansRnr : List Byte := [0x20]
/-- Remote-access-error NAK. -/
def ansNak : List Byte := [0x62]

/-! ### Translation at an I/O die (R412, R417) -/

/-- The translation of an address at I/O die `d`: the ranges `rs`, its TLB, and the walk. A command of a context uses the range set that the
context's paddock holds (R414). -/
def ioXlate (rs : List RangeEnt) (d as : Nat) (sec : Bool) (acc : Access) (va : Nat) (s : State) : Except XFault XAddr × State :=
  let a := asOf s as
  let put (l : Leaf) : State := { s with tr := { s.tr with io := fset [] s.tr.io d (tlbPut 256 (fget [] s.tr.io d) l) } }
  if !a.v then (.error ⟨0x01, 0, 0, va⟩, s)
  else match rangeIn rs va with
  | some r => (rangeCheck s acc sec r va, s)
  | none =>
    match tlbFind (fget [] s.tr.io d) as va with
    | some l => (leafCheck s acc sec l va, put l)
    | none =>
      match walkPage s as va with
      | .absent lvl => (.error ⟨0x01, 0, lvl, va⟩, s)
      | .leaf l lvl => (atLevel lvl (leafCheck s acc sec l va), put l)

/-- The locations of `n` bytes of virtual memory, page by page; `gate` lets a host address pass, or holds it (R423). The first argument
bounds the pages. -/
def ioRange (gate : XAddr → State → EngRes Nat) (rs : List RangeEnt) (d as : Nat) (sec : Bool) (acc : Access) : Nat → Nat → Nat → State → EngRes (List Nat)
  | 0, _, _, s => .ok [] s
  | k + 1, va, n, s =>
    if n == 0 then .ok [] s
    else if va ≥ 2 ^ 57 then .fault { kind := 0x01, va := BitVec.ofNat 64 va }
    else
      let m := min n (4096 - va % 4096)
      let r := ioXlate rs d as sec acc va s
      match r.1 with
      | .error e => .fault (xInfo e)
      | .ok a =>
        match gate a r.2 with
        | .fault e => .fault e
        | .waits s => .waits s
        | .ok p s =>
          match ioRange gate rs d as sec acc k (va + m) (n - m) s with
          | .ok ps s => .ok ((List.range m).map (fun j => p + j) ++ ps) s
          | .fault e => .fault e
          | .waits s => .waits s

/-! ### The commands at issue (R454 to R456) -/

/-- IOREAD. -/
def execIoread (f : Fields) (s : State) : Host.Outcome State Fault Refusal := runLanes (laneBoth f (sendCommand (.ioread f) f (some 0))) s
/-- IOREAD.RING. -/
def execIoreadRing (f : Fields) (s : State) : Host.Outcome State Fault Refusal :=
  runLanes (laneBoth f (sendCommand (.ioreadRing f) f (some 0))) s
/-- IOWRITE. -/
def execIowrite (f : Fields) (s : State) : Host.Outcome State Fault Refusal := runLanes (laneBoth f (sendCommand (.iowrite f) f (some 0))) s
/-- NETSEND. -/
def execNetsend (f : Fields) (s : State) : Host.Outcome State Fault Refusal := runLanes (laneBoth f (sendCommand (.netsend f) f (some 0))) s

/-! ### Acceptance (R450, R454 to R456) -/

/-- The command brings data in. -/
def isIoRead : Instr → Bool
  | .ioread _ => true | .ioreadRing _ => true | _ => false

/-- The command sends on a queue pair that its network word names. -/
def isNetsend : Instr → Bool
  | .netsend _ => true | _ => false

/-- The memory side of an I/O command: its pointer, or none for a ring. -/
def ioMem (q : Req) : Option Word :=
  match q.i with
  | .ioreadRing _ => none
  | _ => some q.c.l.val

/-- The LBA of a storage command: L of IOREAD.RING, R of the others. -/
def ioLba (q : Req) : Nat :=
  match q.i with
  | .ioreadRing _ => q.c.l.val.toNat
  | _ => (reqK q 0).toNat

/-- The channel of a storage command. -/
def ioChan (s : State) (q : Req) : Nat := chanOf s (fld (reqFields q) 6 8)

/-- The block size of a channel. -/
def chanBlock (ch : Nat) : Nat := if nbits ch 34 2 == 0 then 512 else 4096

/-- The windows a command may name (R455, R234): a read's destination on any MU of this member, a source on the home MU. -/
def ioWindow (s : State) (q : Req) (n : Nat) : Option FaultInfo :=
  let x := reqCtx s q
  match ioMem q with
  | none => none
  | some p =>
    match windowFault x (poolSize x) wins0113 p n with
    | some e => some { kind := e, va := p }
    | none =>
      let m := muNamed q.c.u p
      failIf (winOf p == 1 && (if isIoRead q.i then !onModule x m.x else m != q.mu)) 0x07 p

/-- The alignment and capability checks of a command's memory side; a storage command's address is a multiple of 4 (R455). -/
def ioAddress (s : State) (q : Req) (n : Nat) : Option FaultInfo :=
  let al := if isNetsend q.i then 1 else 4
  match ioMem q with
  | none => none
  | some p =>
    if winOf p == 1 then failIf (offOf p % al != 0) 0x08 p
    else match resolveVa s q.mu p n al (isIoRead q.i) with
    | .error e => some e
    | .ok _ => none

/-- The channel's own checks (R455): it is valid, and of the context's address space. -/
def chanFault (s : State) (q : Req) : Option FaultInfo :=
  let ch := ioChan s q
  failIf (nbits ch 32 1 == 0 || nbits ch 36 9 != (reqCtx s q).as) 0x28 q.c.l.val

/-- The checks of a storage command's size and block address (R455). -/
def chanSize (s : State) (q : Req) (n : Nat) : Option FaultInfo :=
  let ch := ioChan s q
  let bs := chanBlock ch
  failIf (n % bs != 0 || n > (nbits ch 45 8 + 1) * 4096 || ioLba q + n / bs > 2 ^ 64) 0x28 q.c.l.val

/-- The queue pair of NETSEND, and its checks (R454, R456). -/
def pairFault (s : State) (q : Req) (w : Word) : Option FaultInfo :=
  let k := qpOf s (nbits w.toNat 0 10)
  failIf (nbits w.toNat 10 22 != 0 || qpAs k != (reqCtx s q).as || qpSt k != 1 || qpSto k) 0x28 q.c.l.val

/-- An I/O command at acceptance, its checks in the order of R165, and those that R165 does not rank where R455 has them. -/
def acceptIo (q : Req) (s : State) : Except FaultInfo Copy :=
  let cw := reqK q 1
  let n := cwLen cw
  let ring := isRingSend q.i
  let net := isNetsend q.i
  let sec := isSecure (reqCtx s q)
  let own := if net then qpSec (qpOf s (nbits (reqK q 2).toNat 0 10)) else nbits (ioChan s q) 33 1 == 1
  checked
    [ioWindow s q (max 1 n), cwFault s q cw true ring,
     if net then pairFault s q (reqK q 2) else chanFault s q,
     ioAddress s q (max 1 n),
     failIf (own != sec) 0x1A q.c.l.val,
     if net then none else chanSize s q n,
     if ring then ringSendFault s q cw else none]
    { newCopy s q with src := q.c.l.val, dst := q.c.l.val, len := n, total := if ring then chunkCount n else 1 }

/-- An I/O command is accepted, or its station faults. -/
def acceptIoCommand (q : Req) (s : State) : State :=
  match acceptIo q s with
  | .error e => raise q.c e s
  | .ok p =>
    let s := if isIoRead q.i then s else commitSource p.c p.src p.len s
    acceptReply p (enterCopy p s)

/-! ### On the way to the I/O die (R450, R452) -/

/-- The queue pair that carries a command. -/
def ioPair (s : State) (p : Copy) : Nat :=
  if isNetsend p.i then nbits (p.k.getD 2 0).toNat 0 10 else nbits (ioChan s (copyReq p)) 53 10

/-- A command may leave: it is new or replays, its context runs, and a ring's message is reserved. -/
def ioReady (s : State) (p : Copy) : Bool :=
  let x := ctxOf s p.mu.ctx
  isIoCommand p.i && engineRuns x && x.cst != .draining && !p.left && !(isRingSend p.i && p.resv.isNone)
    && (p.st == .issued || (p.st == .failed && p.rsn == 2))

/-- A command starts on its way. In a REDUNDANT context the primary's goes, once the twin's has been accepted too (R471). -/
def startIo (p : Copy) (s : State) : State :=
  let t := twinCopy s p
  let red := isRedundant (ctxOf s p.mu.ctx)
  if p.mu.copy != 0 || !ioReady s p || (red && !(t.any (ioReady s))) then s
  else
    let go (s : State) (c : Copy) : State := updCopy s c.mu c.id fun c => { c with st := if c.st == .issued then .streaming else .replaying, rsn := 0 }
    let s := t.toList.foldl go (go s p)
    { s with lk := { s.lk with ios := s.lk.ios ++ [{ mu := p.mu, id := p.id, sent := false, since := s.clock, qp := ioPair s p, locs := [] }] } }

/-- An older NETSEND on the same pair has not left (R456). -/
def sendAhead (s : State) (p : Copy) : Bool :=
  isNetsend p.i && (s.cp.copies.takeWhile fun r => !(r.mu == p.mu && r.id == p.id)).any fun r =>
    isNetsend r.i && r.mu.copy == 0 && ioPair s r == ioPair s p && !r.left && (r.st == .issued || isMoving r || mayReplay r)

/-- The locations of a command's memory range, translated at its I/O die (R450). -/
def ioLocs (p : Copy) (d : Nat) (s : State) : EngRes (List Nat) :=
  let q := copyReq p
  let x := reqCtx s q
  let acc : Access := if isIoRead p.i then .write else .read
  match ioMem q with
  | none => .ok [] s
  | some v =>
    if winOf v == 1 then .ok ((List.range p.len).map fun k => locUnit (muNamed p.c.u v) (offOf v + k)) s
    else match (if winOf v == 3 then capDeref s p.mu v p.len (isIoRead p.i) else .ok (nbits v.toNat 0 57)) with
    | .error e => .fault e
    | .ok va => ioRange (engGate (copyEng p)) (ctxRanges s x) d x.as (isSecure x) acc (p.len / 4096 + 2) va p.len s

/-- What a command puts on its queue pair (R455, R456, log entry 60): an NVMe Read or Write with its namespace, block address, block count
and Force Unit Access; or the bytes of a network push, with the remote address and key, and the immediate. -/
def ioOut (s : State) (p : Copy) (locs : List Nat) : List Byte :=
  let q := copyReq p
  let ch := ioChan s q
  let storage (op fua : Nat) : List Byte :=
    leBytes op 1 ++ leBytes fua 1 ++ leBytes (nbits ch 0 32) 4 ++ leBytes (ioLba q) 8 ++ leBytes (p.len / chanBlock ch) 4
  match p.i with
  | .iowrite f => storage 0x01 f.fn.toNat
  | .netsend f =>
    let w := (reqK q 2).toNat
    let key := nbits (qpOf s (nbits w 0 10)).word.toNat 16 32
    leBytes f.fn.toNat 1 ++ (if f.fn == 0 then [] else leBytes (reqK q 0).toNat 8 ++ leBytes key 4)
      ++ (if f.fn == 2 then leBytes (nbits w 32 32) 4 else []) ++ locs.map (engByte s)
  | _ => storage 0x02 0

/-- Bytes that the manual leaves open, and the state after they are drawn. -/
def freeBytes (n : Nat) (s : State) : List Byte × State :=
  ((List.range n).map fun k => Config.freeByte (s.fresh + k), { s with fresh := s.fresh + n })

/-- A command has ended (R451): COMPLETE, or FAILED(6) or FAILED(7), and its completion object is credited once. -/
def ioEnded (p : Copy) (ok : Bool) (s : State) : State :=
  let s := if ok then updCopy s p.mu p.id fun c => { c with st := .complete, nch := c.total }
    else failCopy p (if isNetsend p.i then 7 else 6) s
  sendCredit s p.mu p.id p.cw p.len

/-- The end of one copy's part of a command: the data land, those of a failed read undefined; a ring's message is filled at its turn, and
the command ends with it. -/
def ioFinish (ok : Bool) (data : List Byte) (locs : List Nat) (p : Copy) (s : State) : State :=
  let r := if ok then (data, s) else freeBytes p.len s
  match p.i with
  | .ioread _ => ioEnded p ok (pushTags locs (engPut p.mu (locs.zip r.1) (if ok then charge r.2 p.mu 8 ((p.len + 63) / 64) else r.2)))
  | .ioreadRing _ =>
    let p := { p with aux := portOf s p }
    sendData p (updCopy { r.2 with lk := { r.2.lk with ioData := r.2.lk.ioData ++ [{ mu := p.mu, id := p.id, ok := ok, data := r.1 }] } } p.mu p.id
      fun _ => p)
  | _ => ioEnded p ok s

/-- The locations in the twin's copy of a read's destination: those of its scratchpads (R471). -/
def twinLocs (p : Copy) : List Nat :=
  if winOf p.c.l.val == 1 then (List.range p.len).map fun k => locUnit (muNamed p.c.u p.c.l.val) (offOf p.c.l.val + k) else []

/-- A command ends, for both copies of a REDUNDANT context. -/
def endIo (e : IoCmd) (ok : Bool) (data : List Byte) (s : State) : State :=
  let s := { s with lk := { s.lk with ios := s.lk.ios.erase e } }
  match copyOf s e.mu e.id with
  | none => s
  | some p =>
    let t := twinCopy s p
    let s := ioFinish ok data e.locs p s
    t.toList.foldl (fun s t => ioFinish ok data (twinLocs t) t s) s

/-- The command goes back to its copy unit, having sent nothing: its context freezes or has begun to drain. -/
def recallIo (e : IoCmd) (s : State) : State :=
  let s := { s with lk := { s.lk with ios := s.lk.ios.erase e } }
  let back (s : State) (p : Copy) : State := if isMoving p then updCopy s p.mu p.id fun p => { p with st := .issued } else s
  match copyOf s e.mu e.id with
  | none => s
  | some p => (twinCopy s p).toList.foldl back (back s p)

/-- A network push whose source bytes hold an uncorrectable error sends nothing and ends as a copy with a source error does (R238). -/
def netSourceError (e : IoCmd) (p : Copy) (ls : List Nat) (s : State) : State :=
  let s := { s with lk := { s.lk with ios := s.lk.ios.erase e } }
  sourceError p ls ((twinCopy s p).toList.foldl (fun s t => failCopy t 4 s) s)

/-- IO_COMMAND_ARRIVAL (R450): the I/O die translates the whole range and sends the command. A fault is an engine fault, and the command
replays from the start. -/
def bodyIoArrival (m : UId) (id : Nat) (s : State) : State :=
  match s.lk.ios.find? fun e => e.mu == m && e.id == id && !e.sent, copyOf s m id with
  | some e, some p =>
    let x := ctxOf s m.ctx
    if !isMoving p || !engineRuns x || x.cst == .draining then recallIo e s
    else if sendAhead s p then s
    else match ioLocs p (qpDie (qpOf s e.qp)) s with
    | .waits s => s
    | .fault f =>
      let s := { s with lk := { s.lk with ios := s.lk.ios.erase e } }
      let s := (twinCopy s p).toList.foldl (fun s t => updCopy s t.mu t.id fun t => { t with st := .failed, rsn := 2 }) s
      copyFault p f s
    | .ok locs s =>
      if isNetsend p.i && srcFails s locs then netSourceError e p locs s
      else
      let e' := { e with sent := true, since := s.clock, locs := locs }
      let s := { s with lk := { s.lk with ios := s.lk.ios.map fun k => if k == e then e' else k } }
      let leave (s : State) (p : Copy) : State := updCopy s p.mu p.id fun p => { p with left := true }
      let s := (twinCopy s p).toList.foldl leave (leave s p)
      if qpSt (qpOf s e.qp) != 1 then endIo e' false [] s
      else sendNet (if isIoRead p.i then s else charge s p.mu 8 ((p.len + 63) / 64)) e.qp (ioOut s p locs)
  | _, _ => s

/-- IO_COMMAND_ARRIVAL. -/
def execIoCommandArrival (m : UId) (id : Nat) (s : State) : Host.Outcome State Fault Refusal := done s (bodyIoArrival m id s)

/-- IO_COMPLETION (R451): the target or the peer has ended the command; a read's data are as long as its range. Nothing arrives on a port that is
not usable (R438). -/
def bodyIoCompletion (m : UId) (id : Nat) (ok : Bool) (data : List Byte) (s : State) : State :=
  match s.lk.ios.find? fun e => e.mu == m && e.id == id && e.sent, copyOf s m id with
  | some e, some p => if !pairUp s e.qp || (ok && isIoRead p.i && data.length != p.len) then s else endIo e ok data s
  | _, _ => s

/-- IO_COMPLETION. -/
def execIoCompletion (m : UId) (id : Nat) (ok : Bool) (data : List Byte) (s : State) : Host.Outcome State Fault Refusal :=
  done s (bodyIoCompletion m id ok data s)

/-- IO_COMMAND_TIMEOUT (R451): a command still open 2^26 cycles after it left ends FAILED, and a storage command is aborted. -/
def bodyIoTimeout (m : UId) (id : Nat) (s : State) : State :=
  match s.lk.ios.find? fun e => e.mu == m && e.id == id && e.sent, copyOf s m id with
  | some e, some p =>
    if s.clock < e.since + 2 ^ 26 then s
    else endIo e false [] (if isNetsend p.i then s else sendNet s e.qp (leBytes 0x08 1))
  | _, _ => s

/-- IO_COMMAND_TIMEOUT. -/
def execIoCommandTimeout (m : UId) (id : Nat) (s : State) : Host.Outcome State Fault Refusal := done s (bodyIoTimeout m id s)

/-! ### NETRECV (R457) -/

/-- The address checks of NETRECV: a ring header in window 01 at the home MU. -/
def netrecvFault (s : State) (F : Ready) : Option Nat :=
  let x := ctxOf s F.u.ctx
  let p := F.l.val
  match windowFault x (poolSize x) [1] p 32 with
  | some e => some e
  | none => if muNamed F.u p != muOf F.u then some 0x07 else if offOf p % 32 != 0 then some 0x08 else none

/-- NETRECV.BIND and .UNBIND at issue. -/
def sendNetrecv (i : Instr) (k : List Word) (F : Ready) (s : State) : State :=
  match netrecvFault s F with
  | some e => raiseA F e F.l.val s
  | none => sendReq (muOf F.u) i F k s

/-- NETRECV.BIND. -/
def execNetrecvBind (f : Fields) (s : State) : Host.Outcome State Fault Refusal :=
  runLanes (laneBoth f (once fun F s => sendNetrecv (.netrecvBind f) [kreg s F.u (fld f 0 6)] F s)) s

/-- NETRECV.UNBIND. -/
def execNetrecvUnbind (f : Fields) (s : State) : Host.Outcome State Fault Refusal :=
  runLanes (laneBoth f (once fun F s => sendNetrecv (.netrecvUnbind f) [] F s)) s

/-- The units of a ring in the copies of its context. -/
def ringUnits (s : State) (m : UId) : List UId := (copiesOf (ctxOf s m.ctx)).map fun k => { m with copy := k }

/-- Marks a ring as bound to a queue pair, or as unbound, in every copy. -/
def markNet (s : State) (m : UId) (off : Nat) (n : Option Nat) : State :=
  (ringUnits s m).foldl (fun s m =>
    match ringAt s (locUnit m off) with
    | some r => setRing s (locUnit m off) (some { r with net := n })
    | none => s) s

/-- The ring of a NETRECV, if it is live and its context's. -/
def netRing (s : State) (q : Req) : Option Ring :=
  (ringAt s (locUnit q.mu (offOf q.c.l.val))).filter fun r => r.own == q.c.u.ctx

/-- NETRECV.BIND at the home MU. -/
def performNetrecvBind (q : Req) (s : State) : State :=
  let w := reqK q 0
  let off := offOf q.c.l.val
  let n := nbits w.toNat 0 10
  let fault (k : Nat) : State := reqFault q k q.c.l.val s
  match netRing s q with
  | none => fault 0x1D
  | some r =>
    if r.bnd || r.net.isSome || r.rsv != r.wp || fillsRing s q.mu q.mu off then fault 0x1D
    else if (pairFault s q w).isSome || (qpOf s n).ring.isSome then fault 0x28
    else if qpSec (qpOf s n) != isSecure (reqCtx s q) then fault 0x1A
    else replyPair q.mu (reqFields q) q.c 0 0 (commitPair q.c (updQp (markNet (charge s q.c.u 7 1) q.mu off (some n)) n fun k => { k with ring := some (q.mu, off) }))

/-- NETRECV.UNBIND at the home MU. -/
def performNetrecvUnbind (q : Req) (s : State) : State :=
  let off := offOf q.c.l.val
  match (netRing s q).bind fun r => r.net with
  | none => reqFault q 0x1D q.c.l.val s
  | some n => replyPair q.mu (reqFields q) q.c 0 0 (commitPair q.c (updQp (markNet (charge s q.c.u 7 1) q.mu off none) n fun k => { k with ring := none }))

/-! ### What arrives on a queue pair (R448, R457) -/

/-- A host address of a push passes when the device owns its region; otherwise the transfer begins and the push waits. -/
def pushGate (a : XAddr) (s : State) : EngRes Nat :=
  if !a.hr then .ok a.phys s
  else match findRegion s (regionOf a.phys) with
  | none => .fault { kind := 0x01, flg := 16 }
  | some r => if r.own == .device then .ok a.phys s else .waits (wantRegion s r.num)

/-- The window through which an inbound write lands (R449). -/
def recvWindow (s : State) (q rkey va n : Nat) : Option RecvWin :=
  let k := qpOf s q
  (s.lk.wins.map fun e => e.2).find? fun w =>
    let c := w.ctl.toNat
    nbits c 0 1 == 1 && nbits c 32 32 == rkey && w.len != 0 && w.base.toNat ≤ va && va + n ≤ w.base.toNat + w.len.toNat
      && nbits c 1 9 == qpAs k && (nbits c 10 1 == 1) == qpSec k

/-- Where an inbound write lands: through a window of its pair, translated at the pair's I/O die (R448, R449). -/
def writeLocs (s : State) (q rkey va n : Nat) : EngRes (List Nat) :=
  let k := qpOf s q
  match recvWindow s q rkey va n with
  | none => .fault { kind := 0x28 }
  | some _ => ioRange pushGate (rangeSet s (asOf s (qpAs k))) (qpDie k) (qpAs k) (qpSec k) .write (n / 4096 + 2) va n s

/-- An inbound access that fails at the root of its pair's address space, where that names an unbacked address, raises a machine check
(R413), and so does one that fails within `ASHSB` to `ASHSB` + `ASHSL`, which is NESTED and has no context to kill (R429); an I/O die has no `CAUSE` of its own, so the first die shows it (log entry 97). -/
def inboundCheck (s : State) (q : Nat) (e : FaultInfo) : State :=
  let as := qpAs (qpOf s q)
  if inOwnWindow s as e.va.toNat && e.kind != 0x28 then
    let d := standIn s 0
    let r : FaultRec := { kind := 0x14, flg := 0, lvl := e.lvl, fks := 0, va := e.va, x := 0, y := 0, stn := 0, mod := 0, hdr := 0, col := 0,
                             cid := 0, seq := 0, rv := 0, pv := 0 }
    setCause (fallback s d r) d 3
  else if e.kind == 0x01 && e.lvl == 5 && rootUnbacked s as then setCause s (standIn s 0) 3 else s

/-- A request from outside reaches a pair: it is READY TO SEND, and its Ethernet port is usable (R438, R447). -/
def pairOpen (s : State) (q : Nat) : Bool := q < 1024 && qpSt (qpOf s q) == 1 && pairUp s q

/-- Bytes from outside are written directly, without phase buffering (R448). -/
def landBytes (locs : List Nat) (bs : List Byte) (s : State) : State := pushTags locs (putBytes s (locs.zip bs))

/-- INBOUND_RDMA_WRITE (R448, R449). -/
def bodyInboundWrite (q rkey va : Nat) (data : List Byte) (s : State) : State :=
  if !pairOpen s q then s
  else match writeLocs s q rkey va data.length with
  | .fault e => sendNet (inboundCheck s q e) q ansNak
  | .waits s => s
  | .ok locs s => sendNet (landBytes locs data s) q ansAck

/-- INBOUND_RDMA_WRITE. -/
def execInboundRdmaWrite (q rkey va : Nat) (data : List Byte) (s : State) : Host.Outcome State Fault Refusal :=
  done s (bodyInboundWrite q rkey va data s)

/-- How a message of `n` bytes meets the ring of a queue pair (R457). -/
inductive MsgRes where
  | nak | rnr | ok (m : UId) (off : Nat)
deriving DecidableEq, Repr

/-- A ring lacks the space for a message. -/
def ringLacks (s : State) (m : UId) (off n : Nat) : Bool :=
  match ringAt s (locUnit m off) with
  | none => true
  | some r => (placeMessage r.kd r.sz r.cnt r.free r.rsv n).2.1 > r.free || r.rsv != r.wp

/-- A message at its pair's ring: no ring or too large is a NAK; a saved owner, a frozen one (R266) or no space is RNR. -/
def messageRes (s : State) (q n : Nat) : MsgRes :=
  match (qpOf s q).ring with
  | none => .nak
  | some (m, off) =>
    let st := (ctxOf s m.ctx).cst
    if st == .frozen || st == .saved || st == .relocating || st == .restoring then .rnr
    else match ringAt s (locUnit m off) with
    | none => .nak
    | some r =>
      if n > (if r.kd then r.sz - 16 else r.sz) then .nak
      else if (ringUnits s m).any fun m => ringLacks s m off n then .rnr
      else .ok m off

/-- A message is reserved, written and filled in one ring. -/
def fillMessage (off : Nat) (data : List Byte) (s : State) (m : UId) : State :=
  match ringAt s (locUnit m off) with
  | none => s
  | some r =>
    let v := placeMessage r.kd r.sz r.cnt r.free r.rsv data.length
    let s := setRing s (locUnit m off) (some { r with free := r.free - v.2.1, rsv := v.2.2 })
    let a := payOff r v.1.place
    fillRing m off v.1 data.length (landBytes ((List.range data.length).map fun k => locUnit m (a + k)) data s)

/-- A message becomes the next one of its ring, in every copy of the context. -/
def putMessage (m : UId) (off : Nat) (data : List Byte) (s : State) : State := (ringUnits s m).foldl (fillMessage off data) s

/-- INBOUND_SEND (R448, R457). -/
def bodyInboundSend (q : Nat) (data : List Byte) (s : State) : State :=
  if !pairOpen s q then s
  else match messageRes s q data.length with
  | .nak => sendNet s q ansNak
  | .rnr => sendNet s q ansRnr
  | .ok m off => sendNet (putMessage m off data s) q ansAck

/-- INBOUND_SEND. -/
def execInboundSend (q : Nat) (data : List Byte) (s : State) : Host.Outcome State Fault Refusal := done s (bodyInboundSend q data s)

/-- INBOUND_WRITE_IMMEDIATE (R448): the data land and the immediate becomes a message, or neither. -/
def bodyInboundImm (q rkey va : Nat) (data : List Byte) (imm : Nat) (s : State) : State :=
  if !pairOpen s q then s
  else match writeLocs s q rkey va data.length with
  | .fault e => sendNet (inboundCheck s q e) q ansNak
  | .waits s => s
  | .ok locs s =>
    match messageRes s q 4 with
    | .nak => sendNet s q ansNak
    | .rnr => sendNet s q ansRnr
    | .ok m off => sendNet (putMessage m off (leBytes imm 4) (landBytes locs data s)) q ansAck

/-- INBOUND_WRITE_IMMEDIATE. -/
def execInboundWriteImmediate (q rkey va : Nat) (data : List Byte) (imm : Nat) (s : State) : Host.Outcome State Fault Refusal :=
  done s (bodyInboundImm q rkey va data imm s)

/-- The open IOWRITE on a storage pair whose source covers a range (R448). -/
def servedWrite (s : State) (q va n : Nat) : Option (IoCmd × Copy) :=
  (s.lk.ios.filterMap fun e => (copyOf s e.mu e.id).map fun p => (e, p)).find? fun e =>
    e.1.sent && e.1.qp == q && (match e.2.i with | .iowrite _ => true | _ => false)
      && e.2.src.toNat ≤ va && va + n ≤ e.2.src.toNat + e.2.len

/-- INBOUND_RDMA_READ (R448): it is served over the source of an open IOWRITE alone. Any other request from outside, such as a RoCE atomic,
has no row in the opcode table: it is given to the model as a read that no open IOWRITE covers, and gets the same NAK (log entry 60). -/
def bodyInboundRead (q va n : Nat) (s : State) : State :=
  if !pairOpen s q then s
  else match (if qpSto (qpOf s q) then servedWrite s q va n else none) with
  | none => sendNet s q ansNak
  | some (e, p) =>
    let ls := (e.locs.drop (va - p.src.toNat)).take n
    sendNet (noteReads p.mu (fcol p.c) ls s) q (ls.map (engByte s))

/-- INBOUND_RDMA_READ. -/
def execInboundRdmaRead (q va n : Nat) (s : State) : Host.Outcome State Fault Refusal := done s (bodyInboundRead q va n s)

/-! ### Queue pair states (R447, R449) -/

/-- The pair is in ERROR: every command open on it ends FAILED (R451). -/
def qpError (q : Nat) (s : State) : State :=
  let s := updQp s q fun k => { k with word := (k.word &&& ~~~(3 : Word)) ||| 2 }
  let s := { s with lk := { s.lk with pend := s.lk.pend.filter fun e => e.1 != q } }
  (s.lk.ios.filter fun e => e.qp == q && e.sent).foldl (fun s e => endIo e false [] s) s

/-- QP_FATAL_EVENT: a fatal RoCE v2 event moves a pair to ERROR. -/
def bodyQpFatal (q : Nat) (s : State) : State := if q ≥ 1024 || qpSt (qpOf s q) != 1 then s else qpError q s

/-- QP_FATAL_EVENT. -/
def execQpFatalEvent (q : Nat) (s : State) : Host.Outcome State Fault Refusal := done s (bodyQpFatal q s)

/-- A write of `QST`: code 3 is reserved and ignored, and so is a move from RESET to READY TO SEND with a `PMTU` outside 3 to 5. -/
def setQst (q st : Nat) (s : State) : State :=
  let k := qpOf s q
  let mtu := nbits k.num.toNat 24 3
  if st == 3 || (qpSt k == 0 && st == 1 && !(3 ≤ mtu && mtu ≤ 5)) then s
  else if st == 2 then qpError q s
  else updQp s q fun k => { k with word := (k.word &&& ~~~(3 : Word)) ||| BitVec.ofNat 64 st }

/-- QP_STATE_WRITE. A non-secure write to a pair of the secure world is ignored (R479). -/
def bodyQpState (q st : Nat) (sec : Bool) (s : State) : State :=
  if q ≥ 1024 || (qpSec (qpOf s q) && !sec) then s else setQst q (st % 4) s

/-- QP_STATE_WRITE. -/
def execQpStateWrite (q st : Nat) (sec : Bool) (s : State) : Host.Outcome State Fault Refusal := done s (bodyQpState q st sec s)

end Sys2Proof.Machine
end

