-- ==== Sys2Proof/Machine/Service.lean ====
section
/-!
DEFINITION. The service cores' side (21): the mailbox and service calls, software faults, the register space with the accesses of the
supervisor and of stations, and the registers of address spaces, host regions and invalidations that it reaches (18).
-/

namespace Sys2Proof.Machine

open Sys2Proof

/-! ### Service calls (R481 to R483) -/

/-- A part of a call leaves for its home MU; in a REDUNDANT context the primary alone posts it (R471). -/
def sendSvc (i : Instr) (F : Ready) (s : State) : State := once (fun F s => sendReq (muOf F.u) i F [] s) F s

/-- SVC.CALL. -/
def execSvcCall (f : Fields) (s : State) : Host.Outcome State Fault Refusal := runLanes (laneBoth f (sendSvc (.svcCall f))) s

/-- SVC.ARG: its one token goes to TB. -/
def execSvcArg (f : Fields) (s : State) : Host.Outcome State Fault Refusal := runLanes (lane false true true f (sendSvc (.svcArg f))) s

/-- The part is a CALL. -/
def isCall : Instr → Bool
  | .svcCall _ => true | _ => false

/-- The CALL station that a part names: its own, or for an ARG that of TA. -/
def callStn (q : Req) : Nat := if isCall q.i then q.c.stn else tgtStn (reqFields q).ta

/-- An entry of a part's key. -/
def sameKey (q : Req) (e : MboxEnt) : Bool :=
  e.svn != 0xFFFF && e.u == q.c.u && e.col == fcol q.c && e.itr == fitr q.c && e.stn == callStn q

/-- The entry of a part's call in its die's ring. -/
def findCall (s : State) (q : Req) : Option (Nat × MboxEnt) :=
  (dieReg s (dieOf s q.mu)).ring.findSome? fun e => e.2.bind fun k => if sameKey q k then some (e.1, k) else none

/-- A part at its home MU's request port (R481): it waits there while it would create an entry and the ring is full; false then. -/
def performSvc (q : Req) (s : State) : Bool × State :=
  if (findCall s q).isNone && mboxFull (dieReg s (dieOf s q.mu)) then (false, s)
  else (true, { s with svc := { s.svc with parts := s.svc.parts ++ [q] } })

/-- An entry with nothing in it, for the call of a part. -/
def openEntry (q : Req) : MboxEnt :=
  { svn := 0, na := 0, am := 0, u := q.c.u, col := fcol q.c, itr := fitr q.c, stn := callStn q, args := List.replicate 6 0, ta := 0xC00,
    tb := 0xC00, posted := false, pair := q.c.pair }

/-- The slot of a part. -/
def partSlot (q : Req) : Nat := if isCall q.i then 0 else fld (reqFields q) 0 3

/-- The arguments at or above `n` that have arrived: they are stray. -/
def strays (e : MboxEnt) (n : Nat) : Nat := ((List.range 6).filter fun k => n ≤ k && nbits e.am k 1 == 1).length

/-- A part fills its slot; a CALL names the service, its arguments and its targets too. Also the stray arguments it finds. -/
def fillSlot (q : Req) (e : MboxEnt) : MboxEnt × Nat :=
  let k := partSlot q
  let e := { e with am := e.am + 2 ^ k, args := e.args.set k q.c.l.val, pair := q.c.pair }
  if !isCall q.i then (e, 0)
  else
    let f := reqFields q
    let n := fld f 0 3
    ({ e with svn := fld f 3 16, na := n, am := e.am % 2 ^ n, ta := f.ta, tb := f.tb,
              args := (List.range 6).map fun k => if k < n then e.args.getD k 0 else 0 }, strays e n)

/-- The entry has every argument. -/
def complete (e : MboxEnt) : Bool := e.na != 0 && e.am == 2 ^ e.na - 1

/-- The completion of an ARG. -/
def argDone (q : Req) (s : State) : State :=
  if isCall q.i then commitPair q.c s
  else
    let done (F : Ready) (s : State) : State := emitFrom s { q.mu with copy := F.u.copy } F.u (fcol F) (fitr F) (reqFields q).tb kReply 0 false
    commitPair q.c ((twinOf q.c).toList.foldl (fun s G => done G s) (done q.c s))

/-- Part number `n` reaches the mailbox: it creates or completes its entry, or is stray. -/
def bodyPartArrival (n : Nat) (s : State) : State :=
  match s.svc.parts[n]? with
  | none => s
  | some q =>
    let d := dieOf s q.mu
    let t := { s with svc := { s.svc with parts := s.svc.parts.eraseIdx n } }
    let put (i : Nat) (e : MboxEnt) : State :=
      let r := fillSlot q e
      let t := updDie t d fun k => { k with ring := fset none k.ring i (some { r.1 with posted := complete r.1 }) }
      let t := if complete r.1 then setCause t d 0 else t
      argDone q (addOrph t q.c.u.ctx r.2)
    match findCall s q with
    | some (i, e) =>
      if nbits e.am (partSlot q) 1 == 1 || (e.na != 0 && partSlot q ≥ e.na) then addOrph t q.c.u.ctx 1 else put i e
    | none =>
      let k := dieReg s d
      if mboxFull k then s
      else
        let t := put k.mbtl (openEntry q)
        updDie t d fun k => { k with mbtl := (k.mbtl + 1) % 4096, mbn := k.mbn + 1 }

/-- MAILBOX_PART_ARRIVAL. -/
def execMailboxPartArrival (n : Nat) (s : State) : Host.Outcome State Fault Refusal := done s (bodyPartArrival n s)

/-- MAILBOX_REPLY (R483): the hart writes ARG0 and MBRPL. The entry is freed, and the reply is sent, or held while its context is frozen or
saved. -/
def bodyMailboxReply (d ent st : Nat) (v : Word) (s : State) : State :=
  match fget none (dieReg s d).ring ent with
  | none => s
  | some e =>
    if !e.posted || e.svn == 0xFFFF then s
    else
      let e := { e with args := e.args.set 0 v }
      let s := updDie s d fun k => { k with ring := fset none k.ring ent none }
      if emitsTokens (ctxOf s e.u.ctx) && (ctxOf s e.u.ctx).cst != .frozen then sendServiceReply s e st
      else if isLive (ctxOf s e.u.ctx) && (ctxOf s e.u.ctx).cst != .draining then
        { s with svc := { s.svc with held := s.svc.held ++ [{ ctx := e.u.ctx, e := e, st := st }] } }
      else s

/-- MAILBOX_REPLY. -/
def execMailboxReply (d ent st : Nat) (v : Word) (s : State) : Host.Outcome State Fault Refusal := done s (bodyMailboxReply d ent (st % 256) v s)

/-- The entries from the head up to a new one. -/
def passed (r : DieReg) (n : Nat) : List Nat := (List.range ((n + 4096 - r.mbhd) % 4096)).map fun k => (r.mbhd + k) % 4096

/-- MBHD may pass an entry that has been answered, or a notice (R481). -/
def mayPass (r : DieReg) (i : Nat) : Bool :=
  match fget none r.ring i with
  | none => true
  | some e => e.svn == 0xFFFF

/-- MAILBOX_HEAD_ADVANCE (R481): the notices passed are freed. A head that would pass an entry that is to be answered, or the tail, is
ignored (log entry 61). -/
def bodyHeadAdvance (d n : Nat) (s : State) : State :=
  let r := dieReg s d
  let n := n % 4096
  let p := passed r n
  if p.length > r.mbn || !p.all (mayPass r) then s
  else updDie s d fun r => { r with mbhd := n, mbn := r.mbn - p.length, ring := r.ring.filter fun e => !p.contains e.1 }

/-- MAILBOX_HEAD_ADVANCE. -/
def execMailboxHeadAdvance (d n : Nat) (s : State) : Host.Outcome State Fault Refusal := done s (bodyHeadAdvance d n s)

/-! ### Software faults and the cycle count (R484, R486, R45) -/

/-- TRAP: it faults, but not again after its resumption. -/
def bodyTrap (f : Fields) (F : Ready) (s : State) : State := if F.again then emitTok f F F.l s else raiseK F 0x18 s

/-- TRAP. -/
def execTrap (f : Fields) (s : State) : Host.Outcome State Fault Refusal := runLanes (laneBoth f (bodyTrap f)) s

/-- BRK: it faults where the die enables it for the context's world, but not again after its resumption. -/
def bodyBrk (f : Fields) (F : Ready) (s : State) : State :=
  let on := (dieReg s (dieOf s F.u)).bke.getLsbD (if isSecure (ctxOf s F.u.ctx) then 1 else 0)
  if on && !F.again then raiseK F 0x19 s else emitTok f F F.l s

/-- BRK. -/
def execBrk (f : Fields) (s : State) : Host.Outcome State Fault Refusal := runLanes (laneBoth f (bodyBrk f)) s

/-- `CYCLE` of a die: the cycles since its release from reset, and zero while it is held in reset. -/
def cycleOf (s : State) (d : Nat) : Word :=
  if s.boot.dies.contains d then BitVec.ofNat 64 (s.clock - fget 0 s.svc.released d) else 0

/-- CYC. -/
def execCyc (f : Fields) (s : State) : Host.Outcome State Fault Refusal :=
  runLanes (laneBoth f (fun F s => emitBoth f F kValue (cycleOf s (dieOf s F.u)) s)) s

/-- DIAG (R45): L to TA, and IMM to TB. -/
def execDiag (f : Fields) (s : State) : Host.Outcome State Fault Refusal :=
  runLanes (laneBoth f (fun F s => emit F f.tb kValue (BitVec.ofNat 64 f.imm.toNat) (emit F f.ta F.l.kind F.l.val s))) s

/-! ### The registers of chapter 18 -/

/-- The address space is of the secure world: a created queue of that world names it (log entry 62). -/
def asSecure (s : State) (as : Nat) : Bool := s.yard.queues.any fun e => e.2.created && e.2.qw && e.2.qas == as

/-- A register of an address space (R413). -/
def asRegRead (s : State) (as r : Nat) : Option Nat :=
  let a := asOf s as
  ([a.v.toNat + 2 * a.nrng, a.root, a.rbase, a.hsb, a.hsl] : List Nat)[r]?

/-- A write of a register of an address space (R413). -/
def asRegWrite (as r v : Nat) (s : State) : State :=
  asUpd s as fun a =>
    match r with
    | 0 => if nbits v 1 5 > 16 then a else { a with v := nbits v 0 1 == 1, nrng := nbits v 1 5 }
    | 1 => { a with root := nbits v 12 40 * 2 ^ 12 }
    | 2 => { a with rbase := nbits v 9 43 * 2 ^ 9 }
    | 3 => { a with hsb := nbits v 0 57 }
    | 4 => { a with hsl := nbits v 0 32 }
    | _ => a

/-- REGION_REGISTER (R423, R478): an entry is written. A valid one registers its region, which is the host's; a write that keeps the
entry's region keeps its state. -/
def bodyRegion (i : Nat) (v : Word) (s : State) : State :=
  let num := nbits v.toNat 21 30
  let old := s.tr.regions.find? fun r => r.idx == i
  let rest := s.tr.regions.filter fun r => r.idx != i
  if i ≥ 65536 then s
  else if !v.getLsbD 51 then { s with tr := { s.tr with regions := rest } }
  else if old.any fun r => r.num == num then s
  else { s with tr := { s.tr with regions := rest ++ [{ idx := i, num := num, own := .host, since := s.clock, snoop := false }] } }

/-- REGION_REGISTER. -/
def execRegionRegister (i : Nat) (v : Word) (s : State) : Host.Outcome State Fault Refusal := done s (bodyRegion i v s)

/-- The state code of a region, in the order of *Table: Region states*. -/
def ownerCode : Owner → Nat
  | .host => 0 | .toDevice => 1 | .device => 2 | .toHost => 3

/-- An entry of the region table as a register. -/
def regionRead (s : State) (i : Nat) : Nat :=
  match s.tr.regions.find? fun r => r.idx == i with
  | some r => r.num * 2 ^ 21 + 2 ^ 51 + ownerCode r.own * 2 ^ 52
  | none => 0

/-- TLB_INVALIDATE (R420): a write of TLBIC. `AS` and `SC` take the written value; `GO` starts an invalidation, and is ignored while `BSY` is 1. -/
def bodyTlbInvalidate (v : Word) (sec : Bool) (s : State) : State :=
  let n := v.toNat
  if !sec then s
  else
    let t := { s.tr with invAs := nbits n 0 9, invSc := nbits n 9 2 }
    if s.tr.invBusy || nbits n 11 1 == 0 then { s with tr := t }
    else { s with tr := { t with invBusy := true, invRun := (nbits n 0 9, nbits n 9 2, s.tr.tlbia), invHeld := 0 } }

/-- TLB_INVALIDATE. -/
def execTlbInvalidate (v : Word) (sec : Bool) (s : State) : Host.Outcome State Fault Refusal := done s (bodyTlbInvalidate v sec s)

/-! ### Sites -/

/-- The module coordinate of a physical site; none for one outside the logical grid (R18). -/
def logAt (s : State) (p : Nat) : Option (Nat × Nat) :=
  let d := p / 2880
  let y := p % 2880 / 60
  let kp := p % 60 / 4
  let j := fget 15 s.un.remap (d * 48 + y)
  let k := if j < kp then kp - 1 else kp
  if kp == j || k ≥ 14 then none else some (56 * (d % 4) + 4 * k + p % 4, 48 * (d / 4) + y)

/-- The unit of a context placed on a module coordinate. -/
def unitAtPos (s : State) (p : Nat × Nat) : Option UId :=
  (s.ctxs.filter holdsPlace).findSome? fun x =>
    (x.place.zipIdx).findSome? fun e =>
      if e.1.mx ≤ p.1 && p.1 < e.1.mx + 4 * x.pw && e.1.my ≤ p.2 && p.2 < e.1.my + x.ph then
        some { ctx := x.id, copy := e.2, x := ownCol x + (p.1 - e.1.mx), y := p.2 - e.1.my }
      else none

/-! ### The register space (R478, R479) -/

/-- The class of a selector. -/
def selClass (v : Nat) : Nat := nbits v 27 5
/-- The instance that a selector names. -/
def selInst (v : Nat) : Nat := nbits v 8 19
/-- The register number of a selector. -/
def selReg (v : Nat) : Nat := nbits v 0 8

/-- The registers of a CU (R70, R486). -/
def cuRead (s : State) (site r : Nat) : Option Nat :=
  if site ≥ 23040 || site % 4 == 3 then none
  else match r with
  | 0 => some (fget 0 s.fab.issueCount site)
  | 1 => some (fget 0 s.fab.laneSum site)
  | 2 => some (cycleOf s (site / 2880)).toNat
  | _ => none

/-- The registers of an MU (R198, R226, R341). -/
def muRead (s : State) (site r : Nat) : Option Nat :=
  let u := (logAt s site).bind (unitAtPos s)
  if site ≥ 23040 || site % 4 != 3 || r > 5 then none
  else match r with
  | 0 => some (fget 0 s.mu.isdrop site)
  | 1 => some (fget 0 s.cp.bsdrop site)
  | n => some (match u.bind fun u => fget none s.cp.bins (uKey u * 4 + (n - 2)) with | some b => b.blocks | none => 0)

/-- The registers of a context; those of an id that no context has held read zero. The energy count holds the static charges of every cycle so
far (R403). -/
def ctxRead (s : State) (c r : Nat) : Option Nat :=
  if c ≥ 512 || r ≥ 18 then none
  else match s.ctxs.find? fun x => x.id == c with
  | some _ => (ctxRegRead (ctxOf (chargeStatic c s) c) r).map BitVec.toNat
  | none => some 0

/-- The service registers of a die (R479, R477, R406). -/
def dieRead (s : State) (d r : Nat) : Option Nat :=
  let k := dieReg s d
  let j := injOf s d
  if d ≥ 8 then none
  else match r with
  | 0 => some k.cause.toNat
  | 1 => some k.en.toNat
  | 2 => some k.hart
  | 3 => some k.mbhd
  | 4 => some k.mbtl
  | 5 => some 0
  | 6 => some (fget 0 s.tr.fbCount d)
  | 7 => some 0
  | 8 => some (k.nsr.toNat + 2 ^ 63 * k.wlk.toNat)
  | 9 => some k.bke.toNat
  | 10 => some (j.ik + 2 ^ 3 * j.ibt + 2 ^ 9 * j.ix + 2 ^ 17 * j.iy + 2 ^ 24 * j.iof + 2 ^ 63 * j.iar.toNat)
  | n => if n ≤ 22 then some (ewOf s d (n - 11)) else none

/-- The registers of the module (R420, R437). -/
def moduleRead (s : State) (r : Nat) : Option Nat :=
  match r with
  | 0 => some s.tr.tlbia
  | 1 => some (s.tr.invAs + 2 ^ 9 * s.tr.invSc + 2 ^ 12 * s.tr.invBusy.toNat + 2 ^ 16 * s.tr.invHeld)
  | 2 => some (s.lk.mid + 2 ^ 63 * s.lk.mlk.toNat)
  | 3 => some 0
  | _ => none

/-- The code of a link state (R438). -/
def linkCode : LinkSt → Nat
  | .down => 0 | .training => 1 | .up => 2 | .degraded => 3 | .retrying => 4 | .quarantined => 5 | .disabled => 6

/-- `RXPS` (R437). -/
def rxps (q : RxPort) : Nat :=
  linkCode q.lst + 2 ^ 3 * q.pen.toNat + 2 ^ 4 * q.lns + 2 ^ 6 * q.hlf.toNat + 2 ^ 7 * q.peer + 2 ^ 11 * q.pv.toNat + 2 ^ 12 * q.rply
    + 2 ^ 28 * q.rtn + 2 ^ 30 * q.pws.toNat + 2 ^ 63 * q.plk.toNat

/-- `ETPS` (R449). -/
def etps (q : EthPort) : Nat :=
  linkCode q.lst + 2 ^ 3 * q.pen.toNat + 2 ^ 4 * q.half.toNat + 2 ^ 5 * q.ealt.toNat + 2 ^ 12 * q.ertx + 2 ^ 28 * q.rtn
    + 2 ^ 30 * q.ews.toNat + 2 ^ 63 * q.elk.toNat

/-- The words of a lifetime record entry (R462): the record holds what the unit has flushed. -/
def lifeRead (l : Life) (r : Nat) : Option Nat :=
  match r with
  | 0 => some (lifeWear l)
  | 1 => some (l.ust + 2 ^ 3 * l.ufc + 2 ^ 5 * l.stp.toNat + 2 ^ 7 * l.usf)
  | _ => none

/-- The registers of a queue pair (R447, R449). -/
def qpRead (s : State) (n r : Nat) : Option Nat :=
  let k := qpOf s n
  match r with
  | 0 => some (k.word.toNat + 2 ^ 63 * k.ring.isSome.toNat)
  | 1 => some (k.num.toNat + 2 ^ 40 * (0x100 + n))
  | 2 => some k.psn.toNat
  | 3 => some k.gidl.toNat
  | 4 => some k.gidh.toNat
  | _ => none

/-- The registers of an Ethernet port (R449). -/
def ethRead (q : EthPort) (r : Nat) : Option Nat :=
  match r with
  | 0 => some (etps q)
  | 1 => some q.mac
  | n => (q.gids[n - 2]?).map BitVec.toNat

/-- The registers of a receive window (R449). -/
def winRead (w : RecvWin) (r : Nat) : Option Nat := ([w.base.toNat, w.len.toNat, w.ctl.toNat] : List Nat)[r]?

/-- The value that a fabric register reads as (R478); none for a selector that the table does not assign. -/
def regRead (s : State) (v : Nat) : Option Nat :=
  let i := selInst v
  let r := selReg v
  match selClass v with
  | 0x00 => cuRead s i r
  | 0x01 => muRead s i r
  | 0x02 => ctxRead s i r
  | 0x03 => if i < 64 then (queueRegRead (queueOf s i) r).map BitVec.toNat else none
  | 0x04 => if i < 512 then asRegRead s i r else none
  | 0x05 => dieRead s i r
  | 0x06 => if i == 0 then moduleRead s r else none
  | 0x07 => if i < 144 && r == 0 then some (rxps (rxOf s i)) else none
  | 0x08 => if i < 23040 then lifeRead (lifeOf s i) r else none
  | 0x09 => if i < 256 && r == 0 then some (chanOf s i) else none
  | 0x0A => if i < 1024 then qpRead s i r else none
  | 0x0B => if i < 65536 && r == 0 then some (regionRead s i) else none
  | 0x0C => if i < 8 then ethRead (ethOf s i) r else none
  | 0x0D => if i < 256 then winRead (recvOf s i) r else none
  | _ => none

/-- The 12 bytes of a mailbox entry's key (R481): the paddock-relative site of its CALL with the member's index, or for a notice its object and
its CAUSE bit. -/
def keyBytes (s : State) (e : MboxEnt) : List Byte :=
  let x := ctxOf s e.u.ctx
  if e.svn == 0xFFFF then leBytes ((e.args.getD 0 0).toNat % 2 ^ 32 + 2 ^ 32 * ((e.args.getD 1 0).toNat % 2 ^ 8)) 12
  else leBytes (e.u.ctx + 2 ^ 9 * e.col + 2 ^ 21 * e.itr + 2 ^ 37 * relCol x e.u.x + 2 ^ 45 * e.u.y + 2 ^ 52 * e.stn + 2 ^ 59 * memberOf x e.u.x) 12

/-- The 64 bytes of a mailbox entry (R481). -/
def mboxBytes (s : State) (e : MboxEnt) : List Byte :=
  leBytes e.svn 2 ++ leBytes e.na 1 ++ leBytes e.am 1 ++ keyBytes s e
    ++ (List.range 6).flatMap fun k => leBytes (if e.svn == 0xFFFF then 0 else (e.args.getD k 0).toNat) 8

/-- An aligned 8-byte read of a die's mailbox ring at an offset of its window (R481); an entry that is free reads zero (log entry 108). -/
def mboxRead (s : State) (off : Nat) : Nat :=
  match fget none (dieReg s (off / 2 ^ 18)).ring (off % 2 ^ 18 / 64) with
  | some e => leNat (((mboxBytes s e).drop (off % 64)).take 8)
  | none => 0

/-- The register belongs to the secure world (R479): a non-secure access reads zero and writes nothing. -/
def regSecure (s : State) (v : Nat) : Bool :=
  let i := selInst v
  match selClass v with
  | 0x02 => s.ctxs.any fun x => x.id == i && isSecure x
  | 0x03 => (queueOf s i).qw
  | 0x04 => asSecure s i
  | 0x05 => true
  | 0x06 => true
  | 0x07 => (rxOf s i).pws
  | 0x09 => nbits (chanOf s i) 33 1 == 1
  | 0x0A => qpSec (qpOf s i)
  | 0x0C => (ethOf s i).ews
  | 0x0D => nbits (recvOf s i).ctl.toNat 10 1 == 1
  | _ => false

/-- What an aligned 8-byte read of a hart at a physical address gives (R478, R481): a fabric register, zero where the hart's world does not reach
it or the selector is unassigned, or a part of a mailbox entry. Any other access size reads zero. -/
def hartRead (s : State) (sec : Bool) (size a : Nat) : Nat :=
  let v := (a - 0x2000000000) / 8
  if size != 8 || a % 8 != 0 || a < 0x2000000000 then 0
  else if a < 0x2800000000 then (if regSecure s v && !sec then 0 else (regRead s v).getD 0)
  else if a < 0x2800000000 + 8 * 0x40000 then mboxRead s (a - 0x2800000000)
  else 0

/-- A write of a CU's registers (R70). -/
def cuWrite (site r v : Nat) (s : State) : State :=
  match r with
  | 0 => { s with fab := { s.fab with issueCount := fset 0 s.fab.issueCount site v } }
  | 1 => { s with fab := { s.fab with laneSum := fset 0 s.fab.laneSum site v } }
  | _ => s

/-- A write of an MU's registers: BSDROP is cleared by ones (R226), and the block count of an open bin set is raised (R341, log entry 96). -/
def muWrite (site r v : Nat) (s : State) : State :=
  if r == 1 then
    { s with cp := { s.cp with bsdrop := fset 0 s.cp.bsdrop site (fget 0 s.cp.bsdrop site &&& (2 ^ 32 - 1 - v % 2 ^ 32)) } }
  else match (logAt s site).bind (unitAtPos s) with
  | none => s
  | some u =>
    match (if 2 ≤ r && r ≤ 5 then fget none s.cp.bins (uKey u * 4 + (r - 2)) else none) with
    | some b => setBin s u (r - 2) (some { b with blocks := max b.blocks (nbits v 0 32) })
    | none => s

/-- A write of a context's registers; CXCMD gives a command (R397). What is written in SAVED stands in the hamper too (R399). -/
def ctxWrite (sec : Bool) (c r v : Nat) (s : State) : State :=
  if r == 1 then
    match nbits v 0 3 with
    | 1 => bodyFreeze c sec s
    | 2 => bodyThaw c sec s
    | 3 => bodySave c sec s
    | 4 => bodyRequeue c (nbits v 3 6) sec s
    | 5 => bodyKill c sec s
    | 6 => bodyGo c sec s
    | _ => s
  else saveReg c r (updCtx (if r == 9 then chargeStatic c s else s) c (ctxRegWrite r v))

/-- IMAGE_CACHE_FLUSH (R360, R479): every unpinned entry of the die leaves its image cache. -/
def bodyCacheFlush (d : Nat) (s : State) : State :=
  { s with yard := { s.yard with cache := s.yard.cache.filter fun e => e.die != d || pinned s e } }

/-- IMAGE_CACHE_FLUSH. -/
def execImageCacheFlush (d : Nat) (s : State) : Host.Outcome State Fault Refusal := done s (bodyCacheFlush d s)

/-- HOST_INTERRUPT (R479): an MSI-X vector is sent to the host. -/
def bodyHostInterrupt (v : Nat) (s : State) : State := { s with svc := { s.svc with hints := s.svc.hints ++ [v % 32] } }

/-- HOST_INTERRUPT. -/
def execHostInterrupt (v : Nat) (s : State) : Host.Outcome State Fault Refusal := done s (bodyHostInterrupt v s)

/-- INJECTION_ARM (R477): a write of EIJ. -/
def bodyInjection (d : Nat) (v : Word) (s : State) : State :=
  let n := v.toNat
  if d ≥ 8 then s
  else setInj s d { ik := nbits n 0 3, ibt := nbits n 3 6, ix := nbits n 9 8, iy := nbits n 17 7, iof := nbits n 24 20, iar := v.getLsbD 63 }

/-- INJECTION_ARM. -/
def execInjectionArm (d : Nat) (v : Word) (s : State) : Host.Outcome State Fault Refusal := done s (bodyInjection d v s)

/-- The reply that a write of MBRPL gives: the value stands in ARG0. -/
def replyWord (d v : Nat) (s : State) : State :=
  match fget none (dieReg s d).ring (nbits v 0 12) with
  | some e => bodyMailboxReply d (nbits v 0 12) (nbits v 12 8) (e.args.getD 0 0) s
  | none => s

/-- A write of an energy weight (R406), held as the value plus one. The cycles before a write of a static weight are charged at the old one (R403). -/
def setEw (s : State) (d k v : Nat) : State :=
  let s := if k < 10 then s else (s.ctxs.filter isResident).foldl (fun s x => chargeStatic x.id s) s
  { s with un := { s.un with ew := fset 0 s.un.ew (d * 16 + k) (nbits v 0 24 + 1) } }

/-- A write of a die's service registers (R479). -/
def dieWrite (d r v : Nat) (s : State) : State :=
  match r with
  | 0 => updDie s d fun k => { k with cause := k.cause &&& ~~~(BitVec.ofNat 8 v) }
  | 1 => updDie s d fun k => { k with en := BitVec.ofNat 8 v }
  | 2 => updDie s d fun k => { k with hart := nbits v 0 4 }
  | 3 => bodyHeadAdvance d (nbits v 0 12) s
  | 5 => replyWord d v s
  | 7 => if nbits v 0 1 == 1 then bodyCacheFlush d s else s
  | 8 =>
    let l := nbits v 63 1 == 1
    updDie s d fun k => { k with nsr := if k.wlkd then k.nsr else BitVec.ofNat 48 v, wlk := l, wlkd := k.wlkd || l }
  | 9 => updDie s d fun k => if k.wlkd then k else { k with bke := BitVec.ofNat 2 v }
  | 10 => bodyInjection d (BitVec.ofNat 64 v) s
  | n => if 11 ≤ n && n ≤ 22 then setEw s d (n - 11) v else s

/-- A write of the module's registers. -/
def moduleWrite (sec : Bool) (r v : Nat) (s : State) : State :=
  match r with
  | 0 => { s with tr := { s.tr with tlbia := nbits v 12 45 * 2 ^ 12 } }
  | 1 => bodyTlbInvalidate (BitVec.ofNat 64 v) sec s
  | 2 =>
    let l := nbits v 63 1 == 1
    { s with lk := { s.lk with mid := if s.lk.mlkd then s.lk.mid else nbits v 0 4, mlk := l, mlkd := s.lk.mlkd || l } }
  | 3 => bodyHostInterrupt (nbits v 0 5) s
  | _ => s

/-- A write of `RXPS` (R437, R438). -/
def rxpsWrite (sec : Bool) (p v : Nat) (s : State) : State :=
  let q := rxOf s p
  let s := updRx s p fun q => { q with rply := q.rply &&& (65535 - nbits v 12 16), pws := if q.plkd then q.pws else nbits v 30 1 == 1,
                                       plk := nbits v 63 1 == 1, plkd := q.plkd || nbits v 63 1 == 1 }
  let s := if q.pws == (rxOf s p).pws then s else flushOut s
  if nbits v 3 1 == 1 then bodyLinkEnable false p true s else if q.pen then bodyLinkDisable false p (sec || true) s else s

/-- A write of an Ethernet port's registers (R449). -/
def ethWrite (p r v : Nat) (s : State) : State :=
  match r with
  | 0 =>
    let q := ethOf s p
    let s := updEth s p fun q => { q with ertx := q.ertx &&& (65535 - nbits v 12 16), ews := if q.elkd then q.ews else nbits v 30 1 == 1,
                                          elk := nbits v 63 1 == 1, elkd := q.elkd || nbits v 63 1 == 1 }
    if nbits v 3 1 == 1 then bodyLinkEnable true p true s else if q.pen then bodyLinkDisable true p true s else s
  | 1 => updEth s p fun q => { q with mac := nbits v 0 48 }
  | n => updEth s p fun q => { q with gids := q.gids.set (n - 2) (BitVec.ofNat 64 v) }

/-- QUARANTINE_RELEASE (R460): with `STP` = 1 a quarantined unit returns to the wear stage it had. -/
def bodyQuarantineRelease (site : Nat) (s : State) : State :=
  updLife s site fun l => if l.ust == 4 && l.stp then { l with ust := l.kept, ufc := 0, stp := false, win := none } else l

/-- QUARANTINE_RELEASE. -/
def execQuarantineRelease (site : Nat) (s : State) : Host.Outcome State Fault Refusal := done s (bodyQuarantineRelease site s)

/-- A write of a lifetime record entry (R462): `UQC`, and `STP` cleared by a one. -/
def lifeWrite (site r v : Nat) (s : State) : State :=
  if r != 1 then s
  else
    let s := if nbits v 6 1 == 1 then bodyQuarantineRelease site s else s
    if nbits v 5 1 == 1 then updLife s site fun l => { l with stp := false } else s

/-- A write of a queue pair's registers (R449): `QST`, and the others only while the pair is in RESET. -/
def qpWrite (n r v : Nat) (s : State) : State :=
  let rst := qpSt (qpOf s n) == 0
  let w := BitVec.ofNat 64 v
  match r with
  | 0 =>
    let s := if rst then updQp s n fun k => { k with word := BitVec.ofNat 64 (nbits v 2 46 * 4 + qpSt k) } else s
    if nbits v 0 2 == qpSt (qpOf s n) then s else setQst n (nbits v 0 2) s
  | 1 => if rst then updQp s n fun k => { k with num := BitVec.ofNat 64 (nbits v 0 29) } else s
  | 2 => if rst then updQp s n fun k => { k with psn := BitVec.ofNat 64 (nbits v 0 48) } else s
  | 3 => if rst then updQp s n fun k => { k with gidl := w } else s
  | 4 => if rst then updQp s n fun k => { k with gidh := w } else s
  | _ => s

/-- A write of a storage channel (R446). -/
def chanWrite (c v : Nat) (s : State) : State :=
  { s with lk := { s.lk with chans := fset (BitVec.ofNat 64 (2 ^ 33)) s.lk.chans c (BitVec.ofNat 64 (nbits v 0 63)) } }

/-- A write of a receive window's registers (R449). -/
def winWrite (n r v : Nat) (s : State) : State :=
  let w := recvOf s n
  let w := match r with
    | 0 => { w with base := BitVec.ofNat 64 (nbits v 0 57) }
    | 1 => { w with len := BitVec.ofNat 64 (nbits v 0 57) }
    | _ => { w with ctl := BitVec.ofNat 64 (nbits v 0 11 + nbits v 32 32 * 2 ^ 32) }
  { s with lk := { s.lk with wins := fset winReset s.lk.wins n w } }

/-- A write of a fabric register (R478): nothing for a selector that the table does not assign, or to a register that the world of the
access does not reach or that is held in reset. -/
def regWrite (s : State) (sec : Bool) (sel : Nat) (w : Word) : State :=
  let i := selInst sel
  let r := selReg sel
  let v := w.toNat
  if (regRead s sel).isNone || (regSecure s sel && !sec) then s
  else match selClass sel with
  | 0x00 => if leftOut s (i / 2880) then s else cuWrite i r v s
  | 0x01 => if leftOut s (i / 2880) then s else muWrite i r v s
  | 0x02 => ctxWrite sec i r v s
  | 0x03 => queueRegWrite i sec r w s
  | 0x04 => asRegWrite i r v s
  | 0x05 => if leftOut s i then s else dieWrite i r v s
  | 0x06 => moduleWrite sec r v s
  | 0x07 => rxpsWrite sec i v s
  | 0x08 => lifeWrite i r v s
  | 0x09 => chanWrite i v s
  | 0x0A => qpWrite i r v s
  | 0x0B => bodyRegion i w s
  | 0x0C => ethWrite i r v s
  | 0x0D => winWrite i r v s
  | _ => s

/-- A write of a mailbox ring (R481): only argument 0 of a posted entry that is to be answered takes it. -/
def mboxWrite (off : Nat) (v : Word) (s : State) : State :=
  let d := off / 2 ^ 18
  let i := off % 2 ^ 18 / 64
  match fget none (dieReg s d).ring i with
  | some e =>
    if off % 64 == 16 && e.posted && e.svn != 0xFFFF then
      updDie s d fun k => { k with ring := fset none k.ring i (some { e with args := e.args.set 0 v }) }
    else s
  | none => s

/-- A write of a hart at a physical address (R478, R481): of a fabric register or of a mailbox ring. One of another size, or that is not
aligned, is ignored. -/
def hartWrite (sec : Bool) (a : Nat) (w : SizedWord) (s : State) : State :=
  if w.size != 8 || a % 8 != 0 || a < 0x2000000000 then s
  else if a < 0x2800000000 then regWrite s sec ((a - 0x2000000000) / 8) w.val
  else if a < 0x2800000000 + 8 * 0x40000 then mboxWrite (a - 0x2800000000) w.val s
  else s

/-- REGISTER_WRITE. -/
def execRegisterWrite (sec : Bool) (a : Nat) (w : SizedWord) (s : State) : Host.Outcome State Fault Refusal := done s (hartWrite sec a w s)

/-! ### SYSRD and SYSWR (R485) -/

/-- The whole register is read-only. -/
def regReadOnly (v : Nat) : Bool :=
  let r := selReg v
  match selClass v with
  | 0x00 => r == 2
  | 0x01 => r == 0
  | 0x02 => r == 11
  | 0x05 => r == 4 || r == 6
  | 0x08 => r == 0
  | _ => false

/-- The selector that a station's access names: a non-secure context's own CU, home MU and context stand for 0 (R485). -/
def stationSel (s : State) (F : Ready) (v : Nat) : Nat :=
  if isSecure (ctxOf s F.u.ctx) then v
  else
    let own := match selClass v with
      | 0x00 => physAt s (modPos s F.u)
      | 0x01 => physAt s (modPos s (muOf F.u))
      | _ => F.u.ctx
    v + own * 2 ^ 8

/-- A station may name the selector: a non-secure context only 0 of the classes 0x00 to 0x02. -/
def stationMay (s : State) (F : Ready) (v : Nat) : Bool := isSecure (ctxOf s F.u.ctx) || (selClass v ≤ 2 && selInst v == 0)

/-- The selector names no register. -/
def unassigned (s : State) (F : Ready) : Bool :=
  let v := F.l.val.toNat
  v ≥ 2 ^ 32 || (stationMay s F v && (regRead s (stationSel s F v)).isNone) || (!stationMay s F v && (regRead s v).isNone)

/-- SYSRD: the value and its status. -/
def sysrdVal (s : State) (F : Ready) : Nat × Nat :=
  let v := F.l.val.toNat
  if unassigned s F then (0, 2)
  else if !stationMay s F v then (0, 1)
  else ((regRead s (stationSel s F v)).getD 0, 0)

/-- SYSRD: a CU reads its own registers at once; any other access goes by the home MU. -/
def bodySysrd (f : Fields) (F : Ready) (s : State) : State :=
  let v := F.l.val.toNat
  if v < 2 ^ 32 && selClass v == 0 && !isSecure (ctxOf s F.u.ctx) then
    let r := sysrdVal s F
    emit F f.tb kValue (BitVec.ofNat 64 r.2) (emit F f.ta kValue (BitVec.ofNat 64 r.1) s)
  else sendReq (muOf F.u) (.sysrd f) F [] s

/-- SYSRD. -/
def execSysrd (f : Fields) (s : State) : Host.Outcome State Fault Refusal := runLanes (laneBoth f (bodySysrd f)) s

/-- SYSRD at the register's holder. -/
def performSysrd (q : Req) (s : State) : State :=
  let r := sysrdVal s q.c
  let f := reqFields q
  emit q.c f.tb kValue (BitVec.ofNat 64 r.2) (emit q.c f.ta kValue (BitVec.ofNat 64 r.1) s)

/-- The status of SYSWR: a non-secure context may write its own CU alone. -/
def syswrStatus (s : State) (F : Ready) : Nat :=
  let v := F.l.val.toNat
  if unassigned s F then 2
  else if !stationMay s F v || regReadOnly v || (!isSecure (ctxOf s F.u.ctx) && selClass v != 0) then 1
  else 0

/-- What SYSWR writes, where its status is 0. -/
def syswrDo (F : Ready) (v : Word) (s : State) : State :=
  if syswrStatus s F == 0 then regWrite s true (stationSel s F F.l.val.toNat) v else s

/-- SYSWR: a CU writes its own registers at once, after it has counted the issue; any other access goes by the home MU. -/
def bodySyswr (f : Fields) (F : Ready) (s : State) : State :=
  let v := F.l.val.toNat
  if v < 2 ^ 32 && selClass v == 0 && !isSecure (ctxOf s F.u.ctx) then
    emitBoth f F kValue (BitVec.ofNat 64 (syswrStatus s F)) (syswrDo F (rVal F) s)
  else sendReq (muOf F.u) (.syswr f) F [rVal F] s

/-- SYSWR. -/
def execSyswr (f : Fields) (s : State) : Host.Outcome State Fault Refusal := runLanes (laneBoth f (bodySyswr f)) s

/-- SYSWR at the register's holder. Its request acts last in its cycle (log entry 107). -/
def performSyswr (q : Req) (s : State) : State := syswrDo q.c (reqK q 0) (answer q (BitVec.ofNat 64 (syswrStatus s q.c)) s)

end Sys2Proof.Machine
end

