-- ==== Sys2Proof/Machine/Unit.lean ====
section
/-!
DEFINITION. Units, wear and redundancy (20): the error fence, the wear readings and the injection register, the wear account with the states
of units, retirement, and the exchange of digests between the copies of a REDUNDANT context. The lid temperatures of R29 stand here too.
-/

namespace Sys2Proof.Machine

open Sys2Proof

/-! ### ERRF (R475) -/

/-- ERRF: the question goes to the colour unit; its wait for the CU's earlier requests is a condition of issue. -/
def execErrf (f : Fields) (s : State) : Host.Outcome State Fault Refusal :=
  runLanes (laneBoth f (fun F s => sendReq (hubOf F.u) (.errf f) F [] s)) s

/-- ERRF at the colour unit: L to both targets by the `emit` of R11, or nothing while an error or a purge covers its colour. -/
def performErrf (q : Req) (s : State) : State :=
  let x := reqCtx s q
  if x.purges.any fun p => purgeCovers x p q.c.u.copy (fcol q.c) then s
  else
    let f := reqFields q
    let go (t : BitVec 12) (s : State) : State := emitFrom s q.mu q.c.u (fcol q.c) (fitr q.c) t kValue q.c.l.val false
    go f.tb (go f.ta s)

/-! ### WEARRD (R476) -/

/-- The paddock-relative site at L. -/
def wearSite (F : Ready) : Nat × Nat := (nbits F.l.val.toNat 0 8, nbits F.l.val.toNat 8 7)

/-- Bits [127:64] of a lifetime record entry (R462). -/
def lifeWord (l : Life) : Nat := l.ust + 2 ^ 3 * l.ufc + 2 ^ 5 * l.stp.toNat + 2 ^ 7 * l.usf

/-- The value of .LIFE or .STATE: 2^64 − 1 for a site that is not the issuing member's. -/
def wearVal (s : State) (f : Fields) (F : Ready) : Word :=
  let x := ctxOf s F.u.ctx
  let p := wearSite F
  if !(inPaddock x p.1 p.2 && onModule x p.1) then BitVec.allOnes 64
  else
    let l := lifeOf s (physAt s (modPos s (siteOf F.u p.1 p.2)))
    BitVec.ofNat 64 (if f.fn == 0 then l.lwear else lifeWord l)

/-- WEARRD at issue: .CHG asks the hub of the context. -/
def bodyWearrd (f : Fields) (F : Ready) (s : State) : State :=
  if f.fn == 2 then sendReq (hubOf F.u) (.wearrd f) F [] s else emitBoth f F kValue (wearVal s f F) s

/-- WEARRD. -/
def execWearrd (f : Fields) (s : State) : Host.Outcome State Fault Refusal := runLanes (laneBoth f (bodyWearrd f)) s

/-- WEARRD.CHG at the hub. -/
def performWearrd (q : Req) (s : State) : State := answer q (BitVec.ofNat 64 (reqCtx s q).wchg) s

/-! ### ERRINJ (R477) -/

/-- The unit that an injection word names, in the paddock of the firing. -/
def injUnit (F : Ready) : UId := siteOf F.u (nbits F.l.val.toNat 9 8) (nbits F.l.val.toNat 17 7)

/-- The site lies in the issuing member. -/
def injInside (s : State) (F : Ready) : Bool :=
  let x := ctxOf s F.u.ctx
  let n := F.l.val.toNat
  inPaddock x (nbits n 9 8) (nbits n 17 7) && onModule x (nbits n 9 8)

/-- The die whose register the firing arms: that of the site, or where the site is outside that of the firing. -/
def injDie (s : State) (F : Ready) : Nat := dieOf s (if injInside s F then injUnit F else F.u)

/-- The status of ERRINJ. -/
def injStatus (s : State) (F : Ready) : Nat :=
  let k := nbits F.l.val.toNat 0 3
  if (injOf s (injDie s F)).iar then 2
  else if k == 0 || k == 4 || k ≥ 6 || !injInside s F then 1
  else 0

/-- ERRINJ: the register takes the word with the site's absolute coordinates, those of its die (R7). -/
def bodyErrinj (f : Fields) (F : Ready) (s : State) : State :=
  if !isSecure (ctxOf s F.u.ctx) then raiseK F 0x1A s
  else
    let n := F.l.val.toNat
    let st := injStatus s F
    let p := diePos s (injUnit F)
    let t := if st == 0 then
        setInj s (injDie s F) { ik := nbits n 0 3, ibt := nbits n 3 6, ix := p.1, iy := p.2, iof := nbits n 24 20, iar := nbits n 63 1 == 1 }
      else s
    emitBoth f F kValue (BitVec.ofNat 64 st) t

/-- ERRINJ. -/
def execErrinj (f : Fields) (s : State) : Host.Outcome State Fault Refusal := runLanes (laneBoth f (bodyErrinj f)) s

/-! ### Wear (R459 to R465) -/

/-- 0.85 of the budget, in units of 2^−16 wear units (R461). -/
def derateAt : Nat := 17 * 10 ^ 10 * 2 ^ 16
/-- 0.97 of the budget. -/
def drainAt : Nat := 194 * 10 ^ 9 * 2 ^ 16

/-- The state of a unit after a threshold (R460). -/
def wearStage (l : Life) : Life :=
  if l.lwear ≥ drainAt && (l.ust ≤ 1 || l.ust == 4) then { l with ust := 2 }
  else if l.lwear ≥ derateAt && l.ust == 0 then { l with ust := 1 }
  else l

/-- A tick of a unit's wear at stress `n`: `LWEAR` with its hidden fraction (R461). -/
def wearLife (n : Nat) (l : Life) : Life :=
  let t := l.lwear * 16 + l.frac + n
  wearStage { l with usf := n, lwear := min (2 ^ 64 - 1) (t / 16), frac := t % 16, unflushed := l.unflushed + (t / 16 - l.lwear) }

/-- The tick charges the context (R463), whose `WCHG` stands on the first member of an outing. -/
def wearCharge (c n : Nat) (s : State) : State :=
  let t := fget 0 s.un.wfrac c + n
  let s := { s with un := { s.un with wfrac := fset 0 s.un.wfrac c (t % 16) } }
  let x := ctxOf s c
  if t / 16 == 0 then s
  else if hubHere x then updCtx s c fun x => { x with wchg := min (2 ^ 64 - 1) (x.wchg + t / 16) }
  else sendOut s x 0 (.msg (.wear c (t / 16)))

/-- The count from which the next tick of a unit is reckoned (R461): its last tick, or where its residence began later, that. -/
def tickBase (s : State) (x : Ctx) (p : Nat) : Nat := max (fget 0 s.un.wtick p) (s.clock - x.residence)

/-- WEAR_TICK: once 29 resident cycles have passed, a resident unit's monitors give its stress factor, a free value (log entry 63), and the unit adds it. -/
def bodyWearTick (u : UId) (s : State) : State :=
  let x := ctxOf s u.ctx
  let p := physAt s (modPos s u)
  let b := tickBase s x p + 29
  if !isResident x || !(unitsOf x).contains u || s.clock < b then s
  else
    let n := (Config.freeWord s.fresh).toNat % 256
    let t := wearCharge u.ctx n (updLife { s with fresh := s.fresh + 1, un := { s.un with wtick := fset 0 s.un.wtick p b } } p (wearLife n))
    if (lifeOf t p).ust == (lifeOf s p).ust then t else moveOff t

/-- WEAR_TICK. -/
def execWearTick (u : UId) (s : State) : Host.Outcome State Fault Refusal := done s (bodyWearTick u s)

/-- No resident context covers the physical row of a site (R18). -/
def rowFree (s : State) (site : Nat) : Bool :=
  let d := site / 2880
  let my := 48 * (d / 4) + site % 2880 / 60
  let mx := 56 * (d % 4)
  !s.ctxs.any fun x => holdsPlace x && x.place.any fun o => overlap x.pw x.ph o 14 1 { mx := mx, my := my }

/-- The unit of a site is RETIRED. -/
def retire (s : State) (site : Nat) : State := updLife s site fun l => { l with ust := 3 }

/-- UNIT_RETIRE (R18, R19, R465): the row's spare takes over the physical period, or where it is in use the unit becomes a hole. -/
def bodyUnitRetire (site : Nat) (s : State) : State :=
  let row := site / 60
  let kp := site % 60 / 4
  if site ≥ 23040 || (lifeOf s site).ust != 2 || !rowFree s site then s
  else if fget 15 s.un.remap row == 15 then
    (List.range 4).foldl (fun s k => retire s (row * 60 + 4 * kp + k))
      { s with un := { s.un with remap := fset 15 s.un.remap row kp } }
  else retire { s with un := { s.un with holes := s.un.holes ++ [site] } } site

/-- UNIT_RETIRE. -/
def execUnitRetire (site : Nat) (s : State) : Host.Outcome State Fault Refusal := done s (bodyUnitRetire site s)

/-- FAILURE_WINDOW_CLOSE (R466). -/
def bodyFailureWindow (site : Nat) (s : State) : State :=
  updLife s site fun l => if windowOver s l.win then { l with ufc := 0, win := none } else l

/-- FAILURE_WINDOW_CLOSE. -/
def execFailureWindowClose (site : Nat) (s : State) : Host.Outcome State Fault Refusal := done s (bodyFailureWindow site s)

/-- The units' counts stand in the record and in its mirror (R462). -/
def flushLife (s : State) : State :=
  (s.un.life.map fun e => e.1).foldl (fun s p => updLife s p fun l => { l with unflushed := 0 }) { s with un := { s.un with flushed := s.clock } }

/-- LIFETIME_FLUSH (R462): every 2^30 cycles the units flush their counts; at an orderly shutdown they do so with POWER_LOSS. -/
def bodyLifetimeFlush (s : State) : State :=
  if s.clock < s.un.flushed + 2 ^ 30 then s else flushLife s

/-- LIFETIME_FLUSH. -/
def execLifetimeFlush (s : State) : Host.Outcome State Fault Refusal := done s (bodyLifetimeFlush s)

/-! ### The exchange of digests (R470 to R472) -/

/-- A held firing is the twin's of another: the same site, station, iteration and spawn path in the other copy. -/
def isTwinOf (s : State) (a b : Twin) : Bool :=
  let x := ctxOf s a.f.u.ctx
  b.f.u.ctx == a.f.u.ctx && b.f.u.copy != a.f.u.copy && b.f.u.x == a.f.u.x && b.f.u.y == a.f.u.y && b.f.stn == a.f.stn
    && b.f.l.itr == a.f.l.itr && spawnPath x b.f.u.copy 4096 (fcol b.f) == spawnPath x a.f.u.copy 4096 (fcol a.f)

/-- A matched firing is ready again. -/
def matchedBy (a b : Twin) : Ready := { a.f with matched := true, pair := some (fcol b.f) }

/-- Digests meet: the two firings may issue, or both copies record the mismatch and neither operation is performed. -/
def meetTwins (a b : Twin) (s : State) : State :=
  let s := { s with un := { s.un with twins := (s.un.twins.erase a).erase b } }
  if a.digest == b.digest then returnReady (returnReady s (matchedBy b a)) (matchedBy a b)
  else trapErr (trapErr s a.f.u (fcol a.f) 0x13) b.f.u (fcol b.f) 0x13

/-- DIGEST_EXCHANGE: held firing number `n` and its twin's. -/
def bodyDigestExchange (n : Nat) (s : State) : State :=
  match s.un.twins[n]? with
  | none => s
  | some a =>
    match s.un.twins.find? (isTwinOf s a) with
    | none => s
    | some b => meetTwins a b s

/-- DIGEST_EXCHANGE. -/
def execDigestExchange (n : Nat) (s : State) : Host.Outcome State Fault Refusal := done s (bodyDigestExchange n s)

/-! ### Lid temperatures (R29) -/

/-- The die that interrupts for a lid: its own, or the first die for an I/O die (R29 names none for it: log entry 97). -/
def lidDie (s : State) (d : Nat) : Nat := if d < 8 then d else standIn s 0

/-- LID_OVER_LIMIT: the lids of some dies pass 80 °C. -/
def bodyLidOver (dies : List Nat) (s : State) : State :=
  dies.foldl (fun s d =>
    if d ≥ 10 || s.boot.hot.contains d then s
    else setCause { s with boot := { s.boot with hot := s.boot.hot ++ [d] } } (lidDie s d) 6) s

/-- LID_OVER_LIMIT. -/
def execLidOverLimit (dies : List Nat) (s : State) : Host.Outcome State Fault Refusal := done s (bodyLidOver dies s)

/-- LID_RESUME: the lids of some dies have fallen to 75 °C. -/
def execLidResume (dies : List Nat) (s : State) : Host.Outcome State Fault Refusal :=
  done s { s with boot := { s.boot with hot := s.boot.hot.filter fun d => !dies.contains d } }

end Sys2Proof.Machine
end

