-- ==== Sys2Proof/Machine/Startup.lean ====
section
/-!
DEFINITION. Start-up (22): the reset state, the six boot steps with the boot record, the thermal trip, the loss of power, diagnostic mode and the
attestation report; the retries of the Shenis channels (R432, R433); and the supervisor's writes to memory (R419).
-/

namespace Sys2Proof.Machine

open Sys2Proof

/-! ### The reset state (R487) -/

/-- A lifetime record entry after power or reset took the unit's registers: what was not flushed is lost (R462). -/
def keepLife (l : Life) : Life := { lifeRecord l with usf := 16 }

/-- The lifetime records of every site as a reset leaves them. -/
def keepLives (m : FMap Life) : FMap Life := (m.map fun e => (e.1, keepLife e.2)).filter fun e => e.2 != lifeReset

/-- What outlives a reset: the lifetime record with its remaps and holes, and the boot record, with their mirrors on I/O die 1 (R22); memory
keeps its bytes (log entry 64). -/
def resetState (s : State) : State :=
  { State.reset with
    clock := s.clock, agenda := s.agenda, fresh := s.fresh, mem := s.mem, mtag := s.mtag,
    un := { UnitState.empty with upsets := s.un.upsets, life := keepLives s.un.life, mirror := keepLives s.un.mirror,
                                 remap := s.un.remap, holes := s.un.holes, flushed := s.clock },
    boot := { BootState.empty with record := s.boot.record, mirror := s.boot.mirror, starts := s.boot.starts, meas := s.boot.meas, trip := s.boot.trip,
                                   diagreq := s.boot.diagreq, mhead := s.boot.mhead, hot := s.boot.hot, tripped := s.boot.tripped } }

/-- The mirror on I/O die 1 takes M, the trip flag and `DIAGREQ` as I/O die 0's record holds them (R492). -/
def putHead (s : State) : State :=
  { s with boot := { s.boot with mhead := { meas := s.boot.meas, trip := s.boot.trip, diagreq := s.boot.diagreq } } }

/-- A trip (R29, R487, R493): every die is held in reset; the trip is written, and no entry changed. -/
def bodyTrip (s : State) : State :=
  let t := resetState s
  putHead { t with boot := { t.boot with trip := true, tripped := [] } }

/-- THERMAL_TRIP. -/
def execThermalTrip (s : State) : Host.Outcome State Fault Refusal := .next (closeLoad s (bodyTrip s))

/-! ### The boot record (R492, R493) -/

/-- The key of an entry: its step, and its die or port. -/
def entKey (step n : Nat) : Nat := step * 1000 + n

/-- An entry that nothing has written. -/
def entReset : BootEnt := { bout := 0, balt := 0, bfail := 0, bseq := 0, meas := List.replicate 48 0 }

/-- An entry. -/
def entOf (s : State) (k : Nat) : BootEnt := fget entReset s.boot.record k

/-- Writes an entry: on I/O die 0, then in the mirror on I/O die 1 (R492). -/
def putEnt (s : State) (k : Nat) (e : BootEnt) : State :=
  { s with boot := { s.boot with record := fset entReset s.boot.record k e, mirror := fset entReset s.boot.mirror k e } }

/-- The copy of an entry that a start reads: that of the greater `BSEQ`, and I/O die 0's where they are equal (R492). -/
def readEnt (s : State) (k : Nat) : BootEnt :=
  let m := fget entReset s.boot.mirror k
  if m.bseq > (entOf s k).bseq then m else entOf s k

/-- An entry that a start finds at STARTED is FAILED (R493). -/
def settleEnt (e : BootEnt) : BootEnt := if e.bout == 1 then { e with bout := 3, bfail := min 65535 (e.bfail + 1) } else e

/-- The keys of the entries that either copy of the record holds. -/
def heldKeys (s : State) : List Nat := ((s.boot.record ++ s.boot.mirror).map fun e => e.1).eraseDups

/-- The greatest `BSEQ` of a copy of the record. -/
def lastStart (m : FMap BootEnt) : Nat := (m.map fun e => e.2.bseq).foldl max 0

/-- The mirror is the newer copy of the record. -/
def mirrorNewer (s : State) : Bool := lastStart s.boot.mirror > lastStart s.boot.record

/-- Every entry as a start finds it, in the copy that it reads, with M, the trip flag and `DIAGREQ` of the newer copy. -/
def settleRecord (s : State) : State :=
  let h := s.boot.mhead
  let s := if mirrorNewer s then { s with boot := { s.boot with meas := h.meas, trip := h.trip, diagreq := h.diagreq } } else s
  { s with boot := { s.boot with record := (heldKeys s).foldl (fun m k => fset entReset m k (settleEnt (readEnt s k))) [] } }

/-- A step begins: its entry is STARTED (R493). -/
def startEnt (s : State) (k : Nat) : State := putEnt s k { entOf s k with bout := 1, bseq := s.boot.starts, meas := s.boot.meas }

/-- A step ends: its entry is COMPLETE or FAILED. -/
def endStep (s : State) (k : Nat) (ok : Bool) (alt : Bool) : State :=
  let e := entOf s k
  let s := putEnt s k { bout := if ok then 2 else 3, balt := alt.toNat, bfail := if ok then 0 else min 65535 (e.bfail + 1),
                        bseq := s.boot.starts, meas := s.boot.meas }
  let rest := s.boot.tripped.filter (· != k)
  { s with boot := { s.boot with tripped := if ok then rest ++ [k] else rest } }

/-- An entry is COMPLETE and valid (R489). -/
def entValid (s : State) (k : Nat) : Bool :=
  (entOf s k).bout == 2 && (entOf s k).meas == s.boot.meas && s.boot.tripped.contains k

/-- The entry of the last start is FAILED. -/
def entFailed (s : State) (k : Nat) : Bool := (entOf s k).bout == 3

/-- M before a step (R491), from the digest of the step's firmware and configuration: the contents `fw` of the bundle that was accepted, none in
step 1, with the step's own bytes. -/
def measureStep (b : BootArg) (fw : List Byte) (step : Nat) (s : State) : State :=
  putHead { s with boot := { s.boot with meas := sha384 (s.boot.meas ++ sha384 (fw ++ b.steps.getD (step - 1) [])) } }

/-- The start is cut short in this entry's step before the entry ends. -/
def cutAt (b : BootArg) (step n : Nat) : Bool := b.cut.any fun c => c.step == step && c.ents.contains n

/-- The start is cut short in this step. -/
def cutIn (b : BootArg) (step : Nat) : Bool := b.cut.any fun c => c.step == step

/-- The entries that a cut leaves at STARTED: those that had begun and that are not skipped. -/
def cutEnts (b : BootArg) (s : State) (c : BootCut) : List Nat :=
  (c.ents.map (entKey c.step)).filter fun k => !((c.step == 5 && entValid s k) || (c.step == 2 && entValid s k && b.memCheck.contains (k - 2000)))

/-- The start ends in this step (R493): by a trip, or by a loss of power, where it is a free value whether the mirror was written too, the second
write of R492 (log entry 99). -/
def cutOff (b : BootArg) (s : State) : State :=
  match b.cut with
  | none => s
  | some c =>
    let t := (cutEnts b s c).foldl startEnt s
    if c.trip then bodyTrip t
    else
      let t := { t with fresh := s.fresh + 1 }
      resetState (if (Config.freeWord s.fresh).getLsbD 0 then t else { t with boot := { t.boot with mirror := s.boot.mirror } })

/-! ### The steps (R488) -/

/-- A bundle that the boot ROM accepts (R490). -/
def bundleOk (b : Bundle) : Bool :=
  sha384 b.key == Config.keyHashFuse && b.digest == sha384 (b.kernelKey ++ b.contents) && ecdsaOk b.key b.digest b.sig

/-- The bundle that step 1 takes: the ROM's copy, or else the mirror. -/
def bootBundle (b : BootArg) : Option Bundle := if bundleOk b.rom then some b.rom else if bundleOk b.mirror then some b.mirror else none

/-- The module halts. -/
def halt (s : State) : State := { s with boot := { s.boot with halted := true, dies := [] } }

/-- A die's memory (step 2): whether the die goes on, and the record. -/
def bootMem (b : BootArg) (s : State) (d : Nat) : State :=
  let k := entKey 2 d
  let on (s : State) : State := { s with boot := { s.boot with dies := s.boot.dies ++ [d] } }
  if entFailed s k && (entOf s k).balt == 1 then s
  else if entValid s k && b.memCheck.contains d then on s
  else
    let alt := entFailed s k
    let ok := if alt then b.memAlt.contains d else b.mem.contains d
    if cutAt b 2 d then s
    else if ok then on (endStep s k ok alt) else endStep s k ok alt

/-- A unit that fails its self-test is quarantined, keeping its wear stage (R460, R466). -/
def failTest (s : State) (site : Nat) : State :=
  updLife s site fun l => if l.ust ≤ 1 then { l with ust := 4, kept := l.ust, stp := false }
                          else if l.ust == 4 then { l with stp := false } else l

/-- The units of a die after the self-test: a quarantined one that passes has `STP`. -/
def testUnits (b : BootArg) (s : State) (d : Nat) : State :=
  let bad := b.badUnits.filter fun p => p / 2880 == d
  let good := (s.un.life.filter fun e => e.1 / 2880 == d && e.2.ust == 4 && !bad.contains e.1).map fun e => e.1
  bad.foldl failTest (good.foldl (fun s p => updLife s p fun l => { l with stp := true }) s)

/-- A die's self-test (step 3): a die that failed it at the last start, or fails now, is left out; the others are released. The dies that remain
are those of `boot.dies`: by what means the module reports them the manual does not say (log entry 98). -/
def bootTest (b : BootArg) (s : State) (d : Nat) : State :=
  let k := entKey 3 d
  let out (s : State) : State := { s with boot := { s.boot with dies := s.boot.dies.filter (· != d) } }
  if entFailed s k then out s
  else if cutAt b 3 d then s
  else
    let s := testUnits b s d
    if b.dies.contains d then
      let s := endStep s k true false
      { s with svc := { s.svc with released := fset 0 s.svc.released d s.clock } }
    else out (endStep s k false false)

/-- The channels of a Shenis edge (R432): direction 0 is the east edge of a die, 1 its north edge. -/
def isChannel (e : Nat × Nat × Nat) : Bool :=
  (e.2.1 == 0 && e.1 < 8 && e.1 % 4 < 3 && e.2.2 < 48) || (e.2.1 == 1 && e.1 < 4 && e.2.2 < 60)

/-- A port comes to what its training comes to. -/
def bringPort (p : Nat) (alt : Bool) (e : TrainEnd) (s : State) : State :=
  if p < 144 then
    bodyTrainingComplete false p e (updRx s p fun q => { q with pen := true, hlf := alt, lst := .training, since := s.clock })
  else
    bodyTrainingComplete true (p - 144) e (updEth s (p - 144) fun q => { q with pen := true, ealt := alt, lst := .training, since := s.clock })

/-- The port is up. -/
def portUsable (s : State) (p : Nat) : Bool := if p < 144 then linkUsable (rxOf s p).lst else linkUsable (ethOf s (p - 144)).lst

/-- A port that the firmware enables (step 5). One that is skipped comes up as its entry records. -/
def bootPort (a : BootArg) (s : State) (b : PortBoot) : State :=
  let k := entKey 5 b.port
  if b.port ≥ 152 then s
  else if entValid s k then
    let alt := (entOf s k).balt == 1
    let e := if alt then b.alt else b.main
    bringPort b.port alt { e with lanes := max 1 e.lanes, sec := (rxOf s b.port).pws } s
  else if cutAt a 5 b.port then s
  else
    let alt := entFailed s k
    let s := bringPort b.port alt (if alt then b.alt else b.main) s
    endStep s k (portUsable s b.port) alt

/-- Step 6: the supervisor is installed, or the module halts. -/
def bootLoad (b : BootArg) (k : Bundle) (s : State) : State :=
  let s := measureStep b k.contents 6 s
  if cutIn b 6 then cutOff b s
  else if !b.load then halt (endStep s (entKey 6 0) false false)
  else
    let s := endStep s (entKey 6 0) true false
    b.setup.foldl (fun s e => regWrite s true (e.1 % 2 ^ 32) e.2) { s with boot := { s.boot with key := k.kernelKey } }

/-- Step 5, and what follows it: step 6, or diagnostic mode (R494). -/
def bootLast (b : BootArg) (k : Bundle) (s : State) : State :=
  let s := b.ports.foldl (bootPort b) (measureStep b k.contents 5 s)
  if cutIn b 5 then cutOff b s
  else if s.boot.diagreq then putHead { s with boot := { s.boot with diagreq := false }, yard := { s.yard with diag := true } }
  else bootLoad b k s

/-- Steps 2 to 6. -/
def bootSteps (b : BootArg) (k : Bundle) (s : State) : State :=
  let s := (List.range 8).foldl (bootMem b) (measureStep b k.contents 2 s)
  if cutIn b 2 then cutOff b s
  else
    let s := s.boot.dies.foldl (bootTest b) (measureStep b k.contents 3 s)
    if cutIn b 3 then cutOff b s
    else
      let s := measureStep b k.contents 4 s
      if cutIn b 4 then cutOff b s
      else bootLast b k (endStep { s with lk := { s.lk with shenisDown := b.badChannels.filter isChannel } } (entKey 4 0) true false)

/-- The start's count, and M of its first step. -/
def beginStart (b : BootArg) (s : State) : State :=
  measureStep b [] 1 { s with boot := { s.boot with starts := (s.boot.starts + 1) % 2 ^ 32, meas := List.replicate 48 0 } }

/-- A start (R488): after a trip it waits until every lid is cool. -/
def bootStart (b : BootArg) (s : State) : State :=
  let s := resetState s
  if s.boot.trip && (!b.cool || !s.boot.hot.isEmpty) then s
  else
    let s := beginStart b (settleRecord s)
    if cutIn b 1 then cutOff b s
    else match bootBundle b with
    | none => halt (endStep s (entKey 1 0) false false)
    | some k => bootSteps b k (endStep s (entKey 1 0) true false)

/-- POWER_ON_RESET. -/
def execPowerOnReset (b : BootArg) (s : State) : Host.Outcome State Fault Refusal := .next (closeLoad s (bootStart b s))

/-- DIAGREQ (R494): a secure supervisor asks for diagnostic mode at the next start. -/
def execDiagreq (sec : Bool) (s : State) : Host.Outcome State Fault Refusal :=
  done s (if sec then putHead { s with boot := { s.boot with diagreq := true } } else s)

/-- The bytes of an entry (R492). -/
def entBytes (e : BootEnt) : List Byte :=
  leBytes e.bout 1 ++ leBytes e.balt 1 ++ leBytes e.bfail 2 ++ leBytes e.bseq 4 ++ e.meas ++ leBytes 0 8

/-- The keys of the record, by step. -/
def recordKeys : List Nat :=
  [entKey 1 0] ++ (List.range 8).map (entKey 2) ++ (List.range 8).map (entKey 3) ++ [entKey 4 0] ++ (List.range 152).map (entKey 5)
    ++ [entKey 6 0]

/-- M, the boot record and a nonce (R491). -/
def reportBody (s : State) (nonce : List Byte) : List Byte :=
  s.boot.meas ++ (recordKeys.flatMap fun k => entBytes (entOf s k)) ++ leBytes (s.boot.trip.toNat + 2 * s.boot.diagreq.toNat) 1 ++ nonce

/-- The report's signature under the device identity key. -/
def signReport (bs : List Byte) : List Byte :=
  ecdsaSign (Config.deviceKey % (n384 - 1) + 1) (Config.signNonce bs % (n384 - 1) + 1) (sha384 bs)

/-- ATTESTATION_REPORT: the report, signed with the device identity key, which a running supervisor obtains in machine mode. -/
def bodyReport (q : ReportArg) (s : State) : State :=
  if !q.mach || s.boot.halted || s.boot.dies.isEmpty then s
  else { s with boot := { s.boot with report := reportBody s q.nonce ++ signReport (reportBody s q.nonce) } }

/-- ATTESTATION_REPORT. -/
def execAttestationReport (q : ReportArg) (s : State) : Host.Outcome State Fault Refusal := done s (bodyReport q s)

/-- POWER_LOSS (R462, R493): wear since the last flush is lost, which at an orderly shutdown is none. A loss of power in a boot step is a start that
is cut short. -/
def execPowerLoss (orderly : Bool) (s : State) : Host.Outcome State Fault Refusal :=
  .next (closeLoad s (resetState (if orderly then flushLife s else s)))

/-! ### Shenis channels (R432, R433) -/

/-- The key of a channel. -/
def chanKey (e : Nat × Nat × Nat) : Nat := (e.1 * 2 + e.2.1) * 64 + e.2.2

/-- A channel goes DOWN: it stays so until reset, the failure is recorded, and every resident context that covers it is killed. -/
def channelDown (e : Nat × Nat × Nat) (s : State) : State :=
  let k := entKey 4 0
  let r := entOf s k
  let s := putEnt { s with lk := { s.lk with shenisDown := s.lk.shenisDown ++ [e] } } k
    { r with bout := 3, bfail := min 65535 (r.bfail + 1), bseq := s.boot.starts, meas := s.boot.meas }
  let hit (x : Ctx) : Bool := isResident x && x.place.any fun o => crossesChannel s (sitesOver x.pw x.ph o) e
  (s.ctxs.filter hit).foldl (fun s x => killCtx s x.id 0x16) s

/-- SHENIS_FLIT_RETRY: a retry of a channel's flit passes or fails; the eighth failure takes the channel DOWN. -/
def bodyShenisRetry (d dir ch : Nat) (ok : Bool) (s : State) : State :=
  let e := (d, dir, ch)
  let n := fget 0 s.lk.shenisRetry (chanKey e) + 1
  if !isChannel e || s.lk.shenisDown.contains e then s
  else if ok then { s with lk := { s.lk with shenisRetry := fset 0 s.lk.shenisRetry (chanKey e) 0 } }
  else if n ≥ 8 then channelDown e { s with lk := { s.lk with shenisRetry := fset 0 s.lk.shenisRetry (chanKey e) 0 } }
  else { s with lk := { s.lk with shenisRetry := fset 0 s.lk.shenisRetry (chanKey e) n } }

/-- SHENIS_FLIT_RETRY. -/
def execShenisFlitRetry (d dir ch : Nat) (ok : Bool) (s : State) : Host.Outcome State Fault Refusal := done s (bodyShenisRetry d dir ch ok s)

/-! ### The supervisor's memory writes (R419) -/

/-- SUPERVISOR_MEMORY_WRITE: bytes at a physical address, and line tags; nothing where no memory is. -/
def bodySupervisorWrite (loc : Nat) (bytes : List Byte) (tags : List (Nat × BitVec 16)) (s : State) : State :=
  let s := if loc + bytes.length ≤ 2 ^ 52 && backedRange loc bytes.length then wrBytes s loc bytes else s
  (tags.filter fun e => e.1 < 2 ^ 51 && backed e.1).foldl (fun s e => setLineTag s e.1 e.2) s

/-- SUPERVISOR_MEMORY_WRITE. -/
def execSupervisorMemoryWrite (loc : Nat) (bytes : List Byte) (tags : List (Nat × BitVec 16)) (s : State) : Host.Outcome State Fault Refusal :=
  done s (bodySupervisorWrite loc bytes tags s)

end Sys2Proof.Machine
end

