-- ==== Sys2Proof/Machine/Request.lean ====
section
/-!
DEFINITION. The request port of an MU (06 R188): what a request does where it is performed; and the command queue of its copy unit, with
the acceptance and the start of copies, streams, fibre units and I/O commands (09 R234, R238).
-/

namespace Sys2Proof.Machine

open Sys2Proof

/-- A command of the copy unit (R234): it enters the command queue. -/
def isCommand : Instr → Bool
  | .send _ => true | .sendRing _ => true | .sendr _ => true | .sendkChain _ => true | .sendkLast _ => true | .copy _ => true | .copyo _ => true
  | .stream _ => true | .streamw _ => true | .fscan _ => true | .fisect _ => true | .funion _ => true | .gath _ => true | .femit _ => true
  | .ioread _ => true | .ioreadRing _ => true | .iowrite _ => true | .netsend _ => true
  | _ => false

/-- The requests of 07: loads, stores, lines, write-once words and atomics. -/
def performMemory (q : Req) (s : State) : Option State :=
  match q.i with
  | .ld _ => some (performLd q s) | .st _ => some (performSt q s) | .lds _ => some (performLds q s) | .sts _ => some (performSts q s)
  | .gld _ => some (performGld q s) | .ldl _ => some (performLdl q s) | .stl _ => some (performStl q s)
  | .ltagGet _ => some (performLtagGet q s) | .ltagSet _ => some (performLtagSet q s)
  | .isRd _ => some (performIsRd q s) | .isWr _ => some (performIsWr q s) | .isClr _ => some (performIsClr q s)
  | .pfch _ => some (performPfch q s)
  | .aadd _ => some (performAtomic q s) | .aaddth _ => some (performAtomic q s) | .amin _ => some (performAtomic q s)
  | .amax _ => some (performAtomic q s) | .aand _ => some (performAtomic q s) | .aor _ => some (performAtomic q s)
  | .axor _ => some (performAtomic q s) | .axchg _ => some (performAtomic q s) | .acas _ => some (performAtomic q s)
  | .afadd _ => some (performAtomic q s) | .await _ => some (performAwait q s)
  | _ => none

/-- The requests of 08 to 10: barriers, rings, copy status and the closing of streams. -/
def performSync (q : Req) (s : State) : Option State :=
  match q.i with
  | .barInit _ => some (performBarInit q s) | .barArrive _ => some (performBarArrive q s) | .barExpect _ => some (performBarExpect q s)
  | .barWait _ => some (performBarWait q s) | .barTest _ => some (performBarTest q s) | .barDrop _ => some (performBarDrop q s)
  | .barRetire _ => some (performBarRetire q s)
  | .ringInit _ => some (performRingInit q s) | .ringAwait _ => some (performRingAwait q s)
  | .ringRelease _ => some (performRingRelease q s) | .ringStat _ => some (performRingStat q s)
  | .ringRetire _ => some (performRingRetire q s) | .ringBind _ => some (performRingBind q s)
  | .sclose _ => some (performSclose q s) | .cstat _ => some (performCstat q s)
  | _ => none

/-- The requests of the later chapters: maps, bins, colours, capabilities, launches, registers and readings. -/
def performOther (q : Req) (s : State) : State :=
  match q.i with
  | .tmap _ => performTmap q s | .tdot _ => performTdot q s | .bwld _ => performBwld q s
  | .binOpen _ => performBinOpen q s | .binPut _ => performBinPut q s | .binPutMap _ => performBinPutMap q s
  | .binPlay _ => performBinPlay q s | .binClose _ => performBinClose q s | .mpath _ => performMpath q s
  | .colourNew _ => performColourNew q s | .colourArg _ => performColourArg q s | .colourRet _ => performColourRet q s
  | .colourEnd _ => performColourEnd q s
  | .capAlloc _ => performCapAlloc q s | .capNarrow _ => performCapNarrow q s | .capFree _ => performCapFree q s
  | .capInfo _ => performCapInfo q s
  | .launch _ => performLaunch q s | .netrecvBind _ => performNetrecvBind q s | .netrecvUnbind _ => performNetrecvUnbind q s
  | .sysrd _ => performSysrd q s | .syswr _ => performSyswr q s
  | .enrd _ => performEnrd q s | .wearrd _ => performWearrd q s | .errf _ => performErrf q s
  | _ => s

/-- A request is performed; commands and service calls have their own way. The MU's capability checker holds what a memory access used (R204). -/
def performReq (q : Req) (s : State) : State :=
  match performMemory q (capTouch s q.mu (fcol q.c) q.c.l.val) with
  | some t => t
  | none => (performSync q s).getD (performOther q s)

/-- A command enters the queue, or after the stop of its context's end is dropped as a copy FAILED(5) (R369, R393). -/
def queueCommand (q : Req) (s : State) : State :=
  let x := reqCtx s q
  if x.cst == .draining && !x.freezing then updCtx s x.id fun x => { x with fcp := min 255 (x.fcp + 1) }
  else { s with cp := { s.cp with queue := s.cp.queue ++ [q] } }

/-- The request port of an MU stands still: its retry buffer or its command queue is full (R225, R234), or an entry of the retry buffer is
ready for the bank, which it reaches first (R188, R225). -/
def portBlocked (s : State) (m : UId) : Bool :=
  (s.cp.retry.filter fun r => r.req.mu == m).length ≥ 16 || (s.cp.queue.filter fun r => r.mu == m).length ≥ 16
    || s.cp.retry.any fun r => r.req.mu == m && r.due && barsRun (reqCtx s r.req)

/-- The oldest request of an MU leaves its port (R188). -/
def bodyMuRequest (m : UId) (s : State) : State :=
  match s.mu.reqs.find? fun q => q.mu == m with
  | none => s
  | some q =>
    let t := { s with mu := { s.mu with reqs := s.mu.reqs.erase q } }
    if portBlocked s m then s
    else if isCommand q.i then queueCommand q t
    else match q.i with
      | .svcCall _ => (let r := performSvc q t; if r.1 then r.2 else s)
      | .svcArg _ => (let r := performSvc q t; if r.1 then r.2 else s)
      | _ => performReq q t

/-- MU_REQUEST. -/
def execMuRequest (m : UId) (s : State) : Host.Outcome State Fault Refusal := done s (bodyMuRequest m s)

/-- The acceptance of a command (R234, R235, R238, R252, R335, R446). -/
def acceptCommand (q : Req) (s : State) : State :=
  match q.i with
  | .copy _ => acceptCopy q (acceptMap q s) s
  | .copyo _ => acceptCopy q (acceptMap q s) s
  | .stream _ => acceptStreaming q (acceptStream q s) s
  | .streamw _ => acceptStreaming q (acceptStreamw q s) s
  | .fscan _ => acceptFibre q (acceptFscan q s) s
  | .fisect _ => acceptFibre q (acceptMerge q s) s
  | .funion _ => acceptFibre q (acceptMerge q s) s
  | .gath _ => acceptFibre q (acceptGath q s) s
  | .femit _ => acceptFibre q (acceptFemit q s) s
  | .ioread _ => acceptIoCommand q s
  | .ioreadRing _ => acceptIoCommand q s
  | .iowrite _ => acceptIoCommand q s
  | .netsend _ => acceptIoCommand q s
  | _ => acceptCopy q (acceptPush q s) s

/-- The source ranges that the acceptance of a command commits (R172), where no check refuses it: the bytes that a push, an IOWRITE or a NETSEND
reads, the mapped elements of COPY and STREAM, the dense image of COPYO, the segments of a fibre unit. -/
def sourceRanges (q : Req) (s : State) : List (Word × Nat) :=
  let bytes (r : Except FaultInfo Copy) : List (Word × Nat) := match r with | .ok p => [(p.src, p.len)] | .error _ => []
  let rows (r : Except FaultInfo Copy) : List (Word × Nat) := match r with | .ok p => p.maps.flatMap mapRows | .error _ => []
  let fibres (r : Except FaultInfo Copy) : List (Word × Nat) := match r with | .ok p => fibreRanges q.i p | .error _ => []
  match q.i with
  | .send _ => bytes (acceptPush q s) | .sendRing _ => bytes (acceptPush q s) | .sendr _ => bytes (acceptPush q s)
  | .sendkChain _ => bytes (acceptPush q s) | .sendkLast _ => bytes (acceptPush q s)
  | .copy _ => rows (acceptMap q s) | .copyo _ => bytes (acceptMap q s) | .stream _ => rows (acceptStream q s)
  | .iowrite _ => bytes (acceptIo q s) | .netsend _ => bytes (acceptIo q s)
  | .fscan _ => fibres (acceptFscan q s) | .gath _ => fibres (acceptGath q s)
  | .fisect _ => fibres (acceptMerge q s) | .funion _ => fibres (acceptMerge q s)
  | _ => []

/-- The command at the head of an MU's queue is accepted while its table has room and its paddock runs (R234, R245), and once its source
ranges may commit. -/
def bodyCopyAccept (m : UId) (s : State) : State :=
  match s.cp.queue.find? fun q => q.mu == m with
  | none => s
  | some q =>
    if !isRunning (reqCtx s q) || (reqCtx s q).freezing || tableFull s m then s
    else match sourceWaits q.c (sourceRanges q s) s with
    | some t => t
    | none => acceptCommand q { s with cp := { s.cp with queue := s.cp.queue.erase q } }

/-- COPY_ACCEPT. -/
def execCopyAccept (m : UId) (s : State) : Host.Outcome State Fault Refusal := done s (bodyCopyAccept m s)

/-- A copy obtains its resources and goes on (R238). -/
def bodyCopyStart (m : UId) (id : Nat) (s : State) : State :=
  match copyOf s m id with
  | none => s
  | some p => if isChunkCopy p.i || holdsData s p then startChunks p s else if isIoCommand p.i then startIo p s else startStream p s

/-- COPY_START. -/
def execCopyStart (m : UId) (id : Nat) (s : State) : Host.Outcome State Fault Refusal := done s (bodyCopyStart m id s)

end Sys2Proof.Machine
end

