-- ==== Sys2Proof/Machine/Page.lean ====
section
/-!
DEFINITION. What ends a wait for translation (18): page walks (R417), invalidations (R420), and the transfers of host regions (R183, R423).
-/

namespace Sys2Proof.Machine

open Sys2Proof

/-! ### Walks (R417) -/

/-- The request is a PFCH. -/
def isPfch : Instr → Bool
  | .pfch _ => true | _ => false

/-- A walk returns: its leaf fills both TLBs and the request goes on, or it faults at the level where it met `V` = 0. -/
def walkReturn (w : Walk) (s : State) : State :=
  let s := if rootUnbacked s w.as then setCause s (dieOf s w.mu) 3 else s
  let s := noteRead s w.mu (fcol w.req.c) (walkUpset s w.as w.va)
  match walkPage s w.as w.va with
  | .leaf l lvl => performReq { w.req with walked := some (w.va, lvl) } (l1Put (l2Put s (dieOf s w.mu) l) w.mu l)
  | .absent lvl =>
    if isPfch w.req.i then reply w.req 1 s
    else raise w.req.c { kind := 0x01, lvl := lvl, va := BitVec.ofNat 64 w.va } s

/-- Walk number `n` completes. -/
def bodyWalkComplete (n : Nat) (s : State) : State :=
  match s.tr.walks[n]? with
  | none => s
  | some w => walkReturn w { s with tr := { s.tr with walks := s.tr.walks.eraseIdx n } }

/-- TLB_WALK_COMPLETE. -/
def execTlbWalkComplete (n : Nat) (s : State) : Host.Outcome State Fault Refusal := done s (bodyWalkComplete n s)

/-! ### Invalidations (R420) -/

/-- A leaf stays through an invalidation. -/
def leafStays (t : Trans) (l : Leaf) : Bool :=
  let (as, sc, va) := t.invRun
  match sc with
  | 0 => !(l.as == as && l.vbase ≤ va && va < l.vbase + l.size)
  | 1 => l.as != as
  | 2 => false
  | _ => true

/-- The leaves of every TLB that stay. -/
def dropLeaves (t : Trans) : Trans :=
  let keep (m : FMap (List Leaf)) : FMap (List Leaf) :=
    (m.map fun e => (e.1, e.2.filter (leafStays t))).filter fun e => !e.2.isEmpty
  { t with l1 := keep t.l1, l2 := keep t.l2, io := keep t.io }

/-- Entries still to commit under a translation of the page (R420, R421). -/
def heldEntries (s : State) : Nat :=
  let (as, _, va) := s.tr.invRun
  (s.mu.pbuf.filter fun e => match e.page with
    | some p => p.as == as && p.base ≤ va && va < p.base + p.size
    | none => false).length

/-- The written root and range table of an address space take effect (R413): a scope of the space takes both, and reloads the ranges
where their table has moved; RANGES reloads them in any case (R414). -/
def refreshSpace (sc as : Nat) (s : State) : State :=
  let a := asOf s as
  let moved := a.effRbase != a.rbase
  let s := asUpd s as fun a => { a with effRoot := if sc ≤ 2 then a.root else a.effRoot, effRbase := a.rbase }
  if sc == 3 || moved then reloadRanges s as else s

/-- The address spaces that an invalidation of a scope concerns. -/
def scopeSpaces (s : State) : List Nat :=
  match s.tr.invRun.2.1 with
  | 0 => []
  | 2 => s.tr.spaces.map fun e => e.1
  | _ => [s.tr.invRun.1]

/-- An invalidation in progress finishes: `BSY` clears, and after scope 0 `HELD` is reported. -/
def bodyInvalidateComplete (s : State) : State :=
  if !s.tr.invBusy then s
  else
    let sc := s.tr.invRun.2.1
    let held := if sc == 0 then min 65535 (heldEntries s) else s.tr.invHeld
    let t := (scopeSpaces s).foldl (fun t as => refreshSpace sc as t) s
    { t with tr := { dropLeaves t.tr with invBusy := false, invHeld := held } }

/-- INVALIDATE_COMPLETE. -/
def execInvalidateComplete (s : State) : Host.Outcome State Fault Refusal := done s (bodyInvalidateComplete s)

/-! ### Host regions (R183, R423) -/

/-- A held access that is still to be made: a station's, or that of an engine which has not ended. -/
def heldLive (s : State) (h : HeldHost) : Bool :=
  match h.eng with
  | none => true
  | some id =>
    (s.cp.copies.any fun p => p.mu == h.req.mu && p.id == id && p.st != .failed && p.st != .complete)
      || s.mu.reqs.contains h.req || (s.cp.puts.any fun u => u.req == h.req)
      || (s.cp.bins.any fun e => match e.2 with | some b => b.play == some h.req.c | none => false)

/-- Some access is held on a region. -/
def regionHeld (s : State) (n : Nat) : Bool := s.tr.heldHost.any fun h => h.region == n && heldLive s h

/-- The accesses held on a region proceed in arrival order. That of an engine passes when the engine next acts; it stays listed until then, so
that no host access that came later goes first. -/
def freeHeld (n : Nat) (s : State) : State :=
  let hs := s.tr.heldHost.filter fun h => h.region == n && h.eng.isNone
  hs.foldl (fun s h => performReq h.req s)
    { s with tr := { s.tr with heldHost := s.tr.heldHost.filter fun h => !(h.region == n && h.eng.isNone) } }

/-- An entry for a host region. -/
def inRegion (n : Nat) (e : PbEntry) : Bool := e.host && regionOf e.loc == n

/-- A host access takes a region from the device: every buffered entry for it commits at once, that of a REDUNDANT context once its digests
agree (R375), and the transfer begins. No commit begins in a frozen paddock (R179): while one holds an entry for the region, the access waits. -/
def snoopRegion (n : Nat) (s : State) : State :=
  if s.ctxs.any fun x => x.cst == .frozen && s.mu.pbuf.any fun e => e.mu.ctx == x.id && inRegion n e then
    updRegion s n fun r => { r with snoop := true }
  else
    let s := (s.ctxs.filter isResident).foldl (fun s x => boundary s x.id (inRegion n)) s
    updRegion s n fun r => { r with own := .toHost, since := s.clock, snoop := false }

/-- HOST_FLUSH_COMPLETE: the device owns the region and the held accesses proceed; a host access that waits takes it back after them, when
no frozen paddock keeps it. -/
def bodyHostFlush (n : Nat) (s : State) : State :=
  match findRegion s n with
  | none => s
  | some r =>
    if r.own == .toDevice || (r.own == .device && (r.snoop || regionHeld s n)) then
      let s := freeHeld n (updRegion s n fun r => { r with own := .device, since := s.clock, snoop := false })
      if !r.snoop then s
      else if regionHeld s n then updRegion s n fun r => { r with snoop := true }
      else snoopRegion n s
    else s

/-- HOST_FLUSH_COMPLETE. -/
def execHostFlushComplete (n : Nat) (s : State) : Host.Outcome State Fault Refusal := done s (bodyHostFlush n s)

/-- HOST_SNOOP: a back-invalidation snoop of a region. -/
def bodyHostSnoop (n : Nat) (s : State) : State :=
  match findRegion s n with
  | none => s
  | some r =>
    match r.own with
    | .device => snoopRegion n s
    | .toDevice => updRegion s n fun r => { r with snoop := true }
    | .host => s
    | .toHost => s

/-- HOST_SNOOP. -/
def execHostSnoop (n : Nat) (s : State) : Host.Outcome State Fault Refusal := done s (bodyHostSnoop n s)

/-- REGION_COMMIT_COMPLETE: the host owns the region; a device access held meanwhile raises the device transfer. -/
def bodyRegionCommit (n : Nat) (s : State) : State :=
  match findRegion s n with
  | none => s
  | some r =>
    if r.own == .toHost then updRegion s n fun r => { r with own := if regionHeld s n then .toDevice else .host, since := s.clock }
    else s

/-- REGION_COMMIT_COMPLETE. -/
def execRegionCommitComplete (n : Nat) (s : State) : Host.Outcome State Fault Refusal := done s (bodyRegionCommit n s)

/-- The pointer that a held access presented (R427). -/
def heldVa (q : Req) : Word :=
  match q.i with
  | .ld _ => reqPtr q
  | .st _ => reqPtr q
  | _ => q.c.l.val

/-- A held access faults: a station's firing, a copy, a put of the binning engine, or another engine. -/
def timeoutHeld (s : State) (h : HeldHost) : State :=
  let e : FaultInfo := { kind := 0x15, fks := h.region, va := heldVa h.req }
  match h.eng with
  | none => raise h.req.c e s
  | some id =>
    match (copyOf s h.req.mu id).filter fun p => p.c == h.req.c with
    | some p => copyFault p e s
    | none =>
      if s.mu.reqs.contains h.req then raise h.req.c e { s with mu := { s.mu with reqs := s.mu.reqs.erase h.req } }
      else match s.cp.puts.find? fun u => u.req == h.req with
      | some u => putFault u e s
      | none => raiseEngine h.req.c 0 e s

/-- OWNERSHIP_TIMEOUT: a device transfer that has not completed in 2^22 cycles gives the region back, and the held accesses fault. -/
def bodyOwnershipTimeout (n : Nat) (s : State) : State :=
  match findRegion s n with
  | none => s
  | some r =>
    if r.own != .toDevice || s.clock < r.since + 2 ^ 22 then s
    else
      let hs := s.tr.heldHost.filter fun h => h.region == n
      let t := { s with tr := { s.tr with heldHost := s.tr.heldHost.filter fun h => h.region != n } }
      hs.foldl timeoutHeld (updRegion t n fun r => { r with own := .host, since := s.clock, snoop := false })

/-- OWNERSHIP_TIMEOUT. -/
def execOwnershipTimeout (n : Nat) (s : State) : Host.Outcome State Fault Refusal := done s (bodyOwnershipTimeout n s)

end Sys2Proof.Machine
end

