-- ==== Sys2Proof/Machine/Token.lean ====
section
/-!
DEFINITION. The token steering, loop and tag instructions, opcodes 0x00 to 0x0F (03 R80 to R96).
-/

namespace Sys2Proof.Machine

open Sys2Proof

/-! ### Steering (R81 to R90) -/

/-- NOP (R81): it never issues, so a firing of it has no effect. -/
def execNop (_f : Fields) (s : State) : Host.Outcome State Fault Refusal := runLanes (fun _ t => t) s

/-- MOVE (R82): L with its own kind to both targets; R62 applies to P alone. -/
def laneMove (f : Fields) (F : Ready) (s : State) : State :=
  laneOf true true f (settleOver F.p.toList (falseP F)) (fun F s => emitTok f F F.l s) F s
/-- MOVE. -/
def execMove (f : Fields) (s : State) : Host.Outcome State Fault Refusal := runLanes (laneMove f) s

/-- CONST (R83): the immediate, or a K register. -/
def laneConst (f : Fields) (F : Ready) (s : State) : State :=
  laneBoth f (fun F s => emitBoth f F kValue (if f.fn == 0 then f.imm.signExtend 64 else kreg s F.u (fld f 0 6)) s) F s
/-- CONST. -/
def execConst (f : Fields) (s : State) : Host.Outcome State Fault Refusal := runLanes (laneConst f) s

/-- The kind of the right operand: that of its token, a value for a K register or an immediate. -/
def rightKind (F : Ready) : BitVec 3 := (F.r.map fun t => t.kind).getD kValue

/-- STEER (R84): L goes to TA when the control is not 0, to TB when it is; the untaken target gets a null unless .NN. -/
def laneSteer (f : Fields) (F : Ready) (s : State) : State :=
  let k := rightKind F
  let v := rightOp f F s
  if k == kEof then emitBoth f F kEof v s
  else if k == kNull then emitBoth f F kNull 0 s
  else if v != 0 then
    let s := emit F f.ta F.l.kind F.l.val s
    if f.fn == 0 then emit F f.tb kNull 0 s else s
  else
    let s := if f.fn == 0 then emit F f.ta kNull 0 s else s
    emit F f.tb F.l.kind F.l.val s
/-- STEER. -/
def execSteer (f : Fields) (s : State) : Host.Outcome State Fault Refusal := runLanes (laneSteer f) s

/-- MERGE (R85): the first of L, R that is not null. -/
def laneMerge (f : Fields) (F : Ready) (s : State) : State :=
  match (F.l :: F.r.toList).find? fun t => !isNull t with
  | some t => emitTok f F t s
  | none => emitBoth f F kNull 0 s
/-- MERGE. -/
def execMerge (f : Fields) (s : State) : Host.Outcome State Fault Refusal := runLanes (laneMerge f) s

/-- SELECT (R86): L or R by the selector P, which is no predicate. -/
def laneSelect (f : Fields) (F : Ready) (s : State) : State :=
  match F.p with
  | none => s
  | some p =>
    if isNull p || isEof p then emitTok f F p s
    else if p.val != 0 then emitTok f F F.l s
    else emitBoth f F (rightKind F) (rightOp f F s) s
/-- SELECT. -/
def execSelect (f : Fields) (s : State) : Host.Outcome State Fault Refusal := runLanes (laneSelect f) s

/-- GATE (R87): L once R has arrived. -/
def laneGate (f : Fields) (F : Ready) (s : State) : State := laneBoth f (fun F s => emitTok f F F.l s) F s
/-- GATE. -/
def execGate (f : Fields) (s : State) : Host.Outcome State Fault Refusal := runLanes (laneGate f) s

/-- JOIN (R88): the number of operands that are not null. -/
def laneJoin (f : Fields) (F : Ready) (s : State) : State :=
  emitBoth f F kValue (BitVec.ofNat 64 ((F.l :: F.r.toList).filter fun t => !isNull t).length) s
/-- JOIN. -/
def execJoin (f : Fields) (s : State) : Host.Outcome State Fault Refusal := runLanes (laneJoin f) s

/-- NULLS and NULLS.TEST (R89). -/
def laneNulls (f : Fields) (F : Ready) (s : State) : State :=
  if f.fn == 0 then emitBoth f F kNull 0 s
  else emit F f.tb F.l.kind F.l.val (emit F f.ta kValue (truth (isNull F.l)) s)
/-- NULLS. -/
def execNulls (f : Fields) (s : State) : Host.Outcome State Fault Refusal := runLanes (laneNulls f) s

/-- SINK (R90): L is consumed and no orphan. -/
def execSink (_f : Fields) (s : State) : Host.Outcome State Fault Refusal := runLanes (fun _ t => t) s

/-! ### Loops (R91 to R94) -/

/-- Emits L with its kind under another iteration to both targets. -/
def emitIter (f : Fields) (F : Ready) (itr : Nat) (s : State) : State :=
  let s := emitFrom s F.u F.u (fcol F) itr f.ta F.l.kind F.l.val false
  emitFrom s F.u F.u (fcol F) itr f.tb F.l.kind F.l.val false

/-- Replaces the frame of a station and colour, or frees it. -/
def setFrame (s : State) (r : Frame) (r' : Option Frame) : State :=
  let rest := s.fab.frames.filter fun x => !(x.u == r.u && x.stn == r.stn && x.col == r.col)
  { s with fab := { s.fab with frames := rest ++ r'.toList } }

/-- A frame is freed when E exits have fired and BASE > EXITN (R71). -/
def keepFrame (r : Frame) : Option Frame :=
  match r.exitn with
  | some n => if r.exits ≥ r.e && r.base > n then none else some r
  | none => some r

/-- ITER.ENTER (R91). A null keeps its tag and makes no frame; the wait for a frame is a condition of issue. -/
def laneIterEnter (f : Fields) (F : Ready) (s : State) : State :=
  if isNull F.l then emitBoth f F kNull 0 s
  else
    let r : Frame := { u := F.u, stn := F.stn, col := fcol F, outer := fitr F, w := fld f 0 9, e := fld f 9 3 + 1, base := 0,
                       head := 0, retired := 0, exitn := none, exits := 0 }
    emitIter f F 0 { s with fab := { s.fab with frames := s.fab.frames ++ [r] } }
/-- ITER.ENTER. -/
def execIterEnter (f : Fields) (s : State) : Host.Outcome State Fault Refusal := runLanes (laneIterEnter f) s

/-- The frame that an ITER station names (R71). -/
def namedFrame (f : Fields) (F : Ready) (s : State) : Option Frame := frameOf s F.u (fld f 0 7) (fcol F)

/-- The frame of a NEXT firing and its full iteration, from BASE to HEAD (R92); none where it faults. -/
def liveIter (f : Fields) (F : Ready) (s : State) : Option (Frame × Nat) :=
  match namedFrame f F s with
  | none => none
  | some r =>
    match fullIter r (fitr F) with
    | none => none
    | some k => if k < r.base || k > r.head then none else some (r, k)

/-- ITER.NEXT.STEP (R92). -/
def laneIterNextStep (f : Fields) (F : Ready) (s : State) : State :=
  match liveIter f F s with
  | none => raiseK F 0x0E s
  | some (r, k) =>
    if isNull F.l then s
    else emitIter f F ((k + 1) % 65536) (setFrame s r (some { r with head := max r.head (k + 1) }))
/-- ITER.NEXT.STEP. -/
def execIterNextStep (f : Fields) (s : State) : Host.Outcome State Fault Refusal := runLanes (laneIterNextStep f) s

/-- Advances BASE past retired iterations (R92). -/
def advanceBase : Nat → Frame → Frame
  | 0, r => r
  | n + 1, r => if r.retired.getLsbD 0 then advanceBase n { r with base := r.base + 1, retired := r.retired >>> 1 } else r

/-- ITER.NEXT.DONE (R92): any kind retires its iteration, once. -/
def laneIterNextDone (f : Fields) (F : Ready) (s : State) : State :=
  match liveIter f F s with
  | none => raiseK F 0x0E s
  | some (r, k) =>
    if r.retired.getLsbD (k - r.base) then raiseK F 0x0E s
    else setFrame s r (keepFrame (advanceBase 256 { r with retired := r.retired ||| (1#256 <<< (k - r.base)) }))
/-- ITER.NEXT.DONE. -/
def execIterNextDone (f : Fields) (s : State) : Host.Outcome State Fault Refusal := runLanes (laneIterNextDone f) s

/-- ITER.EXIT (R93). -/
def laneIterExit (f : Fields) (F : Ready) (s : State) : State :=
  if isNull F.l then s
  else match namedFrame f F s with
  | none => raiseK F 0x0E s
  | some r =>
    match fullIter r (fitr F) with
    | none => raiseK F 0x0E s
    | some k =>
      if (r.exitn.any fun n => n != k) || r.exits + 1 > r.e then raiseK F 0x0E s
      else emitIter f F r.outer (setFrame s r (keepFrame { r with exitn := some k, exits := r.exits + 1 }))
/-- ITER.EXIT. -/
def execIterExit (f : Fields) (s : State) : Host.Outcome State Fault Refusal := runLanes (laneIterExit f) s

/-- ITER.IDX (R94). -/
def laneIterIdx (f : Fields) (F : Ready) (s : State) : State :=
  laneBoth f (fun F s =>
    match namedFrame f F s with
    | none => raiseK F 0x0E s
    | some r =>
      match fullIter r (fitr F) with
      | none => raiseK F 0x0E s
      | some k => emitBoth f F kValue (BitVec.ofNat 64 k) s) F s
/-- ITER.IDX. -/
def execIterIdx (f : Fields) (s : State) : Host.Outcome State Fault Refusal := runLanes (laneIterIdx f) s

/-! ### Tags (R95, R96) -/

/-- TAG.GET (R95). -/
def laneTagGet (f : Fields) (F : Ready) (s : State) : State :=
  laneBoth f (fun F s => emitBoth f F kValue (BitVec.ofNat 64 (fitr F + 2 ^ 16 * fcol F + 2 ^ 28 * F.u.ctx)) s) F s
/-- TAG.GET. -/
def execTagGet (f : Fields) (s : State) : Host.Outcome State Fault Refusal := runLanes (laneTagGet f) s

/-- The iteration that TAG.SET writes (R96). -/
def newItr (f : Fields) (F : Ready) (s : State) : Nat :=
  match f.src with
  | .immd => fld f 0 16
  | _ => (rightOp f F s).toNat % 65536

/-- TAG.SET (R96): L keeps its kind; R62 applies to R and P. -/
def laneTagSet (f : Fields) (F : Ready) (s : State) : State :=
  laneOf true true f (settleOver (F.r.toList ++ F.p.toList) (falseP F)) (fun F s => emitIter f F (newItr f F s) s) F s
/-- TAG.SET. -/
def execTagSet (f : Fields) (s : State) : Host.Outcome State Fault Refusal := runLanes (laneTagSet f) s

end Sys2Proof.Machine
end

