-- ==== Sys2Proof/Machine/Dispatch.lean ====
section
/-!
DEFINITION. One arm for each step of the opcode table: the call of its meaning.
-/

namespace Sys2Proof.Machine

open Sys2Proof

/-- The meaning of one step. -/
def exec (i : Instr) (s : State) : Host.Outcome State Fault Refusal :=
  match i with
  | .nop f => Sys2Proof.Machine.execNop f s
  | .move f => Sys2Proof.Machine.execMove f s
  | .const f => Sys2Proof.Machine.execConst f s
  | .steer f => Sys2Proof.Machine.execSteer f s
  | .merge f => Sys2Proof.Machine.execMerge f s
  | .select f => Sys2Proof.Machine.execSelect f s
  | .gate f => Sys2Proof.Machine.execGate f s
  | .join f => Sys2Proof.Machine.execJoin f s
  | .nulls f => Sys2Proof.Machine.execNulls f s
  | .sink f => Sys2Proof.Machine.execSink f s
  | .iterEnter f => Sys2Proof.Machine.execIterEnter f s
  | .iterNextStep f => Sys2Proof.Machine.execIterNextStep f s
  | .iterNextDone f => Sys2Proof.Machine.execIterNextDone f s
  | .iterExit f => Sys2Proof.Machine.execIterExit f s
  | .iterIdx f => Sys2Proof.Machine.execIterIdx f s
  | .tagGet f => Sys2Proof.Machine.execTagGet f s
  | .tagSet f => Sys2Proof.Machine.execTagSet f s
  | .colourNew f => Sys2Proof.Machine.execColourNew f s
  | .colourArg f => Sys2Proof.Machine.execColourArg f s
  | .colourRet f => Sys2Proof.Machine.execColourRet f s
  | .colourEnd f => Sys2Proof.Machine.execColourEnd f s
  | .svcCall f => Sys2Proof.Machine.execSvcCall f s
  | .svcArg f => Sys2Proof.Machine.execSvcArg f s
  | .yield f => Sys2Proof.Machine.execYield f s
  | .exit f => Sys2Proof.Machine.execExit f s
  | .trap f => Sys2Proof.Machine.execTrap f s
  | .brk f => Sys2Proof.Machine.execBrk f s
  | .errf f => Sys2Proof.Machine.execErrf f s
  | .grpId f => Sys2Proof.Machine.execGrpId f s
  | .grpSize f => Sys2Proof.Machine.execGrpSize f s
  | .cfgWStn f => Sys2Proof.Machine.execCfgWStn f s
  | .cfgWK f => Sys2Proof.Machine.execCfgWK f s
  | .cfgWReconf f => Sys2Proof.Machine.execCfgWReconf f s
  | .kset f => Sys2Proof.Machine.execKset f s
  | .launch f => Sys2Proof.Machine.execLaunch f s
  | .kget f => Sys2Proof.Machine.execKget f s
  | .add f => Sys2Proof.Machine.execAdd f s
  | .sub f => Sys2Proof.Machine.execSub f s
  | .addc f => Sys2Proof.Machine.execAddc f s
  | .subb f => Sys2Proof.Machine.execSubb f s
  | .mul f => Sys2Proof.Machine.execMul f s
  | .mulc f => Sys2Proof.Machine.execMulc f s
  | .div f => Sys2Proof.Machine.execDiv f s
  | .rem f => Sys2Proof.Machine.execRem f s
  | .min f => Sys2Proof.Machine.execMin f s
  | .max f => Sys2Proof.Machine.execMax f s
  | .abs f => Sys2Proof.Machine.execAbs f s
  | .neg f => Sys2Proof.Machine.execNeg f s
  | .and f => Sys2Proof.Machine.execAnd f s
  | .or f => Sys2Proof.Machine.execOr f s
  | .xor f => Sys2Proof.Machine.execXor f s
  | .andn f => Sys2Proof.Machine.execAndn f s
  | .not f => Sys2Proof.Machine.execNot f s
  | .shl f => Sys2Proof.Machine.execShl f s
  | .shr f => Sys2Proof.Machine.execShr f s
  | .sar f => Sys2Proof.Machine.execSar f s
  | .rot f => Sys2Proof.Machine.execRot f s
  | .clz f => Sys2Proof.Machine.execClz f s
  | .popc f => Sys2Proof.Machine.execPopc f s
  | .brev f => Sys2Proof.Machine.execBrev f s
  | .bfx f => Sys2Proof.Machine.execBfx f s
  | .bfi f => Sys2Proof.Machine.execBfi f s
  | .cmp f => Sys2Proof.Machine.execCmp f s
  | .ext f => Sys2Proof.Machine.execExt f s
  | .addsat f => Sys2Proof.Machine.execAddsat f s
  | .aidx f => Sys2Proof.Machine.execAidx f s
  | .hash f => Sys2Proof.Machine.execHash f s
  | .fadd f => Sys2Proof.Machine.execFadd f s
  | .fsub f => Sys2Proof.Machine.execFsub f s
  | .fmul f => Sys2Proof.Machine.execFmul f s
  | .ffma f => Sys2Proof.Machine.execFfma f s
  | .fmin f => Sys2Proof.Machine.execFmin f s
  | .fmax f => Sys2Proof.Machine.execFmax f s
  | .fabs f => Sys2Proof.Machine.execFabs f s
  | .fneg f => Sys2Proof.Machine.execFneg f s
  | .fcmp f => Sys2Proof.Machine.execFcmp f s
  | .fclass f => Sys2Proof.Machine.execFclass f s
  | .fcvt f => Sys2Proof.Machine.execFcvt f s
  | .ftoi f => Sys2Proof.Machine.execFtoi f s
  | .itof f => Sys2Proof.Machine.execItof f s
  | .frnd f => Sys2Proof.Machine.execFrnd f s
  | .fdiv f => Sys2Proof.Machine.execFdiv f s
  | .fsqrt f => Sys2Proof.Machine.execFsqrt f s
  | .frcp f => Sys2Proof.Machine.execFrcp f s
  | .frsq f => Sys2Proof.Machine.execFrsq f s
  | .fexp2 f => Sys2Proof.Machine.execFexp2 f s
  | .flog2 f => Sys2Proof.Machine.execFlog2 f s
  | .fsin f => Sys2Proof.Machine.execFsin f s
  | .fcos f => Sys2Proof.Machine.execFcos f s
  | .ftanh f => Sys2Proof.Machine.execFtanh f s
  | .fdot2 f => Sys2Proof.Machine.execFdot2 f s
  | .fscale f => Sys2Proof.Machine.execFscale f s
  | .quant f => Sys2Proof.Machine.execQuant f s
  | .deq f => Sys2Proof.Machine.execDeq f s
  | .ld f => Sys2Proof.Machine.execLd f s
  | .st f => Sys2Proof.Machine.execSt f s
  | .ldl f => Sys2Proof.Machine.execLdl f s
  | .stl f => Sys2Proof.Machine.execStl f s
  | .ltagGet f => Sys2Proof.Machine.execLtagGet f s
  | .ltagSet f => Sys2Proof.Machine.execLtagSet f s
  | .isRd f => Sys2Proof.Machine.execIsRd f s
  | .isWr f => Sys2Proof.Machine.execIsWr f s
  | .isClr f => Sys2Proof.Machine.execIsClr f s
  | .pfch f => Sys2Proof.Machine.execPfch f s
  | .phase f => Sys2Proof.Machine.execPhase f s
  | .fence f => Sys2Proof.Machine.execFence f s
  | .capAlloc f => Sys2Proof.Machine.execCapAlloc f s
  | .capFree f => Sys2Proof.Machine.execCapFree f s
  | .capNarrow f => Sys2Proof.Machine.execCapNarrow f s
  | .capInfo f => Sys2Proof.Machine.execCapInfo f s
  | .gld f => Sys2Proof.Machine.execGld f s
  | .lds f => Sys2Proof.Machine.execLds f s
  | .sts f => Sys2Proof.Machine.execSts f s
  | .poolPart f => Sys2Proof.Machine.execPoolPart f s
  | .aadd f => Sys2Proof.Machine.execAadd f s
  | .amin f => Sys2Proof.Machine.execAmin f s
  | .amax f => Sys2Proof.Machine.execAmax f s
  | .aand f => Sys2Proof.Machine.execAand f s
  | .aor f => Sys2Proof.Machine.execAor f s
  | .axor f => Sys2Proof.Machine.execAxor f s
  | .axchg f => Sys2Proof.Machine.execAxchg f s
  | .acas f => Sys2Proof.Machine.execAcas f s
  | .afadd f => Sys2Proof.Machine.execAfadd f s
  | .aaddth f => Sys2Proof.Machine.execAaddth f s
  | .await f => Sys2Proof.Machine.execAwait f s
  | .barInit f => Sys2Proof.Machine.execBarInit f s
  | .barArrive f => Sys2Proof.Machine.execBarArrive f s
  | .barExpect f => Sys2Proof.Machine.execBarExpect f s
  | .barWait f => Sys2Proof.Machine.execBarWait f s
  | .barTest f => Sys2Proof.Machine.execBarTest f s
  | .barDrop f => Sys2Proof.Machine.execBarDrop f s
  | .barRetire f => Sys2Proof.Machine.execBarRetire f s
  | .ringInit f => Sys2Proof.Machine.execRingInit f s
  | .ringAwait f => Sys2Proof.Machine.execRingAwait f s
  | .ringRelease f => Sys2Proof.Machine.execRingRelease f s
  | .ringStat f => Sys2Proof.Machine.execRingStat f s
  | .ringRetire f => Sys2Proof.Machine.execRingRetire f s
  | .ringBind f => Sys2Proof.Machine.execRingBind f s
  | .send f => Sys2Proof.Machine.execSend f s
  | .sendRing f => Sys2Proof.Machine.execSendRing f s
  | .sendr f => Sys2Proof.Machine.execSendr f s
  | .sendkChain f => Sys2Proof.Machine.execSendkChain f s
  | .sendkLast f => Sys2Proof.Machine.execSendkLast f s
  | .copy f => Sys2Proof.Machine.execCopy f s
  | .copyo f => Sys2Proof.Machine.execCopyo f s
  | .stream f => Sys2Proof.Machine.execStream f s
  | .streamw f => Sys2Proof.Machine.execStreamw f s
  | .sclose f => Sys2Proof.Machine.execSclose f s
  | .cstat f => Sys2Proof.Machine.execCstat f s
  | .ioread f => Sys2Proof.Machine.execIoread f s
  | .ioreadRing f => Sys2Proof.Machine.execIoreadRing f s
  | .iowrite f => Sys2Proof.Machine.execIowrite f s
  | .netsend f => Sys2Proof.Machine.execNetsend f s
  | .netrecvBind f => Sys2Proof.Machine.execNetrecvBind f s
  | .netrecvUnbind f => Sys2Proof.Machine.execNetrecvUnbind f s
  | .tmap f => Sys2Proof.Machine.execTmap f s
  | .tfill f => Sys2Proof.Machine.execTfill f s
  | .ttagBind f => Sys2Proof.Machine.execTtagBind f s
  | .ttagFull f => Sys2Proof.Machine.execTtagFull f s
  | .ttagEmpty f => Sys2Proof.Machine.execTtagEmpty f s
  | .ttagStat f => Sys2Proof.Machine.execTtagStat f s
  | .mma f => Sys2Proof.Machine.execMma f s
  | .mmas f => Sys2Proof.Machine.execMmas f s
  | .mmag f => Sys2Proof.Machine.execMmag f s
  | .mmar f => Sys2Proof.Machine.execMmar f s
  | .wld f => Sys2Proof.Machine.execWld f s
  | .accz f => Sys2Proof.Machine.execAccz f s
  | .accrd f => Sys2Proof.Machine.execAccrd f s
  | .tcvt f => Sys2Proof.Machine.execTcvt f s
  | .tred f => Sys2Proof.Machine.execTred f s
  | .texp f => Sys2Proof.Machine.execTexp f s
  | .ttrn f => Sys2Proof.Machine.execTtrn f s
  | .tdot f => Sys2Proof.Machine.execTdot f s
  | .bfly f => Sys2Proof.Machine.execBfly f s
  | .bfch f => Sys2Proof.Machine.execBfch f s
  | .sdset f => Sys2Proof.Machine.execSdset f s
  | .bwld f => Sys2Proof.Machine.execBwld f s
  | .bperm f => Sys2Proof.Machine.execBperm f s
  | .bfsc f => Sys2Proof.Machine.execBfsc f s
  | .binOpen f => Sys2Proof.Machine.execBinOpen f s
  | .binPut f => Sys2Proof.Machine.execBinPut f s
  | .binPutMap f => Sys2Proof.Machine.execBinPutMap f s
  | .binPlay f => Sys2Proof.Machine.execBinPlay f s
  | .binClose f => Sys2Proof.Machine.execBinClose f s
  | .mpath f => Sys2Proof.Machine.execMpath f s
  | .fscan f => Sys2Proof.Machine.execFscan f s
  | .fisect f => Sys2Proof.Machine.execFisect f s
  | .funion f => Sys2Proof.Machine.execFunion f s
  | .femit f => Sys2Proof.Machine.execFemit f s
  | .gath f => Sys2Proof.Machine.execGath f s
  | .sysrd f => Sys2Proof.Machine.execSysrd f s
  | .syswr f => Sys2Proof.Machine.execSyswr f s
  | .enrd f => Sys2Proof.Machine.execEnrd f s
  | .wearrd f => Sys2Proof.Machine.execWearrd f s
  | .ctxid f => Sys2Proof.Machine.execCtxid f s
  | .cyc f => Sys2Proof.Machine.execCyc f s
  | .errinj f => Sys2Proof.Machine.execErrinj f s
  | .diag f => Sys2Proof.Machine.execDiag f s
  | .tokenHop a0 a1 => Sys2Proof.Machine.execTokenHop a0 a1 s
  | .tokenArrival a0 a1 => Sys2Proof.Machine.execTokenArrival a0 a1 s
  | .spillProbeDone a0 => Sys2Proof.Machine.execSpillProbeDone a0 s
  | .configTokenArrival a0 => Sys2Proof.Machine.execConfigTokenArrival a0 s
  | .configTokenApply a0 => Sys2Proof.Machine.execConfigTokenApply a0 s
  | .muRequest a0 => Sys2Proof.Machine.execMuRequest a0 s
  | .globalAtomicPerform a0 a1 => Sys2Proof.Machine.execGlobalAtomicPerform a0 a1 s
  | .phaseBoundaryComplete a0 a1 a2 a3 => Sys2Proof.Machine.execPhaseBoundaryComplete a0 a1 a2 a3 s
  | .activationReleaseComplete a0 a1 a2 => Sys2Proof.Machine.execActivationReleaseComplete a0 a1 a2 s
  | .errorSurface a0 a1 => Sys2Proof.Machine.execErrorSurface a0 a1 s
  | .barrierCredit a0 => Sys2Proof.Machine.execBarrierCredit a0 s
  | .barrierCompletion a0 a1 => Sys2Proof.Machine.execBarrierCompletion a0 a1 s
  | .barrierRelease a0 a1 => Sys2Proof.Machine.execBarrierRelease a0 a1 s
  | .barrierRetry a0 => Sys2Proof.Machine.execBarrierRetry a0 s
  | .copyAccept a0 => Sys2Proof.Machine.execCopyAccept a0 s
  | .copyStart a0 a1 => Sys2Proof.Machine.execCopyStart a0 a1 s
  | .chunkApply a0 a1 => Sys2Proof.Machine.execChunkApply a0 a1 s
  | .chunkBusyResend a0 a1 => Sys2Proof.Machine.execChunkBusyResend a0 a1 s
  | .chunkAck a0 a1 => Sys2Proof.Machine.execChunkAck a0 a1 s
  | .copyRelease a0 => Sys2Proof.Machine.execCopyRelease a0 s
  | .copyAckTimeout a0 a1 => Sys2Proof.Machine.execCopyAckTimeout a0 a1 s
  | .streamElement a0 a1 => Sys2Proof.Machine.execStreamElement a0 a1 s
  | .streamwToken a0 a1 => Sys2Proof.Machine.execStreamwToken a0 a1 s
  | .ringReservation a0 a1 => Sys2Proof.Machine.execRingReservation a0 a1 s
  | .ringSlotReturn a0 a1 => Sys2Proof.Machine.execRingSlotReturn a0 a1 s
  | .ringBindRequest a0 => Sys2Proof.Machine.execRingBindRequest a0 s
  | .ringBindReply a0 => Sys2Proof.Machine.execRingBindReply a0 s
  | .tfillComplete a0 a1 => Sys2Proof.Machine.execTfillComplete a0 a1 s
  | .arrayOpEnd a0 => Sys2Proof.Machine.execArrayOpEnd a0 s
  | .mmarPassComplete a0 => Sys2Proof.Machine.execMmarPassComplete a0 s
  | .binUpdateAppend a0 a1 => Sys2Proof.Machine.execBinUpdateAppend a0 a1 s
  | .binReplayStart a0 a1 => Sys2Proof.Machine.execBinReplayStart a0 a1 s
  | .binReplayRegion a0 a1 => Sys2Proof.Machine.execBinReplayRegion a0 a1 s
  | .binReplayEnd a0 a1 => Sys2Proof.Machine.execBinReplayEnd a0 a1 s
  | .fibrePosition a0 a1 => Sys2Proof.Machine.execFibrePosition a0 a1 s
  | .femitToken a0 a1 => Sys2Proof.Machine.execFemitToken a0 a1 s
  | .kernelHeaderRead a0 => Sys2Proof.Machine.execKernelHeaderRead a0 s
  | .kernelVerified a0 => Sys2Proof.Machine.execKernelVerified a0 s
  | .kernelLoadComplete a0 => Sys2Proof.Machine.execKernelLoadComplete a0 s
  | .drainComplete a0 => Sys2Proof.Machine.execDrainComplete a0 s
  | .queueCreate a0 a1 => Sys2Proof.Machine.execQueueCreate a0 a1 s
  | .queueDestroy a0 a1 => Sys2Proof.Machine.execQueueDestroy a0 a1 s
  | .queueEnable a0 a1 => Sys2Proof.Machine.execQueueEnable a0 a1 s
  | .queueDisable a0 a1 => Sys2Proof.Machine.execQueueDisable a0 a1 s
  | .queueSuspend a0 a1 => Sys2Proof.Machine.execQueueSuspend a0 a1 s
  | .queueResume a0 a1 => Sys2Proof.Machine.execQueueResume a0 a1 s
  | .queueTailWrite a0 a1 a2 => Sys2Proof.Machine.execQueueTailWrite a0 a1 a2 s
  | .queueHeadSkip a0 a1 a2 => Sys2Proof.Machine.execQueueHeadSkip a0 a1 a2 s
  | .headWaitRegister a0 => Sys2Proof.Machine.execHeadWaitRegister a0 s
  | .yardDecision a0 => Sys2Proof.Machine.execYardDecision a0 s
  | .ageingStep a0 => Sys2Proof.Machine.execAgeingStep a0 s
  | .quantumExpiry a0 => Sys2Proof.Machine.execQuantumExpiry a0 s
  | .claimRound a0 a1 a2 => Sys2Proof.Machine.execClaimRound a0 a1 a2 s
  | .energyBudgetReached a0 => Sys2Proof.Machine.execEnergyBudgetReached a0 s
  | .energyForward a0 => Sys2Proof.Machine.execEnergyForward a0 s
  | .freeze a0 a1 => Sys2Proof.Machine.execFreeze a0 a1 s
  | .thaw a0 a1 => Sys2Proof.Machine.execThaw a0 a1 s
  | .save a0 a1 => Sys2Proof.Machine.execSave a0 a1 s
  | .requeue a0 a1 a2 => Sys2Proof.Machine.execRequeue a0 a1 a2 s
  | .kill a0 a1 => Sys2Proof.Machine.execKill a0 a1 s
  | .go a0 a1 => Sys2Proof.Machine.execGo a0 a1 s
  | .freezeComplete a0 => Sys2Proof.Machine.execFreezeComplete a0 s
  | .saveComplete a0 => Sys2Proof.Machine.execSaveComplete a0 s
  | .relocationComplete a0 => Sys2Proof.Machine.execRelocationComplete a0 s
  | .restoreComplete a0 => Sys2Proof.Machine.execRestoreComplete a0 s
  | .tlbWalkComplete a0 => Sys2Proof.Machine.execTlbWalkComplete a0 s
  | .tlbInvalidate a0 a1 => Sys2Proof.Machine.execTlbInvalidate a0 a1 s
  | .invalidateComplete => Sys2Proof.Machine.execInvalidateComplete s
  | .hostFlushComplete a0 => Sys2Proof.Machine.execHostFlushComplete a0 s
  | .hostSnoop a0 => Sys2Proof.Machine.execHostSnoop a0 s
  | .regionCommitComplete a0 => Sys2Proof.Machine.execRegionCommitComplete a0 s
  | .ownershipTimeout a0 => Sys2Proof.Machine.execOwnershipTimeout a0 s
  | .shenisFlitRetry a0 a1 a2 a3 => Sys2Proof.Machine.execShenisFlitRetry a0 a1 a2 a3 s
  | .ryenxonFlitReceive a0 a1 a2 a3 a4 a5 a6 => Sys2Proof.Machine.execRyenxonFlitReceive a0 a1 a2 a3 a4 a5 a6 s
  | .ryenxonNak a0 a1 => Sys2Proof.Machine.execRyenxonNak a0 a1 s
  | .ryenxonAckTimeout a0 => Sys2Proof.Machine.execRyenxonAckTimeout a0 s
  | .linkEnable a0 a1 a2 => Sys2Proof.Machine.execLinkEnable a0 a1 a2 s
  | .linkDisable a0 a1 a2 => Sys2Proof.Machine.execLinkDisable a0 a1 a2 s
  | .trainingComplete a0 a1 a2 => Sys2Proof.Machine.execTrainingComplete a0 a1 a2 s
  | .trainingFailed a0 a1 => Sys2Proof.Machine.execTrainingFailed a0 a1 s
  | .trainingRetry a0 a1 => Sys2Proof.Machine.execTrainingRetry a0 a1 s
  | .laneLost a0 a1 => Sys2Proof.Machine.execLaneLost a0 a1 s
  | .retrainWindowClose a0 a1 => Sys2Proof.Machine.execRetrainWindowClose a0 a1 s
  | .outingPortTimeout a0 => Sys2Proof.Machine.execOutingPortTimeout a0 s
  | .ioCommandArrival a0 a1 => Sys2Proof.Machine.execIoCommandArrival a0 a1 s
  | .ioCompletion a0 a1 a2 a3 => Sys2Proof.Machine.execIoCompletion a0 a1 a2 a3 s
  | .ioCommandTimeout a0 a1 => Sys2Proof.Machine.execIoCommandTimeout a0 a1 s
  | .inboundRdmaWrite a0 a1 a2 a3 => Sys2Proof.Machine.execInboundRdmaWrite a0 a1 a2 a3 s
  | .inboundSend a0 a1 => Sys2Proof.Machine.execInboundSend a0 a1 s
  | .inboundWriteImmediate a0 a1 a2 a3 a4 => Sys2Proof.Machine.execInboundWriteImmediate a0 a1 a2 a3 a4 s
  | .inboundRdmaRead a0 a1 a2 => Sys2Proof.Machine.execInboundRdmaRead a0 a1 a2 s
  | .qpFatalEvent a0 => Sys2Proof.Machine.execQpFatalEvent a0 s
  | .qpStateWrite a0 a1 a2 => Sys2Proof.Machine.execQpStateWrite a0 a1 a2 s
  | .regionRegister a0 a1 => Sys2Proof.Machine.execRegionRegister a0 a1 s
  | .mailboxPartArrival a0 => Sys2Proof.Machine.execMailboxPartArrival a0 s
  | .mailboxReply a0 a1 a2 a3 => Sys2Proof.Machine.execMailboxReply a0 a1 a2 a3 s
  | .mailboxHeadAdvance a0 a1 => Sys2Proof.Machine.execMailboxHeadAdvance a0 a1 s
  | .imageCacheFlush a0 => Sys2Proof.Machine.execImageCacheFlush a0 s
  | .hostInterrupt a0 => Sys2Proof.Machine.execHostInterrupt a0 s
  | .quarantineRelease a0 => Sys2Proof.Machine.execQuarantineRelease a0 s
  | .injectionArm a0 a1 => Sys2Proof.Machine.execInjectionArm a0 a1 s
  | .registerWrite a0 a1 a2 => Sys2Proof.Machine.execRegisterWrite a0 a1 a2 s
  | .wearTick a0 => Sys2Proof.Machine.execWearTick a0 s
  | .unitRetire a0 => Sys2Proof.Machine.execUnitRetire a0 s
  | .failureWindowClose a0 => Sys2Proof.Machine.execFailureWindowClose a0 s
  | .lifetimeFlush => Sys2Proof.Machine.execLifetimeFlush s
  | .digestExchange a0 => Sys2Proof.Machine.execDigestExchange a0 s
  | .lidOverLimit a0 => Sys2Proof.Machine.execLidOverLimit a0 s
  | .lidResume a0 => Sys2Proof.Machine.execLidResume a0 s
  | .thermalTrip => Sys2Proof.Machine.execThermalTrip s
  | .powerOnReset a0 => Sys2Proof.Machine.execPowerOnReset a0 s
  | .diagreq a0 => Sys2Proof.Machine.execDiagreq a0 s
  | .attestationReport a0 => Sys2Proof.Machine.execAttestationReport a0 s
  | .globalLoadPerform a0 a1 => Sys2Proof.Machine.execGlobalLoadPerform a0 a1 s
  | .staticEnergyCharge a0 => Sys2Proof.Machine.execStaticEnergyCharge a0 s
  | .roceRetransmission a0 a1 => Sys2Proof.Machine.execRoceRetransmission a0 a1 s
  | .powerLoss a0 => Sys2Proof.Machine.execPowerLoss a0 s
  | .supervisorMemoryWrite a0 a1 a2 => Sys2Proof.Machine.execSupervisorMemoryWrite a0 a1 a2 s

end Sys2Proof.Machine
end

