-- ==== Sys2Proof/Machine/Agenda.lean ====
section
/-!
DEFINITION. What acts next in the machine (log entry 1): of the acts that fall in one cycle, the one that the chapters' orders put first.
-/

namespace Sys2Proof.Machine

open Sys2Proof

/-- The opcode of the station that a CU issues next. -/
def leaderOp (s : State) (u : UId) : Option Nat :=
  (leader s u).map fun F => if trappingCode s u F.stn != 0 then 0 else (opOfWord (stationWord s u F.stn)).toNat

/-- The next request of an MU's port is a SYSWR. -/
def syswrNext (s : State) (m : UId) : Bool :=
  match s.mu.reqs.find? fun q => q.mu == m with
  | some q => (match q.i with | .syswr _ => true | _ => false)
  | none => false

/-- Something that a flit carries is the refusal of a credit, which acts after the acknowledgements of its cycle (R238). -/
def refusesCredit (c : Cargo) : Bool :=
  match c with
  | .msg (.refused _ _) => true
  | _ => false

/-- The state that an act leaves, where it ends in a next state. -/
def afterAct (s : State) (a : Act) : State :=
  match a with
  | .issue u =>
    match issue s u with
    | .idle t => close s t
    | .run i t => (match exec i t with | .next t => t | _ => s)
  | .event i => (match exec i s with | .next t => t | _ => s)

/-- The act kills a context (R398): a KILL, or a fatal error. -/
def killsBy (s t : State) : Bool := s.ctxs.any fun x => isLive x && (ctxOf t x.id).cst == .killed

/-- The act raises a precise fault that asks for a freeze (R424). -/
def faultsBy (s t : State) : Bool := s.ctxs.any fun x => (ctxOf t x.id).prim != x.prim && (ctxOf t x.id).prim.isSome

/-- The place of a kind of act among those of one cycle: 0 to 13, the lower first. It keeps every order that the chapters state: the end of a
save or drain, then KILL, then EXIT, then freezes (R396); the lane loss before the NAK (R438); the array's changes before the issue choice
(R282); completions, retries, requests, commits, then deliveries, fills and credits at a bank (R188, R220, R266); acknowledgements, credits
refused after them (R238); commit points before COLOUR.END (R76); and reservations at the end of the cycle (R262), register writes after
every update of their cycle (R479). -/
def kindRank (s : State) (a : Act) : Nat :=
  match a with
  | .issue u =>
    match leaderOp s u with
    | some 0x16 => 3
    | some 0x13 => 10
    | _ => 7
  | .event i =>
    match i with
    | .drainComplete _ => 0
    | .saveComplete _ => 0
    | .laneLost _ _ => 0
    | .kill _ _ => 1
    | .arrayOpEnd _ => 2
    | .tfillComplete _ _ => 2
    | .mmarPassComplete _ => 2
    | .barrierRelease _ _ => 4
    | .barrierCompletion _ _ => 4
    | .barrierRetry _ => 5
    | .muRequest m => if syswrNext s m then 13 else 6
    | .phaseBoundaryComplete _ _ _ _ => 7
    | .hostSnoop _ => 7
    | .chunkAck _ _ => 8
    | .chunkApply _ _ => 9
    | .barrierCredit _ => 9
    | .ryenxonFlitReceive _ _ _ _ _ _ cargo => if cargo.any refusesCredit then 9 else 7
    | .ioCompletion _ _ _ _ => 9
    | .inboundSend _ _ => 9
    | .inboundWriteImmediate _ _ _ _ _ => 9
    | .streamwToken _ _ => 9
    | .binReplayRegion _ _ => 9
    | .ringReservation _ _ => 11
    | .freeze _ _ => 12
    | .errorSurface _ _ => 12
    | .energyBudgetReached _ => 12
    | .quantumExpiry _ => 12
    | .yardDecision _ => 12
    | .thaw _ _ => 13
    | .save _ _ => 13
    | .requeue _ _ _ => 13
    | .go _ _ => 13
    | .registerWrite _ _ _ => 13
    | .queueCreate _ _ => 13
    | .queueDestroy _ _ => 13
    | .queueEnable _ _ => 13
    | .queueDisable _ _ => 13
    | .queueSuspend _ _ => 13
    | .queueResume _ _ => 13
    | .queueTailWrite _ _ _ => 13
    | .queueHeadSkip _ _ _ => 13
    | .mailboxReply _ _ _ _ => 13
    | .mailboxHeadAdvance _ _ => 13
    | .imageCacheFlush _ => 13
    | .injectionArm _ _ => 13
    | .quarantineRelease _ => 13
    | .tlbInvalidate _ _ => 13
    | .regionRegister _ _ => 13
    | .qpStateWrite _ _ _ => 13
    | .linkEnable _ _ _ => 13
    | .linkDisable _ _ _ => 13
    | _ => 7

/-- The place of an act among those of one cycle (R396): one that kills a context, by KILL or a fatal error, comes before the first EXIT, and one
that asks for a freeze by a fault after it. -/
def rank (s : State) (a : Act) : Nat :=
  let r := kindRank s a
  if r == 0 then 0
  else
    let t := afterAct s a
    if killsBy s t then 1 else if r == 2 && faultsBy s t then 4 else r

/-- The first of a list of acts with the least rank: how many stand before it, and the rank. -/
def firstRank (s : State) : List Agendum → Nat × Nat
  | [] => (0, 13)
  | a :: as => if rank s a.act ≤ (firstRank s as).2 then (0, rank s a.act) else ((firstRank s as).1 + 1, (firstRank s as).2)

/-- What acts next, and the agenda without it: of the entries at the front that fall in one cycle, the head and those that follow it with no
cycle between, the first of the least rank. -/
def due (s : State) : Option (Agendum × List Agendum) :=
  match s.agenda with
  | [] => none
  | a :: rest =>
    match rest.takeWhile fun b => b.dt == 0 with
    | [] => some (a, rest)
    | b :: bs =>
    match (firstRank s (a :: b :: bs)).1 with
    | 0 => some (a, rest)
    | n + 1 => some ({ dt := a.dt, act := (rest.getD n a).act }, { a with dt := 0 } :: rest.eraseIdx n)

/-- What the machine does next: the entry of the agenda that is due; with none, a cycle passes. -/
def nextAct (s : State) : Next :=
  match due s with
  | none => .idle (tick s 1)
  | some (a, rest) =>
    let s := { tick s a.dt with agenda := rest }
    match a.act with
    | .issue u => issue s u
    | .event i => .run i s

end Sys2Proof.Machine
end

