-- ==== Sys2Proof/Machine/Place.lean ====
section
/-!
DEFINITION. How a single station word is put where the machine runs it next: what the image loader and the network would
leave behind for a kernel of one station (log entry 3).
-/

namespace Sys2Proof.Machine

open Sys2Proof

/-- The CU (0, 0) of context 0. -/
def homeCu : UId := { ctx := 0, copy := 0, x := 0, y := 0 }

/-- A resident context of shape 1 × 1 with id 0 at the module's origin. -/
def homeCtx : Ctx := { ctxReset with cst := .running, pw := 1, ph := 1, place := [{ mx := 0, my := 0 }] }

/-- A value token of value 0 at a position of station 0. -/
def homeTok (p : BitVec 2) : Flit := mkTok 0 0 0 0 (p ++ (0 : BitVec 10)) kValue 0 false

/-- The complete instance of station 0 that the word needs. -/
def homeFiring (w : Word) : Ready :=
  { u := homeCu, stn := 0, seq := 0, l := homeTok 0, r := if (needs w).contains 1 then some (homeTok 1) else none,
    p := if (needs w).contains 2 then some (homeTok 2) else none, near := true, again := false, matched := false, pair := none }

/-- An agenda whose first entry comes a cycle later, so that what is put before it acts alone in its cycle. -/
def delay : List Agendum → List Agendum
  | [] => []
  | a :: as => { a with dt := a.dt + 1 } :: as

/-- The state in which the next step runs the word. -/
def placeWord (s : State) (w : Word) : State :=
  { s with ctxs := homeCtx :: s.ctxs.filter (fun x => x.id != 0),
           fab := { s.fab with stations := fset 0 s.fab.stations (uKey homeCu * 128) w,
                               trapping := ferase s.fab.trapping (uKey homeCu * 128),
                               cfgHeld := s.fab.cfgHeld.filter fun h => h.u != homeCu,
                               frames := s.fab.frames.filter fun r => r.u != homeCu,
                               ready := homeFiring w :: s.fab.ready.filter fun r => r.u != homeCu },
           agenda := { dt := 0, act := .issue homeCu } :: delay s.agenda }

end Sys2Proof.Machine
end

