-- ==== Sys2Proof/Machine/Step.lean ====
section
/-!
DEFINITION. The step of the machine: the head of the agenda acts (log entry 1), and an issue runs the meaning of the word
that its station holds.
-/

namespace Sys2Proof.Machine

open Sys2Proof

/-- One step. -/
def step (s : State) : Host.Outcome State Fault Refusal :=
  match nextAct s with
  | .idle t => .next (close s t)
  | .run i t => exec i t

/-- `s` with the instruction of bits `w` in station 0 of a resident context whose operand tokens stand ready, and with the
issue of that station next (log entry 3). -/
def State.withFetchWord (s : State) (_nbits w : Nat) : State := placeWord s (BitVec.ofNat 64 w)

end Sys2Proof.Machine
end

