-- ==== Sys2Proof/Safety.lean ====
section
/-!
DEFINITION. What counts as a safe run, in the terms the statements use.
-/

namespace Sys2Proof.Safety

open Sys2Proof Sys2Proof.Machine

/-- The state between two steps: memory in its canonical form, no firing latched, no write pending. -/
def Settled (s : State) : Prop := Memory.wf s.mem = true ∧ s.firing = [] ∧ s.wlog = []

/-- A step that answers a next state. -/
def Completes (o : Host.Outcome State Fault Refusal) : Prop := ∃ t, o = .next t

end Sys2Proof.Safety
end

