-- ==== Sys2Proof/Certificates/Slice0/Obligations.lean ====
section
/-!
DEFINITION. The statements about the model that the provers settle, and the few words they are said in.
-/

namespace Sys2Proof.Claims

open Sys2Proof Sys2Proof.Machine

/-- R62 lets every latched firing compute; `pred` says that P is a predicate. -/
def Computes (pred : Bool) (s : State) : Prop := ∀ F ∈ s.firing, settle pred F = .go

/-- The step of `i` answers a next state in which every latched firing, oldest first, has had the effect `g`. -/
def EndsWith (i : Instr) (s : State) (g : Ready → State → State) : Prop :=
  exec i s = .next (close s (s.firing.foldl (fun t F => g F t) s))

/-- The step of `i` answers a next state in which every latched firing has sent the value `v` to both targets. -/
def Values (i : Instr) (f : Fields) (s : State) (v : Ready → State → Word) : Prop :=
  EndsWith i s fun F t => emitBoth f F kValue (v F t) t

/-- The step of `i` answers the next state that the step's end makes of `t`. -/
def Ends (i : Instr) (s t : State) : Prop := exec i s = .next (close s t)

/-- As `Ends`, for the steps that may write stations and routes: a load, a restore, a reset or a drain. -/
def EndsLoad (i : Instr) (s t : State) : Prop := exec i s = .next (closeLoad s t)

/-- The firing's tags and accumulators are in order and R283 holds nothing back. -/
def Unheld (s : State) (op : Nat) (f : Fields) (F : Ready) : Prop := tileFault s op f F = none ∧ tileReady s op f F = true

/-- The step of `i` answers a next state in which the firing's operation has taken its arrays for some cycles (R282). -/
def Starts (i : Instr) (op : Nat) (f : Fields) (s : State) (F : Ready) (cycles : Nat) (k : List Word) : Prop :=
  Ends i s (startOp i (match tileUse s op f F with | some (.ok n) => n.arrays | _ => []) cycles k F s)

/-- The step of the event `i` answers a next state, the end of a step that began in `s` and of which `t` holds. -/
def Becomes (i : Instr) (s : State) (P : State → Prop) : Prop := ∃ t, exec i s = .next t ∧ P t

/-- The step of `i` answers a next state in which the firing's request has left for the port of an MU (R188). -/
def Requests (i : Instr) (s : State) (F : Ready) (mu : UId) (k : List Word) : Prop :=
  exec i s = .next (close s (sendReq mu i F k s))

/-- `q` is the oldest request of its MU, whose port does not stand still (R188, R225, R234). -/
def Oldest (s : State) (q : Req) : Prop := s.mu.reqs.find? (fun r => r.mu == q.mu) = some q ∧ portBlocked s q.mu = false

/-- The state without the request `q`. -/
def taken (s : State) (q : Req) : State := { s with mu := { s.mu with reqs := s.mu.reqs.erase q } }

/-- The state without the request `q`, whose MU's capability checker holds what a memory access used (R204). -/
def touched (s : State) (q : Req) : State := capTouch (taken s q) q.mu (fcol q.c) q.c.l.val

/-- The MU serves `q`, its oldest request: the step answers a next state that `g` makes of the state without it. -/
def Serves (s : State) (q : Req) (g : State → State) : Prop :=
  exec (.muRequest q.mu) s = .next (close s (g (taken s q)))

/-- The firing's colour has a call record in mapped memory, below the units' own memories, or none to write there (R73, R76): its first commit
point reads and writes the record and does not fault. -/
def RecordMapped (s : State) (F : Ready) : Prop :=
  let x := ctxOf s F.u.ctx
  fcol F = 0 ∨ ((∃ a, translateNow s x .read (x.crb + 128 * fcol F) = .ok a) ∧
    ∃ a, translateNow s x .write (x.crb + 128 * fcol F) = .ok a ∧ a.phys + 128 ≤ unitBase)

/-- The byte at `n` belongs to no call record that the firing's first commit point writes. -/
def OffRecord (s : State) (F : Ready) (n : Nat) : Prop :=
  let x := ctxOf s F.u.ctx
  ∀ a, fcol F ≠ 0 → translateNow s x .write (x.crb + 128 * fcol F) = .ok a → n < a.phys ∨ a.phys + 128 ≤ n

/-- The left operand as the integer that `TY` reads (R127). -/
def a (f : Fields) (F : Ready) : Int := intOf f.ty F.l.val

/-- The right operand as the integer that `TY` reads (R127). -/
def b (f : Fields) (F : Ready) (t : State) : Int := intOf f.ty (rightOp f F t)

/-- The w-bit pattern of the left operand. -/
def pa (f : Fields) (F : Ready) : Nat := lowBits f.ty F.l.val

/-- The w-bit pattern of the right operand. -/
def pb (f : Fields) (F : Ready) (t : State) : Nat := lowBits f.ty (rightOp f F t)

/-- The exact value of the left operand (R103, R127). -/
def xa (f : Fields) (F : Ready) : Ex := decodeF (fmtD f.ty) (pa f F)

/-- rnd(format, mode, x) of R145 with the mode and policy in `FN` and the stochastic word of element 0. -/
def rounded (T : Fmt) (f : Fields) (F : Ready) (t : State) (x : Ex) : Word :=
  BitVec.ofNat 64 (rnd T (modeOf (f.fn.toNat % 8)) (decide (f.fn.toNat < 8)) (srOf t F 0) x)

end Sys2Proof.Claims

section

open Sys2Proof Sys2Proof.Machine Sys2Proof.Safety Sys2Proof.Claims

/-- R62: what the kinds of the operand tokens decide. End-of-fibre goes first, in the order L, R, P; then a null or a false
predicate; otherwise the station computes. -/
def Sys2Proof.Claims.OperandKindsDecideTheFiring : Prop :=
  ∀ (F : Ready) (pred : Bool),
    (∀ t, (F.l :: (F.r.toList ++ F.p.toList)).find? (fun t => t.kind == 2) = some t → settle pred F = .eof t.val) ∧
    ((∀ t ∈ F.l :: (F.r.toList ++ F.p.toList), t.kind ≠ 2) →
      ((∃ t ∈ F.l :: (F.r.toList ++ F.p.toList), t.kind = 1) ∨
        (pred = true ∧ ∃ p, F.p = some p ∧ (p.kind = 0 ∨ p.kind = 6) ∧ p.val = 0) → settle pred F = .null) ∧
      ((∀ t ∈ F.l :: (F.r.toList ++ F.p.toList), t.kind ≠ 1) →
        ¬(pred = true ∧ ∃ p, F.p = some p ∧ (p.kind = 0 ∨ p.kind = 6) ∧ p.val = 0) → settle pred F = .go))

/-- R62 for the station instructions that define both targets, read P as a predicate and give no other rule for a null or an
end-of-fibre operand: a firing that one of them settles sends it to both targets and has no other effect, be the instruction a value
instruction, a memory access, a command or a service call. -/
def Sys2Proof.Claims.SettledFiringsHaveNoOtherEffect : Prop :=
  ∀ mk ∈ [Instr.const, .gate, .iterIdx, .tagGet, .colourNew, .colourRet, .svcCall, .yield, .trap, .brk, .errf, .grpId, .grpSize, .kset,
      .launch, .kget, .add, .sub, .mul, .div, .rem, .min, .max, .abs, .neg, .and, .or, .xor, .andn, .not, .shl, .shr, .sar, .rot,
      .clz, .popc, .brev, .bfx, .bfi, .cmp, .ext, .addsat, .aidx, .hash, .fadd, .fsub, .fmul, .fmin, .fmax, .fabs, .fneg, .fcmp,
      .fclass, .fcvt, .ftoi, .itof, .frnd, .fdiv, .fsqrt, .frcp, .frsq, .fexp2, .flog2, .fsin, .fcos, .ftanh, .fscale, .quant, .deq,
      .ld, .st, .ldl, .ltagGet, .ltagSet, .isRd, .isWr, .isClr, .pfch, .phase, .capAlloc, .capFree, .capNarrow, .capInfo, .gld, .lds,
      .sts, .poolPart, .aadd, .amin, .amax, .aand, .aor, .axor, .axchg, .afadd, .aaddth, .await, .barInit, .barArrive, .barExpect,
      .barWait, .barTest, .barDrop, .barRetire, .ringInit, .ringAwait, .ringRelease, .ringStat, .ringRetire, .ringBind, .send,
      .sendRing, .sendr, .copy, .copyo, .stream, .streamw, .sclose, .cstat, .ioread, .ioreadRing, .iowrite, .netsend, .netrecvBind,
      .netrecvUnbind, .tmap, .tfill, .ttagBind, .ttagFull, .ttagEmpty, .ttagStat, .mma, .mmas, .mmag, .mmar, .wld, .accz, .accrd,
      .tcvt, .tred, .texp, .ttrn, .tdot, .bfly, .bfch, .sdset, .bwld, .bperm, .bfsc, .binOpen, .binPut, .binPutMap, .binPlay,
      .binClose, .mpath, .fscan, .fisect, .funion, .femit, .gath, .sysrd, .syswr, .enrd, .wearrd, .ctxid, .cyc, .errinj, .diag],
  ∀ (f : Fields) (s : State),
    ((∀ F ∈ s.firing, settle true F = .null) → EndsWith (mk f) s fun F t => emitBoth f F kNull 0 t) ∧
    (∀ v : Ready → Word, (∀ F ∈ s.firing, settle true F = .eof (v F)) → EndsWith (mk f) s fun F t => emitBoth f F kEof (v F) t)

/-- R36, R59: where emit sends a token of a unit of this module and what the token carries; a discarded target gets none. -/
def Obligations.EmitFormsAndRoutesTheToken : Prop :=
  ∀ (s : State) (F : Ready) (t : BitVec 12) (k : BitVec 3) (v : Word),
    (tgtPos t = 3 → emit F t k v s = s) ∧
    (tgtPos t ≠ 3 → emitsTokens (ctxOf s F.u.ctx) = true → onModule (ctxOf s F.u.ctx) F.u.x = true →
      ∃ T : Flit,
        T.kind = k ∧ T.val = (if k = 1 then 0 else v) ∧ T.res = BitVec.ofNat 4 (T.val.toNat % 15) ∧
        T.pos = t.extractLsb' 10 2 ∧ T.stn = t.extractLsb' 0 7 ∧ T.ctx = BitVec.ofNat 9 F.u.ctx ∧ T.col = F.l.col ∧
        T.itr = F.l.itr ∧ T.chn = false ∧ T.rsv = 0 ∧ T.rid = ridOf (ctxOf s F.u.ctx).key T.stn T.pos ∧
        (tgtRoute t = 0 → emit F t k v s =
          { s with fab := { s.fab with arrivals := s.fab.arrivals ++ [{ u := F.u, own := true, tok := T, cfg := none }] } }) ∧
        (tgtRoute t ≠ 0 → ∃ e : Flight, e.u = F.u ∧ e.port = .loc ∧ e.cfg = none ∧
          e.tok = { T with dx := BitVec.ofInt 8 e.rx, dy := BitVec.ofInt 8 e.ry } ∧
          emit F t k v s = { s with fab := { s.fab with flights := s.fab.flights ++ [e] } } ∧
          (tgtRoute t = 7 → e.rx = ((F.u.x / 4 * 4 + 3 : Nat) : Int) - F.u.x ∧ e.ry = 0) ∧
          (tgtRoute t ≠ 7 →
            let rt := fget 0 s.routes (uKey F.u * 8 + tgtRoute t)
            let dx := (rt.extractLsb' 0 8).toInt
            let dy := (rt.extractLsb' 8 8).toInt
            0 ≤ (F.u.x : Int) + dx → 0 ≤ (F.u.y : Int) + dy → e.rx = dx ∧ e.ry = dy)))

/-- R133: ADD, SUB, MUL, MIN, MAX send x mod 2^w, extended by R101, to both targets. -/
def Sys2Proof.Claims.TwoOperandIntegerResults : Prop :=
  ∀ (f : Fields) (s : State), Computes true s →
    Values (.add f) f s (fun F t => wrapTy f.ty (a f F + b f F t)) ∧
    Values (.sub f) f s (fun F t => wrapTy f.ty (a f F - b f F t)) ∧
    (f.fn = 0 → Values (.mul f) f s (fun F t => wrapTy f.ty (a f F * b f F t))) ∧
    (f.fn = 1 → Values (.mul f) f s (fun F t => wrapTy f.ty (a f F * b f F t / 2 ^ tyW f.ty))) ∧
    Values (.min f) f s (fun F t => wrapTy f.ty (if a f F ≤ b f F t then a f F else b f F t)) ∧
    Values (.max f) f s (fun F t => wrapTy f.ty (if b f F t ≤ a f F then a f F else b f F t))

/-- R133: the logical operators act on the w-bit patterns, bit by bit; NOT (R136) complements. -/
def Sys2Proof.Claims.LogicalResultsBitByBit : Prop :=
  ∀ (f : Fields) (s : State), Computes true s →
    Values (.and f) f s (fun F t => extendTy f.ty (pa f F &&& pb f F t)) ∧
    Values (.or f) f s (fun F t => extendTy f.ty (pa f F ||| pb f F t)) ∧
    Values (.xor f) f s (fun F t => extendTy f.ty (pa f F ^^^ pb f F t)) ∧
    (∃ r : Ready → State → Nat,
      (∀ F t k, (r F t).testBit k = ((pa f F).testBit k && !(pb f F t).testBit k)) ∧
      Values (.andn f) f s (fun F t => extendTy f.ty (r F t))) ∧
    (∃ r : Ready → Nat, (∀ F k, (r F).testBit k = (decide (k < tyW f.ty) && !(pa f F).testBit k)) ∧
      Values (.not f) f s (fun F _ => extendTy f.ty (r F)))

/-- R134: DIV and REM, with the results of a zero divisor and of the one overflow. -/
def Sys2Proof.Claims.DivisionResults : Prop :=
  ∀ (f : Fields) (s : State), Computes true s →
    Values (.div f) f s (fun F t => wrapTy f.ty
      (if b f F t = 0 then (if tySgn f.ty then -1 else 2 ^ tyW f.ty - 1)
       else if tySgn f.ty ∧ a f F = -2 ^ (tyW f.ty - 1) ∧ b f F t = -1 then a f F
       else (a f F).tdiv (b f F t))) ∧
    Values (.rem f) f s (fun F t => wrapTy f.ty
      (if b f F t = 0 then a f F
       else if tySgn f.ty ∧ a f F = -2 ^ (tyW f.ty - 1) ∧ b f F t = -1 then 0
       else a f F - b f F t * (a f F).tdiv (b f F t)))

/-- R135, R136, R138: saturation, the one-operand operators and comparison. -/
def Sys2Proof.Claims.OneOperandAndSaturatingResults : Prop :=
  ∀ (f : Fields) (s : State), Computes true s →
    (f.fn = 0 → Values (.addsat f) f s (fun F t => wrapTy f.ty (max (tyMin f.ty) (min (tyMax f.ty) (a f F + b f F t))))) ∧
    (f.fn = 1 → Values (.addsat f) f s (fun F t => wrapTy f.ty (max (tyMin f.ty) (min (tyMax f.ty) (a f F - b f F t))))) ∧
    (f.fn = 0 → Values (.abs f) f s (fun F _ => wrapTy f.ty |a f F|)) ∧
    (f.fn = 1 → Values (.abs f) f s (fun F _ => wrapTy f.ty (if a f F = tyMin f.ty ∧ a f F < 0 then tyMax f.ty else |a f F|))) ∧
    Values (.neg f) f s (fun F _ => wrapTy f.ty (-a f F)) ∧
    Values (.ext f) f s (fun F _ => extendTy f.ty (pa f F)) ∧
    (∀ n, f.fn = BitVec.ofNat 4 n → n ≤ 5 → Values (.cmp f) f s (fun F t =>
      if (match n with
          | 0 => decide (a f F = b f F t) | 1 => decide (a f F ≠ b f F t) | 2 => decide (a f F < b f F t)
          | 3 => decide (a f F ≤ b f F t) | 4 => decide (b f F t < a f F) | _ => decide (b f F t ≤ a f F)) = true
      then 1 else 0))

/-- R137: the shifts by an amount of all 64 bits, and the rotations bit by bit. -/
def Sys2Proof.Claims.ShiftAndRotateResults : Prop :=
  ∀ (f : Fields) (s : State), Computes true s →
    Values (.shl f) f s (fun F t => extendTy f.ty (pa f F * 2 ^ (rightOp f F t).toNat % 2 ^ tyW f.ty)) ∧
    Values (.shr f) f s (fun F t => extendTy f.ty (pa f F / 2 ^ (rightOp f F t).toNat)) ∧
    Values (.sar f) f s (fun F t => wrapTy f.ty
      ((if (pa f F).testBit (tyW f.ty - 1) then (pa f F : Int) - 2 ^ tyW f.ty else pa f F) / 2 ^ (rightOp f F t).toNat)) ∧
    (∃ r : Ready → State → Nat,
      (∀ F t, r F t < 2 ^ tyW f.ty ∧
        ∀ k < tyW f.ty, (f.fn = 0 → (r F t).testBit ((k + (rightOp f F t).toNat) % tyW f.ty) = (pa f F).testBit k) ∧
          (f.fn = 1 → (r F t).testBit k = (pa f F).testBit ((k + (rightOp f F t).toNat) % tyW f.ty))) ∧
      Values (.rot f) f s (fun F t => extendTy f.ty (r F t)))

/-- R136, R139: counts, bit reversal and bit fields, said bit by bit. -/
def Sys2Proof.Claims.BitCountAndFieldResults : Prop :=
  ∀ (f : Fields) (s : State), Computes true s →
    Values (.popc f) f s (fun F _ => BitVec.ofNat 64 ((List.range (tyW f.ty)).countP fun k => (pa f F).testBit k)) ∧
    (∃ c : Ready → Nat,
      (∀ F, c F ≤ tyW f.ty ∧ pa f F < 2 ^ (tyW f.ty - c F) ∧ (c F < tyW f.ty → (pa f F).testBit (tyW f.ty - 1 - c F))) ∧
      Values (.clz f) f s (fun F _ => BitVec.ofNat 64 (c F))) ∧
    (∃ r : Ready → Nat,
      (∀ F, r F < 2 ^ tyW f.ty ∧ ∀ k < tyW f.ty, (r F).testBit (tyW f.ty - 1 - k) = (pa f F).testBit k) ∧
      Values (.brev f) f s (fun F _ => extendTy f.ty (r F))) ∧
    (tySgn f.ty = false →
      Values (.bfx f) f s (fun F _ => F.l.val >>> fld f 0 6 &&& BitVec.ofNat 64 (2 ^ (fld f 6 6 + 1) - 1))) ∧
    (tySgn f.ty = true →
      Values (.bfx f) f s (fun F _ => (F.l.val.extractLsb' (fld f 0 6) (fld f 6 6 + 1)).signExtend 64)) ∧
    (fld f 0 6 + fld f 6 6 + 1 ≤ 64 → ∃ v : Ready → State → Word,
      (∀ F t k, (v F t).getLsbD k =
        if fld f 0 6 ≤ k ∧ k ≤ fld f 0 6 + fld f 6 6 then (rightOp f F t).getLsbD (k - fld f 0 6) else F.l.val.getLsbD k) ∧
      Values (.bfi f) f s v)

/-- R140, R141: the carry chains send the low part to TA and the carry, marked, to TB; P enters as a carry alone. -/
def Sys2Proof.Claims.CarryChainResults : Prop :=
  ∀ (f : Fields) (s : State), (∀ F ∈ s.firing, settle (!isCarry F) F = .go) →
    EndsWith (.addc f) s (fun F t =>
      let x := pa f F + pb f F t + (if isCarry F ∧ lowBits f.ty (pVal F) ≠ 0 then 1 else 0)
      emitFrom (emit F f.ta kValue (extendTy f.ty (x % 2 ^ tyW f.ty)) t) F.u F.u (fcol F) (fitr F) f.tb kValue
        (if 2 ^ tyW f.ty ≤ x then 1 else 0) true) ∧
    EndsWith (.subb f) s (fun F t =>
      let x : Int := (pa f F : Int) - pb f F t - (if isCarry F ∧ lowBits f.ty (pVal F) ≠ 0 then 1 else 0)
      emitFrom (emit F f.ta kValue (wrapTy f.ty x) t) F.u F.u (fcol F) (fitr F) f.tb kValue (if x < 0 then 1 else 0) true) ∧
    EndsWith (.mulc f) s (fun F t =>
      let x := pa f F * pb f F t + (if isCarry F then lowBits f.ty (pVal F) else 0)
      emitFrom (emit F f.ta kValue (extendTy f.ty (x % 2 ^ tyW f.ty)) t) F.u F.u (fcol F) (fitr F) f.tb kValue
        (BitVec.ofNat 64 (x / 2 ^ tyW f.ty)) true)

/-- R142, R143: AIDX moves the offset field of its pointer and keeps every other field, or faults; HASH mixes. -/
def Sys2Proof.Claims.AddressIndexAndHashResults : Prop :=
  ∀ (f : Fields) (s : State), Computes true s →
    EndsWith (.aidx f) s (fun F t =>
      let p := F.l.val
      let c : Nat × Bool := match (p.extractLsb' 62 2).toNat with
        | 0 => (57, p.extractLsb' 57 5 == 0)
        | 1 => (20, p.extractLsb' 20 28 == 0)
        | 2 => (20, p.extractLsb' 20 42 == 0)
        | _ => (44, true)
      let n : Int := ((p.toNat % 2 ^ c.1 : Nat) : Int) + b f F t * 2 ^ f.fn.toNat
      if c.2 = true ∧ 0 ≤ n ∧ n < 2 ^ c.1 then
        emitBoth f F kValue (BitVec.ofNat 64 (p.toNat / 2 ^ c.1 * 2 ^ c.1 + n.toNat)) t
      else raise F { kind := 0x07, va := p } t) ∧
    Values (.hash f) f s (fun F t =>
      let x := F.l.val + rightOp f F t * 0x9E3779B97F4A7C15
      let x := (x ^^^ (x >>> 30)) * 0xBF58476D1CE4E5B9
      let x := (x ^^^ (x >>> 27)) * 0x94D049BB133111EB
      x ^^^ (x >>> 31))

/-- R81 to R90: NOP and SINK send nothing; MOVE, CONST, GATE, JOIN and NULLS; MERGE prefers L; SELECT and STEER choose by
their control. -/
def Obligations.SteeringInstructionEffects : Prop :=
  ∀ (f : Fields) (s : State),
    EndsWith (.nop f) s (fun _ t => t) ∧
    EndsWith (.sink f) s (fun _ t => t) ∧
    ((∀ F ∈ s.firing, ∀ p, F.p = some p → p.kind ≠ 1 ∧ p.kind ≠ 2 ∧ ((p.kind = 0 ∨ p.kind = 6) → p.val ≠ 0)) →
      EndsWith (.move f) s fun F t => emitBoth f F F.l.kind F.l.val t) ∧
    (Computes true s → f.fn = 0 → Values (.const f) f s fun _ _ => f.imm.signExtend 64) ∧
    (Computes true s → f.fn = 1 → Values (.const f) f s fun F t => kreg t F.u (fld f 0 6)) ∧
    (Computes true s → EndsWith (.gate f) s fun F t => emitBoth f F F.l.kind F.l.val t) ∧
    ((∀ F ∈ s.firing, F.r.isSome) → EndsWith (.join f) s fun F t => emitBoth f F kValue
      ((if F.l.kind = 1 then 0 else 1) + (if (F.r.map fun r => r.kind) = some 1 then 0 else 1)) t) ∧
    (f.fn = 0 → EndsWith (.nulls f) s fun F t => emitBoth f F kNull 0 t) ∧
    (f.fn = 1 → EndsWith (.nulls f) s fun F t =>
      emit F f.tb F.l.kind F.l.val (emit F f.ta kValue (if F.l.kind = 1 then 1 else 0) t)) ∧
    ((∀ F ∈ s.firing, F.r.isSome) → EndsWith (.merge f) s fun F t =>
      if F.l.kind ≠ 1 then emitBoth f F F.l.kind F.l.val t
      else match F.r with
        | some r => if r.kind ≠ 1 then emitBoth f F r.kind r.val t else emitBoth f F kNull 0 t
        | none => t) ∧
    ((∀ F ∈ s.firing, F.p.isSome) → EndsWith (.select f) s fun F t =>
      match F.p with
      | some p =>
        if p.kind = 1 ∨ p.kind = 2 then emitBoth f F p.kind p.val t
        else if p.val ≠ 0 then emitBoth f F F.l.kind F.l.val t
        else emitBoth f F ((F.r.map fun r => r.kind).getD 0) (rightOp f F t) t
      | none => t) ∧
    (f.fn = 0 ∨ f.fn = 1 → EndsWith (.steer f) s fun F t =>
      if (F.r.map fun r => r.kind) = some 2 then emitBoth f F kEof (rightOp f F t) t
      else if (F.r.map fun r => r.kind) = some 1 then emitBoth f F kNull 0 t
      else if rightOp f F t ≠ 0 then
        (if f.fn = 0 then emit F f.tb kNull 0 (emit F f.ta F.l.kind F.l.val t) else emit F f.ta F.l.kind F.l.val t)
      else emit F f.tb F.l.kind F.l.val (if f.fn = 0 then emit F f.ta kNull 0 t else t))

/-- R72: an iteration number is resolved to the one k in [HEAD − 255, HEAD] that it names modulo 2^16. -/
def Sys2Proof.Claims.IterationResolvedWithinTheWindow : Prop :=
  ∀ (r : Frame) (itr k : Nat),
    fullIter r itr = some k ↔ k ≤ r.head ∧ r.head ≤ k + 255 ∧ k % 65536 = itr % 65536

/-- R91 to R96: loop frames and tags. -/
def Sys2Proof.Claims.LoopAndTagInstructionEffects : Prop :=
  ∀ (f : Fields) (s : State) (F : Ready), s.firing = [F] →
    (F.l.kind = 1 → exec (.iterEnter f) s = .next (close s (emitBoth f F kNull 0 s))) ∧
    (F.l.kind ≠ 1 → exec (.iterEnter f) s = .next (close s (emitIter f F 0 { s with fab := { s.fab with frames := s.fab.frames ++
        [{ u := F.u, stn := F.stn, col := F.l.col.toNat, outer := F.l.itr.toNat, w := f.imm.toNat % 512,
           e := f.imm.toNat / 512 % 8 + 1, base := 0, head := 0, retired := 0, exitn := none, exits := 0 }] } }))) ∧
    (∀ r k, frameOf s F.u (fld f 0 7) (fcol F) = some r → fullIter r (fitr F) = some k →
      (r.base ≤ k → F.l.kind = 1 → exec (.iterNextStep f) s = .next (close s s)) ∧
      (r.base ≤ k → F.l.kind ≠ 1 → exec (.iterNextStep f) s = .next (close s (emitIter f F ((k + 1) % 2 ^ 16)
        (setFrame s r (some { r with head := max r.head (k + 1) }))))) ∧
      (r.base ≤ k → r.retired.getLsbD (k - r.base) = false → ∃ n,
        let m := r.retired ||| (1#256 <<< (k - r.base))
        (∀ j < n, m.getLsbD j = true) ∧ (n < 256 → m.getLsbD n = false) ∧
        exec (.iterNextDone f) s = .next (close s (setFrame s r
          (if ∃ x, r.exitn = some x ∧ r.e ≤ r.exits ∧ x < r.base + n then none
           else some { r with base := r.base + n, retired := m >>> n })))) ∧
      (r.base ≤ k → r.retired.getLsbD (k - r.base) = true → exec (.iterNextDone f) s = .next (close s (raise F { kind := 0x0E } s))) ∧
      (k < r.base → exec (.iterNextStep f) s = .next (close s (raise F { kind := 0x0E } s)) ∧
        exec (.iterNextDone f) s = .next (close s (raise F { kind := 0x0E } s))) ∧
      (F.l.kind ≠ 1 → (r.exitn = none ∨ r.exitn = some k) → r.exits < r.e →
        exec (.iterExit f) s = .next (close s (emitIter f F r.outer (setFrame s r
          (if r.e ≤ r.exits + 1 ∧ k < r.base then none else some { r with exitn := some k, exits := r.exits + 1 }))))) ∧
      (F.l.kind ≠ 1 → (∃ x, r.exitn = some x ∧ x ≠ k) ∨ r.e ≤ r.exits →
        exec (.iterExit f) s = .next (close s (raise F { kind := 0x0E } s))) ∧
      (settle true F = .go → exec (.iterIdx f) s = .next (close s (emitBoth f F kValue (BitVec.ofNat 64 k) s)))) ∧
    (F.l.kind = 1 → exec (.iterExit f) s = .next (close s s)) ∧
    (frameOf s F.u (fld f 0 7) (fcol F) = none →
      exec (.iterNextStep f) s = .next (close s (raise F { kind := 0x0E } s)) ∧
      exec (.iterNextDone f) s = .next (close s (raise F { kind := 0x0E } s)) ∧
      (F.l.kind ≠ 1 → exec (.iterExit f) s = .next (close s (raise F { kind := 0x0E } s))) ∧
      (settle true F = .go → exec (.iterIdx f) s = .next (close s (raise F { kind := 0x0E } s)))) ∧
    (settle true F = .go → exec (.tagGet f) s = .next (close s (emitBoth f F kValue
      (BitVec.ofNat 64 F.l.itr.toNat ||| BitVec.ofNat 64 F.l.col.toNat <<< 16 ||| BitVec.ofNat 64 F.u.ctx <<< 28) s))) ∧
    (settleOver (F.r.toList ++ F.p.toList) (falseP F) = .go →
      (f.src = .immd → exec (.tagSet f) s = .next (close s (emitIter f F (f.imm.toNat % 2 ^ 16) s))) ∧
      (f.src ≠ .immd → exec (.tagSet f) s = .next (close s (emitIter f F ((rightOp f F s).toNat % 2 ^ 16) s))))

/-- R148 to R150: the exact sum, difference, product, fused product and two-term dot product, rounded once; a NaN operand
gives the canonical NaN. -/
def Obligations.FloatArithmeticRoundsTheExactValueOnce : Prop :=
  ∀ (f : Fields) (s : State),
    let T := fmtD f.ty
    let rdn : Bool := decide (f.fn.toNat % 8 = 2)
    (Computes true s →
      Values (.fadd f) f s (fun F t => rounded T f F t (Ex.add rdn (xa f F) (rightEx f F t))) ∧
      Values (.fsub f) f s (fun F t => rounded T f F t (Ex.add rdn (xa f F) (rightEx f F t).negate)) ∧
      Values (.fmul f) f s (fun F t => rounded T f F t (Ex.mul (xa f F) (rightEx f F t))) ∧
      ((∀ F ∈ s.firing, xa f F = .nan) → ∀ mk ∈ [Instr.fadd, .fsub, .fmul, .fdiv, .fsqrt, .frcp, .frsq, .fexp2, .flog2, .fsin, .fcos,
          .ftanh, .fscale], Values (mk f) f s fun _ _ => BitVec.ofNat 64 T.qnan)) ∧
    ((∀ F ∈ s.firing, settle false F = .go) →
      Values (.ffma f) f s (fun F t => rounded T f F t
        (Ex.add rdn (Ex.mul (xa f F) (rightEx f F t)) (decodeF T (lowBits f.ty (pVal F))))) ∧
      Values (.fdot2 f) f s (fun F t => rounded .f32 f F t (Ex.sum rdn
        ([Ex.mul (packedEx f.ty F.l.val 0) (packedEx f.ty (rightOp f F t) 0),
          Ex.mul (packedEx f.ty F.l.val 1) (packedEx f.ty (rightOp f F t) 1)] ++
         match F.p with | none => [] | some p => [decodeF .f32 (p.val.toNat % 2 ^ 32)]))))

/-- R151 to R154: minimum and maximum emit the bits of an operand, −0 below +0, or the canonical NaN; an immediate integer has the bits
of its exact value (R127); the sign operations touch the sign bit
alone; comparison and class. -/
def Obligations.FloatSelectionSignAndComparisonResults : Prop :=
  ∀ (f : Fields) (s : State), Computes true s →
    (f.src ≠ .immd → ∀ F t, rightBits f F t = pb f F t) ∧
    (f.src = .immd → ∀ F t, rightBits f F t = rnd (fmtD f.ty) .rne true 0 (Ex.ofInt f.imm.toInt)) ∧
    (∃ v : Ready → State → Nat, Values (.fmin f) f s (fun F t => BitVec.ofNat 64 (v F t)) ∧ ∀ F t,
      let x := xa f F
      let y := decodeF (fmtD f.ty) (rightBits f F t)
      (x = .nan → y = .nan → v F t = (fmtD f.ty).qnan) ∧
      (f.fn = 1 → x = .nan ∨ y = .nan → v F t = (fmtD f.ty).qnan) ∧
      (f.fn = 0 → x = .nan → y ≠ .nan → v F t = rightBits f F t) ∧ (f.fn = 0 → x ≠ .nan → y = .nan → v F t = pa f F) ∧
      (x ≠ .nan → y ≠ .nan → Ex.cmp x y = .lt → v F t = pa f F) ∧
      (x ≠ .nan → y ≠ .nan → Ex.cmp x y = .gt → v F t = rightBits f F t) ∧
      (x ≠ .nan → y ≠ .nan → Ex.cmp x y = .eq →
        v F t = if y.isZero = true ∧ y.neg = true ∧ x.neg = false then rightBits f F t else pa f F)) ∧
    (∃ v : Ready → State → Nat, Values (.fmax f) f s (fun F t => BitVec.ofNat 64 (v F t)) ∧ ∀ F t,
      let x := xa f F
      let y := decodeF (fmtD f.ty) (rightBits f F t)
      (x = .nan → y = .nan → v F t = (fmtD f.ty).qnan) ∧
      (f.fn = 1 → x = .nan ∨ y = .nan → v F t = (fmtD f.ty).qnan) ∧
      (f.fn = 0 → x = .nan → y ≠ .nan → v F t = rightBits f F t) ∧ (f.fn = 0 → x ≠ .nan → y = .nan → v F t = pa f F) ∧
      (x ≠ .nan → y ≠ .nan → Ex.cmp x y = .gt → v F t = pa f F) ∧
      (x ≠ .nan → y ≠ .nan → Ex.cmp x y = .lt → v F t = rightBits f F t) ∧
      (x ≠ .nan → y ≠ .nan → Ex.cmp x y = .eq →
        v F t = if x.isZero = true ∧ x.neg = true ∧ y.neg = false then rightBits f F t else pa f F)) ∧
    Values (.fabs f) f s (fun F _ => BitVec.ofNat 64 (pa f F % 2 ^ (tyW f.ty - 1))) ∧
    (∃ v : Ready → Nat, Values (.fneg f) f s (fun F _ => BitVec.ofNat 64 (v F)) ∧
      ∀ F k, (v F).testBit k = (if k = tyW f.ty - 1 then !(pa f F).testBit k else (pa f F).testBit k)) ∧
    (∀ n, f.fn = BitVec.ofNat 4 n → n ≤ 7 → ∃ v : Ready → State → Bool,
      Values (.fcmp f) f s (fun F t => if v F t then 1 else 0) ∧ ∀ F t,
        let x := xa f F
        let y := rightEx f F t
        (x = .nan ∨ y = .nan → (v F t = true ↔ n = 1 ∨ n = 6)) ∧
        (x ≠ .nan → y ≠ .nan →
          (v F t = true ↔ (n = 0 ∧ Ex.cmp x y = .eq) ∨ (n = 1 ∧ Ex.cmp x y ≠ .eq) ∨ (n = 2 ∧ Ex.cmp x y = .lt) ∨
            (n = 3 ∧ Ex.cmp x y ≠ .gt) ∨ (n = 4 ∧ Ex.cmp x y = .gt) ∨ (n = 5 ∧ Ex.cmp x y ≠ .lt) ∨ n = 7))) ∧
    (∃ k : Ready → Nat, Values (.fclass f) f s (fun F _ => BitVec.ofNat 64 (2 ^ k F)) ∧ ∀ F,
      (xa f F = .nan → k F = 8) ∧ (∀ n, xa f F = .inf n → k F = if n then 0 else 7) ∧
      (∀ n m d e, xa f F = .fin n m d e →
        let low := pa f F % 2 ^ ((fmtD f.ty).width - 1) < 2 ^ (fmtD f.ty).mant
        (m = 0 → k F = if n then 3 else 4) ∧ (m ≠ 0 → low → k F = if n then 2 else 5) ∧
        (m ≠ 0 → ¬low → k F = if n then 1 else 6)))

/-- R155 to R158, R160 to R162: conversions, rounding to an integer, scaling, quantising and dequantising. A scaling beyond ±8192
is as one by ±8192, where every nonzero finite value already overflows or rounds as a value below the least one. -/
def Obligations.FloatConversionResults : Prop :=
  ∀ (f : Fields) (s : State), Computes true s →
    let R := tyOf (BitVec.ofNat 4 (f.imm.toNat % 16))
    let m := modeOf (f.imm.toNat / 16 % 8)
    let sat : Bool := decide (f.imm.toNat / 128 % 2 = 0)
    Values (.fcvt f) f s (fun F t => BitVec.ofNat 64 (rnd (fmtD R) m sat (srOf t F 0) (xa f F))) ∧
    Values (.ftoi f) f s (fun F t => wrapTy R (match xa f F with
      | .nan => 0
      | .inf n => if n then tyMin R else tyMax R
      | .fin n u d e => max (tyMin R) (min (tyMax R) (rndInt m (srOf t F 0) n u d e)))) ∧
    Values (.itof f) f s (fun F t => BitVec.ofNat 64 (rnd (fmtD R) m sat (srOf t F 0) (Ex.ofInt (a f F)))) ∧
    Values (.frnd f) f s (fun F t => BitVec.ofNat 64 (match xa f F with
      | .nan => (fmtD f.ty).qnan
      | .inf _ => pa f F
      | .fin n u d e =>
        if u = 0 then pa f F
        else if rndInt (modeOf (f.fn.toNat % 8)) (srOf t F 0) n u d e = 0 then signed (fmtD f.ty) n 0
        else rnd (fmtD f.ty) .rne true 0 (Ex.ofInt (rndInt (modeOf (f.fn.toNat % 8)) (srOf t F 0) n u d e)))) ∧
    Values (.fscale f) f s (fun F t => rounded (fmtD f.ty) f F t
      (Ex.scale (xa f F) (max (-8192) (min 8192 (rightOp f F t).toInt)))) ∧
    (f.ty ≠ .i8 → Values (.quant f) f s (fun F t => rounded (fmtD f.ty) f F t
      (Ex.mul (decodeF .f32 (F.l.val.toNat % 2 ^ 32)) (decodeF .f32 ((rightOp f F t).toNat % 2 ^ 32))))) ∧
    (f.ty = .i8 → Values (.quant f) f s (fun F t => wrapTy .i8 (rndClamp (modeOf (f.fn.toNat % 8)) (srOf t F 0) (-128) 127
      (Ex.mul (decodeF .f32 (F.l.val.toNat % 2 ^ 32)) (decodeF .f32 ((rightOp f F t).toNat % 2 ^ 32)))))) ∧
    (f.ty ≠ .i8 → Values (.deq f) f s (fun F t => rounded .f32 f F t
      (Ex.mul (xa f F) (decodeF .f32 ((rightOp f F t).toNat % 2 ^ 32))))) ∧
    (f.ty = .i8 → Values (.deq f) f s (fun F t => rounded .f32 f F t
      (Ex.mul (Ex.ofInt (a f F)) (decodeF .f32 ((rightOp f F t).toNat % 2 ^ 32)))))

/-- R159: the division and the functions compute one function of their operand each, with the special operands and the exact results of its
table: FLOG2 of a power of two, of 1 among them, and FEXP2 of an integer. FSQRT and FRSQ round once a value that is the root itself or agrees
with it in 1,100 binary digits. That the other functions are rounded correctly where they are irrational is not said here. -/
def Obligations.FunctionResultsAndSpecialOperands : Prop :=
  ∀ (f : Fields) (s : State), Computes true s →
    let T := fmtD f.ty
    Values (.fdiv f) f s (fun F t => rounded T f F t (Ex.div (xa f F) (rightEx f F t))) ∧
    Values (.frcp f) f s (fun F t => rounded T f F t (Ex.div .one (xa f F))) ∧
    (∀ mk g, (mk, g) ∈ [(Instr.fsqrt, fSqrt), (.frsq, fRsq), (.fexp2, fExp2), (.flog2, fLog2), (.fsin, fTrig false), (.fcos, fTrig true),
        (.ftanh, fTanh)] →
      Values (mk f) f s fun F t =>
        BitVec.ofNat 64 (g T (modeOf (f.fn.toNat % 8)) (decide (f.fn.toNat < 8)) (srOf t F 0) (xa f F))) ∧
    (∀ mk ni zn zp pi, (mk, ni, zn, zp, pi) ∈
        [(Instr.fsqrt, Ex.nan, Ex.dy true 0 0, Ex.dy false 0 0, Ex.inf false),
         (.frcp, .dy true 0 0, .inf true, .inf false, .dy false 0 0), (.frsq, .nan, .inf true, .inf false, .dy false 0 0),
         (.fexp2, .dy false 0 0, .one, .one, .inf false), (.flog2, .nan, .inf true, .inf true, .inf false),
         (.fsin, .nan, .dy true 0 0, .dy false 0 0, .nan), (.fcos, .nan, .one, .one, .nan),
         (.ftanh, .dy true 1 0, .dy true 0 0, .dy false 0 0, .dy false 1 0)] →
      ((∀ F ∈ s.firing, xa f F = .inf true) → Values (mk f) f s fun F t => rounded T f F t ni) ∧
      ((∀ F ∈ s.firing, ∃ d e, d ≠ 0 ∧ xa f F = .fin true 0 d e) → Values (mk f) f s fun F t => rounded T f F t zn) ∧
      ((∀ F ∈ s.firing, ∃ d e, d ≠ 0 ∧ xa f F = .fin false 0 d e) → Values (mk f) f s fun F t => rounded T f F t zp) ∧
      ((∀ F ∈ s.firing, xa f F = .inf false) → Values (mk f) f s fun F t => rounded T f F t pi)) ∧
    ((∀ F ∈ s.firing, ∃ m d e, m ≠ 0 ∧ xa f F = .fin true m d e) → ∀ mk ∈ [Instr.fsqrt, .frsq, .flog2],
      Values (mk f) f s fun _ _ => BitVec.ofNat 64 T.qnan) ∧
    (∀ i : Int, -32768 < i → i < 32768 → (∀ F ∈ s.firing, ∃ n m e, m ≠ 0 ∧ xa f F = .fin n m 1 e ∧
        i * 2 ^ (-e).toNat = (if n then -(m : Int) else m) * 2 ^ e.toNat) →
      Values (.fexp2 f) f s fun F t => rounded T f F t (.fin false 1 1 i)) ∧
    (∀ (k : Nat) (e : Int), (∀ F ∈ s.firing, xa f F = .fin false (2 ^ k) 1 e) →
      Values (.flog2 f) f s (fun F t => rounded T f F t (Ex.ofInt (k + e))) ∧
      (k + e = 0 → Values (.flog2 f) f s fun _ _ => 0)) ∧
    ((∀ F ∈ s.firing, ∃ m e, xa f F = .fin false m 1 e ∧ m ≠ 0 ∧ m < 2 ^ 64) → ∃ v w : Ready → Ex,
      Values (.fsqrt f) f s (fun F t => rounded T f F t (v F)) ∧ Values (.frsq f) f s (fun F t => rounded T f F t (w F)) ∧
      ∀ F ∈ s.firing, ∀ m e, xa f F = .fin false m 1 e →
        (∃ n k, v F = .fin false n 1 k ∧ 2 * k ≤ e ∧ let x := m * 2 ^ (e - 2 * k).toNat
          n ^ 2 ≤ x ∧ x < (n + 1) ^ 2 ∧ (2 ^ 1100 ≤ n ∨ n ^ 2 = x)) ∧
        (∃ n c k, c ≠ 0 ∧ w F = .fin false n c k ∧ 2 * k ≤ -e ∧ let x := c ^ 2 * 2 ^ (-e - 2 * k).toNat
          m * n ^ 2 ≤ x ∧ x < m * (n + 1) ^ 2 ∧ (2 ^ 1100 ≤ n ∨ m * n ^ 2 = x)))

/-- R97 to R100, R73: what the four colour instructions do at the colour unit of a context that stands on this module. The unit reads the record
that an instruction names first, and goes on where that read neither faults nor ends the context. -/
def Sys2Proof.Claims.ColourFirings : Prop :=
  ∀ (f : Fields) (s : State) (F : Ready), s.firing = [F] → hubHere (ctxOf s F.u.ctx) = true →
    let x := ctxOf s F.u.ctx
    let k := F.u.copy
    (settle true F = .go → ∀ c, 1 ≤ c → c ≤ 4095 → recOf x k c = none → (∀ d, 1 ≤ d → d < c → recOf x k d ≠ none) →
      exec (.colourNew f) s = .next (close s (emitBoth f F kValue (BitVec.ofNat 64 c) (storeRec s F.u
        { copy := k, col := c, pcol := fcol F, pitr := fitr F, sx := F.u.x, sy := F.u.y, ss := F.stn, narg := f.imm.toNat % 8,
          nrec := 0, state := .opened, cm := false, tries := 0, site := f.imm.toNat / 8 % 2 ^ 16, fwd := 0,
          args := List.replicate 7 none })))) ∧
    (settle true F = .go → (∀ c, 1 ≤ c → c ≤ 4095 → recOf x k c ≠ none) →
      exec (.colourNew f) s = .next (close s (raise F { kind := 0x0F } s))) ∧
    (∀ R r, F.r = some R → R.kind ≠ 1 → R.kind ≠ 2 → 1 ≤ R.val.toNat → R.val.toNat ≤ 4095 →
      let w := touchArg s F.u.ctx k R.val.toNat
      isLive (ctxOf w F.u.ctx) = true → usedRec (ctxOf w F.u.ctx) k R.val.toNat = some r → r.state ≠ .forward → r.col = R.val.toNat →
      let n := f.imm.toNat % 8
      (r.args.getD n none = none → n < r.narg →
        exec (.colourArg f) s = .next (close s (emitFrom (storeRec w F.u
          { r with args := r.args.set n (some { val := F.l.val, ax := F.u.x, ay := F.u.y, as := F.stn, ak := F.l.kind }),
                   nrec := r.nrec + 1,
                   state := if r.nrec + 1 = r.narg ∧ r.state = .opened then .live else r.state })
          F.u F.u R.val.toNat 0 f.ta F.l.kind F.l.val false))) ∧
      (r.narg ≤ n ∨ (r.args.getD n none).isSome →
        exec (.colourArg f) s = .next (close s (raise F { kind := 0x0E } w)))) ∧
    (let w := touchRec s F.u.ctx k (fcol F)
     isLive (ctxOf w F.u.ctx) = true → ∀ r, usedRec (ctxOf w F.u.ctx) k (fcol F) = some r → r.state ≠ .forward →
      (settle true F = .go →
        let v := if r.state = .ended then w else storeRec w F.u { r with state := .returned }
        exec (.colourRet f) s = .next (close s (emitFrom (emitFrom v F.u F.u r.pcol r.pitr f.ta F.l.kind F.l.val false)
          F.u F.u r.pcol r.pitr f.tb kValue (BitVec.ofNat 64 r.site) false))) ∧
      exec (.colourEnd f) s = .next (close s (if r.state = .ended then w else storeRec w F.u { r with state := .ended })))

/-- R77, R76: what a call record's write leaves: the record is the colour unit's, and its 128 bytes stand at CRB + 128 × COL where the
table is mapped and writable. -/
def Sys2Proof.Claims.CallRecordIsStored : Prop :=
  ∀ (s : State) (u : UId) (r : CallRec) (x : Ctx), s.ctxs.find? (fun c => c.id == u.ctx) = some x → hubHere x = true → r.copy = 0 →
    r.state ≠ .free → ∀ p, translateNow s x .write (x.crb + 128 * r.col) = .ok p →
    recOf (ctxOf (storeRec s u r) u.ctx) 0 r.col = some r ∧
    (storeRec s u r).wlog = .bytes p.phys (recBytes r) :: s.wlog

/-- R365 to R369, R376, R389, R409, R475, R483, R484: EXIT and CFG.W.RECONF begin to drain, TRAP and BRK fault, YIELD spills, the service
and configuration instructions send their parts, and the groups of the site are read, level 0 being the paddock's. The model's choices in
it: the first of EXIT and a reconfiguration decides (log 53), the width that groups tile in an outing (54), the record of a config load
(84), TRAP and BRK pass L on with its kind (25). -/
def Obligations.ControlInstructionEffects : Prop :=
  ∀ (f : Fields) (s : State) (F : Ready), s.firing = [F] → settle true F = .go →
    let c := F.u.ctx
    let x := ctxOf s c
    (let w := commitPt s c F.u.copy (fcol F)
     let x := ctxOf w c
     w.ctxs.find? (fun y => y.id == c) = some x → x.cst = .running → x.purges = [] →
      (∃ t, exec (.exit f) s = .next t ∧ (ctxOf t c).cst = .draining ∧ (ctxOf t c).freezing = true ∧ (ctxOf t c).frz = noFrz ∧
        (ctxOf t c).reconf = none ∧ (ctxOf t c).exits = x.exits ++
          [{ code := F.l.val.toNat % 2 ^ 32, u := F.u, ss := F.stn, col := F.l.col.toNat, itr := F.l.itr.toNat }]) ∧
      (∃ t, exec (.cfgWReconf f) s = .next t ∧ (ctxOf t c).cst = .draining ∧ (ctxOf t c).freezing = true ∧
        (ctxOf t c).reconf = some (F.l.val, rVal F))) ∧
    (let w := commitPt s c F.u.copy (fcol F)
     let x := ctxOf w c
     w.ctxs.find? (fun y => y.id == c) = some x → x.cst = .draining → x.freezing = true →
      (∃ t, exec (.exit f) s = .next t ∧ (ctxOf t c).cst = .draining ∧ (ctxOf t c).exits = x.exits ++
          [{ code := F.l.val.toNat % 2 ^ 32, u := F.u, ss := F.stn, col := F.l.col.toNat, itr := F.l.itr.toNat }]) ∧
      exec (.cfgWReconf f) s = .next (close s w)) ∧
    (F.again = false → exec (.trap f) s = .next (close s (raise F { kind := 0x18 } s))) ∧
    (F.again = true → exec (.trap f) s = .next (close s (emitBoth f F F.l.kind F.l.val s))) ∧
    (let on := (dieReg s (dieOf s F.u)).bke.getLsbD (if x.world ≠ 0 then 1 else 0)
     (on = true → F.again = false → exec (.brk f) s = .next (close s (raise F { kind := 0x19 } s))) ∧
     (on = false ∨ F.again = true → exec (.brk f) s = .next (close s (emitBoth f F F.l.kind F.l.val s)))) ∧
    (f.fn = 0 → let r := yieldCus [F.u] (fcol F) s
      exec (.yield f) s = .next (close s (emit F f.tb kValue (BitVec.ofNat 64 r.1) (emit F f.ta kValue F.l.val r.2)))) ∧
    (f.fn = 1 → x.members.length ≤ 1 → x.member = 0 → let r := yieldCus (copyCus x F.u.copy) (fcol F) s
      exec (.yield f) s = .next (close s (emit F f.tb kValue (BitVec.ofNat 64 r.1) (emit F f.ta kValue F.l.val r.2)))) ∧
    Requests (.errf f) s F (hubOf F.u) [] ∧
    (F.u.copy = 0 → Requests (.svcCall f) s F (muOf F.u) [] ∧ Requests (.svcArg f) s F (muOf F.u) []) ∧
    (F.u.copy ≠ 0 → exec (.svcCall f) s = .next (close s s) ∧ exec (.svcArg f) s = .next (close s s)) ∧
    (let w := commitPt s c F.u.copy (fcol F)
     let sends (w : State) (i : Instr) (pos stn rt : Nat) (v : Word) (l : CfgLoad) : Prop :=
       emitsTokens (ctxOf w c) = true → onModule (ctxOf w c) F.u.x = true →
       ∃ T : Flit, T.kind = 3 ∧ T.val = v ∧ T.pos.toNat = pos ∧ T.stn.toNat = stn ∧ T.ctx = BitVec.ofNat 9 c ∧ T.col = F.l.col ∧
        T.itr = F.l.itr ∧ T.rid = ridOf (ctxOf w c).key T.stn T.pos ∧ T.rsv = 0 ∧
        (rt = 0 → exec i s = .next (close s { w with fab := { w.fab with arrivals := w.fab.arrivals ++
          [{ u := F.u, own := true, tok := T, cfg := some l }] } })) ∧
        (rt ≠ 0 → exec i s = .next (close s (sendFlit w F.u (routeDest w F.u rt) false T (some l))))
     sends w (.cfgWStn f) 0 (tgtStn f.ta) (tgtRoute f.ta) F.l.val
        { rd := false, grp := none, reply := some { u := F.u, col := fcol F, itr := fitr F, ta := 0xC00, tb := f.tb, kind := kReply } } ∧
      sends w (.cfgWK f) 1 (f.imm.toNat % 64) (tgtRoute f.ta) F.l.val
        { rd := false, grp := none, reply := some { u := F.u, col := fcol F, itr := fitr F, ta := 0xC00, tb := f.tb, kind := kReply } } ∧
      sends w (.kset f) 1 (if f.src = .unary then f.imm.toNat % 64 else (rVal F).toNat % 64) 0 F.l.val
        { rd := false, grp := none, reply := some { u := F.u, col := fcol F, itr := fitr F, ta := f.ta, tb := f.tb, kind := kValue } } ∧
      (f.imm.toNat / 64 % 8 ≠ 0 →
        sends s (.kget f) 1 (if f.src = .unary then f.imm.toNat % 64 else (rVal F).toNat % 64) (f.imm.toNat / 64 % 8) 0
          { rd := true, grp := none, reply := some { u := F.u, col := fcol F, itr := fitr F, ta := f.ta, tb := f.tb, kind := kValue } })) ∧
    (let kn := if f.src = .unary then f.imm.toNat % 64 else (rVal F).toNat % 64
     (f.imm.toNat / 64 % 8 = 0 → exec (.kget f) s = .next (close s (emitBoth f F kValue (kreg s F.u kn) s)))) ∧
    (∀ p, p = F.l.val → F.u.copy = 0 → windowFault x (poolSize x) [0, 1, 2, 3] p 64 = none →
      (winOf p ≠ 2 → Requests (.launch f) s F (readMu x F p) []) ∧
      (winOf p = 2 → offOf p % 64 = 0 →
        Ends (.launch f) s (sendReq (muOf F.u) (.launch f) F (wordsOf (rdBytes s (locUnit F.u (offOf p)) 64)) (poolError F p s)))) ∧
    (∀ g, groupAt x (f.imm.toNat % 8) = some g →
      let gx := F.u.x / 4 / g.gw
      let gy := F.u.y / g.gh
      let nx := (padW x / 4 + g.gw - 1) / g.gw
      (f.fn = 0 → exec (.grpId f) s = .next (close s (emitBoth f F kValue (BitVec.ofNat 64 (gy * nx + gx)) s))) ∧
      (f.fn = 1 → exec (.grpId f) s = .next (close s (emitBoth f F kValue (BitVec.ofNat 64 (gx % 2 ^ 32 + 2 ^ 32 * gy)) s))) ∧
      (f.fn = 2 → exec (.grpId f) s = .next (close s (emitBoth f F kValue (BitVec.ofNat 64 (parIndex x g F.u.x F.u.y)) s))) ∧
      (f.fn = 3 → exec (.grpId f) s = .next (close s (emitBoth f F kValue
        (BitVec.ofNat 64 (F.u.y % g.gh * (4 * g.gw) + F.u.x % (4 * g.gw))) s))) ∧
      (f.fn = 1 → exec (.grpSize f) s = .next (close s (emitBoth f F kValue
        (BitVec.ofNat 64 (nx % 2 ^ 32 + 2 ^ 32 * ((x.ph + g.gh - 1) / g.gh))) s))) ∧
      (f.fn = 0 → exec (.grpSize f) s = .next (close s (emitBoth f F kValue
        (BitVec.ofNat 64 (min g.gw (padW x / 4 - gx * g.gw) % 2 ^ 32 + 2 ^ 32 * min g.gh (x.ph - gy * g.gh))) s)))) ∧
    (groupAt x (f.imm.toNat % 8) = none →
      (f.fn = 0 ∨ f.fn = 1 ∨ f.fn = 2 → exec (.grpId f) s = .next (close s (emitBoth f F kValue 0 s))) ∧
      (f.fn = 3 → exec (.grpId f) s = .next (close s (emitBoth f F kValue (BitVec.ofNat 64 (F.u.y * padW x + F.u.x)) s))) ∧
      (f.fn = 0 → exec (.grpSize f) s = .next (close s (emitBoth f F kValue
        (BitVec.ofNat 64 (padW x / 4 % 2 ^ 32 + 2 ^ 32 * x.ph)) s))) ∧
      (f.fn = 1 → exec (.grpSize f) s = .next (close s (emitBoth f F kValue 0x1_0000_0001 s))))

/-- R410, R411, R476, R477, R485, R486, R45: the context, cycle, energy and wear readings, the register accesses, error injection and the
station test word. The model's choices in it: DIAG's kind of token (log 25), the coordinates of an injection (69). -/
def Obligations.RegisterReadingInstructionEffects : Prop :=
  ∀ (f : Fields) (s : State) (F : Ready), s.firing = [F] → settle true F = .go →
    let x := ctxOf s F.u.ctx
    exec (.ctxid f) s = .next (close s (emitBoth f F kValue (BitVec.ofNat 64 (x.id + 2 ^ 9 * (x.flg % 2) + 2 ^ 10 * (x.flg / 2 % 2) +
      2 ^ 11 * x.member + 2 ^ 19 * x.world + 2 ^ 32 * (x.rcnt % 2 ^ 16))) s)) ∧
    exec (.cyc f) s = .next (close s (emitBoth f F kValue (cycleOf s (dieOf s F.u)) s)) ∧
    (s.boot.dies.contains (dieOf s F.u) = true →
      cycleOf s (dieOf s F.u) = BitVec.ofNat 64 (s.clock - fget 0 s.svc.released (dieOf s F.u))) ∧
    exec (.diag f) s = .next (close s (emit F f.tb kValue (f.imm.setWidth 64) (emit F f.ta F.l.kind F.l.val s))) ∧
    (f.fn = 2 → Requests (.wearrd f) s F (hubOf F.u) []) ∧
    (f.fn = 0 ∨ f.fn = 1 → exec (.wearrd f) s = .next (close s (emitBoth f F kValue
      (let p := wearSite F
       if inPaddock x p.1 p.2 = true ∧ onModule x p.1 = true then
         let l := lifeOf s (physAt s (modPos s (siteOf F.u p.1 p.2)))
         BitVec.ofNat 64 (if f.fn = 0 then l.lwear else lifeWord l)
       else BitVec.allOnes 64) s))) ∧
    (∃ t, exec (.enrd f) s = .next t ∧ t.fab.charges = fset 0 s.fab.charges (uKey F.u) 0 ∧
      (onModule x (hubOf F.u).x = true → t.mu.reqs = s.mu.reqs ++ [
        { mu := hubOf F.u, i := .enrd f, c := F, k := [BitVec.ofNat 64 (fget 0 s.fab.charges (uKey F.u))], iseq := fget 0 s.fab.issues (uKey F.u * 128 + F.stn) }])) ∧
    (F.l.val.toNat < 2 ^ 27 → x.world = 0 → exec (.syswr f) s = .next (close s
      (emitBoth f F kValue (BitVec.ofNat 64 (syswrStatus s F))
        (if syswrStatus s F = 0 then regWrite s true (stationSel s F F.l.val.toNat) (rVal F) else s)))) ∧
    (2 ^ 27 ≤ F.l.val.toNat ∨ x.world ≠ 0 → Requests (.syswr f) s F (muOf F.u) [rVal F]) ∧
    (F.l.val.toNat < 2 ^ 27 → x.world = 0 → exec (.sysrd f) s = .next (close s
      (emit F f.tb kValue (BitVec.ofNat 64 (sysrdVal s F).2) (emit F f.ta kValue (BitVec.ofNat 64 (sysrdVal s F).1) s)))) ∧
    (2 ^ 27 ≤ F.l.val.toNat ∨ x.world ≠ 0 → Requests (.sysrd f) s F (muOf F.u) []) ∧
    (x.world = 0 → exec (.errinj f) s = .next (close s (raise F { kind := 0x1A } s))) ∧
    (x.world ≠ 0 →
      let k := F.l.val.toNat % 8
      let d := injDie s F
      ((injOf s d).iar = true → exec (.errinj f) s = .next (close s (emitBoth f F kValue 2 s))) ∧
      ((injOf s d).iar = false → k = 0 ∨ k = 4 ∨ 6 ≤ k ∨ injInside s F = false →
        exec (.errinj f) s = .next (close s (emitBoth f F kValue 1 s))) ∧
      ((injOf s d).iar = false → k = 1 ∨ k = 2 ∨ k = 3 ∨ k = 5 → injInside s F = true →
        exec (.errinj f) s = .next (close s (emitBoth f F kValue 0 (setInj s d
          { ik := k, ibt := F.l.val.toNat / 8 % 64, ix := (diePos s (injUnit F)).1, iy := (diePos s (injUnit F)).2,
            iof := F.l.val.toNat / 2 ^ 24 % 2 ^ 20, iar := F.l.val.getLsbD 63 })))))

/-- R163 to R165: an access whose first and last byte lie in different windows faults WINDOW_CROSS; one whose window the
instruction does not accept, or whose pointer is not valid there, faults WINDOW_INVALID; every other passes. -/
def Obligations.PointerWindowChecks : Prop :=
  ∀ (x : Ctx) (loc : Nat) (wins : List Nat) (p : Word) (n : Nat),
    let last := p.toNat + (n - 1)
    let q := BitVec.ofNat 64 last
    let valid (p : Word) : Prop :=
      match (p.extractLsb' 62 2).toNat with
      | 0 => p.extractLsb' 57 5 = 0
      | 1 => p.extractLsb' 20 28 = 0 ∧ 4 * (p.extractLsb' 55 7).toNat < padW x ∧ (p.extractLsb' 48 7).toNat < x.ph
      | 2 => p.extractLsb' 20 42 = 0 ∧ (p.extractLsb' 0 20).toNat < loc
      | _ => True
    (p.toNat / 2 ^ 62 ≠ last / 2 ^ 62 → windowFault x loc wins p n = some 0x06) ∧
    (p.toNat / 2 ^ 62 = last / 2 ^ 62 →
      (¬((p.extractLsb' 62 2).toNat ∈ wins ∧ valid p ∧ valid q) → windowFault x loc wins p n = some 0x07) ∧
      ((p.extractLsb' 62 2).toNat ∈ wins → valid p → valid q → windowFault x loc wins p n = none))

/-- R184 to R188, R192 to R201: where the memory instructions send their requests, with what they took from K, and the pointer faults
that they take; an access to the CU's own pool acts at once. -/
def Sys2Proof.Claims.MemoryInstructionsAtIssue : Prop :=
  ∀ (f : Fields) (s : State) (F : Ready), s.firing = [F] → settle true F = .go →
    let x := ctxOf s F.u.ctx
    let n := tyBytes f.ty
    let l := F.l.val
    let v := rightOp f F s
    (∀ p, shiftPtr l (dispOf f) = some p →
      (winOf p = 2 → windowFault x (poolSize x) [2] p n = none → offOf p % n = 0 →
        let w := extendTy f.ty (leNat (rdBytes s (locUnit F.u (offOf p)) n))
        (readFails s (locUnit F.u (offOf p)) = false → exec (.ld f) s = .next (close s (replyBoth F.u f F w w s))) ∧
        (readFails s (locUnit F.u (offOf p)) = true →
          exec (.ld f) s = .next (close s (trapErr (replyBoth F.u f F w w s) F.u (fcol F) 0x12))) ∧
        exec (.st f) s = .next (close s (replyBoth F.u f F 0 0 (wrBytes s (locUnit F.u (offOf p)) (leBytes v.toNat n))))) ∧
      (winOf p = 2 → windowFault x (poolSize x) [2] p n = none → offOf p % n ≠ 0 → ∀ mk ∈ [Instr.ld, .st],
        exec (mk f) s = .next (close s (raise F { kind := 0x08, va := p } s))) ∧
      (winOf p ≠ 2 → windowFault x (poolSize x) [0, 1, 3] p n = none →
        Requests (.ld f) s F (accessMu s F p) [] ∧ Requests (.st f) s F (accessMu s F p) [v]) ∧
      (winOf p ≠ 2 → ∀ e, windowFault x (poolSize x) [0, 1, 3] p n = some e → ∀ mk ∈ [Instr.ld, .st],
        exec (mk f) s = .next (close s (raise F { kind := e, va := p } s))) ∧
      (windowFault x (poolSize x) [1] p 8 = none →
        Requests (.isRd f) s F (muNamed F.u p) [] ∧ Requests (.isWr f) s F (muNamed F.u p) [v] ∧
        Requests (.isClr f) s F (muNamed F.u p) []) ∧
      (∀ e, windowFault x (poolSize x) [1] p 8 = some e → ∀ mk ∈ [Instr.isRd, .isWr, .isClr],
        exec (mk f) s = .next (close s (raise F { kind := e, va := p } s)))) ∧
    (shiftPtr l (dispOf f) = none → ∀ mk ∈ [Instr.ld, .st, .isRd, .isWr, .isClr],
      exec (mk f) s = .next (close s (raise F { kind := 0x07, va := l + BitVec.ofInt 64 (dispOf f) } s))) ∧
    (∀ p, homePtr f F = some p → windowFault x (poolSize x) [1] p n = none →
      Requests (.lds f) s F (muOf F.u) [] ∧ Requests (.sts f) s F (muOf F.u) [v]) ∧
    (homePtr f F = none → ∀ mk ∈ [Instr.lds, .sts],
      exec (mk f) s = .next (close s (raise F { kind := 0x07, va := l + BitVec.ofInt 64 (dispOf f) } s))) ∧
    (windowFault x (poolSize x) [0, 1, 3] l 1 = none →
      Requests (.ldl f) s F (accessMu s F l) [v] ∧ Requests (.ltagGet f) s F (accessMu s F l) [] ∧
      Requests (.ltagSet f) s F (accessMu s F l) [v]) ∧
    (winOf l = 3 → Requests (.gld f) s F (muOf F.u) [v, kreg s F.u (f.imm.toNat % 64)]) ∧
    (winOf l ≠ 3 → exec (.gld f) s = .next (close s (raise F { kind := 0x07, va := l } s))) ∧
    Requests (.pfch f) s F (muOf F.u) []

/-- R196, R211 to R214, R471: where STL and the atomics send their requests; only the primary of a REDUNDANT context sends one for a
global word. -/
def Sys2Proof.Claims.StlAndAtomicsAtIssue : Prop :=
  ∀ (f : Fields) (s : State) (F : Ready), s.firing = [F] →
    let x := ctxOf s F.u.ctx
    let n := tyBytes f.ty
    let l := F.l.val
    let v := rightOp f F s
    (settle false F = .go → windowFault x (poolSize x) [0, 1, 3] l 1 = none → Requests (.stl f) s F (accessMu s F l) [v]) ∧
    (∀ mk ∈ [Instr.aadd, .amin, .amax, .aand, .aor, .axor, .axchg, .afadd, .acas],
      (mk f ≠ .acas f → settle true F = .go) → (mk f = .acas f → settle false F = .go) →
      (windowFault x (poolSize x) [0, 1, 3] l n = none →
        (winOf l = 1 → Requests (mk f) s F (muNamed F.u l) [v]) ∧
        (winOf l ≠ 1 → F.u.copy = 0 → Requests (mk f) s F (muOf F.u) [v]) ∧
        (winOf l ≠ 1 → F.u.copy ≠ 0 → exec (mk f) s = .next (close s s))) ∧
      (∀ e, windowFault x (poolSize x) [0, 1, 3] l n = some e →
        exec (mk f) s = .next (close s (raise F { kind := e, va := l } s)))) ∧
    (settle true F = .go → windowFault x (poolSize x) [1] l n = none → winOf l = 1 →
      Requests (.aaddth f) s F (muNamed F.u l) [v, kreg s F.u (f.imm.toNat % 64)] ∧
      Requests (.await f) s F (muNamed F.u l) [v])

/-- R202, R203, R210: PHASE parks its firing in its arrival set; FENCE sends the count of its instance; POOL.PART reads the
partition. -/
def Sys2Proof.Claims.PhaseFenceAndPoolAtIssue : Prop :=
  ∀ (f : Fields) (s : State) (F : Ready), s.firing = [F] →
    (settle true F = .go → exec (.phase f) s = .next (close s { s with fab := { s.fab with parked := s.fab.parked ++
      [{ f := F, ta := f.ta, tb := f.tb, lvl := if f.imm.toNat % 8 = 1 then f.imm.toNat / 8 % 8 else 0 }] } })) ∧
    exec (.fence f) s = .next (close s (emitBoth f F kValue F.l.val s)) ∧
    (settle true F = .go → exec (.poolPart f) s = .next (close s (replyBoth F.u f F
      (BitVec.ofNat 64 ((ctxOf s F.u.ctx).part % 256)) (BitVec.ofNat 64 (poolSize (ctxOf s F.u.ctx))) s)))

/-- R188: a request of a station stands last at the port of an MU of this module, with the station's issue count. -/
def Sys2Proof.Claims.RequestReachesItsPort : Prop :=
  ∀ (s : State) (mu : UId) (i : Instr) (F : Ready) (k : List Word), onModule (ctxOf s F.u.ctx) mu.x = true →
    sendReq mu i F k s = { s with mu := { s.mu with reqs := s.mu.reqs ++
      [{ mu := mu, i := i, c := F, k := k, iseq := fget 0 s.fab.issues (uKey F.u * 128 + F.stn) }] } }

/-- R173, R176, R186, R192: what an MU does with loads and stores of a scratchpad: a load answers the bytes that the firing's CU and colour
see, a store joins the phase buffer and is answered; misaligned ones fault. The model's choices in it: a load after an own unordered store
gives the stored value (log 14). -/
def Obligations.ScratchpadLoadsAndStoresServed : Prop :=
  ∀ (s : State) (q : Req) (f : Fields), Oldest s q →
    let n := tyBytes f.ty
    (∀ p m, (q.i = .ld f ∧ shiftPtr q.c.l.val (dispOf f) = some p ∧ winOf p = 1 ∧ m = muNamed q.c.u p) ∨
        (q.i = .lds f ∧ homePtr f q.c = some p ∧ m = q.mu) →
      let off := offOf p
      (off % n ≠ 0 → Serves s q fun t => raise q.c { kind := 0x08, va := p } t) ∧
      (off % n = 0 → ∀ e, liveFault s (locUnit m off) n = some e → Serves s q fun t => raise q.c { kind := e, va := p } t) ∧
      (off % n = 0 → liveFault s (locUnit m off) n = none → readFails s (locUnit m off) = false →
        let byte (k : Nat) : Byte :=
          match ownByte s q.mu q.c (muPtr m (off / 64 * 64)) (off % 64 + k) with
          | some b => b
          | none => if isState s (locUnit m (off / 64 * 64) + off % 64 + k) = 0
                    then rd8 s (locUnit m (off / 64 * 64) + off % 64 + k) else 0
        let v := extendTy f.ty (leNat ((List.range n).map byte))
        Serves s q fun t => replyBoth q.mu f q.c v v t)) ∧
    (∀ p m, (q.i = .st f ∧ shiftPtr q.c.l.val (dispOf f) = some p ∧ winOf p = 1 ∧ m = muNamed q.c.u p) ∨
        (q.i = .sts f ∧ homePtr f q.c = some p ∧ m = q.mu) →
      let off := offOf p
      let bs := leBytes (q.k.getD 0 0).toNat n
      let o : StoreOp := { la := muPtr m (off / 64 * 64), loc := locUnit m (off / 64 * 64), off := off % 64, bytes := bs,
                           ntag := none, page := none, host := false }
      (off % n ≠ 0 → Serves s q fun t => raise q.c { kind := 0x08, va := p } t) ∧
      (off % n = 0 → (m = q.mu → liveFault s (locUnit m off) n = none) →
        (∀ t', acceptStore (taken s q) q o = some t' → Serves s q fun _ => replyBoth q.mu f q.c 0 0 t') ∧
        (acceptStore (taken s q) q o = none → Serves s q fun t => raise q.c { kind := 0x0C, va := p } t)))

/-- R187, R192, R193, R205, R418: what an MU does with a global load or store: the checks of the capability and of the alignment,
the translation, and then the load waits for its data and the store joins the phase buffer. -/
def Sys2Proof.Claims.GlobalLoadsAndStoresServed : Prop :=
  ∀ (s : State) (q : Req) (f : Fields) (p : Word), Oldest s q →
    let n := tyBytes f.ty
    let w := touched s q
    (q.i = .ld f → shiftPtr q.c.l.val (dispOf f) = some p → winOf p ≠ 1 →
      (∀ e, resolveVa w q.mu p n n false = .error e → Serves s q fun _ => raise q.c e w) ∧
      (∀ va, resolveVa w q.mu p n n false = .ok va →
        (∀ e, translate w q .read va = .fault e → Serves s q fun _ => raise q.c (xInfo e) w) ∧
        (∀ t, translate w q .read va = .waits t → Serves s q fun _ => t) ∧
        (∀ a t, translate w q .read va = .ok a t →
          (allOwn t q (lineVa va) (va % 64) n = false → Serves s q fun _ =>
            { t with mu := { t.mu with loads := t.mu.loads ++ [{ req := q, va := va, phys := a.phys }] } }) ∧
          (allOwn t q (lineVa va) (va % 64) n = true → 0 < n → Serves s q fun _ =>
            let v := extendTy f.ty (leNat (seenBytes t q (lineVa va) (a.phys - va % 64) (va % 64) n false))
            replyBoth q.mu f q.c v v t)))) ∧
    (q.i = .st f → shiftPtr q.c.l.val (dispOf f) = some p → winOf p ≠ 1 →
      let bs := leBytes (q.k.getD 0 0).toNat n
      (∀ e, resolveVa w q.mu p n n true = .error e → Serves s q fun _ => raise q.c e w) ∧
      (∀ va, resolveVa w q.mu p n n true = .ok va →
        (∀ e, translate w q .write va = .fault e → Serves s q fun _ => raise q.c (xInfo e) w) ∧
        (∀ t, translate w q .write va = .waits t → Serves s q fun _ => t) ∧
        (∀ a t t', translate w q .write va = .ok a t →
          acceptStore t q (globalOp (ctxOf t q.c.u.ctx) va a bs none) = some t' → Serves s q fun _ => replyBoth q.mu f q.c 0 0 t') ∧
        (∀ a t, translate w q .write va = .ok a t →
          acceptStore t q (globalOp (ctxOf t q.c.u.ctx) va a bs none) = none →
          Serves s q fun _ => raise q.c { kind := 0x0C, va := BitVec.ofNat 64 va } t))) ∧
    (q.i = .gld f → ∀ e, capLive w q.mu q.c.l.val = .error e → Serves s q fun _ => raise q.c e w) ∧
    (q.i = .gld f → ∀ e, capLive w q.mu q.c.l.val = .ok e →
      let i := (q.k.getD 0 0).toInt
      (i < 0 ∨ (capOff q.c.l.val : Int) + (i + 1) * n > e.len →
        Serves s q fun _ => replyBoth q.mu f q.c (extendTy f.ty (q.k.getD 1 0).toNat) 1 w) ∧
      (0 ≤ i → (capOff q.c.l.val : Int) + (i + 1) * n ≤ e.len →
        let va := e.base + capOff q.c.l.val + i.toNat * n
        (va % n ≠ 0 → Serves s q fun _ => raise q.c { kind := 0x08, va := q.c.l.val } w) ∧
        (va % n = 0 → ∀ a t, translate w q .read va = .ok a t → allOwn t q (lineVa va) (va % 64) n = false →
          Serves s q fun _ => { t with mu := { t.mu with loads := t.mu.loads ++ [{ req := q, va := va, phys := a.phys }] } })))

/-- R198, R200: write-once words. A read of a FULL word answers it and any other read parks; the one write of a word that is not FULL
stores it and releases its readers in order with the value; a clear empties a word that has no parked reader; a second write and a
clear under readers fault ISTRUCT. -/
def Obligations.WriteOnceWordsServed : Prop :=
  ∀ (s : State) (q : Req) (f : Fields) (p : Word), Oldest s q → shiftPtr q.c.l.val (dispOf f) = some p →
    let off := offOf p
    let loc := locUnit q.mu off
    (∀ mk ∈ [Instr.isRd, .isWr, .isClr], q.i = mk f → off % 8 ≠ 0 → Serves s q fun t => raise q.c { kind := 0x08, va := p } t) ∧
    (off % 8 = 0 → liveFault s loc 8 = none →
      (q.i = .isRd f → isState s loc = 0 → readFails s loc = false →
        Serves s q fun t => replyBoth q.mu f q.c (BitVec.ofNat 64 (rdN s loc 8)) (BitVec.ofNat 64 (rdN s loc 8)) t) ∧
      (q.i = .isRd f → isState s loc ≠ 0 → ∀ i, freeWaiter s q.mu = some i →
        ∃ t, exec (.muRequest q.mu) s = .next t ∧ isState t loc = 2 ∧ t.mu.waiters = s.mu.waiters ++
          [{ mu := q.mu, idx := i, wk := 0, off := off, u := q.c.u, col := fcol q.c, itr := fitr q.c, ss := q.c.stn, ta := f.ta,
             tb := f.tb, wty := f.ty, arg := 0 }]) ∧
      (q.i = .isRd f → isState s loc ≠ 0 → freeWaiter s q.mu = none →
        Serves s q fun t => raise q.c { kind := 0x0C, va := p } t) ∧
      (q.i = .isWr f → isState s loc ≠ 0 → Serves s q fun t =>
        commitPt (releaseAll (replyBoth q.mu f q.c 0 0 (setIs (wrN t loc 8 (q.k.getD 0 0).toNat) loc 0)) q.mu 0 off (q.k.getD 0 0))
          q.c.u.ctx q.c.u.copy (fcol q.c)) ∧
      (q.i = .isWr f → isState s loc = 0 → Serves s q fun t => raise q.c { kind := 0x1C, va := p } t) ∧
      (q.i = .isClr f → isState s loc ≠ 2 → Serves s q fun t =>
        commitPt (replyBoth q.mu f q.c 0 0 (setIs (wrN t loc 8 0) loc 1)) q.c.u.ctx q.c.u.copy (fcol q.c)) ∧
      (q.i = .isClr f → isState s loc = 2 → Serves s q fun t => raise q.c { kind := 0x1C, va := p } t))

/-- R194 to R197: what an MU does with the accesses to a described line of its own module's scratchpads. -/
def Sys2Proof.Claims.LineAccessesServed : Prop :=
  ∀ (s : State) (q : Req) (f : Fields), Oldest s q → winOf q.c.l.val = 1 →
    let p := q.c.l.val
    let m := muNamed q.c.u p
    let off := offOf p / 64 * 64
    let la := muPtr m off
    let loc := locUnit m off
    let tag := match ownTag s q.mu q.c la with | some t => t | none => lineTag s loc
    let i := (q.k.getD 0 0).toNat
    (∀ mk ∈ [Instr.ltagGet, .ltagSet], q.i = mk f → ∀ k, liveFault s loc 64 = some k →
      Serves s q fun t => raise q.c { kind := k, va := p } t) ∧
    (q.i = .ltagGet f → liveFault s loc 64 = none → Serves s q fun t => replyBoth q.mu f q.c (tag.setWidth 64) (tag.setWidth 64) t) ∧
    (q.i = .ltagSet f → liveFault s loc 64 = none → (lineFmtOf (i % 256)).isSome → ∀ t',
      acceptStore (taken s q) q { la := la, loc := loc, off := 0, bytes := [], ntag := some (BitVec.ofNat 16 i), page := none,
                                  host := false } = some t' →
      Serves s q fun _ => replyBoth q.mu f q.c 0 0 t') ∧
    (q.i = .ltagSet f → liveFault s loc 64 = none → lineFmtOf (i % 256) = none →
      Serves s q fun t => raise q.c { kind := 0x17, fks := i % 256, va := p } t) ∧
    (q.i = .ldl f → offOf p % 64 = 0 → readFails s loc = false →
      (lineFmtOf (tag.extractLsb' 0 8).toNat = none →
        Serves s q fun t => raise q.c { kind := 0x17, fks := (tag.extractLsb' 0 8).toNat, va := p } t) ∧
      (∀ n w e, lineFmtOf (tag.extractLsb' 0 8).toNat = some (n, w, e) →
        (n ≤ i → Serves s q fun t => raise q.c { kind := 0x07, va := p } t) ∧
        (i < n → ∀ k, liveFault s (loc + i * w / 8) (max 1 (w / 8)) = some k → Serves s q fun t => raise q.c { kind := k, va := p } t) ∧
        (i < n → liveFault s (loc + i * w / 8) (max 1 (w / 8)) = none →
          let b := nbits (leNat (seenBytes s q la loc (i * w / 8) (max 1 (w / 8)) true)) (i * w % 8) w
          let v := if tag.extractLsb' 0 8 = 0 then BitVec.ofNat 64 b
            else rounded .f32 f q.c s (lineDecode tag e b)
          Serves s q fun t => replyBoth q.mu f q.c v v t))) ∧
    (q.i = .stl f → offOf p % 64 = 0 →
      let tg := if f.imm.toNat / 2 ^ 16 % 2 = 1 then BitVec.ofNat 16 f.imm.toNat else tag
      (lineFmtOf (tg.extractLsb' 0 8).toNat = none →
        Serves s q fun t => raise q.c { kind := 0x17, fks := (tg.extractLsb' 0 8).toNat, va := p } t) ∧
      (∀ n w e, lineFmtOf (tg.extractLsb' 0 8).toNat = some (n, w, e) →
        (n ≤ i → Serves s q fun t => raise q.c { kind := 0x07, va := p } t) ∧
        (i < n → m = q.mu → ∀ k, liveFault s (loc + i * w / 8) (max 1 (w / 8)) = some k →
          Serves s q fun t => raise q.c { kind := k, va := p } t) ∧
        (i < n → (m = q.mu → liveFault s (loc + i * w / 8) (max 1 (w / 8)) = none) → ∀ t',
          let v := pVal q.c
          let b := if tg.extractLsb' 0 8 = 0 then v.toNat % 2 ^ 32
            else lineEncode tg e (modeOf (f.fn.toNat % 8)) (decide (f.fn.toNat < 8)) (srOf s q.c 0) (decodeF .f32 (v.toNat % 2 ^ 32))
          acceptStore (taken s q) q { la := la, loc := loc, off := i * w / 8, bytes := stlBytes s q la loc true i w b,
                                      ntag := some tg, page := none, host := false } = some t' →
          Serves s q fun _ => replyBoth q.mu f q.c 0 0 t')))

/-- R201: PFCH answers 0 at once for a scratchpad or pool pointer, 2 for an invalid pointer, and else the outcome of its look-up, or
it starts a walk. -/
def Sys2Proof.Claims.PrefetchServed : Prop :=
  ∀ (s : State) (q : Req) (f : Fields), Oldest s q → q.i = .pfch f →
    let p := q.c.l.val
    let x := ctxOf s q.c.u.ctx
    let ans (v : Word) (t : State) : State := replyBoth q.mu f q.c v v t
    (winOf p = 1 ∨ winOf p = 2 → Serves s q fun t => ans 0 t) ∧
    (winOf p ≠ 1 → winOf p ≠ 2 →
      let w := touched s q
      (pfchVa w q.mu p = none → Serves s q fun _ => ans 2 w) ∧
      (∀ va, pfchVa w q.mu p = some va →
        (∀ a t, lookUp w q.mu x .read va = some (.ok a, t) → Serves s q fun _ => ans 0 t) ∧
        (∀ e t, lookUp w q.mu x .read va = some (.error e, t) → Serves s q fun _ => ans 1 t) ∧
        (lookUp w q.mu x .read va = none → Serves s q fun _ =>
          { w with tr := { w.tr with walks := w.tr.walks ++ [{ mu := q.mu, as := x.as, va := va, req := q }] } })))

/-- R211 to R214: what an atomic does to a word of `w` bits: the word's new value and the answer, at the scratchpad bank and, for
GLOBAL_ATOMIC_PERFORM, at the memory controller. -/
def Obligations.AtomicsPerformed : Prop :=
  ∀ (s : State) (q : Req) (f : Fields),
    let w := tyW f.ty
    let n := tyBytes f.ty
    let arg := lowBits f.ty (q.k.getD 0 0)
    let int (v : Nat) : Int := intOf f.ty (BitVec.ofNat 64 v)
    let upd (mk : Fields → Instr) (new : Nat → Nat) : Prop := ∀ old, q.i = mk f → atomicNew q.i f.ty old arg (lowBits f.ty (pVal q.c)) = (new old, true)
    (upd .aadd (fun a => (a + arg) % 2 ^ w) ∧ upd .aaddth (fun a => (a + arg) % 2 ^ w) ∧ upd .aand (fun a => a &&& arg) ∧
      upd .aor (fun a => a ||| arg) ∧ upd .axor (fun a => a ^^^ arg) ∧ upd .axchg (fun _ => arg) ∧
      upd .amin (fun a => if int arg < int a then arg else a) ∧ upd .amax (fun a => if int a < int arg then arg else a) ∧
      upd .afadd (fun a => rnd (fmtD f.ty) .rne false 0 (Ex.add false (decodeF (fmtD f.ty) a) (decodeF (fmtD f.ty) arg))) ∧
      (q.i = .acas f → ∀ old, atomicNew q.i f.ty old arg (lowBits f.ty (pVal q.c)) =
        if old = arg then (lowBits f.ty (pVal q.c), true) else (old, false))) ∧
    (Oldest s q → winOf q.c.l.val = 1 → offOf q.c.l.val % n = 0 →
      let off := offOf q.c.l.val
      let loc := locUnit q.mu off
      liveFault s loc n = none → isState s loc = 0 →
      let old := rdN s loc n
      let r := atomicNew q.i f.ty old arg (lowBits f.ty (pVal q.c))
      let o := extendTy f.ty old
      let w := commitPt (wrN (taken s q) loc n r.1) q.c.u.ctx q.c.u.copy (fcol q.c)
      let v := commitPt (taken s q) q.c.u.ctx q.c.u.copy (fcol q.c)
      (readFails w loc = false →
        (∀ mk ∈ [Instr.aadd, .amin, .amax, .aand, .aor, .axor, .axchg, .afadd], q.i = mk f →
          Serves s q fun _ => replyBoth q.mu f q.c o o w) ∧
        (q.i = .acas f → Serves s q fun _ => replyBoth q.mu f q.c o (if r.2 then 1 else 0) w) ∧
        (q.i = .aaddth f → Serves s q fun _ =>
          let t := replyBoth q.mu f q.c o o w
          let th := int (lowBits f.ty (q.k.getD 1 0))
          if int old < th ∧ th ≤ int r.1 then releaseAwait q.mu off r.1 t else t)) ∧
      (q.i = .await f → intOf f.ty (q.k.getD 0 0) ≤ int old → readFails v loc = false →
        Serves s q fun _ => replyBoth q.mu f q.c o o v) ∧
      (q.i = .await f → int old < intOf f.ty (q.k.getD 0 0) → ∀ i, freeWaiter s q.mu = some i →
        RecordMapped s q.c → ∃ t, exec (.muRequest q.mu) s = .next t ∧ t.mu.waiters = s.mu.waiters ++
          [{ mu := q.mu, idx := i, wk := 1, off := off, u := q.c.u, col := fcol q.c, itr := fitr q.c, ss := q.c.stn, ta := f.ta,
             tb := f.tb, wty := f.ty, arg := 0 }])) ∧
    (∀ m k va phys, (s.mu.atomics.filter fun g => g.req.mu == m)[k]? = some { req := q, va := va, phys := phys } →
      fieldsOf q.i = some f → q.c.pair = none → readFails s phys = false →
      let old := rdN s phys n
      let r := atomicNew q.i f.ty old arg (lowBits f.ty (pVal q.c))
      let o := extendTy f.ty old
      exec (.globalAtomicPerform m k) s = .next (close s (commitPt (replyBoth q.mu f q.c o
        (if q.i = .acas f then (if r.2 then 1 else 0) else o)
        (wrN { s with mu := { s.mu with atomics := s.mu.atomics.erase { req := q, va := va, phys := phys } } } phys n r.1))
        q.c.u.ctx q.c.u.copy (fcol q.c))))

/-- R187: a load's data are read when GLOBAL_LOAD_PERFORM says so, own buffered bytes over memory, and its answer is sent. -/
def Sys2Proof.Claims.GlobalLoadDataAnswered : Prop :=
  ∀ (s : State) (q : Req) (f : Fields) (m : UId) (k va phys : Nat),
    (s.mu.loads.filter fun g => g.req.mu == m)[k]? = some { req := q, va := va, phys := phys } → readFails s phys = false →
    let t := { s with mu := { s.mu with loads := s.mu.loads.erase { req := q, va := va, phys := phys } } }
    let n := tyBytes f.ty
    let byte (j : Nat) : Byte := match ownByte s q.mu q.c (lineVa va) (va % 64 + j) with
      | some b => b
      | none => rd8 s (phys - va % 64 + va % 64 + j)
    let v := extendTy f.ty (leNat ((List.range n).map byte))
    (q.i = .ld f → exec (.globalLoadPerform m k) s = .next (close s (replyBoth q.mu f q.c v v t))) ∧
    (q.i = .gld f → exec (.globalLoadPerform m k) s = .next (close s (replyBoth q.mu f q.c v 0 t)))

/-- R204 to R209: the capability unit of a context that stands on this module: the next index, its entry and the tokens that a successful
CAP.ALLOC and CAP.NARROW send, the revocation bit, and what CAP.INFO reports; the statuses of a refused one, and the faults of a CAP.NARROW. Which
lines the unit's checker holds and drops is the model's own (log entry 92). -/
def Obligations.CapabilityInstructionEffects : Prop :=
  ∀ (f : Fields) (s : State) (F : Ready), s.firing = [F] → settle true F = .go → hubHere (ctxOf s F.u.ctx) = true →
    F.u.copy = 0 → F.pair = none →
    let x := ctxOf s F.u.ctx
    let p := F.l.val
    let ans (v w : Word) (t : State) : State := replyBoth (hubOf F.u) f F v w t
    let al := 2 ^ (6 + f.imm.toNat % 16)
    let base := (x.htop + al - 1) / al * al
    let bad (n : Nat) : Prop := n = 0 ∨ 2 ^ 44 ≤ n
    let hub := hubOf F.u
    let w := capTouch s hub (fcol F) p
    let next (t : State) : State :=
      updCtx (dropTab t F.u.ctx x.nextidx) F.u.ctx fun x => { x with nextidx := x.nextidx + 1 }
    (bad p.toNat → exec (.capAlloc f) s = .next (close s (ans 0 3 s))) ∧
    (¬bad p.toNat → 2 ^ 18 ≤ x.nextidx → exec (.capAlloc f) s = .next (close s (ans 0 2 s))) ∧
    (¬bad p.toNat → x.nextidx < 2 ^ 18 → x.hbase + x.hsize < base + p.toNat → exec (.capAlloc f) s = .next (close s (ans 0 1 s))) ∧
    (¬bad p.toNat → x.nextidx < 2 ^ 18 → base + p.toNat ≤ x.hbase + x.hsize → s.ctxs.find? (fun y => y.id == F.u.ctx) = some x →
      ∀ a, translateNow s x .write (x.ctb + 16 * x.nextidx) = .ok a →
      exec (.capAlloc f) s = .next (close s
        (updCtx (ans (capPtr x.nextidx) 0 (next (wrBytes s a.phys (capBytes
            { base := base, len := p.toNat, root := x.nextidx, w := decide (f.imm.toNat / 16 % 2 = 0), v := true }))))
          F.u.ctx fun x => { x with htop := base + p.toNat, htopw := true }))) ∧
    (∀ mk ∈ [Instr.capFree, .capNarrow], winOf p ≠ 3 → exec (mk f) s = .next (close s (raise F { kind := 0x07, va := p } s))) ∧
    (winOf p = 3 → ∀ a, translateNow s x .write (x.rvb + capIdx p / 8) = .ok a →
      let live : Bool := match capLive s hub p with | .ok _ => true | .error _ => false
      let st : Word := if capIdx p = 0 then 2 else if capIdx p < x.nextidx ∧ live then 0 else 1
      exec (.capFree f) s = .next (close s (ans st st
        (dropBits (wrBytes s a.phys [rd8 s a.phys ||| BitVec.ofNat 8 (2 ^ (capIdx p % 8))]) F.u.ctx (capIdx p))))) ∧
    (winOf p = 3 → bad (rightOp f F s).toNat → exec (.capNarrow f) s = .next (close s (ans 0 3 s))) ∧
    (winOf p = 3 → ¬bad (rightOp f F s).toNat → ∀ va e, capDeref s hub p (rightOp f F s).toNat false = .ok va →
      capLive s hub p = .ok e →
      (2 ^ 18 ≤ x.nextidx → exec (.capNarrow f) s = .next (close s (ans 0 2 s))) ∧
      (x.nextidx < 2 ^ 18 → ∀ a, translateNow w x .write (x.ctb + 16 * x.nextidx) = .ok a →
        exec (.capNarrow f) s = .next (close s (ans (capPtr x.nextidx) 0 (next (wrBytes w a.phys (capBytes
          { base := va, len := (rightOp f F s).toNat, root := e.root, w := e.w && decide (f.imm.toNat / 64 % 2 = 0), v := true }))))))) ∧
    (winOf p = 3 → ¬bad (rightOp f F s).toNat → ∀ e, capDeref s hub p (rightOp f F s).toNat false = .error e →
      exec (.capNarrow f) s = .next (close s (raise F e s))) ∧
    (let st : Nat := if winOf p ≠ 3 then 4 else if capIdx p = 0 then 2 else if x.nextidx ≤ capIdx p then 3
        else match capLive s hub p with | .ok _ => 0 | .error _ => 1
     (f.fn = 3 → exec (.capInfo f) s = .next (close s (ans (BitVec.ofNat 64 st) (BitVec.ofNat 64 st) w))) ∧
     (f.fn ≠ 3 → st ≠ 0 → exec (.capInfo f) s = .next (close s (ans 0 0 w))) ∧
     (st = 0 → ∀ e, capEntry s hub (capIdx p) = .ok e →
       (f.fn = 0 → exec (.capInfo f) s = .next (close s (ans (BitVec.ofNat 64 e.len) (BitVec.ofNat 64 e.len) w))) ∧
       (f.fn = 1 → exec (.capInfo f) s = .next (close s (ans (BitVec.ofNat 64 (capOff p)) (BitVec.ofNat 64 (capOff p)) w))) ∧
       (f.fn = 2 → exec (.capInfo f) s = .next (close s (ans (BitVec.ofNat 64 e.base) (BitVec.ofNat 64 e.base) w))) ∧
       (f.fn = 4 → exec (.capInfo f) s = .next (close s (ans (if e.w then 1 else 0) (if e.w then 1 else 0) w)))))

/-- R229 to R233, R268 to R273: the barrier and ring instructions send their request to the MU that holds the slot or header, with what they took. -/
def Obligations.BarrierAndRingInstructionsAtIssue : Prop :=
  ∀ (f : Fields) (s : State) (F : Ready), s.firing = [F] → settle true F = .go →
    let x := ctxOf s F.u.ctx
    let v := rightOp f F s
    (∀ p, shiftPtr F.l.val (dispOf f) = some p →
      (windowFault x (poolSize x) [1] p 16 = none →
        Requests (.barInit f) s F (muNamed F.u p) [v] ∧
        Requests (.barArrive f) s F (muNamed F.u p) [if f.src = .unary then 1 else v] ∧
        Requests (.barExpect f) s F (muNamed F.u p) [v] ∧ Requests (.barWait f) s F (muNamed F.u p) [v] ∧
        Requests (.barTest f) s F (muNamed F.u p) [v] ∧ Requests (.barDrop f) s F (muNamed F.u p) [] ∧
        Requests (.barRetire f) s F (muNamed F.u p) []) ∧
      (windowFault x (poolSize x) [1] p 32 = none →
        Requests (.ringInit f) s F (muNamed F.u p) [v] ∧ Requests (.ringAwait f) s F (muNamed F.u p) [] ∧
        Requests (.ringRelease f) s F (muNamed F.u p) [v] ∧ Requests (.ringStat f) s F (muNamed F.u p) [] ∧
        Requests (.ringRetire f) s F (muNamed F.u p) []) ∧
      (∀ e, windowFault x (poolSize x) [1] p 16 = some e →
        ∀ mk ∈ [Instr.barInit, .barArrive, .barExpect, .barWait, .barTest, .barDrop, .barRetire],
        exec (mk f) s = .next (close s (raise F { kind := e, va := p } s))) ∧
      (∀ e, windowFault x (poolSize x) [1] p 32 = some e →
        ∀ mk ∈ [Instr.ringInit, .ringAwait, .ringRelease, .ringStat, .ringRetire],
        exec (mk f) s = .next (close s (raise F { kind := e, va := p } s)))) ∧
    (shiftPtr F.l.val (dispOf f) = none →
      ∀ mk ∈ [Instr.barInit, .barArrive, .barExpect, .barWait, .barTest, .barDrop, .barRetire, .ringInit, .ringAwait, .ringRelease,
        .ringStat, .ringRetire],
      exec (mk f) s = .next (close s (raise F { kind := 0x07, va := F.l.val + BitVec.ofInt 64 (dispOf f) } s))) ∧
    (∀ p, shiftPtr v (dispOf f) = some p → windowFault x (poolSize x) [1] p 32 = none →
      (offOf p % 32 = 0 → Requests (.ringBind f) s F (muOf F.u) [p]) ∧
      (offOf p % 32 ≠ 0 → exec (.ringBind f) s = .next (close s (raise F { kind := 0x08, va := p } s))))

/-- R215 to R231: BAR.INIT makes an ARMED slot; BAR.ARRIVE, BAR.DROP and BAR.EXPECT change its counts, after a completion that is due, and
answer the parity in which they count; every refused one faults BARRIER_SLOT. On a live ring header every one of them faults RING_STATE first, BAR.INIT
and BAR.TEST.RAW among them, as the model reads R258 beside R229 and R232 (log entry 110). -/
def Sys2Proof.Claims.BarrierCountsServed : Prop :=
  ∀ (s : State) (q : Req) (f : Fields) (p : Word), Oldest s q → shiftPtr q.c.l.val (dispOf f) = some p →
    let off := offOf p
    let loc := locUnit q.mu off
    let n := (q.k.getD 0 0).toNat
    let ans (v : Word) (t : State) : State := replyBoth q.mu f q.c v v t
    let point (t : State) : State := commitPt t q.c.u.ctx q.c.u.copy (fcol q.c)
    let u := evalBar q.mu off (taken s q)
    let ring : Prop := ∃ k < 16, inRing s (loc + k) = true
    (off % 16 = 0 → ring → ∀ mk ∈ [Instr.barInit, .barArrive, .barExpect, .barWait, .barTest, .barDrop, .barRetire], q.i = mk f →
      Serves s q fun t => raise q.c { kind := 0x1D, va := p } t) ∧
    (∀ mk ∈ [Instr.barInit, .barArrive, .barExpect, .barWait, .barTest, .barDrop, .barRetire], q.i = mk f → off % 16 ≠ 0 →
      Serves s q fun t => raise q.c { kind := 0x08, va := p } t) ∧
    (off % 16 = 0 → q.i = .barInit f →
      (barAt s loc = none → inBarGroup s q.mu f.fn.toNat q.c.u = true → 1 ≤ n → n ≤ 65535 → liveFault s loc 16 = none →
        isState s loc = 0 → isState s (loc + 8) = 0 → Serves s q fun t => ans 0 (point (setBar t loc (some
          { exp := n, pnd := n, txb := 0, par := false, st := .armed, lvl := f.fn.toNat, own := q.c.u.ctx, units := [], done := [],
            owed := false, away := 0 })))) ∧
      (¬ring → barAt s loc ≠ none ∨ inBarGroup s q.mu f.fn.toNat q.c.u = false ∨ n = 0 ∨ 65535 < n →
        Serves s q fun t => raise q.c { kind := 0x09, va := p } t)) ∧
    (off % 16 = 0 → ¬ring → barAt u loc = none → ∀ mk ∈ [Instr.barArrive, .barExpect, .barDrop, .barWait, .barRetire], q.i = mk f →
      Serves s q fun _ => raise q.c { kind := 0x09, va := p } u) ∧
    (off % 16 = 0 → ¬ring → barAt u loc = none → q.i = .barTest f →
      (f.fn = 0 → Serves s q fun _ => raise q.c { kind := 0x09, va := p } u) ∧ (f.fn ≠ 0 → Serves s q fun _ => ans 0 (point u))) ∧
    (off % 16 = 0 → ¬ring → ∀ b, barAt u loc = some b → b.own = q.c.u.ctx →
      let par : Word := if (if b.st = .armed then b.par else !b.par) then 1 else 0
      (b.st ≠ .idle → inBarGroup u q.mu b.lvl q.c.u = true →
        (q.i = .barArrive f → 1 ≤ n → n ≤ b.pnd → Serves s q fun _ =>
          ans par (point (setBar u loc (some { b with pnd := b.pnd - n, units := b.units ++ [q.c.u] })))) ∧
        (q.i = .barArrive f → n = 0 ∨ b.pnd < n → Serves s q fun _ => raise q.c { kind := 0x09, va := p } u) ∧
        (q.i = .barDrop f → 1 ≤ b.pnd → 1 ≤ b.exp → Serves s q fun _ =>
          ans par (point (setBar u loc (some { b with pnd := b.pnd - 1, exp := b.exp - 1, units := b.units ++ [q.c.u] })))) ∧
        (q.i = .barExpect f → 1 ≤ n → b.txb + n ≤ 2 ^ 31 - 1 →
          (f.fn = 0 → Serves s q fun _ => ans 0 (point (setBar u loc (some { b with txb := b.txb + n })))) ∧
          (f.fn = 1 → 1 ≤ b.pnd → Serves s q fun _ =>
            ans par (point (setBar u loc (some { b with txb := b.txb + n, pnd := b.pnd - 1, units := b.units ++ [q.c.u] }))))) ∧
        (q.i = .barExpect f → n = 0 ∨ 2 ^ 31 - 1 < b.txb + n → Serves s q fun _ => raise q.c { kind := 0x09, va := p } u)) ∧
      (b.st = .idle ∨ inBarGroup u q.mu b.lvl q.c.u = false → ∀ mk ∈ [Instr.barArrive, .barExpect, .barDrop], q.i = mk f →
        Serves s q fun _ => raise q.c { kind := 0x09, va := p } u))

/-- R224, R225, R231 to R233, R76: BAR.WAIT and BAR.TEST answer, park, are held, when they commit nothing yet, or fault by the slot's state and parity; BAR.TEST.RAW reads the
slot; BAR.RETIRE makes it PLAIN and zero. -/
def Sys2Proof.Claims.BarrierWaitsAndRetirementServed : Prop :=
  ∀ (s : State) (q : Req) (f : Fields) (p : Word) (b : Bar), Oldest s q → shiftPtr q.c.l.val (dispOf f) = some p → offOf p % 16 = 0 →
    let off := offOf p
    let loc := locUnit q.mu off
    let ans (v : Word) (t : State) : State := replyBoth q.mu f q.c v v t
    let u := evalBar q.mu off (taken s q)
    let pt := commitPt u q.c.u.ctx q.c.u.copy (fcol q.c)
    let par := (q.k.getD 0 0).getLsbD 0
    let held := { u with cp := { u.cp with retry := u.cp.retry ++ [{ req := q, off := off, due := false }] } }
    let emits : Prop := (b.st = .armed ∧ par ≠ b.par) ∨ (b.st = .idle ∧ par ≠ b.par)
    let parks : Prop := (b.st = .armed ∨ b.st = .completing) ∧ par = b.par
    (∀ k < 16, inRing s (loc + k) = false) → barAt u loc = some b → b.own = q.c.u.ctx →
    (q.i = .barWait f →
      (emits → Serves s q fun _ => ans (if par then 1 else 0) pt) ∧
      (parks → (freeWaiter u q.mu).isSome → ∀ i, freeWaiter pt q.mu = some i → ∃ t, exec (.muRequest q.mu) s = .next t ∧ t.mu.waiters = pt.mu.waiters ++
        [{ mu := q.mu, idx := i, wk := 2, off := off, u := q.c.u, col := fcol q.c, itr := fitr q.c, ss := q.c.stn, ta := f.ta,
           tb := f.tb, wty := f.ty, arg := if par then 1 else 0 }]) ∧
      (b.st = .completing → par ≠ b.par → Serves s q fun _ => held) ∧
      (b.st = .idle → par = b.par → Serves s q fun _ => raise q.c { kind := 0x09, va := p } u)) ∧
    (q.i = .barTest f → f.fn = 0 →
      (emits → Serves s q fun _ => ans 1 pt) ∧ (parks → Serves s q fun _ => ans 0 pt) ∧
      (b.st = .completing → par ≠ b.par → Serves s q fun _ => held) ∧
      (b.st = .idle → par = b.par → Serves s q fun _ => raise q.c { kind := 0x09, va := p } u)) ∧
    (q.i = .barTest f → f.fn = 1 → Serves s q fun _ => ans (BitVec.ofNat 64 (barBits u q.mu off b)) pt) ∧
    (q.i = .barTest f → f.fn = 2 → Serves s q fun _ => ans (BitVec.ofNat 64 (barBits u q.mu off b / 2 ^ 64)) pt) ∧
    (q.i = .barRetire f → b.st ≠ .completing → waitersOn u q.mu 2 off = [] → Serves s q fun _ =>
      ans 0 (commitPt (wrN (setBar u loc none) loc 16 0) q.c.u.ctx q.c.u.copy (fcol q.c))) ∧
    (q.i = .barRetire f → b.st = .completing ∨ waitersOn u q.mu 2 off ≠ [] →
      Serves s q fun _ => raise q.c { kind := 0x09, va := p } u)

/-- R219 to R221, R225: a slot whose counts are both zero completes and commits what its arrivals stored; its release flips the
parity, wakes the waiters and makes the held requests due, and a due request is tried again. -/
def Sys2Proof.Claims.BarrierEvents : Prop :=
  ∀ (s : State) (m : UId) (off : Nat) (b : Bar), barAt s (locUnit m off) = some b →
    (onModule (ctxOf s m.ctx) m.x = true → barsRun (ctxOf s m.ctx) = true → isRedundant (ctxOf s m.ctx) = false → (ctxOf s m.ctx).members.length ≤ 1 → b.st = .armed →
      b.pnd = 0 → b.txb = 0 →
      let cov : PbEntry → Bool := fun e => decide (∃ u ∈ b.units, u.copy = e.mu.copy ∧ u.x = e.sx ∧ u.y = e.sy)
      let due := setBar s (locUnit m off)
        (some { b with st := .completing, pnd := b.exp, txb := 0, done := b.units, units := [], owed := true })
      let t := commitWhere due m.ctx cov
      (hostBlocks s m.ctx cov = [] → (ctxOf t m.ctx).members.length ≤ 1 →
        Ends (.barrierCompletion m off) s (match barAt t (locUnit m off) with
          | some b => setBar t (locUnit m off) (some { b with owed := false, done := [] })
          | none => t)) ∧
      (hostBlocks s m.ctx cov ≠ [] → Ends (.barrierCompletion m off) s (wantBlocks due m.ctx cov))) ∧
    (barsRun (ctxOf s m.ctx) = true → b.st = .completing → b.owed = false → b.away = 0 →
      ∃ t, exec (.barrierRelease m off) s = .next t ∧
        barAt t (locUnit m off) = some { b with par := !b.par, st := if b.exp = 0 then .idle else .armed } ∧
        (∀ w ∈ t.mu.waiters, w.mu = m → w.wk = 2 → w.off = off → w.u = m ∧ w.arg = if b.par then 0 else 1) ∧
        (∀ r ∈ t.cp.retry, r.req.mu = m → r.off = off → r.due = true)) ∧
    (∀ r, barsRun (ctxOf s m.ctx) = true → s.cp.retry.find? (fun r => r.req.mu == m && r.due) = some r →
      let t := { s with cp := { s.cp with retry := s.cp.retry.erase r } }
      (∀ f, r.req.i = .barTest f → exec (.barrierRetry m) s = .next (close s (performBarTest r.req t))) ∧
      (∀ f, r.req.i = .barWait f → exec (.barrierRetry m) s = .next (close s (performBarWait r.req t))))

/-- R256, R260, R265, R267 to R273: what the ring instructions do at the MU of their header. The model's choices in it: the count of claimed
messages decides which release faults (log 23). -/
def Obligations.RingInstructionsServed : Prop :=
  ∀ (s : State) (q : Req) (f : Fields) (p : Word), Oldest s q → shiftPtr q.c.l.val (dispOf f) = some p → offOf p % 32 = 0 →
    let off := offOf p
    let loc := locUnit q.mu off
    let v := q.k.getD 0 0
    let ans (v w : Word) (t : State) : State := replyBoth q.mu f q.c v w t
    let point (t : State) : State := commitPt t q.c.u.ctx q.c.u.copy (fcol q.c)
    (q.i = .ringInit f →
      (ringAt s loc = none → barAt s loc = none → barAt s (loc + 16) = none → (∀ k ∈ [0, 8, 16, 24], isState s (loc + k) = 0) →
        ringDescOk v off = true → Serves s q fun t => ans 0 0 (point (setRing t loc (some
          { base := v.toNat % 2 ^ 20, kd := v.getLsbD 20, bnd := false, own := q.c.u.ctx, sz := (v.extractLsb' 32 21).toNat,
            cnt := (v.extractLsb' 53 9).toNat, rp := 0, wp := 0, rsv := 0, rl := 0,
            free := if v.getLsbD 20 then (v.extractLsb' 32 21).toNat else (v.extractLsb' 53 9).toNat, fill := 0, bpx := 0, bpy := 0,
            bmod := 0, net := none, held := 0 })))) ∧
      (ringAt s loc ≠ none → Serves s q fun t => raise q.c { kind := 0x1D, va := p } t)) ∧
    (ringAt s loc = none →
      (∀ mk ∈ [Instr.ringAwait, .ringRelease, .ringRetire], q.i = mk f → Serves s q fun t => raise q.c { kind := 0x1D, va := p } t) ∧
      (q.i = .ringStat f → Serves s q fun t => ans 0 0 (point t))) ∧
    (∀ r, ringAt s loc = some r → r.own = q.c.u.ctx →
      (q.i = .ringAwait f → 1 ≤ r.fill → r.kd = false → Serves s q fun t =>
        ans (muPtr q.mu (r.base + r.rp * r.sz)) (BitVec.ofNat 64 r.rp) (setRing (point t) loc (some
          { r with rp := if r.cnt ≤ r.rp + 1 then 0 else r.rp + 1, fill := r.fill - 1, held := r.held + 1 }))) ∧
      (q.i = .ringAwait f → 1 ≤ r.fill → r.kd = true → Serves s q fun t =>
        let c := claim t q.mu r
        ans (muPtr q.mu (r.base + r.rp + 16)) (BitVec.ofNat 64 (rdN s (locUnit q.mu (r.base + r.rp)) 4 % 2 ^ 24))
          (setRing (point t) loc (some c.1))) ∧
      (q.i = .ringAwait f → r.fill = 0 → ∀ i, freeWaiter (point (taken s q)) q.mu = some i →
        (freeWaiter s q.mu).isSome → ∃ t, exec (.muRequest q.mu) s = .next t ∧ t.mu.waiters = (point (taken s q)).mu.waiters ++
          [{ mu := q.mu, idx := i, wk := 3, off := off, u := q.c.u, col := fcol q.c, itr := fitr q.c, ss := q.c.stn, ta := f.ta,
             tb := f.tb, wty := f.ty, arg := 0 }]) ∧
      (q.i = .ringRelease f → r.held = 0 ∨ v ≠ muPtr q.mu (payOff r r.rl) → Serves s q fun t => raise q.c { kind := 0x1D, va := p } t) ∧
      (q.i = .ringRelease f → 1 ≤ r.held → v = muPtr q.mu (payOff r r.rl) → r.kd = false → r.bnd = false → Serves s q fun t =>
        ans 1 1 (point (setRing t loc (some
          { r with rl := if r.cnt ≤ r.rl + 1 then 0 else r.rl + 1, held := r.held - 1, free := r.free + 1 })))) ∧
      (q.i = .ringRelease f → 1 ≤ r.held → v = muPtr q.mu (payOff r r.rl) → r.kd = true → Serves s q fun t =>
        let e := afterPos t q.mu r r.rl
        let g := pastPad t q.mu r e (e != r.rp)
        let n := spaceAt t q.mu r r.rl + g.2
        ans (BitVec.ofNat 64 n) (BitVec.ofNat 64 n) (point (freeSpace q.mu off n { r with rl := g.1, held := r.held - 1 } t))) ∧
      (q.i = .ringStat f → Serves s q fun t =>
        let w := BitVec.ofNat 64 (ringBits t q.mu off r / 2 ^ (64 * f.fn.toNat))
        ans w w (point t)) ∧
      (q.i = .ringRetire f → r.bnd = false → r.net = none → waitersOn s q.mu 3 off = [] → r.rsv = r.wp →
        fillsRing s q.mu q.mu off = false → Serves s q fun t => ans 0 0 (point (wrN (setRing t loc none) loc 32 0))) ∧
      (q.i = .ringRetire f → r.bnd = true ∨ r.net ≠ none ∨ waitersOn s q.mu 3 off ≠ [] ∨ r.rsv ≠ r.wp →
        Serves s q fun t => raise q.c { kind := 0x1D, va := p } t))

/-- R264, R265, R273: binding a ring: the home MU asks the ring's MU once for its requests, the ring hands over its free space, and the
answer completes every RING.BIND that waited; slot returns add to the binding's space. -/
def Sys2Proof.Claims.RingBindingEvents : Prop :=
  (∀ (s : State) (q : Req) (f : Fields), Oldest s q → q.i = .ringBind f →
    let p := q.k.getD 0 0
    let ring := muNamed q.c.u p
    (∀ b, bindingOf s q.mu ring (offOf p) = some b → b.pend = false → Serves s q fun t => bindReply t q) ∧
    (∀ b, bindingOf s q.mu ring (offOf p) = some b → b.pend = true →
      Serves s q fun t => updBinding t q.mu ring (offOf p) fun b => { b with waiting := b.waiting ++ [q] }) ∧
    (bindingOf s q.mu ring (offOf p) = none → 8 ≤ (s.cp.binds.filter fun b => b.mu == q.mu).length →
      Serves s q fun t => raise q.c { kind := 0x1D, va := p } t) ∧
    (bindingOf s q.mu ring (offOf p) = none → (s.cp.binds.filter fun b => b.mu == q.mu).length < 8 →
      onModule (ctxOf s q.mu.ctx) ring.x = true → Serves s q fun t => askBind q.mu ring (offOf p) { t with cp := { t.cp with
        binds := t.cp.binds ++ [{ mu := q.mu, ring := ring, off := offOf p, kd := false, pend := true, sz := 0, cnt := 0, srsv := 0,
                                  sfree := 0, maker := some q, waiting := [] }] } })) ∧
  (∀ (s : State) (n : Nat) (m : BindMsg) (r : Ring), (s.cp.bindMsgs.filter fun m => !m.reply)[n]? = some m →
    ringAt s (locUnit m.ring m.off) = some r → r.bnd = false → r.net = none → r.own = m.ring.ctx → m.ring ≠ m.mu → r.rsv = r.wp →
    fillsRing s m.ring m.ring m.off = false → onModule (ctxOf s m.mu.ctx) m.mu.x = true → r.sz ≠ 0 →
    ∃ t, exec (.ringBindRequest n) s = .next t ∧
      t.cp.bindMsgs = s.cp.bindMsgs.erase m ++
        [{ m with reply := true, free := r.free, rsv := r.rsv, kd := r.kd, sz := r.sz, cnt := r.cnt }] ∧
      ringAt t (locUnit m.ring m.off) = some { r with bnd := true, free := 0, bpx := m.mu.x / 4 % (ctxOf s m.mu.ctx).pw, bpy := m.mu.y,
                                                      bmod := m.mu.x / (4 * (ctxOf s m.mu.ctx).pw) }) ∧
  (∀ (s : State) (n : Nat) (m : BindMsg) (b : Binding), (s.cp.bindMsgs.filter fun m => m.reply)[n]? = some m →
    bindingOf s m.mu m.ring m.off = some b →
    exec (.ringBindReply n) s = .next (close s ((b.maker.toList ++ b.waiting).foldl bindReply
      (updBinding { s with cp := { s.cp with bindMsgs := s.cp.bindMsgs.erase m } } m.mu m.ring m.off fun b =>
        { b with pend := false, kd := m.kd, sz := m.sz, cnt := m.cnt, srsv := m.rsv, sfree := b.sfree + m.free, maker := none,
                 waiting := [] })))) ∧
  (∀ (s : State) (m ring : UId) (e : SlotRet), s.cp.slotRets.find? (fun e => e.mu == m && e.ring == ring) = some e →
    exec (.ringSlotReturn m ring) s = .next (close s (updBinding { s with cp := { s.cp with slotRets := s.cp.slotRets.erase e } }
      e.mu e.ring e.off fun b => { b with sfree := b.sfree + e.n })))

/-- R234, R247 to R255, R335, R446: a command leaves for the home MU with R, its control word and the word of K that IMM[11:6] names; so do
SCLOSE and CSTAT. At the head of the port a command enters the MU's queue. -/
def Obligations.CommandsAtIssueAndAtThePort : Prop :=
  (∀ (f : Fields) (s : State) (F : Ready), s.firing = [F] →
    let r := rightOp f F s
    let kw (lo : Nat) : Word := kreg s F.u (f.imm.toNat / 2 ^ lo % 64)
    (settle true F = .go →
      (∀ mk ∈ [Instr.send, .sendRing, .sendr, .ioread, .ioreadRing, .iowrite, .netsend],
        Requests (mk f) s F (muOf F.u) [r, kw 0, kw 6]) ∧
      (∀ mk ∈ [Instr.copy, .copyo], Requests (mk f) s F (muOf F.u) [r, kw 4, kw 6]) ∧
      (∀ mk ∈ [Instr.stream, .fscan, .fisect, .funion], Requests (mk f) s F (muOf F.u) [r, 0, kw 6]) ∧
      Requests (.streamw f) s F (muOf F.u) [r, kw 6, kw 6] ∧ Requests (.gath f) s F (muOf F.u) [r, kw 8, kw 6] ∧
      Requests (.femit f) s F (muOf F.u) [r, kw 9, kw 6] ∧
      (∀ mk ∈ [Instr.sclose, .cstat], Requests (mk f) s F (muOf F.u) [])) ∧
    (settle false F = .go → ∀ mk ∈ [Instr.sendkChain, .sendkLast], Requests (mk f) s F (muOf F.u) [r, kw 0, kw 6])) ∧
  (∀ (s : State) (q : Req) (f : Fields), Oldest s q →
    (∀ mk ∈ [Instr.send, .sendRing, .sendr, .sendkChain, .sendkLast, .copy, .copyo, .stream, .streamw, .fscan, .fisect, .funion, .gath,
      .femit, .ioread, .ioreadRing, .iowrite, .netsend], q.i = mk f →
      (ctxOf s q.c.u.ctx).cst = .running →
      Serves s q fun t => { t with cp := { t.cp with queue := t.cp.queue ++ [q] } }))

/-- R234 to R238, R248 to R255, R259: the acceptance of a push, a mapped copy or a stream at the head of its MU's queue: the fault of its
first failing check, or an ISSUED entry with the next copy id, whose id goes to the targets that the command gives it; a command whose
source range may not commit yet stays at the head. CSTAT answers the state of its entry, and GONE where there is none. -/
def Obligations.CopyAcceptanceAndStatus : Prop :=
  (∀ (s : State) (m : UId) (q : Req), s.cp.queue.find? (fun q => q.mu == m) = some q → isRunning (ctxOf s q.c.u.ctx) = true →
    (ctxOf s q.c.u.ctx).freezing = false → tableFull s m = false →
    let t := { s with cp := { s.cp with queue := s.cp.queue.erase q } }
    (∀ w, sourceWaits q.c (sourceRanges q s) s = some w → Ends (.copyAccept m) s w) ∧
    (sourceWaits q.c (sourceRanges q s) s = none →
    (∀ (f : Fields) (mk : Fields → Instr), mk ∈ [Instr.send, .sendRing, .sendr, .sendkChain, .sendkLast] → q.i = mk f →
      (∀ e, acceptPush q t = .error e → Ends (.copyAccept m) s (raise q.c e t)) ∧
      (∀ p, acceptPush q t = .ok p →
        Ends (.copyAccept m) s (acceptReply p (enterCopy p (commitSource q.c p.src p.len t))) ∧
        p.st = .issued ∧ p.id = nextCopyId t m ∧ p.nch = 0 ∧ p.len = ((q.k.getD 1 0).extractLsb' 32 24).toNat ∧
        p.total = (p.len + 4095) / 4096)) ∧
    (∀ (f : Fields) (mk : Fields → Instr), mk ∈ [Instr.copy, .copyo] → q.i = mk f →
      (∀ e, acceptMap q t = .error e → Ends (.copyAccept m) s (raise q.c e t)) ∧
      (∀ p, acceptMap q t = .ok p →
        Ends (.copyAccept m) s (acceptReply p (enterCopy p (commitCopy p t))) ∧ p.st = .issued ∧ p.id = nextCopyId t m)) ∧
    (∀ f, q.i = .stream f → ∀ p, acceptStream q t = .ok p →
      Ends (.copyAccept m) s (acceptReply p (enterCopy p (p.maps.foldl (fun s d => commitMap p.c d s) t))) ∧ p.st = .issued ∧
      p.pos = q.c.l.val.toNat ∧ p.n = mapCount (p.maps.headD 0)) ∧
    (∀ f, q.i = .streamw f → ∀ p, acceptStreamw q t = .ok p → Ends (.copyAccept m) s (acceptReply p (enterCopy p t)) ∧ p.st = .issued ∧
      p.n = mapCount (p.maps.headD 0)) ∧
    (∀ f, q.i = .stream f → ∀ e, acceptStream q t = .error e → Ends (.copyAccept m) s (raise q.c e t)) ∧
    (∀ f, q.i = .streamw f → ∀ e, acceptStreamw q t = .error e → Ends (.copyAccept m) s (raise q.c e t)))) ∧
  (∀ (s : State) (q : Req) (f : Fields), Oldest s q → q.i = .cstat f →
    let u := commitPt (charge (taken s q) q.c.u 7 1) q.c.u.ctx q.c.u.copy (fcol q.c)
    (copyOf u q.mu q.c.l.val.toNat = none → Serves s q fun _ => replyBoth q.mu f q.c 7 7 u) ∧
    (∀ p, copyOf u q.mu q.c.l.val.toNat = some p → p.st = .complete → isChunkCopy p.i = true → Serves s q fun _ =>
      let v := BitVec.ofNat 64 (3 + 2 ^ 12 * (p.nch % 2 ^ 13))
      replyBoth q.mu f q.c v v u) ∧
    (∀ p, copyOf u q.mu q.c.l.val.toNat = some p → p.st = .failed → p.rsn ≤ 2 → isChunkCopy p.i = true → Serves s q fun _ =>
      let v := BitVec.ofNat 64 (4 + 2 ^ 8 * p.rsn + 2 ^ 12 * (p.nch % 2 ^ 13))
      replyBoth q.mu f q.c v v u) ∧
    (∀ p, copyOf u q.mu q.c.l.val.toNat = some p → p.st = .failed → 2 < p.rsn → isChunkCopy p.i = true → Serves s q fun _ =>
      let v := BitVec.ofNat 64 (4 + 2 ^ 8 * p.rsn + 2 ^ 12 * (p.nch % 2 ^ 13))
      replyBoth q.mu f q.c v v { u with cp := { u.cp with copies := u.cp.copies.erase p } }))

/-- R237 to R242, R260, R497: a copy's way: at its turn it starts STREAMING with its port, a failed one replays from its first
unacknowledged chunk, as does one whose timer has expired; a chunk is applied in order at its destination, credited and acknowledged, and a
first chunk that finds no entry puts its copy back to ISSUED; an acknowledgement counts a chunk and the last one completes the copy, whose
entry at the destination a release frees once the last chunk has gone. The model's choices in it: the order in which copies are served (log
35), the state of a copy refused as busy (95). -/
def Obligations.ByteCopyEvents : Prop :=
  (∀ (s : State) (m : UId) (id : Nat) (p : Copy), copyOf s m id = some p → isChunkCopy p.i = true → holdsData s p = false →
    engineRuns (ctxOf s p.mu.ctx) = true →
    (p.st = .issued → (ctxOf s p.mu.ctx).cst = .running → servedCount s p.mu < 4 → isRingSend p.i = false → busyWait s p = false →
      takesTurn s p = true → Ends (.copyStart m id) s (sendChunk { p with st := .streaming, aux := portOf s p } 0
        (setTurn p (updCopy s p.mu p.id fun q => { q with st := .streaming, aux := portOf s p })))) ∧
    (p.st = .issued ∨ p.st = .streaming → takesTurn s p = false → Ends (.copyStart m id) s s) ∧
    (p.st = .failed → (ctxOf s p.mu.ctx).cst = .running → p.rsn = 2 →
      Ends (.copyStart m id) s (updCopy s p.mu p.id fun q =>
        { q with st := .replaying, rsn := 0, sent := q.nch, timer := none, aux := if isChunkCopy q.i || holdsData s q then portOf s q else q.aux })) ∧
    (p.st = .complete → Ends (.copyStart m id) s s) ∧
    (p.st = .streaming → p.sent = p.total → Ends (.copyStart m id) s s) ∧
    (p.st = .streaming → p.sent < p.total → p.sent < p.nch + 4 → isRingSend p.i = false → takesTurn s p = true →
      Ends (.copyStart m id) s (sendChunk p p.sent (setTurn p s)))) ∧
  (∀ (s : State) (m : UId) (id : Nat) (p : Copy), copyOf s m id = some p → isChunkCopy p.i = true → isMoving p = true → p.nch < p.sent →
    4096 ≤ p.timer.getD 0 → engineRuns (ctxOf s m.ctx) = true →
    Ends (.copyAckTimeout m id) s (updCopy s m id fun q => enterReplay s q)) ∧
  (∀ (s : State) (m : UId) (id : Nat) (p : Copy) (a : ChunkAck),
    s.cp.acks.find? (fun a => a.mu == m && a.id == id && a.busy) = some a → copyOf s m id = some p → engineRuns (ctxOf s m.ctx) = true →
    (a.since + 64 ≤ s.clock →
      Ends (.chunkBusyResend m id) s (startChunks p { s with cp := { s.cp with acks := s.cp.acks.erase a } })) ∧
    (s.clock < a.since + 64 → Ends (.chunkBusyResend m id) s s)) ∧
  (∀ (s : State) (m : UId) (id sum : Nat) (p : Copy), copyOf s m id = some p → isMoving p = true → p.nch = 0 →
    onModule (ctxOf s m.ctx) m.x = true → (ctxOf s m.ctx).cst = .running →
    sendAck s m id 0 true sum = updCopy { s with cp := { s.cp with acks := s.cp.acks ++
      [{ mu := m, id := id, idx := 0, busy := true, since := s.clock, sum := sum }] } } m id
      fun p => { p with st := .issued, sent := 0, timer := none }) ∧
  (∀ (s : State) (d : UId) (n : Nat) (k : Chunk), ((s.cp.chunks.filter fun k => k.dst == d).take 4)[n]? = some k →
    (ctxOf s d.ctx).cst = .running ∨ (ctxOf s d.ctx).cst = .draining → isFirstOf s k = true → k.op = .plain → k.ring = none →
    let t := { s with cp := { s.cp with chunks := s.cp.chunks.erase k } }
    ∀ e, t.cp.commits.find? (fun e => e.dst == k.dst && e.mu == k.src && e.id == k.id) = some e →
      (k.idx < e.nxt → Ends (.chunkApply d n) s (sendAck t k.src k.id k.idx false e.sum)) ∧
      (e.nxt < k.idx → Ends (.chunkApply d n) s t) ∧
      (k.idx = e.nxt → isRedundant (ctxOf s k.src.ctx) = false ∨ onModule (ctxOf s k.src.ctx) k.src.x = true →
        Ends (.chunkApply d n) s (sendAck (setCommit { e with nxt := e.nxt + 1 }
          (charge (sendCredit (writeChunk k t) k.src k.id k.cw k.bytes.length) k.dst 8 ((k.bytes.length + 63) / 64)))
          k.src k.id k.idx false e.sum))) ∧
  (∀ (s : State) (m : UId) (n : Nat) (a : ChunkAck) (p : Copy), (s.cp.acks.filter fun a => a.mu == m && !a.busy)[n]? = some a →
    (s.cp.acks.filter fun a => a.mu == m && !a.busy).find? (fun b => b.id == a.id) = some a →
    let t := { s with cp := { s.cp with acks := s.cp.acks.erase a } }
    (copyOf t m a.id = none → Ends (.chunkAck m n) s t) ∧
    (copyOf t m a.id = some p → copyLocal t p = true → a.idx < p.nch ∨ isMoving p = false → Ends (.chunkAck m n) s t) ∧
    (copyOf t m a.id = some p → copyLocal t p = true → p.nch ≤ a.idx → isMoving p = true → (∀ f, p.i ≠ .copyo f) →
      let c (q : Copy) : Copy := { q with nch := a.idx + 1, sent := max q.sent (a.idx + 1),
                                          timer := if a.idx + 1 < q.sent then some 0 else none,
                                          st := .committed }
      (a.idx + 1 ≠ p.total → Ends (.chunkAck m n) s (updCopy t p.mu p.id c)) ∧
      (a.idx + 1 = p.total → (∀ e ∈ t.lk.ioData, e.mu = p.mu → e.id = p.id → e.ok = true) →
        let u := updCopy t p.mu p.id c
        let u := sendRelease u (copyDest u p) p.mu p.id
        (p.crfail = false → Ends (.chunkAck m n) s
          (sumTokens p a.sum (updCopy (dropData p u) p.mu p.id fun q => { q with st := .complete, timer := none }))) ∧
        (p.crfail = true → Ends (.chunkAck m n) s (failCopy { p with nch := p.total } 3 u))))) ∧
  (∀ (s : State) (n : Nat) (r : RelMsg), s.cp.rels[n]? = some r → onModule (ctxOf s r.mu.ctx) r.dst.x = true →
    ((∃ k ∈ s.cp.chunks, k.src = r.mu ∧ k.id = r.id) → Ends (.copyRelease n) s s) ∧
    ((∀ k ∈ s.cp.chunks, ¬(k.src = r.mu ∧ k.id = r.id)) → Ends (.copyRelease n) s { s with
      cp := { s.cp with
        rels := s.cp.rels.erase r, commits := s.cp.commits.filter fun e => !(e.dst == r.dst && e.mu == r.mu && e.id == r.id) },
      lk := { s.lk with arriving := s.lk.arriving.filter fun k => !(k.src == r.mu && k.id == r.id) } }))

/-- R222, R223, R260, R262: a credit takes its bytes from the slot's TXB, or is refused and noted at its copy; a ring message takes its place
in the ring's order when the space it needs is free. -/
def Sys2Proof.Claims.CreditAndReservationEvents : Prop :=
  (∀ (s : State) (n : Nat) (c : Credit), s.cp.credits[n]? = some c →
    let t := evalBar c.slot c.off { s with cp := { s.cp with credits := s.cp.credits.erase c } }
    let loc := locUnit c.slot c.off
    (barAt t loc = none → Ends (.barrierCredit n) s (refuseCredit c.mu c.id t)) ∧
    (∀ b, barAt t loc = some b →
      (b.st ≠ .idle → -(2 ^ 31) ≤ b.txb - c.bytes → Ends (.barrierCredit n) s (setBar t loc (some { b with txb := b.txb - c.bytes }))) ∧
      (b.st = .idle ∨ b.txb - c.bytes < -(2 ^ 31) → Ends (.barrierCredit n) s (refuseCredit c.mu c.id t)))) ∧
  (∀ (s : State) (m : UId) (id : Nat) (p : Copy) (r : Ring), copyOf s m id = some p → isRingSend p.i = true → p.st = .issued →
    p.resv = none → ringAhead s p = false → isRunning (ctxOf s m.ctx) = true → cwUnit s m p.cw = m →
    ringAt s (locUnit m (cwOff p.cw)) = some r →
    let v := placeMessage r.kd r.sz r.cnt r.free r.rsv p.len
    (r.free < v.2.1 → Ends (.ringReservation m id) s s) ∧
    (v.2.1 ≤ r.free → Ends (.ringReservation m id) s
      (updCopy (setRing s (locUnit m (cwOff p.cw)) (some { r with free := r.free - v.2.1, rsv := v.2.2 })) m id
        fun p => { p with resv := some v.1 }))) ∧
  (∀ (sz free p len : Nat),
    (placeMessage false sz 4 free p len = ({ p := p, place := p, pad := none }, 1, if 4 ≤ p + 1 then 0 else p + 1)) ∧
    (free ≠ sz → recordLen len ≤ sz - p → placeMessage true sz 0 free p len =
      ({ p := p, place := p, pad := none }, recordLen len, if sz ≤ p + recordLen len then 0 else p + recordLen len)) ∧
    (free ≠ sz → sz - p < recordLen len → placeMessage true sz 0 free p len =
      ({ p := p, place := 0, pad := some (sz - p - 16) }, sz - p + recordLen len, if sz ≤ recordLen len then 0 else recordLen len)))

/-- R252 to R254: an open STREAM sends its next element, or after the last one its end-of-fibre; SCLOSE ends a stream; an open STREAMW
counts the null tokens of its queue, writes a value token's bytes to the element that its ITR names, and closes at an end-of-fibre or its n-th token,
with one credit for its bytes. What STREAM.DEC reads of a line is the model's own where R252 leaves it open (log entries 38, 109); so is what a credit
at the early close counts (log entry 37). -/
def Sys2Proof.Claims.StreamEvents : Prop :=
  (∀ (s : State) (m : UId) (id : Nat) (p : Copy) (f : Fields), copyOf s m id = some p → p.i = .stream f → isMoving p = true →
    engineRuns (ctxOf s m.ctx) = true → (ctxOf s m.ctx).cst = .running →
    let d := p.maps.headD 0
    (p.n ≤ p.pos → Ends (.streamElement m id) s
      (closeStream p (emitFrom s p.mu p.c.u (fcol p.c) (p.cnt % 65536) f.ta kEof (BitVec.ofNat 64 p.cnt) false))) ∧
    (p.pos < p.n → ∀ ls t, engRead (copyEng p) (some d) (elemPtrs d p.pos) s = .ok ls t → srcFails t ls = false →
      (f.fn = 0 → streamValue t p.i d p.pos ls = .ok (extendTy (mapTy d) (elemBits d p.pos (ls.map (engByte t))))) ∧
      (f.fn = 1 → streamValue t p.i d p.pos ls = decValue t (ls.headD 0) (elemShift d p.pos)) ∧
      (∀ v, streamValue t p.i d p.pos ls = .ok v → Ends (.streamElement m id) s (updCopy (chargeLine p (ls.headD 0)
        (emitFrom t p.mu p.c.u (fcol p.c) (p.cnt % 65536) f.ta kValue v false)) p.mu p.id
          fun p => { p with pos := p.pos + 1, cnt := p.cnt + 1 })) ∧
      (∀ c, streamValue t p.i d p.pos ls = .error c → Ends (.streamElement m id) s
        (copyFault p { kind := 0x17, fks := c, va := ((elemPtrs d p.pos).headD none).getD 0 } t))) ∧
    (p.pos < p.n → ∀ e, engRead (copyEng p) (some d) (elemPtrs d p.pos) s = .fault e →
      Ends (.streamElement m id) s (copyFault p e s))) ∧
  (∀ (s : State) (m : UId) (k : Nat) (x : Flight) (p : Copy) (f : Fields),
    s.cp.toQueues.find? (fun x => x.u == m && x.tok.stn.toNat % 4 == k) = some x → engineRuns (ctxOf s m.ctx) = true →
    (ctxOf s m.ctx).cst = .running →
    let t := { s with cp := { s.cp with toQueues := s.cp.toQueues.erase x } }
    (openWriter s m k = none → Ends (.streamwToken m k) s (addOrph t m.ctx 1)) ∧
    (openWriter s m k = some p → p.i = .streamw f → isMoving p = true →
      (x.tok.kind = 2 → Ends (.streamwToken m k) s (closeWriter p (elemBytes (p.maps.headD 0) p.pos) t)) ∧
      (x.tok.kind ≠ 2 → p.n ≤ x.tok.itr.toNat → Ends (.streamwToken m k) s (addOrph t p.mu.ctx 1)) ∧
      (x.tok.kind ≠ 2 → x.tok.itr.toNat < p.n →
        let d := p.maps.headD 0
        let i := x.tok.itr.toNat
        let ends (wrote : Nat) (w : State) : Prop :=
          let u := updCopy w p.mu p.id fun p => { p with cnt := p.cnt + 1, pos := p.pos + wrote }
          (p.cnt + 1 ≠ p.n → Ends (.streamwToken m k) s u) ∧
          (p.cnt + 1 = p.n → Ends (.streamwToken m k) s (closeWriter p (elemBytes d p.n) u))
        (x.tok.kind = 1 → ends 0 t) ∧
        (x.tok.kind ≠ 1 → ∀ ls b, engLocs (copyEng p) .write p.dst none (elemPtrs d i) s = .ok ls b →
          let b := { b with cp := { b.cp with toQueues := t.cp.toQueues } }
          ends 1 (chargeLine p (ls.headD 0) (putElem p.mu d i ls x.tok.val b)) ∧
          (8 ≤ tyW (mapTy d) → p.mu.copy = 0 → (∀ l ∈ ls, isFar b l = false) →
            putElem p.mu d i ls x.tok.val b = putBytes b (ls.zip (leBytes x.tok.val.toNat ls.length)))) ∧
        (x.tok.kind ≠ 1 → ∀ e, engLocs (copyEng p) .write p.dst none (elemPtrs d i) s = .fault e →
          Ends (.streamwToken m k) s (copyFault p e s))))) ∧
  (∀ (s : State) (q : Req) (f : Fields), Oldest s q → q.i = .sclose f →
    let u := commitPt (charge (taken s q) q.c.u 7 1) q.c.u.ctx q.c.u.copy (fcol q.c)
    (copyOf u q.mu q.c.l.val.toNat = none → Serves s q fun _ => replyBoth q.mu f q.c (-1) (-1) u) ∧
    (∀ p, copyOf u q.mu q.c.l.val.toNat = some p → isOpenStream p = false →
      Serves s q fun _ => replyBoth q.mu f q.c (-1) (-1) u) ∧
    (∀ p g, copyOf u q.mu q.c.l.val.toNat = some p → isOpenStream p = true → p.i = .stream g → Serves s q fun _ =>
      replyBoth q.mu f q.c (BitVec.ofNat 64 p.cnt) (BitVec.ofNat 64 p.cnt) (closeStream p u)) ∧
    (∀ p g, copyOf u q.mu q.c.l.val.toNat = some p → isOpenStream p = true → p.i = .streamw g → Serves s q fun _ =>
      replyBoth q.mu f q.c (BitVec.ofNat 64 p.cnt) (BitVec.ofNat 64 p.cnt)
        (closeWriter p (elemBytes (p.maps.headD 0) p.pos) u))) ∧
  (∀ (s : State) (m : UId) (id : Nat) (p : Copy), copyOf s m id = some p → p.st = .issued → (isStream p.i = true ∨ isStreamw p.i = true) →
    engineRuns (ctxOf s p.mu.ctx) = true → (ctxOf s p.mu.ctx).cst = .running →
    (∀ f, p.i = .stream f → ∀ l, freeStreams s p.mu 1 = some l →
      Ends (.copyStart m id) s (updCopy s p.mu p.id fun p => { p with st := .streaming, strm := l })) ∧
    (∀ f, p.i = .streamw f → f.imm.toNat / 16 % 4 ∉ usedStreams s p.mu →
      Ends (.copyStart m id) s (updCopy s p.mu p.id fun p => { p with st := .streaming, strm := [f.imm.toNat / 16 % 4] })))

/-- R336 to R342, R345, R348: the bin instructions and MPATH: what leaves for the home MU, and what the MU does with it. -/
def Obligations.BinAndMergePathInstructions : Prop :=
  (∀ (f : Fields) (s : State) (F : Ready), s.firing = [F] → settle true F = .go →
    Requests (.binOpen f) s F (muOf F.u)
      [kreg s F.u (f.imm.toNat % 64), kreg s F.u (f.imm.toNat % 64 + 1), kreg s F.u (f.imm.toNat % 64 + 2),
       kreg s F.u (f.imm.toNat % 64 + 3)] ∧
    Requests (.binPut f) s F (muOf F.u) [rightOp f F s] ∧
    ∀ mk ∈ [Instr.binPutMap, .binPlay, .binClose, .mpath], Requests (mk f) s F (muOf F.u) []) ∧
  (∀ (s : State) (q : Req) (f : Fields), Oldest s q →
    let n := f.imm.toNat / 64 % 4
    let t := taken s q
    let pay (t : State) : State := commitPt (charge t q.c.u 7 1) q.c.u.ctx q.c.u.copy (fcol q.c)
    let ans (v : Word) (t : State) : State := replyBoth q.mu f q.c v v t
    let entry (ms : List (BitVec 512)) : BinPut := { req := q, set := n, maps := ms, pos := 0, app := 0, drp := 0 }
    (∀ mk ∈ [Instr.binPut, .binPlay, .binClose], q.i = mk f → (∀ b, binAt s q.mu n = some b → b.st ≠ .opened) →
      Serves s q fun t => raise q.c { kind := 0x1F, fks := 1 } t) ∧
    (q.i = .binPut f → ∀ b, binAt s q.mu n = some b → b.st = .opened →
      Serves s q fun t => { pay t with cp := { (pay t).cp with puts := (pay t).cp.puts ++ [entry []] } }) ∧
    (q.i = .binPlay f → ∀ b, binAt s q.mu n = some b → b.st = .opened → Serves s q fun t =>
      ans (BitVec.ofNat 64 (b.app + 2 ^ 32 * b.drp + 2 ^ 62))
        (setBin (pay t) q.mu n (some { b with st := .playing, region := none, play := some q.c }))) ∧
    (q.i = .binClose f → ∀ b, binAt s q.mu n = some b → b.st = .opened → Serves s q fun t =>
      ans (BitVec.ofNat 64 (b.app + 2 ^ 32 * b.drp + 2 ^ 62)) (setBin (pay t) q.mu n none)) ∧
    (q.i = .binOpen f →
      let c := q.k.getD 1 0
      let cw := q.k.getD 3 0
      binAt s q.mu n = none → badBin t q c cw = false → binTyOk (binTy c) = true →
      addrFault t q false [0, 3] (q.k.getD 0 0) (max 1 (binLen c * tyBytes (binTy c))) (tyBytes (binTy c)) true = none →
      addrFault t q false [0, 3] (q.k.getD 2 0) (max 1 (4096 * cwLen cw)) 4096 true = none →
      ∀ z, writeTable (reqEng q) (q.k.getD 2 0) (List.range (binRegions c)) t = .ok () z → Serves s q fun _ =>
        ans 0 (pay (setBin z q.mu n (some
          { st := .opened, dest := q.k.getD 0 0, ctl := c, area := q.k.getD 2 0, cw := cw, app := 0, drp := 0,
            blocks := cwLen cw, used := binTable c, region := none, play := none })))) ∧
    (q.i = .binPutMap f →
      let ix := tmapOf s q.c.u (f.imm.toNat / 256 % 16)
      let vm := tmapOf s q.c.u (f.imm.toNat / 4096 % 16)
      let sg := segOf q.c.l.val
      ∀ b, binAt s q.mu n = some b → b.st = .opened → badMap t q ix isCoord = none → badMap t q vm (fun t => t == binTy b.ctl) = none →
        badSeg q.c.l.val (mapD ix 0) = none → badSeg q.c.l.val (mapD vm 0) = none → elemFault t q ix sg.1 sg.2 false = none →
        elemFault t q vm sg.1 sg.2 false = none →
        Serves s q fun t => { pay t with cp := { (pay t).cp with puts := (pay t).cp.puts ++ [entry [ix, vm]] } }) ∧
    (q.i = .mpath f →
      let d := tmapOf s q.c.u (f.imm.toNat % 16)
      badMap t q d isCoord = none → 2 ≤ mapD d 0 → elemFault t q d 0 (mapD d 0) false = none →
      ∀ ls w, engLocs (reqEng q) .read (mapBase d) none (elemPtrs d 0 ++ elemPtrs d (mapD d 0 - 1)) t = .ok ls w →
      ∀ r0 r1 z1 z2, rpAt q d 0 w = .ok r0 z1 → rpAt q d (mapD d 0 - 1) z1 = .ok r1 z2 → ∀ v z, mpathResult q d r0 r1 z2 = .ok v z →
        Serves s q fun _ => replyBoth q.mu f q.c (BitVec.ofNat 64 v.1) (BitVec.ofNat 64 v.2) (charge z q.c.u 7 1)))

/-- R341, R342: the binning engine: an update in range is appended to its region's bin and counted, one out of range is dropped and counted; a
replay starts when its puts are done, takes region by region, and ends with its bins empty. -/
def Sys2Proof.Claims.BinEngineEvents : Prop :=
  (∀ (s : State) (m : UId) (n : Nat) (u : BinPut) (b : BinSet), (s.cp.puts.filter fun u => u.req.mu == m)[n]? = some u → u.req.mu = m →
    isRunning (ctxOf s m.ctx) = true → u.maps = [] → binAt s m u.set = some b →
    let i := u.req.c.l.val.toInt
    let v := leBytes (u.req.k.getD 0 0).toNat (tyBytes (binTy b.ctl))
    (i < 0 ∨ (binLen b.ctl : Int) ≤ i → Ends (.binUpdateAppend m n) s (advancePut u { u with pos := u.pos + 1, drp := u.drp + 1 }
      (setBin s m u.set (some { b with drp := min (2 ^ 30 - 1) (b.drp + 1) })))) ∧
    (0 ≤ i → i < binLen b.ctl →
      (∀ t, appendUpdate (reqEng u.req) u.set b i.toNat v s = .ok () t →
        Ends (.binUpdateAppend m n) s (advancePut u { u with pos := u.pos + 1, app := u.app + 1 } t)) ∧
      (∀ e, appendUpdate (reqEng u.req) u.set b i.toNat v s = .fault e → Ends (.binUpdateAppend m n) s
        (raise u.req.c e { s with cp := { s.cp with puts := s.cp.puts.erase u } })))) ∧
  (∀ (s : State) (m : UId) (n : Nat) (b : BinSet), binAt s m n = some b → engineRuns (ctxOf s m.ctx) = true →
    (b.st = .playing → b.region = none → (∀ u ∈ s.cp.puts, ¬(u.req.mu = m ∧ u.set = n)) →
      Ends (.binReplayStart m n) s (setBin s m n (some { b with region := some 0 }))) ∧
    ((∃ u ∈ s.cp.puts, u.req.mu = m ∧ u.set = n) → Ends (.binReplayStart m n) s s) ∧
    (∀ F k, b.play = some F → b.region = some k → k < binRegions b.ctl →
      (∀ j t, nextRegion (playEng m n F b.cw) b (binRegions b.ctl - k) k s = .ok (j, 0) t → binRegions b.ctl ≤ j →
        Ends (.binReplayRegion m n) s (setBin t m n (some { b with region := some j }))) ∧
      (∀ j h t, nextRegion (playEng m n F b.cw) b (binRegions b.ctl - k) k s = .ok (j, h) t → j < binRegions b.ctl →
        Ends (.binReplayRegion m n) s (replayRegion (playEng m n F b.cw) n b j h t))) ∧
    (∀ F k, b.play = some F → b.region = some k → binRegions b.ctl ≤ k → ∀ t,
      writeTable (playEng m n F b.cw) b.area (List.range (binRegions b.ctl)) s = .ok () t →
      Ends (.binReplayEnd m n) s (setBin (sendCredit t m noCopy b.cw (binLen b.ctl * tyBytes (binTy b.ctl))) m n (some
        { b with st := .opened, app := 0, drp := 0, used := binTable b.ctl, region := none, play := none }))))

/-- R334, R335, R349 to R352: the fibre units: acceptance, the tokens of a position of FSCAN and GATH, the end-of-fibre after the last one; the
emitter's window takes tokens in any order, writes whole positions in order, drops those that find no room in the maps, and turns away those it cannot
use. Which source ranges a fibre unit commits is the model's choice (log entry 100), as is what a line costs (log entry 39). -/
def Sys2Proof.Claims.FibreUnitEvents : Prop :=
  (∀ (s : State) (m : UId) (q : Req), s.cp.queue.find? (fun q => q.mu == m) = some q → isRunning (ctxOf s q.c.u.ctx) = true →
    (ctxOf s q.c.u.ctx).freezing = false → tableFull s m = false →
    let t := { s with cp := { s.cp with queue := s.cp.queue.erase q } }
    let accepted (r : Except FaultInfo Copy) : Prop :=
      (∀ e, r = .error e → Ends (.copyAccept m) s (raise q.c e t)) ∧
      (∀ p, r = .ok p → Ends (.copyAccept m) s
        (enterCopy p ((fibreRanges q.i p).foldl (fun s r => commitSource q.c r.1 r.2 s) t)))
    sourceWaits q.c (sourceRanges q s) s = none →
    (∀ f, q.i = .fscan f → accepted (acceptFscan q t)) ∧ (∀ f, q.i = .fisect f → accepted (acceptMerge q t)) ∧
    (∀ f, q.i = .funion f → accepted (acceptMerge q t)) ∧ (∀ f, q.i = .gath f → accepted (acceptGath q t)) ∧
    (∀ f, q.i = .femit f → accepted (acceptFemit q t))) ∧
  (∀ (s : State) (m : UId) (id : Nat) (p : Copy) (f : Fields), copyOf s m id = some p → isMoving p = true →
    engineRuns (ctxOf s m.ctx) = true → (ctxOf s m.ctx).cst = .running →
    let send (t : BitVec 12) (k : BitVec 3) (v : Word) (s : State) : State := emitFrom s p.mu p.c.u (fcol p.c) (p.cnt % 65536) t k v false
    (p.i = .fscan f → p.n ≤ p.pos → Ends (.fibrePosition m id) s
      (closeStream p (send f.tb 2 (BitVec.ofNat 64 p.cnt) (send f.ta 2 (BitVec.ofNat 64 p.cnt) s)))) ∧
    (p.i = .fscan f → p.pos < p.n →
      let e := auxAt p 3 + p.pos
      (∀ bs t, seenRead (copyEng p) (mapAt p 0) (elemPtrs (mapAt p 0) e) s = .ok (bs, false) t →
        let c := elemBits (mapAt p 0) e bs
        let w := chargeElem p (mapAt p 0) (auxAt p 3) e t
        let gives (v : Nat) (w : State) : Prop :=
          Ends (.fibrePosition m id) s (keepFibre { p with pos := p.pos + 1, cnt := p.cnt + 1, aux := p.aux.set 4 (c + 1) }
            (send f.tb 0 (extendTy (mapTy (mapAt p 1)) v) (send f.ta 0 (extendTy (mapTy (mapAt p 0)) c) w)))
        (notAbove (mapTy (mapAt p 0)) (auxAt p 4) c = true → Ends (.fibrePosition m id) s (endFibre p true false w)) ∧
        (notAbove (mapTy (mapAt p 0)) (auxAt p 4) c = false →
          (tgtPos f.tb = 3 → gives 0 w) ∧
          (tgtPos f.tb ≠ 3 → ∀ bs z, seenRead (copyEng p) (mapAt p 1) (elemPtrs (mapAt p 1) e) w = .ok (bs, false) z →
            gives (elemBits (mapAt p 1) e bs) (chargeElem p (mapAt p 1) (auxAt p 3) e z)))) ∧
      (∀ bs t, seenRead (copyEng p) (mapAt p 0) (elemPtrs (mapAt p 0) e) s = .ok (bs, true) t →
        Ends (.fibrePosition m id) s (sourceError p [] t)) ∧
      (∀ x, seenRead (copyEng p) (mapAt p 0) (elemPtrs (mapAt p 0) e) s = .fault x →
        Ends (.fibrePosition m id) s (copyFault p x s))) ∧
    (p.i = .gath f → p.pos < p.n →
      let e := auxAt p 3 + p.pos
      let tm := mapAt p 1
      ∀ bs t, seenRead (copyEng p) (mapAt p 0) (elemPtrs (mapAt p 0) e) s = .ok (bs, false) t →
        let i := intOf (mapTy (mapAt p 0)) (BitVec.ofNat 64 (elemBits (mapAt p 0) e bs))
        let w := chargeElem p (mapAt p 0) (auxAt p 3) e t
        let gives (v : Nat) (miss : Nat) (w : State) : Prop :=
          Ends (.fibrePosition m id) s (keepFibre
            { p with pos := p.pos + 1, cnt := p.cnt + 1, aux := p.aux.set 6 (auxAt p 6 + miss) } (send f.ta 0 (extendTy (mapTy tm) v) w))
        (0 ≤ i → i < mapD tm 0 → ∀ bs z, seenRead (copyEng p) tm (elemPtrs tm i.toNat) w = .ok (bs, false) z →
          gives (elemBits tm i.toNat bs) 0 (chargeElem p tm i.toNat i.toNat z)) ∧
        (i < 0 ∨ (mapD tm 0 : Int) ≤ i → gives (lowBits (mapTy tm) (p.k.getD 1 0)) 1 w)) ∧
    (p.i = .gath f → p.n ≤ p.pos → Ends (.fibrePosition m id) s
      (closeStream p (send f.tb 0 (BitVec.ofNat 64 (auxAt p 6)) (send f.ta 2 (BitVec.ofNat 64 p.cnt) s)))) ∧
    (p.i = .fisect f → (p.n ≤ p.pos ∨ auxAt p 1 ≤ auxAt p 0) → Ends (.fibrePosition m id) s
      (closeStream p (send f.tb 2 (BitVec.ofNat 64 p.cnt) (send f.ta 2 (BitVec.ofNat 64 p.cnt) s)))) ∧
    (p.i = .funion f → p.n ≤ p.pos → auxAt p 1 ≤ auxAt p 0 → Ends (.fibrePosition m id) s
      (closeStream p (send f.tb 2 (BitVec.ofNat 64 p.cnt) (send f.ta 2 (BitVec.ofNat 64 p.cnt) s))))) ∧
  (∀ (s : State) (m : UId) (k : Nat) (p : Copy) (x : Flight) (f : Fields), openWriter s m k = some p → p.i = .femit f →
    isMoving p = true → engineRuns (ctxOf s m.ctx) = true → (ctxOf s m.ctx).cst = .running →
    s.cp.toQueues.find? (fun x => x.u == m && x.tok.stn.toNat % 4 == k) = some x →
    let t := { s with cp := { s.cp with toQueues := s.cp.toQueues.erase x } }
    (x.tok.kind ≠ 2 → x.tok.itr.toNat < p.pos →
      Ends (.femitToken m k) s (tryCloseFemit m p.id (advanceFemit 65536 p (addOrph t p.mu.ctx 1)))) ∧
    (x.tok.kind = 2 → k % 2 = 0 → Ends (.femitToken m k) s (tryCloseFemit m p.id
      (advanceFemit 65536 { p with aux := p.aux.set 3 (x.tok.val.toNat % 2 ^ 32 + 1) } t))) ∧
    (x.tok.kind ≠ 2 → p.pos ≤ x.tok.itr.toNat → auxAt p 3 = 0 ∨ x.tok.itr.toNat + 1 < auxAt p 3 → femitFull s p x.tok = false →
      let e : FibTok := { itr := x.tok.itr.toNat, kind := x.tok.kind, val := x.tok.val }
      let goes (p' : Copy) : Prop := Ends (.femitToken m k) s (tryCloseFemit m p.id (advanceFemit 65536 p' t))
      (k % 2 = 0 → (∀ u ∈ p.toks, u.itr ≠ e.itr) → goes { p with toks := p.toks ++ [e] }) ∧
      (k % 2 = 1 → (∀ u ∈ p.toks2, u.itr ≠ e.itr) → goes { p with toks2 := p.toks2 ++ [e] })) ∧
    (femitFull s p x.tok = true → Ends (.femitToken m k) s (copyFault p { kind := 0x0C } s))) ∧
  (∀ (n : Nat) (p : Copy) (s : State),
    (takeTok p.toks p.pos = none ∨ takeTok p.toks2 p.pos = none → advanceFemit (n + 1) p s = keepFemit p s) ∧
    (∀ a as b bs, takeTok p.toks p.pos = some (a, as) → takeTok p.toks2 p.pos = some (b, bs) →
      let p' : Copy := { p with pos := p.pos + 1, toks := as, toks2 := bs }
      let e := auxAt p 0 + auxAt p 1
      (a.kind = 1 ∨ b.kind = 1 → advanceFemit (n + 1) p s = advanceFemit n p' s) ∧
      (a.kind ≠ 1 → b.kind ≠ 1 → mapD (mapAt p 0) 0 ≤ e ∨ mapD (mapAt p 1) 0 ≤ e →
        advanceFemit (n + 1) p s = advanceFemit n { p' with aux := p.aux.set 2 (auxAt p 2 + 1) } s) ∧
      (a.kind ≠ 1 → b.kind ≠ 1 → e < mapD (mapAt p 0) 0 → e < mapD (mapAt p 1) 0 → ∀ t1 t2,
        emitElem p (mapAt p 0) e a.val s = .ok () t1 → emitElem p (mapAt p 1) e b.val t1 = .ok () t2 →
        advanceFemit (n + 1) p s = advanceFemit n { p' with aux := p.aux.set 1 (auxAt p 1 + 1) } t2)))

/-- R350: the merge of FISECT and FUNION: the tokens of a position that both segments have, or for FUNION one of them, as positions or as values;
FISECT passes over a coordinate that one segment alone has; a coordinate not above its predecessor ends the fibre as out of order, and position
65,535 as truncated. -/
def Sys2Proof.Claims.MergePositions : Prop :=
  ∀ (s : State) (m : UId) (id : Nat) (p : Copy) (f : Fields), copyOf s m id = some p → p.i = .fisect f ∨ p.i = .funion f →
    isMoving p = true → engineRuns (ctxOf s m.ctx) = true → (ctxOf s m.ctx).cst = .running →
    let send (t : BitVec 12) (v : Word) (s : State) : State := emitFrom s p.mu p.c.u (fcol p.c) (p.cnt % 65536) t 0 v false
    let T := mapTy (mapAt p 0)
    let val (v : Nat) : Word := extendTy (mapTy (mapAt p 2)) v
    let pb := auxAt p 0
    let ea := auxAt p 3 + p.pos
    let eb := auxAt p 2 + pb
    let reads (d : BitVec 512) (first e : Nat) (u : State) (c : Nat) (w : State) : Prop :=
      ∃ bs t, seenRead (copyEng p) d (elemPtrs d e) u = .ok (bs, false) t ∧ c = elemBits d e bs ∧ w = chargeElem p d first e t
    let next (inA inB : Bool) (out ca cb : Nat) : Copy :=
      { p with pos := p.pos + inA.toNat, cnt := p.cnt + out,
               aux := ((p.aux.set 0 (pb + inB.toNat)).set 4 (if inA then ca + 1 else auxAt p 4)).set 5 (if inB then cb + 1 else auxAt p 5) }
    let gives (q : Copy) (x y : Word) (w : State) : Prop := Ends (.fibrePosition m id) s (keepFibre q (send f.tb y (send f.ta x w)))
    let onlyA (ca cb : Nat) (w : State) : Prop :=
      (f.fn = 1 → gives (next true false 1 ca cb) (extendTy T ca) (BitVec.ofNat 64 (p.pos + 2 ^ 32 * 0xFFFFFFFF)) w) ∧
      (f.fn ≠ 1 → ∀ va v, reads (mapAt p 2) (auxAt p 3) ea w va v → gives (next true false 1 ca cb) (val va) (val 0) v)
    let onlyB (ca cb : Nat) (w : State) : Prop :=
      (f.fn = 1 → gives (next false true 1 ca cb) (extendTy T cb) (BitVec.ofNat 64 (0xFFFFFFFF + 2 ^ 32 * pb)) w) ∧
      (f.fn ≠ 1 → ∀ vb v, reads (mapAt p 3) (auxAt p 2) eb w vb v → gives (next false true 1 ca cb) (val 0) (val vb) v)
    let passes (q : Copy) (w : State) : Prop :=
      Ends (.fibrePosition m id) s (fibreTurns (p.n + auxAt p 1 + 1) q (keepFibre q w))
    (p.pos < p.n → pb < auxAt p 1 → ∀ ca cb w1 w, reads (mapAt p 0) (auxAt p 3) ea s ca w1 → reads (mapAt p 1) (auxAt p 2) eb w1 cb w →
      let bad := notAbove T (auxAt p 4) ca || notAbove T (auxAt p 5) cb
      (bad = true → Ends (.fibrePosition m id) s (endFibre p true false w)) ∧
      (bad = false → p.cnt = 65535 → Ends (.fibrePosition m id) s (endFibre p false true w)) ∧
      (bad = false → p.cnt ≠ 65535 →
        (coordLt T ca cb = false → coordLt T cb ca = false →
          (f.fn = 1 → gives (next true true 1 ca cb) (extendTy T ca) (BitVec.ofNat 64 (p.pos + 2 ^ 32 * pb)) w) ∧
          (f.fn ≠ 1 → ∀ va v1 vb v, reads (mapAt p 2) (auxAt p 3) ea w va v1 → reads (mapAt p 3) (auxAt p 2) eb v1 vb v →
            gives (next true true 1 ca cb) (val va) (val vb) v)) ∧
        (coordLt T ca cb = true →
          (p.i = .funion f → onlyA ca cb w) ∧ (p.i = .fisect f → passes (next true false 0 ca cb) w)) ∧
        (coordLt T ca cb = false → coordLt T cb ca = true →
          (p.i = .funion f → onlyB ca cb w) ∧ (p.i = .fisect f → passes (next false true 0 ca cb) w)))) ∧
    (p.i = .funion f → p.cnt ≠ 65535 →
      (p.pos < p.n → auxAt p 1 ≤ pb → ∀ ca w, reads (mapAt p 0) (auxAt p 3) ea s ca w → notAbove T (auxAt p 4) ca = false → onlyA ca 0 w) ∧
      (p.n ≤ p.pos → pb < auxAt p 1 → ∀ cb w, reads (mapAt p 1) (auxAt p 2) eb s cb w → notAbove T (auxAt p 5) cb = false → onlyB 0 cb w))

/-- R296 to R298, R309, R276, R281, R289: TMAP, TFILL, TTAG and TDOT at issue: a map entry that passes R276 is written and 0 sent, a fill makes
its tag FILLING with the map's format, the forms of TTAG change or report a tag, and what they refuse faults TILE. -/
def Obligations.MapFillTagAndDotAtIssue : Prop :=
  ∀ (f : Fields) (s : State) (F : Ready), s.firing = [F] → settle true F = .go →
    let x := ctxOf s F.u.ctx
    let p := F.l.val
    let entry := uKey F.u * 16 + f.imm.toNat % 16
    let d := tmapOf s F.u (f.imm.toNat % 16)
    let put (i : Instr) (d : BitVec 512) (t : State) : Prop :=
      (mapValid d = true → Ends i s (emitBoth f F kValue 0 { t with tn := { t.tn with maps := fset 0 t.tn.maps entry d } })) ∧
      (mapValid d = false → Ends i s (raiseSub F 0x1E 1 t))
    (f.fn = 1 → mapV d = false → Ends (.tmap f) s (raiseSub F 0x1E 2 s)) ∧
    (f.fn = 1 → mapV d = true → put (.tmap f) (d.extractLsb' 64 448 ++ p) s) ∧
    (f.fn = 0 → windowFault x (poolSize x) [0, 1, 2, 3] p 64 = none →
      (winOf p = 2 → offOf p % 64 = 0 → put (.tmap f) (BitVec.ofNat 512 (leNat (rdBytes s (locUnit F.u (offOf p)) 64))) (poolError F p s)) ∧
      (winOf p = 2 → offOf p % 64 ≠ 0 → Ends (.tmap f) s (raise F { kind := 0x08, va := p } s)) ∧
      (winOf p ≠ 2 → Requests (.tmap f) s F (readMu x F p) [])) ∧
    (let t := f.imm.toNat / 16 % 32
     let g := tagOf s F.u t
     Unheld s 0xB1 f F →
      (mapV d = false → Ends (.tfill f) s (raise F { kind := 0x1E, fks := 2 } s)) ∧
      (mapV d = true →
        let bad : Prop := p.toNat % 2 ^ 32 % min (blockSize (mapBn d)) (rowElems (mapTy d)) ≠ 0 ∨
          (mapBk d = 2 ∧ p.toNat / 2 ^ 32 % 2 ^ 32 % 32 ≠ 0)
        let ptrs : Prop := fillPtrOk s F.u (mapBase d) = true ∧ (mapBk d = 0 ∨ fillPtrOk s F.u (mapSbase d) = true)
        (bad → Ends (.tfill f) s (raise F { kind := 0x1E, fks := 8 } s)) ∧
        (¬bad → mapBk d ≠ 0 → g.sv = false → Ends (.tfill f) s (raise F { kind := 0x1E, fks := 3 } s)) ∧
        (¬bad → mapBk d = 0 ∨ g.sv = true → ¬ptrs → Ends (.tfill f) s (raise F { kind := 0x07, va := mapBase d } s)) ∧
        (¬bad → mapBk d = 0 ∨ g.sv = true → ptrs → Ends (.tfill f) s (
          let u := commitPt (setTag s F.u t { g with st := .filling, ef := mapEf d, bk := mapBk d, bn := mapBn d, sf := mapSf d })
            F.u.ctx F.u.copy (fcol F)
          { u with tn := { u.tn with fills := u.tn.fills ++ [{ c := F, i := .tfill f, tag := t, map := d, rows := 0 }] } })))) ∧
    (let t := f.imm.toNat / 64 % 32
     let g := tagOf s F.u t
     let set (i : Instr) (ok : Prop) (n : Tag) : Prop :=
      (ok → outsidePool x n = false →
        Ends i s (emitBoth f F kValue 0 (commitPt (setTag s F.u t n) F.u.ctx F.u.copy (fcol F)))) ∧
      (¬ok ∨ outsidePool x n = true → Ends i s (raiseSub F 0x1E 3 s))
     set (.ttagBind f) (g.st = .unbound ∨ g.st = .empty) (bindTag (rightOp f F s)) ∧
     set (.ttagFull f) (g.st = .empty) { g with st := .full } ∧
     set (.ttagEmpty f) (g.st = .full ∨ g.st = .empty) { g with st := .empty } ∧
     Ends (.ttagStat f) s (emitBoth f F kValue (tagWord g) s)) ∧
    (let e := tmapOf s F.u (f.imm.toNat / 16 % 16)
     let n := p.toNat
     (mapV d = false ∨ mapV e = false → Ends (.tdot f) s (raise F { kind := 0x1E, fks := 2 } s)) ∧
     (mapV d = true → mapV e = true → tdotClass d e = none → Ends (.tdot f) s (raise F { kind := 0x1E, fks := 5 } s)) ∧
     (mapV d = true → mapV e = true → ∀ c, tdotClass d e = some c → 1 ≤ n → n ≤ mapD d 0 → n ≤ mapD e 0 →
       (mapBk d = 1 ∨ mapBk e = 1 → n % c.chunk = 0) → c.at_ = f.ty → Requests (.tdot f) s F (readMu x F (mapBase d))
         ([kreg s F.u (f.imm.toNat / 256 % 64), kreg s F.u (f.imm.toNat / 16384 % 64)] ++ mapWords d ++ mapWords e)))

/-- R282 to R288, R299 to R308: an array instruction whose tags and arrays are ready takes its arrays for its cycles; a tile fault of its
operands, or the first of its own checks that fails, is raised instead; and where R283 is not met the firing goes back to wait. -/
def Obligations.ArrayInstructionsAtIssue : Prop :=
  ∀ (f : Fields) (s : State) (F : Ready), s.firing = [F] → settle true F = .go →
    let imm (lo n : Nat) : Nat := f.imm.toNat / 2 ^ lo % 2 ^ n
    let g := tagOf s F.u (imm 0 5)
    let t := efTy g.ef
    (∀ e ∈ [(Instr.mma, 0xB3), (.mmas, 0xB4), (.mmag, 0xB5), (.mmar, 0xB6), (.wld, 0xB7), (.accz, 0xB8), (.accrd, 0xB9), (.tcvt, 0xBA),
        (.tred, 0xBB), (.texp, 0xBC), (.ttrn, 0xBD), (.bfly, 0xC0), (.bfch, 0xC1), (.sdset, 0xC2), (.bperm, 0xC4), (.bfsc, 0xC5)],
      (∀ n, tileFault s e.2 f F = some n → Ends (e.1 f) s (raiseSub F 0x1E n s)) ∧
      (tileFault s e.2 f F = none → tileReady s e.2 f F = false → Ends (e.1 f) s (returnReady s F))) ∧
    (∀ e ∈ [(Instr.mma, 0xB3, checkMma f false), (.mmas, 0xB4, checkMma f true), (.mmag, 0xB5, checkMmag f), (.mmar, 0xB6, checkMmar f),
        (.wld, 0xB7, checkWld f)],
      Unheld s e.2.1 f F →
        (∀ x, e.2.2 F s = .error x → Ends (e.1 f) s (raise F x s)) ∧
        (∀ r, e.2.2 F s = .ok r → Starts (e.1 f) e.2.1 f s F r.1 r.2)) ∧
    (∀ c k, checkMma f false F s = .ok (c, k) → c = 32 * (if t = .e4m3 ∨ t = .e5m2 then 2 else 1)) ∧
    (Unheld s 0xB8 f F → Starts (.accz f) 0xB8 f s F 1 []) ∧
    (Unheld s 0xB9 f F → Starts (.accrd f) 0xB9 f s F 32 (if f.src = .kreg then [kreg s F.u (imm 0 6)] else [])) ∧
    (Unheld s 0xBA f F → t ≠ .ln → 512 / tyW t * tyW f.ty ≤ 1024 → (g.bk = 0 ∨ g.sv = true) → Starts (.tcvt f) 0xBA f s F 32 []) ∧
    (Unheld s 0xBA f F → 1024 < 512 / tyW t * tyW f.ty → Ends (.tcvt f) s (raise F { kind := 0x1E, fks := 5 } s)) ∧
    (Unheld s 0xBB f F → (if f.fn.toNat ≤ 1 then t ∈ [Ty.bf16, .f16, .e4m3, .e5m2, .e2m1, .i8, .f32] else t ≠ .ln) →
      (g.bk = 0 ∨ g.sv = true) → Starts (.tred f) 0xBB f s F 32 []) ∧
    (Unheld s 0xBC f F → t ∈ [Ty.f32, .bf16, .f16] → g.bk = 0 → tyW f.ty ≤ tyW t → Starts (.texp f) 0xBC f s F 32 []) ∧
    (Unheld s 0xBD f F → t ≠ .ln → tyW t ≠ 4 → tyW t ≠ 64 → tyW t ≠ 32 → g.bk = 0 → Starts (.ttrn f) 0xBD f s F 32 [])

/-- R282, R299 to R309: an operation's end leaves its arrays and has its results: the products into the accumulators, banks, tiles and their
tags, and the tokens; a fill or a pass completes; TMAP and TDOT end at the home MU. The model's choices in it: the kind of TDOT's result
(log 25), when operands are read and checked (45), which shapes of a region fault (46), which lines hold errors (17). -/
def Obligations.TensorOperationsComplete : Prop :=
  (∀ (s : State) (u : UId) (o : ArrayOp) (f : Fields), s.tn.ops.find? (fun o => o.c.u == u) = some o → occupies (ctxOf s u.ctx) = true →
    let F := o.c
    let t := leaveArray s o
    let imm (lo n : Nat) : Nat := f.imm.toNat / 2 ^ lo % 2 ^ n
    (∀ mk ∈ [Instr.mma, .mmas], o.i = mk f → ∀ c, tagClass t F.u (imm 0 5) (imm 5 5) = some c → f.fn = 0 →
      Ends (.arrayOpEnd u) s (emitBoth f F kValue (BitVec.ofNat 64 (imm 10 6)) (product F.u (imm 10 6) c
        (tagOperand t F.u (imm 0 5) c.w) (tagOperand t F.u (imm 5 5) c.w) (List.range 32) t))) ∧
    (o.i = .mmag f → Ends (.arrayOpEnd u) s (endMmag f F t)) ∧
    (o.i = .wld f → wldHeld s f F = false → Ends (.arrayOpEnd u) s (endWld f F t)) ∧
    (o.i = .accz f → Ends (.arrayOpEnd u) s (emitBoth f F kValue 0 ((List.range (imm 6 6 + 1)).foldl
      (fun s k => setAccBits s F.u (imm 0 6 + k) (if f.ty = .i32 then 2 else 0)) t))) ∧
    (o.i = .accrd f → Ends (.arrayOpEnd u) s (endAccrd f F o.k t)) ∧ (o.i = .tcvt f → Ends (.arrayOpEnd u) s (endTcvt f F t)) ∧
    (o.i = .tred f → Ends (.arrayOpEnd u) s (endTred f F t)) ∧ (o.i = .texp f → Ends (.arrayOpEnd u) s (endTexp f F t)) ∧
    (o.i = .ttrn f → Ends (.arrayOpEnd u) s (endTtrn f F t)) ∧ (o.i = .bfly f → Ends (.arrayOpEnd u) s (endBfly f F o.k t)) ∧
    (o.i = .bfch f → Ends (.arrayOpEnd u) s (endBfch f F o.k t)) ∧ (o.i = .bperm f → Ends (.arrayOpEnd u) s (endBperm f F o.k t)) ∧
    (o.i = .bfsc f → Ends (.arrayOpEnd u) s (endBfsc f F o.k t)) ∧
    (o.i = .sdset f → Ends (.arrayOpEnd u) s (emitBoth f F kValue 0
      { t with fab := { t.fab with sdregs := fset 0 t.fab.sdregs (uKey F.u * 8 + sdsetJ f) (o.k.headD 0) } }))) ∧
  (∀ (s : State) (u : UId) (t : Nat) (b : Fill) (f : Fields), s.tn.fills.find? (fun b => b.c.u == u && b.tag == t) = some b →
    b.i = .tfill f → engineRuns (ctxOf s u.ctx) = true → b.rows ≤ fillLines b →
    ∀ (st : Nat → State) (n : Nat), st b.rows = s → b.rows ≤ n → (∀ k, b.rows ≤ k → k < n → fillLine b k (st k) = .ok () (st (k + 1))) →
    (n = fillLines b → Ends (.tfillComplete u t) s (emitBoth f b.c kValue 0 (
      let z := setTagSt (st n) u t .full
      { z with tn := { z.tn with fills := z.tn.fills.erase b } }))) ∧
    (n < fillLines b →
      (∀ z, fillLine b n (st n) = .waits z → Ends (.tfillComplete u t) s (keepRows b n z)) ∧
      (∀ e, fillLine b n (st n) = .fault e →
        ((ctxOf (st n) u.ctx).cst ≠ .draining → Ends (.tfillComplete u t) s (raiseEngine b.c 0 e (keepRows b n (st n)))) ∧
        ((ctxOf (st n) u.ctx).cst = .draining → Ends (.tfillComplete u t) s (dropFill b (st n)))))) ∧
  (∀ (s : State) (u : UId) (o : ArrayOp) (f : Fields),
    s.tn.ops.find? (fun o => o.c.u == u && (match o.i with | .mmar _ => true | _ => false)) = some o → o.i = .mmar f →
    let reg := o.k.headD 0
    let w := opW (tagOf s u (mmarA f)).ef
    let tags := passTags o.c f reg w
    let at_ (t : Nat) : Nat := mmarA f + w * t
    let fits : Prop := ∀ p < regRows reg, ∀ t < o.c.l.val.toNat, ∀ q < regCols reg, passClass s o.c reg (at_ t) p q ≠ none
    let strips : Prop := ∀ p < regRows reg, ∀ t < o.c.l.val.toNat, noStrip (tagOf s (regionCu u p 0) (at_ t)) = false
    ((∃ e ∈ tags, (tagOf s e.1 e.2).st ≠ .full) → (ctxOf s u.ctx).dying = false → Ends (.mmarPassComplete u) s s) ∧
    ((∀ e ∈ tags, (tagOf s e.1 e.2).st = .full) → ¬fits → Ends (.mmarPassComplete u) s (raiseSub o.c 0x1E 6 (endOp o s))) ∧
    ((∀ e ∈ tags, (tagOf s e.1 e.2).st = .full) → fits → ¬strips → Ends (.mmarPassComplete u) s (raiseSub o.c 0x1E 3 (endOp o s))) ∧
    ((∀ e ∈ tags, (tagOf s e.1 e.2).st = .full) → fits → strips →
      Ends (.mmarPassComplete u) s (emitBoth f o.c kValue o.c.l.val (consumeIf (f.fn == 1) tags (endOp o
        ((passResults s f o.c reg w).foldl (fun s r => writeAcc r.1 r.2.1 f.ty r.2.2 s) (noteArray o.c (passMemory s o.c f reg w) s))))))) ∧
  (∀ (s : State) (q : Req) (f : Fields), Oldest s q →
    (q.i = .tmap f → winOf q.c.l.val = 1 → q.k = [] → onModule (reqCtx s q) q.c.u.x = true →
      let p := q.c.l.val
      let loc := locUnit (muNamed q.c.u p) (offOf p)
      (offOf p % 64 ≠ 0 → Serves s q fun t => raise q.c { kind := 0x08, va := p } t) ∧
      (offOf p % 64 = 0 → liveFault s loc 64 = none → readFails s loc = false →
        let d := BitVec.ofNat 512 (leNat (seenBytes (taken s q) q (muPtr (muNamed q.c.u p) (offOf p)) loc 0 64 true))
        (mapValid d = true → Serves s q fun t => emitBoth f q.c kValue 0 { t with tn := { t.tn with
          maps := fset 0 t.tn.maps (uKey q.c.u * 16 + f.imm.toNat % 16) d } }) ∧
        (mapValid d = false → Serves s q fun t => raiseSub q.c 0x1E 1 t))) ∧
    (q.i = .tmap f → winOf q.c.l.val ≠ 1 → q.k = [] → onModule (reqCtx s q) q.c.u.x = true →
      let w := touched s q
      (∀ e, resolveVa (taken s q) q.mu q.c.l.val 64 64 false = .error e → Serves s q fun _ => raise q.c e w) ∧
      (∀ va, resolveVa (taken s q) q.mu q.c.l.val 64 64 false = .ok va →
        (∀ e, translate w q .read va = .fault e → Serves s q fun _ => raise q.c (xInfo e) w) ∧
        (∀ a t, translate w q .read va = .ok a t → onModule (reqCtx t q) q.c.u.x = true → readFails t a.phys = false →
          let d := bits512 (seenGlobal t q va a.phys 64)
          (mapValid d = true → Serves s q fun _ => emitBoth f q.c kValue 0 { t with tn := { t.tn with
            maps := fset 0 t.tn.maps (uKey q.c.u * 16 + f.imm.toNat % 16) d } }) ∧
          (mapValid d = false → Serves s q fun _ => raiseSub q.c 0x1E 1 t)))) ∧
    (q.i = .tdot f → q.k.length = 18 →
      let a := wordsMap q.k 2
      let b := wordsMap q.k 10
      let n := q.c.l.val.toNat
      let ps := (tdotPieces a n).map (fun e => (a, e)) ++ (tdotPieces b n).map (fun e => (b, e))
      ∀ (c : PClass) (st : Nat → State) (rd : Nat → List Byte × Bool), tdotClass a b = some c → st 0 = taken s q →
        (∀ j (h : j < ps.length), readMu (reqCtx (st j) q) q.c ps[j].2.1 = q.mu ∧ (rd j).1.length = ps[j].2.2 ∧
          ∃ t, tdotRead q ps[j].1 ps[j].2 (st j) = .ok (rd j) t ∧ st (j + 1) = noteBad q (rd j).2 t) →
        let got := (List.range ps.length).map fun j => (rd j).1
        Serves s q fun _ => emitBoth f q.c kValue (tdotVal a b (q.k.getD 0 0) (q.k.getD 1 0) c (tdotSide a n got)
          (tdotSide b n (got.drop (tdotPieces a n).length))) (st ps.length)))

/-- R317 to R319, R326 to R330: the butterfly instructions at issue: their checks on N, the handles and the stride registers, and the cycles of their
stages; BWLD sends its words as config tokens. -/
def Obligations.ButterflyInstructionsAtIssue : Prop :=
  ∀ (f : Fields) (s : State) (F : Ready), s.firing = [F] → settle true F = .go →
    let imm (lo n : Nat) : Nat := f.imm.toNat / 2 ^ lo % 2 ^ n
    let n := (kreg s F.u (imm 0 6)).toNat
    let t := efTy (tagOf s F.u (imm 6 5)).ef
    let x := ctxOf s F.u.ctx
    let fast : Prop := tyW t ≤ 16 ∧ tyW f.ty ≤ 16
    (∀ e ∈ [(Instr.bfly, 0xC0), (.bfsc, 0xC5), (.bperm, 0xC4)], Unheld s e.2 f F →
      (¬(2 ≤ n ∧ n ≤ 4096 ∧ ∃ l, n = 2 ^ l) → Ends (e.1 f) s (raise F { kind := 0x1E, fks := 8 } s))) ∧
    ((2 ≤ n ∧ n ≤ 4096 ∧ ∃ l, n = 2 ^ l) → vecTy t = true → (tagOf s F.u (imm 6 5)).bk = 0 →
      (badVectors s 0xC0 f F n true = false → stageOk (sdreg s F.u (imm 16 3)) n = true → Unheld s 0xC0 f F →
        (fast → Starts (.bfly f) 0xC0 f s F ((n + 511) / 512) [kreg s F.u (imm 0 6)]) ∧
        (¬fast → Starts (.bfly f) 0xC0 f s F ((n + 255) / 256) [kreg s F.u (imm 0 6)])) ∧
      (badVectors s 0xC5 f F n true = false → Unheld s 0xC5 f F → fast →
        Starts (.bfsc f) 0xC5 f s F ((n + 511) / 512) [kreg s F.u (imm 0 6)]) ∧
      (badVectors s 0xC4 f F n true = false → t = f.ty → f.fn = 0 → Unheld s 0xC4 f F → fast →
        Starts (.bperm f) 0xC4 f s F ((n + 511) / 512) [kreg s F.u (imm 0 6)]) ∧
      (badVectors s 0xC1 f F n true = false → Unheld s 0xC1 f F → fast → 1 ≤ F.l.val.toNat → imm 16 3 + F.l.val.toNat ≤ 8 →
        (∀ k < F.l.val.toNat, stageOk (sdreg s F.u (imm 16 3 + k)) n = true) → f.fn.toNat % 4 ≠ 0 →
        Starts (.bfch f) 0xC1 f s F (F.l.val.toNat * ((n + 511) / 512)) [kreg s F.u (imm 0 6)])) ∧
    (Unheld s 0xC2 f F →
      let v := if f.src = .kreg then kreg s F.u (imm 0 6) else F.l.val
      (sdValid v = true → Starts (.sdset f) 0xC2 f s F 1 [v]) ∧
      (sdValid v = false → Ends (.sdset f) s (raise F { kind := 0x1E, fks := 8 } s))) ∧
    (let p := F.l.val
     (isMu (routeDest s F.u (imm 12 3)).x = true → Ends (.bwld f) s (raiseSub F 0x1E 7 s)) ∧
     (isMu (routeDest s F.u (imm 12 3)).x = false → windowFault x (poolSize x) [0, 1, 2, 3] p (8 * (imm 6 6 + 1)) = none →
      (winOf p = 2 → offOf p % 8 = 0 → Ends (.bwld f) s (sendWeights f F (rdBytes s (locUnit F.u (offOf p)) (8 * (imm 6 6 + 1)))
        (commitPt (noteArray F [(locUnit F.u (offOf p), 8 * (imm 6 6 + 1))] s) F.u.ctx F.u.copy (fcol F)))) ∧
      (winOf p = 2 → offOf p % 8 ≠ 0 → Ends (.bwld f) s (raise F { kind := 0x08, va := p } s)) ∧
      (winOf p ≠ 2 → Requests (.bwld f) s F (readMu x F p) [])))

/-- R16, R36, R40, R57, R58, R61 to R66, R81: the steps of a token: a switch forwards or delivers it or records ROUTE, a CU takes it in, and
it completes an instance or waits in the nearest tier with room. -/
def Sys2Proof.Claims.TokenEvents : Prop :=
  (∀ (s : State) (u : UId) (out : Port) (f : Flight), grant s u out = some f → emitsTokens (ctxOf s u.ctx) = true →
    let t := { s with fab := { s.fab with
      flights := s.fab.flights.erase f, rr := fset 0 s.fab.rr (siteKey s u * 5 + portNum out) ((portNum f.port + 1) % 5) } }
    (ctxOf s u.ctx).cst ≠ .loading →
    (f.tok.ctx.toNat ≠ u.ctx → Ends (.tokenHop u out) s (trapErr t u f.tok.col.toNat 0x11)) ∧
    (f.tok.ctx.toNat = u.ctx → ridOk s f.tok = false → Ends (.tokenHop u out) s (trapErr t u f.tok.col.toNat 0x11)) ∧
    (f.tok.ctx.toNat = u.ctx → ridOk s f.tok = true → leavesPaddock (ctxOf s u.ctx) f = true →
      (crossesWorld t u out = false → Ends (.tokenHop u out) s (trapErr t u f.tok.col.toNat 0x11)) ∧
      (crossesWorld t u out = true → (ctxOf s u.ctx).cst = .draining → Ends (.tokenHop u out) s (addOrph t u.ctx 1)) ∧
      (crossesWorld t u out = true → (ctxOf s u.ctx).cst = .running → (ctxOf s u.ctx).frz.fault = false →
        ∃ r : FaultRec, r.kind = 0x1A ∧ r.x = relCol (ctxOf s u.ctx) u.x ∧ r.y = u.y ∧ r.stn = f.tok.stn.toNat ∧ r.col = f.tok.col.toNat ∧
          Ends (.tokenHop u out) s (recordFault t (tokFiring u 0 f.tok) r none false))) ∧
    (f.tok.ctx.toNat = u.ctx → ridOk s f.tok = true → leavesPaddock (ctxOf s u.ctx) f = false →
      (∀ k ∈ [1, 2, 5], injAt s u k = false) →
      (out = .loc → isMu u.x = false → Ends (.tokenHop u out) s
        { t with fab := { t.fab with arrivals := t.fab.arrivals ++ [{ u := u, own := false, tok := f.tok, cfg := f.cfg }] } }) ∧
      (out = .loc → isMu u.x = true → badHeader f.tok = false → f.tok.kind = 4 ∨ f.tok.kind = 5 → Ends (.tokenHop u out) s t) ∧
      (out = .loc → isMu u.x = true → badHeader f.tok = false → f.tok.kind ∉ [(3 : BitVec 3), 4, 5] → Ends (.tokenHop u out) s { t with cp := { t.cp with
        toQueues := t.cp.toQueues ++ [{ u := u, port := .loc, rx := 0, ry := 0, tok := f.tok, cfg := none }] } }) ∧
      (out = .loc → isMu u.x = true → badHeader f.tok = true ∨ f.tok.kind = 3 →
        Ends (.tokenHop u out) s (trapErr t u f.tok.col.toNat 0x11)) ∧
      (out ≠ .loc → onModule (ctxOf s u.ctx) (hop f).u.x = true → Ends (.tokenHop u out) s
        { t with fab := { t.fab with flights := t.fab.flights ++ [hop f] } }))) ∧
  (∀ (s : State) (u : UId) (own : Bool) (a : Arrival), s.fab.arrivals.find? (fun a => a.u == u && a.own == own) = some a →
    emitsTokens (ctxOf s u.ctx) = true →
    let t := { s with fab := { s.fab with arrivals := s.fab.arrivals.erase a } }
    (a.tok.kind = 3 → Ends (.tokenArrival u own) s s) ∧
    (a.tok.kind ≠ 3 → a.tok.rsv ≠ 0 ∨ a.tok.kind = 7 ∨ a.tok.pos = 3 → Ends (.tokenArrival u own) s (trapErr t u a.tok.col.toNat 0x11)) ∧
    (a.tok.kind = 4 ∨ a.tok.kind = 5 → badHeader a.tok = false → Ends (.tokenArrival u own) s t) ∧
    (a.tok.kind ∉ [(3 : BitVec 3), 4, 5] → badHeader a.tok = false → holdsOp s u a.tok.stn.toNat 0x00 = true → Ends (.tokenArrival u own) s (addOrph t u.ctx 1)) ∧
    (a.tok.kind ∉ [(3 : BitVec 3), 4, 5] → badHeader a.tok = false → holdsOp s u a.tok.stn.toNat 0x00 = false →
      Ends (.tokenArrival u own) s (place (nextSeq t u).2 u (nextSeq t u).1 a.tok false))) ∧
  (∀ (s : State) (u : UId) (p : Probe), s.fab.probes.find? (fun p => p.u == u) = some p → emitsTokens (ctxOf s u.ctx) = true →
    Ends (.spillProbeDone u) s (place { s with fab := { s.fab with probes := s.fab.probes.erase p } } u p.seq p.tok true)) ∧
  (∀ (s : State) (u : UId) (seq : Nat) (t : Flit),
    let w : Waiting := { u := u, hold := false, seq := seq, tok := t }
    (tierCount s u false < 64 → park s u seq t = { s with fab := { s.fab with waiting := s.fab.waiting ++ [w] } }) ∧
    (64 ≤ tierCount s u false → tierCount s u true < 512 * ((ctxOf s u.ctx).part % 16) →
      park s u seq t = { s with fab := { s.fab with waiting := s.fab.waiting ++ [{ w with hold := true }] } })) ∧
  (∀ f : Flight, (hop f).u.ctx = f.u.ctx ∧ (hop f).u.copy = f.u.copy ∧
    (0 < f.rx → (hop f).u.x = f.u.x + 1 ∧ (hop f).u.y = f.u.y ∧ (hop f).rx = f.rx - 1 ∧ (hop f).ry = f.ry) ∧
    (f.rx < 0 → (hop f).u.x = f.u.x - 1 ∧ (hop f).u.y = f.u.y ∧ (hop f).rx = f.rx + 1) ∧
    (f.rx = 0 → 0 < f.ry → (hop f).u.x = f.u.x ∧ (hop f).u.y = f.u.y + 1 ∧ (hop f).ry = f.ry - 1) ∧
    (f.rx = 0 → f.ry < 0 → (hop f).u.x = f.u.x ∧ (hop f).u.y = f.u.y - 1 ∧ (hop f).ry = f.ry + 1) ∧
    (f.rx = 0 → f.ry = 0 → hop f = f))

/-- R48, R362, R363: a config token reaches its CU, is held until the complete instances that read its object have issued, then writes the
register or station and replies. -/
def Sys2Proof.Claims.ConfigTokenEvents : Prop :=
  (∀ (s : State) (n : Nat) (a : Arrival), s.fab.arrivals[n]? = some a → a.tok.kind = 3 →
    ((s.fab.arrivals.take n).any fun b => b.u == a.u && b.own == a.own) = false → emitsTokens (ctxOf s a.u.ctx) = true →
    let t := { s with fab := { s.fab with arrivals := s.fab.arrivals.eraseIdx n } }
    let hold (o : CfgObj) (val : Option Word) (l : CfgLoad) (code : Nat) : State := { t with fab := { t.fab with cfgHeld := t.fab.cfgHeld ++
      [{ u := a.u, obj := o, val := val, reply := l.reply, before := readersOf t a.u o, code := code, grp := l.grp }] } }
    (2 ≤ a.tok.pos.toNat ∨ a.tok.rsv ≠ 0 → Ends (.configTokenArrival n) s (trapErr t a.u a.tok.col.toNat 0x11)) ∧
    (a.tok.rsv = 0 → ∀ l, a.cfg = some l →
      (a.tok.pos = 1 → Ends (.configTokenArrival n) s
        (hold (.kreg (a.tok.stn.toNat % 64)) (if l.rd = true then none else some a.tok.val) l 0)) ∧
      (a.tok.pos = 0 → l.rd = false → Ends (.configTokenArrival n) s
        (hold (.stn a.tok.stn.toNat) (some a.tok.val) l
          (match decodeIn (some (cuEnv t a.u)) a.tok.val with | .ok _ => 0 | .error e => e.code))))) ∧
  (∀ (s : State) (n : Nat) (a : Arrival), s.fab.arrivals[n]? = some a → a.tok.kind ≠ 3 ∨
      ((s.fab.arrivals.take n).any fun b => b.u == a.u && b.own == a.own) = true →
    Ends (.configTokenArrival n) s s) ∧
  (∀ (s : State) (n : Nat) (h : HeldCfg) (k : Nat) (w : Word), s.fab.cfgHeld[n]? = some h → h.obj = .stn k → h.val = some w → h.reply = none →
    emitsTokens (ctxOf s h.u.ctx) = true → cfgMayApply s n h = true → (∀ r ∈ s.fab.ready, r.u = h.u → r.stn ≠ k) →
    let t := { s with fab := { s.fab with
      cfgHeld := s.fab.cfgHeld.eraseIdx n, stations := fset 0 s.fab.stations (uKey h.u * 128 + k) w,
      trapping := fset 0 s.fab.trapping (uKey h.u * 128 + k) h.code } }
    stationTokens t h.u k = [] → Ends (.configTokenApply n) s t) ∧
  (∀ (s : State) (n : Nat) (h : HeldCfg) (k : Nat), s.fab.cfgHeld[n]? = some h → h.obj = .kreg k → emitsTokens (ctxOf s h.u.ctx) = true →
    let t := { s with fab := { s.fab with cfgHeld := s.fab.cfgHeld.eraseIdx n } }
    (cfgMayApply s n h = false → Ends (.configTokenApply n) s s) ∧
    (cfgMayApply s n h = true → ∀ r, h.reply = some r → h.grp = none →
      let ans (v : Word) (t : State) : State :=
        emitFrom (emitFrom t h.u r.u r.col r.itr r.ta r.kind v false) h.u r.u r.col r.itr r.tb r.kind v false
      (∀ w, h.val = some w → Ends (.configTokenApply n) s
        (ans 0 (recheck { t with fab := { t.fab with kregs := fset 0 t.fab.kregs (uKey h.u * 64 + k) w } } h.u (.kreg k)))) ∧
      (h.val = none → Ends (.configTokenApply n) s (ans (kreg s h.u k) (recheck t h.u (.kreg k))))))

/-- R357 to R360, R392, R498, R366, R369: the load of a launch: the header read, the verification of the whole image, and the start; and the
end of a drain. The model's choices in it: what the load checks test literally (log 51), which die's cache (52), when the steps of a kill
happen (102). -/
def Obligations.LoadAndDrainEvents : Prop :=
  (∀ (s : State) (c : Nat), (ctxOf s c).cst = .loading →
    let x := ctxOf s c
    (x.loadStage = 0 →
      (∀ e, loaderRead s x x.img.toNat 256 = .bad e →
        Ends (.kernelHeaderRead c) s (refuseLoad (loaderCheck s c e) c (plainStatus 0x20))) ∧
      (∀ bs, loaderRead s x x.img.toNat 256 = .ok bs → cacheHit s x (imgHead bs) = none →
        Ends (.kernelHeaderRead c) s (updCtx s c fun x => { x with loadStage := 1 })) ∧
      (∀ bs e, loaderRead s x x.img.toNat 256 = .ok bs → cacheHit s x (imgHead bs) = some e →
        (columnBad x ((parseImage false e.image).getD []) = false → Ends (.kernelHeaderRead c) s (tookImage (cachePut s e) c e.digest)) ∧
        (columnBad x ((parseImage false e.image).getD []) = true → Ends (.kernelHeaderRead c) s (refuseLoad s c (columnStatus x))))) ∧
    (x.loadStage = 1 →
      (∀ bs st, readImage s x x.img = .ok bs → verifyImage s x bs = .error st → EndsLoad (.kernelVerified c) s (refuseLoad s c st)) ∧
      (∀ bs rs, readImage s x x.img = .ok bs → verifyImage s x bs = .ok rs → cachePinned s (cacheDie x) = false →
        let h := imgHead bs
        EndsLoad (.kernelVerified c) s (tookImage
          (cachePut s { die := cacheDie x, digest := h.digest, world := h.world, pw := h.pw, ph := h.ph, part := h.part, image := bs }) c
          h.digest)) ∧
      (∀ bs rs, readImage s x x.img = .ok bs → verifyImage s x bs = .ok rs → cachePinned s (cacheDie x) = true →
        EndsLoad (.kernelVerified c) s (updCtx (writeRecs (clearKernel (clearUnits s c) c) c rs) c
          fun x => { x with loadStage := 3, digest := (imgHead bs).digest }))) ∧
    (2 ≤ x.loadStage → x.members.length ≤ 1 → ∀ es, argEntries s x (argOf x) = .ok es →
      let t := if x.loadStage = 2 then writeRecs (clearKernel (clearUnits s c) c) c (cachedRecs s x) else s
      (argsFit t c es = true → EndsLoad (.kernelLoadComplete c) s (placeArgs (startRun t c) c es)) ∧
      (argsFit t c es = false → EndsLoad (.kernelLoadComplete c) s (refuseLoad s c (plainStatus 0x25))))) ∧
  (∀ (s : State) (c : Nat), (ctxOf s c).cst ≠ .loading → Ends (.kernelHeaderRead c) s s ∧ EndsLoad (.kernelVerified c) s s ∧
    EndsLoad (.kernelLoadComplete c) s s) ∧
  (∀ (s : State) (c : Nat), (ctxOf s c).dying = true →
    (killBusy s c = true → EndsLoad (.drainComplete c) s s) ∧ (killBusy s c = false → EndsLoad (.drainComplete c) s (finishKill s c))) ∧
  (∀ (s : State) (c : Nat), (ctxOf s c).dying = false → (ctxOf s c).cst = .draining → (ctxOf s c).freezing = false → (ctxOf s c).syncs = [] →
    (drained s c = false → EndsLoad (.drainComplete c) s s) ∧
    (drained s c = true → (ctxOf s c).reconf = none → (ctxOf s c).members.length ≤ 1 →
      hostBlocks s c (fun _ => true) = [] →
      let t := stepSrg (boundary s c fun _ => true) c
      (∀ e ∈ t.un.errs, e.u.ctx ≠ c) → (ctxOf t c).reconf = none →
      EndsLoad (.drainComplete c) s (endCtx (tellMembers t c (.stop c 6 (leastExit (ctxOf t c) (ctxOf t c).exits))) c .exited 0
        (leastExit (ctxOf t c) (ctxOf t c).exits)))) ∧
  (∀ (s : State) (c : Nat), (ctxOf s c).dying = false → (ctxOf s c).cst ≠ .draining → EndsLoad (.drainComplete c) s s)

/-- R378 to R383, R389, R479: what the supervisor's accesses to a launch queue do, in the states that allow them and from the world that
reaches the queue; and the head of a queue, checked and its waits registered. -/
def Sys2Proof.Claims.QueueEvents : Prop :=
  (∀ (s : State) (q : Nat) (sec : Bool), q < 64 →
    let k := queueOf s q
    let set (i : Instr) (f : Queue → Queue) : Prop := Ends i s (updQueue s q f)
    (k.qw = true → sec = false → ∀ v, ∀ i ∈ [Instr.queueCreate q sec, .queueDestroy q sec, .queueEnable q sec, .queueDisable q sec,
      .queueSuspend q sec, .queueResume q sec, .queueTailWrite q v sec, .queueHeadSkip q v sec], Ends i s s) ∧
    (k.qw = false ∨ sec = true →
      (k.created = false → set (.queueCreate q sec) fun k =>
        { k with created := true, head := 0, tail := 0, qerr := 0, hs := .fresh, waits := [] }) ∧
      (k.created = true → Ends (.queueCreate q sec) s s) ∧
      (k.created = true → k.en = false → (∀ x ∈ s.ctxs, ¬(x.queue = q ∧ x.member = x.home ∧ isLive x = true)) →
        set (.queueDestroy q sec) (fun k => { k with created := false, hs := .fresh, waits := [] }) ∧
        set (.queueEnable q sec) (fun k => { k with en := true })) ∧
      (k.en = true → Ends (.queueDestroy q sec) s s ∧ Ends (.queueEnable q sec) s s) ∧
      (k.created = true → k.en = true → set (.queueDisable q sec) fun k => { k with en := false, hs := .fresh, waits := [] }) ∧
      (k.created = true → set (.queueSuspend q sec) (fun k => { k with susp := true }) ∧
        set (.queueResume q sec) (fun k => { k with susp := false })) ∧
      (∀ v : Word,
        let t := v.toNat % 2 ^ 32
        (k.gle = false → (t + 2 ^ 32 - k.head % 2 ^ 32) % 2 ^ 32 ≤ 2 ^ k.logn → set (.queueTailWrite q v sec) fun k => { k with tail := t }) ∧
        (k.gle = true → set (.queueTailWrite q v sec) id) ∧
        (2 ^ k.logn < (t + 2 ^ 32 - k.head % 2 ^ 32) % 2 ^ 32 → set (.queueTailWrite q v sec) id) ∧
        (sec = true → k.created = true → k.susp = true →
          set (.queueHeadSkip q v sec) fun k => { k with head := t, hs := .fresh, waits := [] }) ∧
        (sec = false ∨ k.susp = false → Ends (.queueHeadSkip q v sec) s s)))) ∧
  (∀ (s : State) (q : Nat), let k := queueOf s q
    (hasHead k = false → Ends (.headWaitRegister q) s s) ∧
    (hasHead k = true → k.hs = .fresh →
      (headPacket s k = none → Ends (.headWaitRegister q) s (refuseHead (queueCheck s q) q (plainStatus 0x27))) ∧
      (∀ p, headPacket s k = some p → badPacket s k p = true → Ends (.headWaitRegister q) s (refuseHead s q (plainStatus 0x27))) ∧
      (∀ p, headPacket s k = some p → badPacket s k p = false → depsOf p = [] → Ends (.headWaitRegister q) s
        (updQueue s q fun k => { k with hs := .eligible, since := s.clock, waits := [] })) ∧
      (∀ p, headPacket s k = some p → badPacket s k p = false → depsOf p ≠ [] →
        Ends (.headWaitRegister q) s (registerWaits s q (depsOf p)))))

/-- R384 to R388, R392, R403, R404, R464: the yard: a decision claims a place for the chosen head or makes room, a round settles the claims, and
ageing, quantum and budget bring a decision or a freeze; static charges and the charges of a unit reach the energy unit. -/
def Sys2Proof.Claims.YardAndEnergyEvents : Prop :=
  (∀ (s : State) (d : Nat), let t := moveOff s
    (dieOpen t d = false → Ends (.yardDecision d) s t) ∧
    (t.yard.claims.any (fun k => k.die == d) = true → Ends (.yardDecision d) s t) ∧
    (dieOpen t d = true → t.yard.claims.any (fun k => k.die == d) = false →
      (chosenHead t d = none → Ends (.yardDecision d) s t) ∧
      ∀ q e r h, chosenHead t d = some (q, e, r, h) →
        (∀ p ps, choosePlaces t (fun _ => false) h = p :: ps → Ends (.yardDecision d) s
          { t with yard := { t.yard with claims := t.yard.claims ++ [{ die := d, queue := q, e := e, resume := r, place := p :: ps }] } }) ∧
        (choosePlaces t (fun _ => false) h = [] →
          (roomComing t h = true ∨ chooseVictim t e h = none → Ends (.yardDecision d) s t) ∧
          (∀ x, roomComing t h = false → chooseVictim t e h = some x → Ends (.yardDecision d) s (preempt t x))))) ∧
  (∀ (s : State) (q : Nat) (r : Option Nat) (h : Shape) (w : Nat), offer s q = some (r, h, w) →
    (s.clock < w + 2 ^ 20 → Ends (.ageingStep q) s s) ∧
    (w + 2 ^ 20 ≤ s.clock → Ends (.ageingStep q) s (yardDecide s (q / 8)))) ∧
  (∀ (s : State) (c : Nat), let x := ctxOf s c
    let k := queueOf s x.queue
    (isResident x = true → k.qnt ≠ 0 → k.qnt * 2 ^ 16 ≤ x.residence → Ends (.quantumExpiry c) s (yardDecide s (x.queue / 8))) ∧
    (k.qnt = 0 ∨ x.residence < k.qnt * 2 ^ 16 → Ends (.quantumExpiry c) s s)) ∧
  (∀ (s : State) (busy : List Nat) (others : Bool), s.yard.claims = [] → Ends (.claimRound busy others []) s s) ∧
  (∀ (s : State) (busy : List Nat) (others : Bool) (k : Claim), s.yard.claims = [k] →
    let t := { s with yard := { s.yard with claims := [] } }
    (claimStands t k = false → Ends (.claimRound busy others []) s t) ∧
    (claimStands t k = true → ∀ c, k.resume = some c → Ends (.claimRound busy others []) s (placeResume t k c)) ∧
    (claimStands t k = true → k.resume = none → Ends (.claimRound busy others []) s (placePacket busy others t k))) ∧
  (∀ (s : State) (c : Nat), let x := ctxOf s c
    (x.budHit = false → Ends (.energyBudgetReached c) s s) ∧
    (x.budHit = true → x.cst = .running ∨ x.cst = .frozen →
      let t := updCtx s c fun x => { x with budHit := false }
      Ends (.energyBudgetReached c) s (requestFreeze (notice t x.die 7 c) c fun f => { f with budget := true })) ∧
    (x.residence ≤ x.charged → Ends (.staticEnergyCharge c) s s) ∧
    (x.charged < x.residence → Ends (.staticEnergyCharge c) s (toEnergy (updCtx s c fun x => { x with charged := x.residence }) c
      ((x.residence - x.charged) * ((unitsOf x).map fun u => ewOf s (dieOf s u) (if isMu u.x then 11 else 10)).sum))) ∧
    (∀ u : UId, fget 0 s.fab.charges (uKey u) = 0 → Ends (.energyForward u) s s) ∧
    (∀ u : UId, fget 0 s.fab.charges (uKey u) ≠ 0 → Ends (.energyForward u) s
      (toEnergy { s with fab := { s.fab with charges := fset 0 s.fab.charges (uKey u) 0 } } u.ctx (fget 0 s.fab.charges (uKey u)))))

/-- R391 to R402, R397, R479: the supervisor's commands in the states that allow them, from a hart of the context's world; in another state
they set CERR; and the ends of a freeze, a save, a relocation and a restore. The model's choices in it: the code of a hamper that does not
fit (log 101). -/
def Obligations.ContextEvents : Prop :=
  (∀ (s : State) (c : Nat) (sec : Bool), (∃ x ∈ s.ctxs, x.id = c) →
    let x := ctxOf s c
    let err (i : Instr) : Prop := Ends i s (updCtx s c fun x => { x with cerr := true })
    (x.world ≠ 0 → sec = false → ∀ q, ∀ i ∈ [Instr.freeze c sec, .thaw c sec, .save c sec, .requeue c q sec, .kill c sec, .go c sec], Ends i s s) ∧
    (x.world = 0 ∨ sec = true →
      (x.cst = .running ∨ x.cst = .frozen → Ends (.freeze c sec) s (requestFreeze s c fun f => { f with superv := true })) ∧
      (x.cst ≠ .running → x.cst ≠ .frozen → err (.freeze c sec)) ∧
      (x.cst = .frozen → Ends (.thaw c sec) s (clearReasons s c fun f => { f with fault := false, budget := false, superv := false })) ∧
      (x.cst ≠ .frozen → err (.thaw c sec) ∧ err (.save c sec)) ∧
      (x.cst = .frozen → x.hmp ≠ 0 → isOuting x = false → Ends (.save c sec) s
        (updCtx (chargeStatic c s) c fun x => { x with frz := { x.frz with preempt := true } })) ∧
      (x.cst = .frozen → x.hmp = 0 ∨ isOuting x = true → err (.save c sec)) ∧
      (∀ q, x.cst = .saved → (queueOf s q).created = true → ((queueOf s q).qw = true ↔ x.world ≠ 0) →
        Ends (.requeue c q sec) s (putResume s c q)) ∧
      (∀ q, x.cst ≠ .saved → err (.requeue c q sec)) ∧
      (isLive x = true → Ends (.kill c sec) s (killCtx s c 0x29)) ∧ (isLive x = false → err (.kill c sec)) ∧
      (x.cst = .created → Ends (.go c sec) s (updCtx s c fun x => { x with cst := .loading, loadStage := 0 })) ∧
      (x.cst ≠ .created → err (.go c sec)))) ∧
  (∀ (s : State) (c : Nat), let x := ctxOf s c
    (x.cst = .running → x.freezing = true → freezeReady s c = false → Ends (.freezeComplete c) s s) ∧
    (x.cst = .running → x.freezing = true → freezeReady s c = true → x.members.length ≤ 1 → x.member = 0 →
      let t := updCtx (dropChunks (chargeStatic c (gatherCharges s c)) c) c fun x => { x with cst := .frozen, freezing := false }
      (x.frz.fault = false → x.frz.budget = false → x.frz.superv = false → Ends (.freezeComplete c) s (settleFrozen t c)) ∧
      (x.frz.fault = true ∨ x.frz.budget = true ∨ x.frz.superv = true →
        Ends (.freezeComplete c) s (settleFrozen (notice t x.die 2 c) c))) ∧
    (x.cst = .frozen → x.frz.preempt = true → x.frz.purge = false → x.hmp ≠ 0 → isOuting x = false →
      let t := chargeStatic c s
      let y := ctxOf t c
      let w := dropUnbacked y.die ((unitsOf y).foldl (saveUnit y t.mem) (saveRecord y t))
      let z := updCtx w c fun x => { x with cst := .saved, frz := { x.frz with preempt := false }, place := [], byYard := false,
                                            savedAt := w.clock }
      (y.byYard = false → Ends (.saveComplete c) s z) ∧ (y.byYard = true → Ends (.saveComplete c) s (putResume z c y.queue))) ∧
    (x.cst ≠ .frozen → Ends (.saveComplete c) s s) ∧
    (x.cst = .relocating →
      let t := if backedRange x.hmp 0x10000 = true then s else setCause s x.die 3
      (hamperFits t x = true → Ends (.relocationComplete c) s (updCtx t c fun x => { x with cst := .restoring })) ∧
      (hamperFits t x = false → Ends (.relocationComplete c) s (killCtx t c 0x20))) ∧
    (x.cst ≠ .restoring → EndsLoad (.restoreComplete c) s s) ∧
    (x.cst = .restoring → backedRange x.hmp 0x10000 = true →
      let t := (unitsOf x).foldl (restoreUnit x s.mem) s
      let t := updCtx t c fun x =>
        { restoreMarker s (restoreRecs s (restoreRegs s x)) with
          frz := frzOf (rdN s (x.hmp + 16) 2), cst := .frozen, freezing := false, rcnt := (x.rcnt + 1) % 2 ^ 16, residence := 0,
          charged := 0, savedAt := 0 }
      let t := { t with mu := MuState.dropHeld c t.mu }
      let t := reKeySpilled (placeRanges t (ctxOf t c)) c
      (frzOf (rdN s (x.hmp + 16) 2) ≠ noFrz → EndsLoad (.restoreComplete c) s t) ∧
      (frzOf (rdN s (x.hmp + 16) 2) = noFrz → EndsLoad (.restoreComplete c) s (resumeCtx t c))))

/-- R417 to R423, R183: a page walk returns, an invalidation finishes, and the transfers of a host region complete, are asked for, or time
out, which faults the accesses held for it with kind 0x15. -/
def Sys2Proof.Claims.TranslationEvents : Prop :=
  (∀ (s : State) (n : Nat) (w : Walk), s.tr.walks[n]? = some w →
    let t := { s with tr := { s.tr with walks := s.tr.walks.eraseIdx n } }
    let t := if rootUnbacked t w.as = true then setCause t (dieOf t w.mu) 3 else t
    let t := noteRead t w.mu (fcol w.req.c) (walkUpset t w.as w.va)
    (∀ l k, walkPage t w.as w.va = .leaf l k →
      Ends (.tlbWalkComplete n) s (performReq { w.req with walked := some (w.va, k) } (l1Put (l2Put t (dieOf t w.mu) l) w.mu l))) ∧
    (∀ lvl, walkPage t w.as w.va = .absent lvl →
      (∀ f, w.req.i = .pfch f → Ends (.tlbWalkComplete n) s (reply w.req 1 t)) ∧
      ((∀ f, w.req.i ≠ .pfch f) →
        Ends (.tlbWalkComplete n) s (raise w.req.c { kind := 0x01, lvl := lvl, va := BitVec.ofNat 64 w.va } t)))) ∧
  (∀ (s : State),
    (s.tr.invBusy = false → Ends .invalidateComplete s s) ∧
    (s.tr.invBusy = true → s.tr.invRun.2.1 = 0 → Ends .invalidateComplete s
      { s with tr := { dropLeaves s.tr with invBusy := false, invHeld := min 65535 (heldEntries s) } })) ∧
  (∀ (s : State) (n : Nat) (r : Region), findRegion s n = some r →
    (r.own = .toDevice →
      let t := freeHeld n (updRegion s n fun r => { r with own := .device, since := s.clock, snoop := false })
      (r.snoop = false → Ends (.hostFlushComplete n) s t) ∧
      (r.snoop = true → regionHeld t n = false → Ends (.hostFlushComplete n) s (snoopRegion n t)) ∧
      (r.snoop = true → regionHeld t n = true → Ends (.hostFlushComplete n) s (updRegion t n fun r => { r with snoop := true }))) ∧
    (r.own = .host → Ends (.hostFlushComplete n) s s ∧ Ends (.hostSnoop n) s s ∧ Ends (.regionCommitComplete n) s s) ∧
    (r.own = .device → Ends (.hostSnoop n) s (snoopRegion n s)) ∧
    (r.own = .toDevice → Ends (.hostSnoop n) s (updRegion s n fun r => { r with snoop := true })) ∧
    (r.own = .toHost → Ends (.regionCommitComplete n) s (updRegion s n fun r =>
      { r with own := if regionHeld s n then .toDevice else .host, since := s.clock })) ∧
    (r.own = .toDevice → s.clock < r.since + 2 ^ 22 → Ends (.ownershipTimeout n) s s) ∧
    (r.own = .toDevice → r.since + 2 ^ 22 ≤ s.clock →
      let t := updRegion { s with tr := { s.tr with heldHost := s.tr.heldHost.filter fun h => h.region != n } } n
        fun r => { r with own := .host, since := s.clock, snoop := false }
      let hs := s.tr.heldHost.filter fun h => h.region == n
      let e (h : HeldHost) : FaultInfo := { kind := 0x15, fks := n, va := heldVa h.req }
      ((∀ h ∈ hs, h.eng = none) → Ends (.ownershipTimeout n) s (hs.foldl (fun t h => raise h.req.c (e h) t) t)) ∧
      (∀ h id p, hs = [h] → h.eng = some id → copyOf t h.req.mu id = some p → p.c = h.req.c →
        Ends (.ownershipTimeout n) s (copyFault p (e h) t))))

/-- R202, R175, R78, R79, R467, R468: a phase boundary commits and sends the tokens of its parked firings once every CU of the group is
there; an ENDED colour with nothing left is released; a recorded error reaches the colour unit. -/
def Sys2Proof.Claims.ColourEvents : Prop :=
  (∀ (s : State) (c lvl gx gy : Nat), let x := ctxOf s c
    let ev := Instr.phaseBoundaryComplete c lvl gx gy
    let cov := phaseCovers x lvl gx gy
    (x.cst ≠ .running ∨ x.freezing = true ∨ mismatched s c = true → Ends ev s s) ∧
    (x.phases = [] → (phaseParked s x lvl gx gy).length ≠ (phaseCus x lvl gx gy).length → Ends ev s s) ∧
    (x.cst = .running → x.freezing = false → mismatched s c = false → x.phases = [] → x.members.length ≤ 1 →
      (phaseCus x lvl gx gy).length ≠ 0 → (phaseParked s x lvl gx gy).length = (phaseCus x lvl gx gy).length →
      (hostBlocks s c cov ≠ [] → Ends ev s (wantBlocks s c cov)) ∧
      (hostBlocks s c cov = [] → badGroups s c cov ≠ [] → Ends ev s (recordBad x (covered s c cov) s)) ∧
      (hostBlocks s c cov = [] → badGroups s c cov = [] → Ends ev s (phaseEmit (phaseCommit s c lvl gx gy) c lvl gx gy)))) ∧
  (∀ (s : State) (c k col : Nat), let t := touchRec s c k col
    let x := ctxOf t c
    let ev := Instr.activationReleaseComplete c k col
    (isLive (ctxOf s c) = true → isLive x = false → Ends ev s t) ∧
    (isLive (ctxOf s c) = false ∨ isLive x = true → ∀ r, usedRec x k col = some r →
      (r.state ≠ .ended ∨ buffered t c k col = true → Ends ev s t) ∧
      (r.state = .ended → x.member = 0 → buffered t c k col = false → (∀ q ∈ x.recs, q.copy = k → q.pcol = col → q.col = col) →
        (unswept x k col ≠ [] → Ends ev s ((unswept x k col).foldl (fun s m => sendOut s x m (.msg (.sweep c k col))) t)) ∧
        (unswept x k col = [] → Ends ev s (storeRec
          (updCtx (sweepOrphans t c k [col]) c fun x => { x with syncs := x.syncs.filter fun e => e.1 != sweptKind k col })
          { ctx := c, copy := k, x := 3, y := 0 } { r with state := .free }))))) ∧
  (∀ (s : State) (c n : Nat) (e : ErrMsg), (s.un.errs.filter fun e => e.u.ctx == c)[n]? = some e →
    let t := errorDone s e
    ((ctxOf s c).member = 0 → Ends (.errorSurface c n) s (surface t c e.u.copy e.col e.kind)) ∧
    ((ctxOf s c).member = 0 → (ctxOf t c).cst = .draining → Ends (.errorSurface c n) s (killCtx t c e.kind)) ∧
    ((ctxOf s c).member ≠ 0 → e.sent = true → Ends (.errorSurface c n) s s) ∧
    ((ctxOf s c).member ≠ 0 → e.sent = false → Ends (.errorSurface c n) s (sendOut
      { s with un := { s.un with errs := s.un.errs.map fun q => if q = e then { q with sent := true } else q } } (ctxOf s c) 0
      (.msg (.error e.u e.col e.kind)))))

/-- R432 to R438, R449: the links: a Shenis channel's retries, a port's flits, NAKs and acknowledgement timer, its training, its lanes and its
retrain window, and the outing that no port serves for too long. -/
def Sys2Proof.Claims.LinkEvents : Prop :=
  (∀ (s : State) (d dir ch : Nat), let e := (d, dir, ch)
    let k := (d * 2 + dir) * 64 + ch
    let n := fget 0 s.lk.shenisRetry k + 1
    let cnt (m : Nat) : State := { s with lk := { s.lk with shenisRetry := fset 0 s.lk.shenisRetry k m } }
    isChannel e = true → s.lk.shenisDown.contains e = false →
      Ends (.shenisFlitRetry d dir ch true) s (cnt 0) ∧ (n < 8 → Ends (.shenisFlitRetry d dir ch false) s (cnt n)) ∧
      (8 ≤ n → Ends (.shenisFlitRetry d dir ch false) s (channelDown e (cnt 0)))) ∧
  (∀ (s : State) (p fsq : Nat) (tsq : Nat) (cargo : List Cargo), let q := rxOf s p
    let refused := updRx s p fun q => { q with nak := true }
    let taken := updRx s p fun q => { q with rx := (q.rx + 1) % 4096, nak := false }
    (linkUsable q.lst = false → ∀ crc fak nak, Ends (.ryenxonFlitReceive p fsq crc fak nak tsq cargo) s s) ∧
    (linkUsable q.lst = true → ∀ crc fak nak, flitCrc fsq fak nak tsq cargo ≠ some crc →
      Ends (.ryenxonFlitReceive p fsq crc fak nak tsq cargo) s refused) ∧
    (linkUsable q.lst = true → fsq % 4096 ≠ q.rx → ∀ crc fak nak, Ends (.ryenxonFlitReceive p fsq crc fak nak tsq cargo) s refused) ∧
    (linkUsable q.lst = true → fsq % 4096 = q.rx → ∀ crc, flitCrc fsq none false tsq cargo = some crc →
      (cargo = [] → Ends (.ryenxonFlitReceive p fsq crc none false tsq cargo) s taken) ∧
      (carriesData cargo = true → Ends (.ryenxonFlitReceive p fsq crc none false tsq cargo) s (cargo.foldl (deliverCargo p) taken)) ∧
      (carriesData cargo = false → cargo ≠ [] → Ends (.ryenxonFlitReceive p fsq crc none false tsq cargo) s (takeOrdered p tsq cargo s)))) ∧
  (∀ (s : State) (p fak : Nat), let q := rxOf s p
    (linkUsable q.lst = true → Ends (.ryenxonNak p fak) s (replay p (linkAcked p fak s))) ∧
    (linkUsable q.lst = true → q.tx ≠ [] → q.since + 4096 ≤ s.clock → Ends (.ryenxonAckTimeout p) s (replay p s)) ∧
    (linkUsable q.lst = true → s.clock < q.since + 4096 → Ends (.ryenxonAckTimeout p) s s)) ∧
  (∀ (s : State) (p : Nat) (sec : Bool) (e : TrainEnd), let q := rxOf s p
    (q.lst = .disabled → p < 144 → q.pws = false ∨ sec = true →
      Ends (.linkEnable false p sec) s (updRx s p fun q => { q with pen := true, lst := .training, since := s.clock })) ∧
    (p < 144 → q.pws = false ∨ sec = true →
      Ends (.linkDisable false p sec) s (leaveUp p .disabled (updRx s p fun q => { q with pen := false }))) ∧
    (q.pws = true → Ends (.linkEnable false p false) s s ∧ Ends (.linkDisable false p false) s s) ∧
    (q.lst = .training → e.lanes = 0 ∨ e.sec ≠ q.pws →
      Ends (.trainingComplete false p e) s (updRx s p fun q => { q with lst := .down, since := s.clock })) ∧
    (q.lst = .training → 1 ≤ e.lanes → e.sec = q.pws →
      Ends (.trainingComplete false p e) s (linkUp p { e with lanes := min 2 e.lanes } s)) ∧
    (q.lst = .training → Ends (.trainingFailed false p) s (updRx s p fun q => { q with lst := .down, since := s.clock })) ∧
    (q.lst = .down → q.pen = true → q.since + 2 ^ 20 ≤ s.clock →
      Ends (.trainingRetry false p) s (updRx s p fun q => { q with lst := .training, since := s.clock })) ∧
    (linkUsable q.lst = true → Ends (.laneLost false p) s (retrain p s)) ∧
    (∀ w, q.win = some w → w + 10 ^ 9 ≤ s.clock →
      Ends (.retrainWindowClose false p) s (updRx s p fun q => { q with rtn := 0, win := none }))) ∧
  (∀ (s : State) (p : Nat) (sec : Bool) (e : TrainEnd), let q := ethOf s p
    (q.lst = .disabled → p < 8 → q.ews = false ∨ sec = true →
      Ends (.linkEnable true p sec) s (updEth s p fun q => { q with pen := true, lst := .training, since := s.clock })) ∧
    (p < 8 → q.ews = false ∨ sec = true → Ends (.linkDisable true p sec) s
      (updEth s p fun q => { q with pen := false, lst := .disabled, half := false, since := s.clock })) ∧
    (q.lst = .training → e.lanes = 0 → Ends (.trainingComplete true p e) s (updEth s p fun q => { q with lst := .down, since := s.clock })) ∧
    (q.lst = .training → 1 ≤ e.lanes → let half := decide (e.lanes = 1) || q.ealt
      Ends (.trainingComplete true p e) s
        (flushNet (updEth s p fun q => { q with lst := if half then .degraded else .up, half := half, since := s.clock }))) ∧
    (q.lst = .training → Ends (.trainingFailed true p) s (updEth s p fun q => { q with lst := .down, since := s.clock })) ∧
    (q.lst = .down → q.since + 2 ^ 20 ≤ s.clock →
      Ends (.trainingRetry true p) s (updEth s p fun q => { q with lst := .training, since := s.clock })) ∧
    (linkUsable q.lst = true → q.rtn + 1 < 3 → Ends (.laneLost true p) s (updEth s p fun q =>
      { q with rtn := q.rtn + 1, win := if q.win.isNone then some s.clock else q.win, half := false, since := s.clock, lst := .training })) ∧
    (linkUsable q.lst = true → ∀ n, n ≠ 0 →
      Ends (.roceRetransmission p n) s (updEth s p fun q => { q with lst := .retrying, ertx := min 65535 (q.ertx + n) })) ∧
    (q.lst = .retrying → Ends (.roceRetransmission p 0) s (updEth s p fun q => { q with lst := if q.half then .degraded else .up })) ∧
    (linkUsable q.lst = true → 3 ≤ q.rtn + 1 → Ends (.laneLost true p) s (setCause (updEth s p fun q =>
      { q with rtn := 3, win := if q.win.isNone then some s.clock else q.win, half := false, since := s.clock, lst := .quarantined })
      (standIn s (ethDie p)) 5)) ∧
    (q.win = none → Ends (.retrainWindowClose true p) s s)) ∧
  (∀ (s : State) (c : Nat), (portWaits s c = false → Ends (.outingPortTimeout c) s s) ∧
    (portWaits s c = true → Ends (.outingPortTimeout c) s (killCtx s c 0x16)))

/-- R446 to R457: storage and network: an I/O command's way to its queue pair, its completion and its time limit; NETRECV's bindings; and
what arrives on a pair. -/
def Sys2Proof.Claims.StorageAndNetworkEvents : Prop :=
  (∀ (s : State) (m : UId) (id : Nat) (e : IoCmd) (p : Copy), copyOf s m id = some p →
    (s.lk.ios.find? (fun e => e.mu == m && e.id == id && !e.sent) = some e →
      ((ctxOf s m.ctx).cst = .draining → Ends (.ioCommandArrival m id) s (recallIo e s)) ∧
      ((ctxOf s m.ctx).cst = .running → (ctxOf s m.ctx).freezing = false → isMoving p = true →
        (sendAhead s p = true → Ends (.ioCommandArrival m id) s s) ∧
        (sendAhead s p = false → twinCopy s p = none → isNetsend p.i = true → ∀ locs t,
          ioLocs p (qpDie (qpOf s e.qp)) s = .ok locs t → srcFails t locs = true →
          twinCopy { t with lk := { t.lk with ios := t.lk.ios.erase e } } p = none →
          Ends (.ioCommandArrival m id) s (sourceError p locs { t with lk := { t.lk with ios := t.lk.ios.erase e } })) ∧
        (sendAhead s p = false → qpSt (qpOf s e.qp) = 1 → twinCopy s p = none → ∀ locs t,
          ioLocs p (qpDie (qpOf s e.qp)) s = .ok locs t → (isNetsend p.i = false ∨ srcFails t locs = false) → qpSt (qpOf t e.qp) = 1 → twinCopy t p = none →
          let e' := { e with sent := true, since := t.clock, locs := locs }
          let u := updCopy { t with lk := { t.lk with ios := t.lk.ios.map fun k => if k == e then e' else k } } p.mu p.id
            fun p => { p with left := true }
          twinCopy { t with lk := { t.lk with ios := t.lk.ios.map fun k => if k == e then e' else k } } p = none →
          Ends (.ioCommandArrival m id) s (sendNet (if isIoRead p.i = true then u else charge u p.mu 8 ((p.len + 63) / 64)) e.qp (ioOut u p locs))))) ∧
    (s.lk.ios.find? (fun e => e.mu == m && e.id == id && e.sent) = some e →
      (∀ ok data, pairUp s e.qp = true → (ok = false ∨ isIoRead p.i = false ∨ data.length = p.len) →
        Ends (.ioCompletion m id ok data) s (endIo e ok data s)) ∧
      (∀ ok data, pairUp s e.qp = false → Ends (.ioCompletion m id ok data) s s) ∧
      (s.clock < e.since + 2 ^ 26 → Ends (.ioCommandTimeout m id) s s) ∧
      (e.since + 2 ^ 26 ≤ s.clock → isNetsend p.i = true → Ends (.ioCommandTimeout m id) s (endIo e false [] s)) ∧
      (e.since + 2 ^ 26 ≤ s.clock → isNetsend p.i = false →
        Ends (.ioCommandTimeout m id) s (endIo e false [] (sendNet s e.qp [0x08]))))) ∧
  (∀ (f : Fields) (s : State) (F : Ready), s.firing = [F] → settle true F = .go → isRedundant (ctxOf s F.u.ctx) = false →
    (netrecvFault s F = none → Requests (.netrecvBind f) s F (muOf F.u) [kreg s F.u (f.imm.toNat % 64)] ∧
      Requests (.netrecvUnbind f) s F (muOf F.u) []) ∧
    (∀ k, netrecvFault s F = some k → ∀ mk ∈ [Instr.netrecvBind, .netrecvUnbind],
      Ends (mk f) s (raise F { kind := k, va := F.l.val } s))) ∧
  (∀ (s : State) (q : Req) (f : Fields), Oldest s q → q.c.pair = none → isRedundant (ctxOf s q.c.u.ctx) = false →
    let t := taken s q
    let va := q.c.l.val
    let off := offOf va
    let w := q.k.getD 0 0
    let n := w.toNat % 2 ^ 10
    (q.i = .netrecvBind f → netRing t q = none → Serves s q fun t => raise q.c { kind := 0x1D, va := va } t) ∧
    (q.i = .netrecvBind f → ∀ r, netRing t q = some r → r.bnd = false → r.net = none → r.rsv = r.wp →
      fillsRing t q.mu q.mu off = false → pairFault t q w = none → (qpOf t n).ring = none →
      qpSec (qpOf t n) = isSecure (ctxOf s q.c.u.ctx) → Serves s q fun t => replyPair q.mu f q.c 0 0
        (commitPair q.c (updQp (markNet (charge t q.c.u 7 1) q.mu off (some n)) n fun k => { k with ring := some (q.mu, off) }))) ∧
    (q.i = .netrecvUnbind f → ∀ r n, netRing t q = some r → r.net = some n → Serves s q fun t => replyPair q.mu f q.c 0 0
        (commitPair q.c (updQp (markNet (charge t q.c.u 7 1) q.mu off none) n fun k => { k with ring := none }))) ∧
    (q.i = .netrecvUnbind f → netRing t q = none → Serves s q fun t => raise q.c { kind := 0x1D, va := va } t)) ∧
  (∀ (s : State) (q : Nat), q < 1024 →
    (qpSt (qpOf s q) ≠ 1 → Ends (.qpFatalEvent q) s s) ∧ (qpSt (qpOf s q) = 1 → Ends (.qpFatalEvent q) s (qpError q s)) ∧
    (qpSt (qpOf s q) ≠ 1 ∨ pairUp s q = false → ∀ rkey va data imm n, ∀ i ∈ [Instr.inboundRdmaWrite q rkey va data, .inboundSend q data,
      .inboundWriteImmediate q rkey va data imm, .inboundRdmaRead q va n], Ends i s s) ∧
    (qpSt (qpOf s q) = 1 → pairUp s q = true →
      (∀ rkey va data, recvWindow s q rkey va data.length = none →
        Ends (.inboundRdmaWrite q rkey va data) s (sendNet s q [0x62]) ∧
        ∀ imm, Ends (.inboundWriteImmediate q rkey va data imm) s (sendNet s q [0x62])) ∧
      (∀ rkey va data locs t, writeLocs s q rkey va data.length = .ok locs t →
        Ends (.inboundRdmaWrite q rkey va data) s (sendNet (landBytes locs data t) q [0x00]) ∧
        ∀ imm m off, messageRes t q 4 = .ok m off → Ends (.inboundWriteImmediate q rkey va data imm) s
          (sendNet (putMessage m off (leBytes imm 4) (landBytes locs data t)) q [0x00])) ∧
      (∀ data, (messageRes s q data.length = .nak → Ends (.inboundSend q data) s (sendNet s q [0x62])) ∧
        (messageRes s q data.length = .rnr → Ends (.inboundSend q data) s (sendNet s q [0x20])) ∧
        (∀ m off, messageRes s q data.length = .ok m off → Ends (.inboundSend q data) s (sendNet (putMessage m off data s) q [0x00]))) ∧
      (∀ va n, (qpSto (qpOf s q) = false → Ends (.inboundRdmaRead q va n) s (sendNet s q [0x62])) ∧
        (∀ e p, qpSto (qpOf s q) = true → servedWrite s q va n = some (e, p) → Ends (.inboundRdmaRead q va n) s
          (let ls := (e.locs.drop (va - p.src.toNat)).take n
           sendNet (if ls.any (readFails s) then trapErr (readFire s ls) p.mu (fcol p.c) 0x12 else s) q (ls.map (engByte s)))))) ∧
    (∀ sec st, qpSec (qpOf s q) = true → sec = false → Ends (.qpStateWrite q st sec) s s) ∧
    (∀ sec, qpSec (qpOf s q) = false ∨ sec = true → Ends (.qpStateWrite q 3 sec) s s ∧ Ends (.qpStateWrite q 2 sec) s (qpError q s) ∧
      Ends (.qpStateWrite q 0 sec) s (updQp s q fun k => { k with word := k.word &&& ~~~(3 : Word) })))

/-- R420, R423, R477, R479 to R483: the mailbox, its answers and its head; the image cache's flush, interrupts and injections; the
invalidation and region registers, and writes of three registers of the rest. The model's choices in it: a write of MBHD with another value
is ignored (log 61). -/
def Obligations.ServiceEvents : Prop :=
  (∀ (s : State) (n : Nat) (q : Req), s.svc.parts[n]? = some q → ∀ i e, findCall s q = some (i, e) →
    let t := { s with svc := { s.svc with parts := s.svc.parts.eraseIdx n } }
    (e.am / 2 ^ partSlot q % 2 = 1 → Ends (.mailboxPartArrival n) s (addOrph t q.c.u.ctx 1)) ∧
    (e.am / 2 ^ partSlot q % 2 = 0 → e.na = 0 → complete (fillSlot q e).1 = false → Ends (.mailboxPartArrival n) s
      (argDone q (addOrph (updDie t (dieOf s q.mu) fun k =>
        { k with ring := fset none k.ring i (some { (fillSlot q e).1 with posted := complete (fillSlot q e).1 }) })
        q.c.u.ctx (fillSlot q e).2)))) ∧
  (∀ (s : State) (d n st : Nat) (v : Word), st < 256 →
    (fget none (dieReg s d).ring n = none → Ends (.mailboxReply d n st v) s s) ∧
    (∀ e, fget none (dieReg s d).ring n = some e → e.posted = true → e.svn ≠ 0xFFFF →
      let e' := { e with args := e.args.set 0 v }
      let t := updDie s d fun k => { k with ring := fset none k.ring n none }
      ((ctxOf s e.u.ctx).cst = .running → Ends (.mailboxReply d n st v) s (sendServiceReply t e' st)) ∧
      ((ctxOf s e.u.ctx).cst = .frozen → Ends (.mailboxReply d n st v) s
        { t with svc := { t.svc with held := t.svc.held ++ [{ ctx := e.u.ctx, e := e', st := st }] } }) ∧
      ((ctxOf s e.u.ctx).cst = .exited ∨ (ctxOf s e.u.ctx).cst = .killed → Ends (.mailboxReply d n st v) s t))) ∧
  (∀ (s : State) (d n : Nat), n < 4096 → let r := dieReg s d
    ((passed r n).length ≤ r.mbn → (∀ i ∈ passed r n, mayPass r i = true) → Ends (.mailboxHeadAdvance d n) s
      (updDie s d fun r => { r with mbhd := n, mbn := r.mbn - (passed r n).length, ring := r.ring.filter fun e => !(passed r n).contains e.1 })) ∧
    (r.mbn < (passed r n).length ∨ (∃ i ∈ passed r n, mayPass r i = false) → Ends (.mailboxHeadAdvance d n) s s)) ∧
  (∀ (s : State) (d : Nat) (v : Nat) (w : Word),
    Ends (.imageCacheFlush d) s { s with yard := { s.yard with cache := s.yard.cache.filter fun e => e.die != d || pinned s e } } ∧
    Ends (.hostInterrupt v) s { s with svc := { s.svc with hints := s.svc.hints ++ [v % 32] } } ∧
    (d < 8 → Ends (.injectionArm d w) s (setInj s d
      { ik := (w.extractLsb' 0 3).toNat, ibt := (w.extractLsb' 3 6).toNat, ix := (w.extractLsb' 9 8).toNat,
        iy := (w.extractLsb' 17 7).toNat, iof := (w.extractLsb' 24 20).toNat, iar := w.getLsbD 63 }))) ∧
  (∀ (s : State) (v : Word) (sec : Bool),
    let as := (v.extractLsb' 0 9).toNat
    let sc := (v.extractLsb' 9 2).toNat
    (sec = false → Ends (.tlbInvalidate v sec) s s) ∧
    (sec = true → s.tr.invBusy = true ∨ v.getLsbD 11 = false →
      Ends (.tlbInvalidate v sec) s { s with tr := { s.tr with invAs := as, invSc := sc } }) ∧
    (sec = true → s.tr.invBusy = false → v.getLsbD 11 = true → Ends (.tlbInvalidate v sec) s { s with tr := { s.tr with
      invAs := as, invSc := sc, invBusy := true, invRun := (as, sc, s.tr.tlbia), invHeld := 0 } })) ∧
  (∀ (s : State) (i : Nat) (v : Word), i < 65536 → let rest := s.tr.regions.filter fun r => r.idx != i
    (v.getLsbD 51 = false → Ends (.regionRegister i v) s { s with tr := { s.tr with regions := rest } }) ∧
    (v.getLsbD 51 = true → (∀ r ∈ s.tr.regions, r.idx ≠ i) → Ends (.regionRegister i v) s { s with tr := { s.tr with
      regions := rest ++ [{ idx := i, num := (v.extractLsb' 21 30).toNat, own := .host, since := s.clock, snoop := false }] } })) ∧
  (∀ (s : State) (sec : Bool) (sel : Nat) (v : Word), sel < 2 ^ 32 →
    let w := Instr.registerWrite sec (0x20_0000_0000 + 8 * sel) { size := 8, val := v }
    (regRead s sel = none → Ends w s s) ∧
    (regSecure s sel = true → sec = false → Ends w s s) ∧
    (sel = 0x2800_0001 → sec = true → leftOut s 0 = false → Ends w s (updDie s 0 fun k => { k with en := v.setWidth 8 })) ∧
    (sel = 0x2800_0000 → sec = true → leftOut s 0 = false → Ends w s
      (updDie s 0 fun k => { k with cause := k.cause &&& ~~~(v.setWidth 8) })) ∧
    (sel = 0x3000_0000 → sec = true → Ends w s
      { s with tr := { s.tr with tlbia := (v.extractLsb' 12 45).toNat * 2 ^ 12 } })) ∧
  (∀ (s : State) (sec : Bool) (size a : Nat) (v : Word), size ≠ 8 ∨ a % 8 ≠ 0 ∨ a < 0x20_0000_0000 →
    Ends (.registerWrite sec a { size := size, val := v }) s s) ∧
  (∀ (s : State) (sec : Bool) (d n : Nat) (e : MboxEnt) (v : Word), d < 8 → n < 4096 → fget none (dieReg s d).ring n = some e →
    e.posted = true → e.svn ≠ 0xFFFF →
    Ends (.registerWrite sec (0x28_0000_0000 + 2 ^ 18 * d + 64 * n + 16) { size := 8, val := v }) s
      (updDie s d fun k => { k with ring := fset none k.ring n (some { e with args := e.args.set 0 v }) }))

/-- R18, R29, R460 to R466, R470, R471: wear, the states of units and the exchange of digests. -/
def Sys2Proof.Claims.UnitEvents : Prop :=
  (∀ (s : State) (site : Nat),
    Ends (.quarantineRelease site) s (updLife s site fun l =>
      if l.ust = 4 ∧ l.stp = true then { l with ust := l.kept, ufc := 0, stp := false, win := none } else l) ∧
    Ends (.failureWindowClose site) s (updLife s site fun l => if windowOver s l.win then { l with ufc := 0, win := none } else l) ∧
    (s.clock < s.un.flushed + 2 ^ 30 → Ends .lifetimeFlush s s) ∧
    (s.un.flushed + 2 ^ 30 ≤ s.clock → Ends .lifetimeFlush s
      ((s.un.life.map fun e => e.1).foldl (fun s p => updLife s p fun l => { l with unflushed := 0 })
        { s with un := { s.un with flushed := s.clock } })) ∧
    (∀ f : Life → Life, let l := f (lifeOf s site)
      (l ≠ lifeReset → lifeOf (updLife s site f) site = l) ∧
      (lifeRecord l ≠ lifeReset → fget lifeReset (updLife s site f).un.mirror site = lifeRecord l)) ∧
    ((lifeOf s site).ust ≠ 2 ∨ rowFree s site = false → Ends (.unitRetire site) s s) ∧
    (site < 23040 → (lifeOf s site).ust = 2 → rowFree s site = true → fget 15 s.un.remap (site / 60) ≠ 15 →
      Ends (.unitRetire site) s
        (updLife { s with un := { s.un with holes := s.un.holes ++ [site] } } site fun l => { l with ust := 3 })) ∧
    (site < 23040 → (lifeOf s site).ust = 2 → rowFree s site = true → fget 15 s.un.remap (site / 60) = 15 →
      Ends (.unitRetire site) s ((List.range 4).foldl
        (fun s k => updLife s (site / 60 * 60 + 4 * (site % 60 / 4) + k) fun l => { l with ust := 3 })
        { s with un := { s.un with remap := fset 15 s.un.remap (site / 60) (site % 60 / 4) } }))) ∧
  (∀ (s : State) (u : UId), let x := ctxOf s u.ctx
    let p := physAt s (modPos s u)
    let n := (Config.freeWord s.fresh).toNat % 256
    let b := tickBase s x p + 29
    let t := wearCharge u.ctx n
      (updLife { s with fresh := s.fresh + 1, un := { s.un with wtick := fset 0 s.un.wtick p b } } p (wearLife n))
    (isResident x = false ∨ (unitsOf x).contains u = false ∨ s.clock < b → Ends (.wearTick u) s s) ∧
    (isResident x = true → (unitsOf x).contains u = true → b ≤ s.clock →
      ((lifeOf t p).ust = (lifeOf s p).ust → Ends (.wearTick u) s t) ∧ ((lifeOf t p).ust ≠ (lifeOf s p).ust → Ends (.wearTick u) s (moveOff t)))) ∧
  (∀ (n : Nat) (l : Life), l.frac < 16 → l.ust ≤ 4 → let w := wearLife n l
    w.usf = n ∧ w.lwear = min (2 ^ 64 - 1) (l.lwear + (l.frac + n) / 16) ∧ w.frac = (l.frac + n) % 16 ∧
    (w.lwear < derateAt → w.ust = l.ust) ∧ (l.ust = 0 → derateAt ≤ w.lwear → w.lwear < drainAt → w.ust = 1) ∧
    (l.ust ≤ 1 → drainAt ≤ w.lwear → w.ust = 2) ∧ (l.ust = 4 → drainAt ≤ w.lwear → w.ust = 2) ∧ (l.ust = 3 → w.ust = 3)) ∧
  (∀ (s : State) (n : Nat) (a b : Twin), s.un.twins[n]? = some a → s.un.twins.find? (isTwinOf s a) = some b →
    let t := { s with un := { s.un with twins := (s.un.twins.erase a).erase b } }
    (a.digest = b.digest → Ends (.digestExchange n) s
      (returnReady (returnReady t { b.f with matched := true, pair := some (fcol a.f) }) { a.f with matched := true, pair := some (fcol b.f) })) ∧
    (a.digest ≠ b.digest → Ends (.digestExchange n) s (trapErr (trapErr t a.f.u (fcol a.f) 0x13) b.f.u (fcol b.f) 0x13))) ∧
  (∀ (s : State) (d : Nat) (l : List Nat),
    Ends (.lidResume l) s { s with boot := { s.boot with hot := s.boot.hot.filter fun d => !l.contains d } } ∧
    (d < 8 → s.boot.hot.contains d = false → Ends (.lidOverLimit [d]) s
      (setCause { s with boot := { s.boot with hot := s.boot.hot ++ [d] } } d 6)))

/-- R29, R462, R487 to R494, R419: a trip, a loss of power and a start put the machine in the reset state; the boot record; diagnostic mode; the
report; and the supervisor's writes to memory. -/
def Sys2Proof.Claims.StartEvents : Prop :=
  (∀ s : State,
    EndsLoad .thermalTrip s (let t := resetState s
      { t with boot := { t.boot with trip := true, tripped := [],
                                     mhead := { meas := t.boot.meas, trip := true, diagreq := t.boot.diagreq } } }) ∧
    EndsLoad (.powerLoss false) s (resetState s) ∧ EndsLoad (.powerLoss true) s (resetState (flushLife s)) ∧
    Ends (.diagreq false) s s ∧
    Ends (.diagreq true) s { s with boot := { s.boot with
      diagreq := true, mhead := { meas := s.boot.meas, trip := s.boot.trip, diagreq := true } } } ∧
    (∀ q : ReportArg, q.mach = false ∨ s.boot.halted = true ∨ s.boot.dies = [] → Ends (.attestationReport q) s s) ∧
    (∀ nonce, s.boot.halted = false → s.boot.dies ≠ [] → Ends (.attestationReport { mach := true, nonce := nonce }) s { s with boot := { s.boot with
      report := reportBody s nonce ++ signReport (reportBody s nonce) } })) ∧
  (∀ (s : State) (b : BootArg),
    (s.boot.trip = true → b.cool = false ∨ s.boot.hot ≠ [] → EndsLoad (.powerOnReset b) s (resetState s)) ∧
    (s.boot.trip = false ∨ (b.cool = true ∧ s.boot.hot = []) →
      let t := beginStart b (settleRecord (resetState s))
      (cutIn b 1 = true → EndsLoad (.powerOnReset b) s (cutOff b t)) ∧
      (cutIn b 1 = false → bootBundle b = none → EndsLoad (.powerOnReset b) s (halt (endStep t (entKey 1 0) false false))) ∧
      (cutIn b 1 = false → ∀ k, bootBundle b = some k →
        EndsLoad (.powerOnReset b) s (bootSteps b k (endStep t (entKey 1 0) true false))) ∧
      t.boot.starts = (s.boot.starts + 1) % 2 ^ 32 ∧
      t.boot.meas = sha384 (List.replicate 48 0 ++ sha384 (b.steps.getD 0 [])))) ∧
  (∀ (s : State) (loc : Nat) (bs : List Byte), loc + bs.length ≤ 2 ^ 52 →
    (backedRange loc bs.length = true → Ends (.supervisorMemoryWrite loc bs []) s (wrBytes s loc bs)) ∧
    (backedRange loc bs.length = false → Ends (.supervisorMemoryWrite loc bs []) s s))

/-- R30, R33, R41, R43: words written out field by field (opcode, FN, TY, U, PD, SRC, TA, TB, IMM) decode to the instructions that they
stand for: an addition of two tokens, a store through a K register, a wide accumulate, and a word whose opcode no entry has. -/
def Obligations.SampleWordsDecode : Prop :=
  decode (0x20#8 ++ 0x0#4 ++ 0x6#4 ++ 0#1 ++ 0#1 ++ 0b00#2 ++ 0x401#12 ++ 0xC00#12 ++ 0#20) =
    .ok (.add { fn := 0, ty := .i64, u := false, pd := false, src := .toks, ta := 0x401, tb := 0xC00, imm := 0 }) ∧
  decode (0x61#8 ++ 0x0#4 ++ 0x5#4 ++ 1#1 ++ 1#1 ++ 0b01#2 ++ 0xC00#12 ++ 0x005#12 ++ 0x00003#20) =
    .ok (.st { fn := 0, ty := .n32, u := true, pd := true, src := .kreg, ta := 0xC00, tb := 0x005, imm := 3 }) ∧
  decode (0x26#8 ++ 0x0#4 ++ 0x4#4 ++ 0#1 ++ 0#1 ++ 0b10#2 ++ 0x802#12 ++ 0xC00#12 ++ 0xFFFF9#20) =
    .ok (.div { fn := 0, ty := .i32, u := false, pd := false, src := .immd, ta := 0x802, tb := 0xC00, imm := 0xFFFF9 }) ∧
  decode (0x3F#8 ++ 0#56) = .error .op

/-- Decode and encode agree: an instruction that passes the load checks is what its word decodes to, and a word that decodes is
the word of its instruction, which passes the load checks. -/
def Obligations.EncodingAndDecodingAgree : Prop :=
  ∀ (e : Option RtEnv) (i : Instr) (w : Word),
    (firstFail e i = none → encode i = some w → decodeIn e w = .ok i) ∧
    (decodeIn e w = .ok i → encode i = some w ∧ firstFail e i = none)

/-- R67, R68: of the agenda's entries that fall in the first cycle, the first of the least rank acts (log entry 1). An issue latches the
leading instance with those that gather with it and runs the instruction that the station's word decodes to; a word that does not decode,
and a trapping station, take the precise fault; a commit point that waits for its twin is held. An event runs as it stands; with no agenda
a cycle passes. -/
def Obligations.StepRunsTheDecodedInstruction : Prop :=
  ∀ (s : State),
    (s.agenda = [] → step s = .next (close s (tick s 1))) ∧
    (∀ h tl, s.agenda = h :: tl → ∃ a rest k, due s = some (a, rest) ∧
      k ≤ (tl.takeWhile fun b => b.dt == 0).length ∧ a.dt = h.dt ∧ (s.agenda[k]?).map (fun b => b.act) = some a.act ∧
      rest = (if k = 0 then tl else ({ h with dt := 0 } :: tl).eraseIdx k) ∧
      (∀ j b, j ≤ (tl.takeWhile fun b => b.dt == 0).length → s.agenda[j]? = some b →
        rank s a.act ≤ rank s b.act ∧ (j < k → rank s a.act < rank s b.act))) ∧
    (∀ dt i rest, due s = some ({ dt := dt, act := .event i }, rest) → step s = exec i { tick s dt with agenda := rest }) ∧
    (∀ dt u rest, due s = some ({ dt := dt, act := .issue u }, rest) →
      let r := { tick s dt with agenda := rest }
      (leader r u = none → step s = .next (close s r)) ∧
      (∀ F, leader r u = some F →
        let t := latch r F (lanesOf r F)
        let code := trappingCode r u F.stn
        (waitsTwin r F = true → step s = .next (close s
          { r with fab := { r.fab with ready := r.fab.ready.erase F },
                   un := { r.un with twins := r.un.twins ++ [{ f := F, digest := twinDigest r F }] } })) ∧
        (waitsTwin r F = false → code ≠ 0 → step s = .next (close s (trapIssue code t))) ∧
        (waitsTwin r F = false → code = 0 →
          (∀ i, decode (stationWord r u F.stn) = .ok i → step s = exec i t) ∧
          (∀ c, decode (stationWord r u F.stn) = .error c → step s = .next (close s (trapIssue c.code t))))))

/-- R69, R70: the instances that issue together are the leading one and at most seven others of its CU and station, each of another
tag, all with their operands in the matching store; they stand latched when the meaning runs, which the two issue counters count. What the issue
leaves as it was is memory and its tags, the routes, the contexts, the clock and the agenda, the engines, the stations, the K registers and the
tokens in flight, unless a further token of theirs completes a tile instruction that faults (R61, R283); the ready and waiting instances, the
counters, the charges and the recorded errors may change. -/
def Obligations.IssueLatchesTheGatheredInstances : Prop :=
  ∀ (s : State) (F : Ready), F ∈ s.fab.ready →
    let ls := lanesOf s F
    ls.length ≤ 8 ∧ (∃ rest, ls = F :: rest ∧
      (∀ r ∈ rest, r ∈ s.fab.ready ∧ r.u = F.u ∧ r.stn = F.stn ∧ r.near = true ∧ F.near = true ∧
        gathers (opOfWord (stationWord s F.u F.stn)) = true)) ∧
    ls.Pairwise (fun r q => sameTag r.l q.l = false) ∧
    ((unpack (stationWord s F.u F.stn)).ty = .f64 → ls.length ≤ 2) ∧
    (let t := latch s F ls
     let op := (opOfWord (stationWord s F.u F.stn)).toNat
     (0xB1 ≤ op → op ≤ 0xC5 → ∀ r ∈ ls, maySpill s r.u r.l = false ∧ ∀ w ∈ s.fab.waiting, w.u = r.u → sameTag w.tok r.l = false) →
     t.firing = ls ∧ t.mem = s.mem ∧ t.mtag = s.mtag ∧ t.routes = s.routes ∧ t.ctxs = s.ctxs ∧ t.clock = s.clock ∧
     t.agenda = s.agenda ∧ t.mu = s.mu ∧ t.cp = s.cp ∧ t.tn = s.tn ∧ t.fab.stations = s.fab.stations ∧ t.fab.kregs = s.fab.kregs ∧
     t.fab.flights = s.fab.flights ∧ t.fab.arrivals = s.fab.arrivals ∧
     t.fab.issueCount = bump s.fab.issueCount (siteKey s F.u) 1 ∧ t.fab.laneSum = bump s.fab.laneSum (siteKey s F.u) ls.length)

/-- R487 and the register maps: what reset leaves. No context, every queue destroyed, every port disabled, every unit of the secure world,
every die in reset, no barrier slot and no ring header live, every write-once word FULL, every line tag 0x7F00, the energy weights of R406.
That no byte is listed, so that memory reads as zero, is the model's choice (log entry 2). The model's choices in it: zero for what the
manual gives no reset value (log 4). -/
def Obligations.ResetState : Prop :=
  let s := State.reset
  Safety.Settled s ∧ s.ctxs = [] ∧ s.agenda = [] ∧ s.clock = 0 ∧
  (∀ c, (ctxOf s c).cst = .killed) ∧
  (∀ q, (queueOf s q).created = false ∧ (queueOf s q).en = false ∧ (queueOf s q).qw = true ∧ (queueOf s q).lck = false ∧
    (queueOf s q).head = 0 ∧ (queueOf s q).tail = 0) ∧
  (∀ p, (rxOf s p).lst = .disabled ∧ (rxOf s p).pen = false ∧ (rxOf s p).pws = true ∧ (rxOf s p).plk = false) ∧
  (∀ p, (ethOf s p).lst = .disabled ∧ (ethOf s p).pen = false ∧ (ethOf s p).ews = true) ∧
  (∀ u n, stationWord s u n = 0 ∧ kreg s u n = 0) ∧
  (∀ loc, lineTag s loc = 0x7F00 ∧ isState s loc = 0) ∧
  (∀ a n, liveFault s a n = none) ∧
  (∀ n, (asOf s n).v = false) ∧
  (∀ d, ewOf s d 0 = 0x100 ∧ ewOf s d 1 = 0x180 ∧ ewOf s d 2 = 0x400 ∧ ewOf s d 3 = 0x300 ∧ ewOf s d 4 = 0x800 ∧ ewOf s d 5 = 0x600 ∧
    ewOf s d 6 = 0x1800 ∧ ewOf s d 7 = 0x1000 ∧ ewOf s d 8 = 0xC00 ∧ ewOf s d 9 = 0x11680) ∧
  (∀ d, (dieReg s d).cause = 0 ∧ (dieReg s d).en = 0) ∧
  (∀ p, (lifeOf s p).ust = 0)

/-- Every step completes, and leaves memory in its canonical form, no instance latched and no write pending. The model's choices in it: the
latched instances and the pending writes are fields of the model's own (log 77). -/
def Obligations.EveryStepCompletesAndKeepsTheSettledState : Prop :=
  ∀ (s : State), Safety.Settled s → Completes (step s) ∧ ∀ t, step s = .next t → Safety.Settled t

/-- R38: no step but a kernel load, a reconfiguration, a restore or a start of the module changes a route entry. -/
def Obligations.RoutesChangeOnlyAtLoads : Prop :=
  ∀ (s t : State),
    (∀ e rest i, due s = some (e, rest) → e.act = .event i →
      (∀ c, i ≠ .kernelVerified c ∧ i ≠ .kernelLoadComplete c ∧ i ≠ .drainComplete c ∧ i ≠ .restoreComplete c) ∧ i ≠ .thermalTrip ∧
        (∀ b, i ≠ .powerOnReset b) ∧ ∀ o, i ≠ .powerLoss o) →
    step s = .next t → t.routes = s.routes

/-- R129: a value instruction, and a token instruction without a loop frame, changes nothing but tokens: no byte of memory, no register,
no context, no unit; writes that the issue itself had pending reach memory. Only tokens in flight, those that arrive at the firing's own CU and those that leave the module differ. -/
def Obligations.ValueInstructionsChangeOnlyTokens : Prop :=
  ∀ mk ∈ [Instr.nop, .move, .const, .steer, .merge, .select, .gate, .join, .nulls, .sink, .tagGet, .tagSet, .grpId, .grpSize, .ctxid, .cyc,
      .add, .sub, .addc, .subb, .mul, .mulc, .div, .rem, .min, .max, .abs, .neg, .and, .or, .xor, .andn, .not, .shl, .shr, .sar, .rot,
      .clz, .popc, .brev, .bfx, .bfi, .cmp, .ext, .addsat, .hash, .fadd, .fsub, .fmul, .ffma, .fmin, .fmax, .fabs, .fneg, .fcmp, .fclass,
      .fcvt, .ftoi, .itof, .frnd, .fdiv, .fsqrt, .frcp, .frsq, .fexp2, .flog2, .fsin, .fcos, .ftanh, .fscale, .quant, .deq, .fdot2],
  ∀ (f : Fields) (s : State), ∃ fl ar lk, exec (mk f) s = .next
    { s with mem := memCommit s.mem s.wlog, wlog := [], fab := { s.fab with flights := fl, arrivals := ar }, lk := lk, firing := [] }

/-- R168, R192: a store into the CU's own pool writes the bytes of its type at the named offset, lowest byte first, when it issues;
every other byte of memory, and everything but tokens besides, is as it was. -/
def Sys2Proof.Claims.PoolStoreWritesItsBytes : Prop :=
  ∀ (s : State) (f : Fields) (F : Ready) (p : Word), Memory.wf s.mem = true → s.wlog = [] → s.firing = [F] → settle true F = .go →
    shiftPtr F.l.val (dispOf f) = some p → winOf p = 2 →
    let n := tyBytes f.ty
    let loc := locUnit F.u (offOf p)
    windowFault (ctxOf s F.u.ctx) (poolSize (ctxOf s F.u.ctx)) [2] p n = none → offOf p % n = 0 →
    ∃ m fl ar lk, exec (.st f) s = .next { s with mem := m, fab := { s.fab with flights := fl, arrivals := ar }, lk := lk, firing := [] } ∧
      (∀ k < n, memByte m (loc + k) = (rightOp f F s).extractLsb' (8 * k) 8) ∧
      (∀ x, (x < loc ∨ loc + n ≤ x) → memByte m x = memByte s.mem x)

/-- R180, R196, R198: an atomic or a write-once store that an MU performs in its scratchpad writes the bytes of its word there; every other
byte of memory, but for the call record of a colour that this commits first (R76), every register, station, route and tag is as it was. The
model's choices in it: which call records are cached and when they reach memory (log 22). -/
def Obligations.BankWritesTouchTheirWord : Prop :=
  ∀ (s : State) (q : Req) (f : Fields), Memory.wf s.mem = true → s.wlog = [] → Oldest s q →
    (∀ mk ∈ [Instr.aadd, .amin, .amax, .aand, .aor, .axor, .axchg, .afadd, .acas, .aaddth], q.i = mk f → winOf q.c.l.val = 1 →
      let n := tyBytes f.ty
      let loc := locUnit q.mu (offOf q.c.l.val)
      offOf q.c.l.val % n = 0 → liveFault s loc n = none → isState s loc = 0 → readFails s loc = false →
      let v := (atomicNew q.i f.ty (rdN s loc n) (lowBits f.ty (q.k.getD 0 0)) (lowBits f.ty (pVal q.c))).1
      let w := wrN s loc n v
      RecordMapped w q.c → ∃ t, exec (.muRequest q.mu) s = .next t ∧
        (∀ k < n, memByte t.mem (loc + k) = BitVec.ofNat 8 (v / 2 ^ (8 * k))) ∧
        (∀ x, (x < loc ∨ loc + n ≤ x) → OffRecord w q.c x → memByte t.mem x = memByte s.mem x) ∧
        t.mtag = s.mtag ∧ t.routes = s.routes ∧ t.fab.kregs = s.fab.kregs ∧ t.fab.stations = s.fab.stations ∧ t.mu.isst = s.mu.isst) ∧
    (∀ p, q.i = .isWr f → shiftPtr q.c.l.val (dispOf f) = some p →
      let loc := locUnit q.mu (offOf p)
      let w := wrN s loc 8 (q.k.getD 0 0).toNat
      offOf p % 8 = 0 → liveFault s loc 8 = none → isState s loc ≠ 0 → RecordMapped w q.c →
      ∃ t, exec (.muRequest q.mu) s = .next t ∧
        (∀ k < 8, memByte t.mem (loc + k) = (q.k.getD 0 0).extractLsb' (8 * k) 8) ∧
        (∀ x, (x < loc ∨ loc + 8 ≤ x) → OffRecord w q.c x → memByte t.mem x = memByte s.mem x) ∧
        t.mtag = s.mtag ∧ t.routes = s.routes ∧ t.fab.kregs = s.fab.kregs ∧ t.fab.stations = s.fab.stations)

/-- R168, R176, R177: a store that a phase buffer accepts changes no byte of memory and no line tag: its bytes stand in the buffer's entry of its
line, tag and station until a boundary commits them, unless the entry has a byte of a later issue there. -/
def Sys2Proof.Claims.BufferedStoresLeaveMemory : Prop :=
  ∀ (s : State) (q : Req) (f : Fields), Memory.wf s.mem = true → s.wlog = [] → Oldest s q →
    isLive (ctxOf s q.c.u.ctx) = true → ∀ p m, (q.i = .st f ∧ shiftPtr q.c.l.val (dispOf f) = some p ∧ winOf p = 1 ∧ m = muNamed q.c.u p) ∨
        (q.i = .sts f ∧ homePtr f q.c = some p ∧ m = q.mu) →
      offOf p % tyBytes f.ty = 0 → (m = q.mu → liveFault s (locUnit m (offOf p)) (tyBytes f.ty) = none) →
      let o : StoreOp := { la := muPtr m (offOf p / 64 * 64), loc := locUnit m (offOf p / 64 * 64), off := offOf p % 64,
                           bytes := leBytes (q.k.getD 0 0).toNat (tyBytes f.ty), ntag := none, page := none, host := false }
      (acceptStore (taken s q) q o).isSome →
      ∃ t, exec (.muRequest q.mu) s = .next t ∧ (∀ x, memByte t.mem x = memByte s.mem x) ∧ t.mtag = s.mtag ∧ t.routes = s.routes ∧
        t.fab.kregs = s.fab.kregs ∧ t.fab.stations = s.fab.stations ∧ t.ctxs = s.ctxs ∧
        ∃ e ∈ t.mu.pbuf, e.mu = q.mu ∧ e.la = muPtr m (offOf p / 64 * 64) ∧ e.col = fcol q.c ∧ e.itr = fitr q.c ∧
          e.sx = q.c.u.x ∧ e.sy = q.c.u.y ∧ e.ss = q.c.stn ∧
          ∀ k < tyBytes f.ty, e.mask.getLsbD (offOf p % 64 + k) = true ∧
            ((∀ e₀ ∈ s.mu.pbuf, joins q o e₀ = true → e₀.mask.getLsbD (offOf p % 64 + k) = true →
                olderSeq q.iseq (fget 0 e₀.bseqs (offOf p % 64 + k)) = false) →
              e.data.extractLsb' (8 * (offOf p % 64 + k)) 8 = (q.k.getD 0 0).extractLsb' (8 * k) 8)

/-- R424 to R427: taking the first precise fault of a running context. The record goes to slot FSEQ mod 64 of the page at CXFRP and FSEQ
counts it; the context holds a marker with the firing and a copy of the record, its fault bit is set, and its freeze begins. -/
def Obligations.FaultEntry : Prop :=
  (∀ (s : State) (F : Ready) (fi : FaultInfo) (a : XAddr),
    let x := ctxOf s F.u.ctx
    x.cst = .running → x.frz.fault = false → inNestWindow s F.u fi = false →
    translateNow s x .write (x.frp + 64 * (x.fseq % 64)) = .ok a →
    ∃ r : FaultRec,
      r.kind = fi.kind ∧ r.lvl = fi.lvl ∧ r.fks = fi.fks ∧ r.va = fi.va ∧ r.x = relCol x F.u.x ∧ r.mod = memberOf x F.u.x ∧
      r.y = F.u.y ∧ r.stn = F.stn ∧
      r.flg = fi.flg + (if F.r.isSome then 64 else 0) + (if F.p.isSome then 128 else 0) ∧
      r.hdr = (packFlit F.l).extractLsb' 64 96 ∧ r.col = F.l.col.toNat ∧ r.cid = 0 ∧ r.seq = x.fseq ∧ r.rv = rVal F ∧ r.pv = pVal F ∧
      (raise F fi s).wlog = .bytes a.phys (faultBytes r) :: s.wlog ∧
      (raise F fi s).routes = s.routes ∧ (raise F fi s).fab = s.fab ∧ (raise F fi s).mu = s.mu ∧ (raise F fi s).mtag = s.mtag ∧
      ctxOf (raise F fi s) F.u.ctx =
        { x with fseq := (x.fseq + 1) % 65536, frz := { x.frz with fault := true }, freezing := true, frec := some r, prim := some (s.clock, F),
                 marker := some { f := F, kind := fi.kind, rearrive := false } }) ∧
  (∀ r : FaultRec, r.kind < 2 ^ 8 → r.flg < 2 ^ 8 → r.lvl < 2 ^ 3 → r.fks < 2 ^ 32 → r.x < 2 ^ 8 → r.y < 2 ^ 7 → r.stn < 2 ^ 7 → r.mod < 2 ^ 8 →
    r.col < 2 ^ 12 → r.cid < 2 ^ 48 → r.seq < 2 ^ 16 →
    let n := leNat (faultBytes r)
    (faultBytes r).length = 64 ∧ nbits n 0 8 = r.kind ∧ nbits n 8 8 = r.flg ∧ nbits n 16 3 = r.lvl ∧ nbits n 32 32 = r.fks ∧
    nbits n 64 64 = r.va.toNat ∧ nbits n 128 8 = r.x ∧ nbits n 136 7 = r.y ∧ nbits n 143 7 = r.stn ∧ nbits n 150 8 = r.mod ∧
    nbits n 192 96 = r.hdr.toNat ∧ nbits n 288 12 = r.col ∧ nbits n 304 48 = r.cid ∧ nbits n 352 16 = r.seq ∧
    nbits n 384 64 = r.rv.toNat ∧ nbits n 448 64 = r.pv.toNat)

/-- R430, R392: returning from a fault. A thaw of a frozen context that holds a fault marker and no reason but the fault lets it run
again: the marker and the record are gone, and the marker's station gains a complete instance, the youngest of its CU, with the firing's
operands formed afresh, which a TRAP or BRK does not fault again. -/
def Obligations.FaultReturn : Prop :=
  ∀ (s : State) (c : Nat) (sec : Bool) (m : Marker),
    let x := ctxOf s c
    x.cst = .frozen → x.frz = { noFrz with fault := true } → x.marker = some m → m.rearrive = false → m.f.u.ctx = c → x.members = [] →
    s.svc.held = [] → onModule x m.f.u.x = true → (x.world = 0 ∨ sec = true) →
    ∃ t, exec (.thaw c sec) s = .next t ∧
      (ctxOf t c).cst = .running ∧ (ctxOf t c).frz = noFrz ∧ (ctxOf t c).marker = none ∧ (ctxOf t c).frec = none ∧
      (ctxOf t c).fseq = x.fseq ∧ t.routes = s.routes ∧ t.fab.kregs = s.fab.kregs ∧ t.fab.stations = s.fab.stations ∧ t.mu = s.mu ∧
      t.mtag = s.mtag ∧ t.fab.ready = s.fab.ready ++
        [{ m.f with seq := fget 0 s.fab.seqs (uKey m.f.u), l := refresh x.key m.f.l, r := m.f.r.map (refresh x.key),
                    p := m.f.p.map (refresh x.key), again := m.kind == 0x18 || m.kind == 0x19 }]

/-- R88, R89, R90: JOIN sends the number of its operands that are not null, end-of-fibre counted, to both targets; NULLS sends null to
both, or tells whether L is null and passes L on; SINK consumes L of whatever kind, and nothing is counted. -/
def Obligations.JoinNullsAndSinkEffects : Prop :=
  ∀ (f : Fields) (s : State),
    ((∀ F ∈ s.firing, F.r.isSome) → EndsWith (.join f) s fun F t => emitBoth f F kValue
      (BitVec.ofNat 64 ((F.l :: F.r.toList).filter fun k => k.kind ≠ 1).length) t) ∧
    (f.fn = 0 → EndsWith (.nulls f) s fun F t => emitBoth f F kNull 0 t) ∧
    (f.fn = 1 → EndsWith (.nulls f) s fun F t =>
      emit F f.tb F.l.kind F.l.val (emit F f.ta kValue (if F.l.kind = 1 then 1 else 0) t)) ∧
    EndsWith (.sink f) s (fun _ t => t)

/-- R95: TAG.GET sends its firing's tag to both targets: ITR in bits 15:0, COL in bits 27:16, CTX in bits 36:28, zeros above. -/
def Sys2Proof.Claims.TagGetSendsTheTag : Prop :=
  ∀ (f : Fields) (s : State), Computes true s → (∀ F ∈ s.firing, F.u.ctx < 512) →
    ∃ v : Ready → Word, (∀ F ∈ s.firing, (v F).extractLsb' 0 16 = F.l.itr ∧ (v F).extractLsb' 16 12 = F.l.col ∧
        (v F).extractLsb' 28 9 = BitVec.ofNat 9 F.u.ctx ∧ (v F).extractLsb' 37 27 = 0) ∧
      EndsWith (.tagGet f) s fun F t => emitBoth f F kValue (v F) t

/-- R410: what CTXID sends, the same to every station of a context and of both its copies. -/
def Sys2Proof.Claims.CtxidSendsTheContextWord : Prop :=
  ∀ (f : Fields) (s : State), Computes true s → (∀ c, (ctxOf s c).id < 512 ∧ (ctxOf s c).member < 256 ∧ (ctxOf s c).world < 4) →
    ∃ v : Nat → Word, (∀ c, let x := ctxOf s c
        (v c).extractLsb' 0 9 = BitVec.ofNat 9 x.id ∧ (v c).getLsbD 9 = x.flg.testBit 0 ∧ (v c).getLsbD 10 = x.flg.testBit 1 ∧
        (v c).extractLsb' 11 8 = BitVec.ofNat 8 x.member ∧ (v c).extractLsb' 19 2 = BitVec.ofNat 2 x.world ∧
        (v c).extractLsb' 21 11 = 0 ∧ (v c).extractLsb' 32 16 = BitVec.ofNat 16 x.rcnt ∧ (v c).extractLsb' 48 16 = 0) ∧
      Values (.ctxid f) f s fun F _ => v F.u.ctx

/-- R152: FABS clears the sign bit of the w-bit pattern and FNEG inverts it; every other bit passes unchanged, those of a NaN too. -/
def Obligations.SignOperationsTouchTheSignBitAlone : Prop :=
  ∀ (f : Fields) (s : State), Computes true s →
    ∃ v w : Ready → Word,
      (∀ F ∈ s.firing, ∀ k, k < 64 → (v F).getLsbD k = (if k < tyW f.ty - 1 then F.l.val.getLsbD k else false) ∧
        (w F).getLsbD k = (if k < tyW f.ty - 1 then F.l.val.getLsbD k else if k = tyW f.ty - 1 then !F.l.val.getLsbD k else false)) ∧
      Values (.fabs f) f s (fun F _ => v F) ∧ Values (.fneg f) f s (fun F _ => w F)

/-- R133 to R136, R138: the logical operators bit by bit, division, saturation, the one-operand operators and comparison. -/
def Obligations.LogicalDivisionAndOneOperandResults : Prop :=
  Sys2Proof.Claims.LogicalResultsBitByBit ∧ Sys2Proof.Claims.DivisionResults ∧ Sys2Proof.Claims.OneOperandAndSaturatingResults

/-- R133, R140, R141: the two-operand integer operators and the carry chains. -/
def Obligations.ArithmeticAndCarryResults : Prop :=
  Sys2Proof.Claims.TwoOperandIntegerResults ∧ Sys2Proof.Claims.CarryChainResults

/-- R137, R136, R139, R142, R143: shifts and rotations, bit counts and fields, AIDX and HASH. The model's choices in it: AIDX's fault gives
the value of L (log 34). -/
def Obligations.BitAndIndexResults : Prop :=
  Sys2Proof.Claims.ShiftAndRotateResults ∧ Sys2Proof.Claims.BitCountAndFieldResults ∧ Sys2Proof.Claims.AddressIndexAndHashResults

/-- R72, R91 to R96: the iteration that a tag names, and what the loop and tag instructions do. -/
def Obligations.LoopFramesAndTags : Prop :=
  Sys2Proof.Claims.IterationResolvedWithinTheWindow ∧ Sys2Proof.Claims.LoopAndTagInstructionEffects

/-- R73, R74, R97 to R100: the colour instructions and the call record in memory. The model's choices in it: which call records are cached
and when they reach memory (log 22). -/
def Obligations.ColourInstructionEffects : Prop :=
  Sys2Proof.Claims.ColourFirings ∧ Sys2Proof.Claims.CallRecordIsStored

/-- R195 to R197, R201: line-described loads and stores, line tags and the prefetch at their MU. The model's choices in it: a load after an
own unordered store (log 14), when operands are read (45), the order of a line access's checks and its bound (91, 109). -/
def Obligations.LineAccessesAndPrefetchServed : Prop :=
  Sys2Proof.Claims.LineAccessesServed ∧ Sys2Proof.Claims.PrefetchServed

/-- R187, R188, R192, R193: a request reaches its port, is served, and a load's data come back. The model's choices in it: a load after an
own unordered store (log 14). -/
def Obligations.GlobalAccessesServed : Prop :=
  Sys2Proof.Claims.RequestReachesItsPort ∧ Sys2Proof.Claims.GlobalLoadsAndStoresServed ∧ Sys2Proof.Claims.GlobalLoadDataAnswered

/-- R164, R165, R184, R192 to R203, R210 to R214: what each memory instruction does when it issues. The model's choices in it: a pool load
after an own unordered store (log 14). -/
def Obligations.MemoryFamilyAtIssue : Prop :=
  Sys2Proof.Claims.MemoryInstructionsAtIssue ∧ Sys2Proof.Claims.StlAndAtomicsAtIssue ∧ Sys2Proof.Claims.PhaseFenceAndPoolAtIssue

/-- R215 to R233: counts, waits and retirement of a barrier slot at its MU. -/
def Obligations.BarrierSlotsServed : Prop :=
  Sys2Proof.Claims.BarrierCountsServed ∧ Sys2Proof.Claims.BarrierWaitsAndRetirementServed

/-- R219 to R221, R225, R264, R265, R273: what moves a slot and a ring on without an instruction. The model's choices in it: a boundary that
covers a host-owned region waits whole (log 80). -/
def Obligations.BarrierAndRingEvents : Prop :=
  Sys2Proof.Claims.BarrierEvents ∧ Sys2Proof.Claims.RingBindingEvents

/-- R222, R223, R252 to R254, R260, R262: credits, reservations and streams. The model's choices in it: SCLOSE of a stream not yet open (log
37), bounds and windows of streams (38, 109), when a stream is charged (39). -/
def Obligations.CreditAndStreamEvents : Prop :=
  Sys2Proof.Claims.CreditAndReservationEvents ∧ Sys2Proof.Claims.StreamEvents

/-- R334 to R342, R349 to R352: the bin engine and the fibre units. The model's choices in it: source ranges and reads of the fibre units
(log 100), the positions that count as done (43). -/
def Obligations.BinAndFibreEvents : Prop :=
  Sys2Proof.Claims.BinEngineEvents ∧ Sys2Proof.Claims.FibreUnitEvents ∧ Sys2Proof.Claims.MergePositions

/-- R16, R36, R40, R57 to R66, R362, R363: tokens and config tokens on the fabric. The model's choices in it: the record of a config load
(log 84), how a refusal for the world is recorded (89). -/
def Obligations.TokenAndConfigEvents : Prop :=
  Sys2Proof.Claims.TokenEvents ∧ Sys2Proof.Claims.ConfigTokenEvents

/-- R18, R29, R419, R460 to R471, R487 to R494: units, errors, wear and the start. The model's choices in it: the stress factor (log 8), the
report's key (9), the supervisor's part in retirement and windows (69), the mirrored record (99). -/
def Obligations.UnitAndStartEvents : Prop :=
  Sys2Proof.Claims.UnitEvents ∧ Sys2Proof.Claims.StartEvents

/-- R76 to R79, R417 to R423, R183: colours, purges, walks, invalidations and host regions. The model's choices in it: a boundary that
covers a host-owned region waits whole (log 80), which lines hold errors (17). -/
def Obligations.ColourAndTranslationEvents : Prop :=
  Sys2Proof.Claims.ColourEvents ∧ Sys2Proof.Claims.TranslationEvents

/-- R62: what the kinds of the operands decide, and what a settled firing sends. The model's choices in it: what a settled RET emits (log
93). -/
def Obligations.OperandKindsAndSettledFirings : Prop :=
  Sys2Proof.Claims.OperandKindsDecideTheFiring ∧ Sys2Proof.Claims.SettledFiringsHaveNoOtherEffect

/-- R378 to R389, R403, R404, R479: queues, placement and energy. The model's choices in it: when a budget freezes (log 56), waiting for
room (59), a remap's resident (69), a hot die's yard (97). -/
def Obligations.QueueAndYardEvents : Prop :=
  Sys2Proof.Claims.QueueEvents ∧ Sys2Proof.Claims.YardAndEnergyEvents

/-- R432 to R438, R446 to R457: links, storage and network. The model's choices in it: the layout of what leaves for storage and network
(log 60), replay and retraining (65), messages that no rule answers (66), a network push whose source holds an error (17). -/
def Obligations.LinkAndIoEvents : Prop :=
  Sys2Proof.Claims.LinkEvents ∧ Sys2Proof.Claims.StorageAndNetworkEvents

/-- R168, R176, R192: a store into the pool writes its own bytes alone; a store that a phase buffer takes writes none. -/
def Obligations.StoresAndTheirBytes : Prop :=
  Sys2Proof.Claims.PoolStoreWritesItsBytes ∧ Sys2Proof.Claims.BufferedStoresLeaveMemory

/-- R95, R410: the words that TAG.GET and CTXID send. -/
def Obligations.TagAndContextWords : Prop :=
  Sys2Proof.Claims.TagGetSendsTheTag ∧ Sys2Proof.Claims.CtxidSendsTheContextWord

end
end

