-- ==== Sys2Proof/Laws/Memory.lean ====
section
/-!
SUPPORT. Laws of the byte memory: every operation keeps the canonical form, and a read after the writes of a step gives
the newest logged byte, or what memory held.
-/

namespace Sys2Proof.Machine

open Sys2Proof

theorem memWf_mono {lo lo' : Nat} {m : List Host.Cell} (h : memWf lo m = true) (hl : lo' ≤ lo) : memWf lo' m = true := by
  cases m with
  | nil => rfl
  | cons e r =>
    obtain ⟨k, v⟩ := e
    simp only [memWf, Bool.and_eq_true, decide_eq_true_eq] at h ⊢
    exact ⟨⟨by omega, h.1.2⟩, h.2⟩

theorem memWf_ferase {lo : Nat} {m : List Host.Cell} (h : memWf lo m = true) (k : Nat) : memWf lo (ferase m k) = true := by
  induction m generalizing lo with
  | nil => rfl
  | cons e r ih =>
    obtain ⟨k', v⟩ := e
    have h' := h
    simp only [memWf, Bool.and_eq_true, decide_eq_true_eq] at h
    simp only [ferase]
    split
    · exact memWf_mono h.2 (by omega)
    · split
      · exact h'
      · simp only [memWf, Bool.and_eq_true, decide_eq_true_eq]
        exact ⟨h.1, ih h.2⟩

theorem memWf_finsert {lo : Nat} {m : List Host.Cell} (h : memWf lo m = true) {k : Nat} (hk : lo ≤ k) {v : Byte}
    (hv : v ≠ 0) : memWf lo (finsert k v m) = true := by
  induction m generalizing lo with
  | nil =>
    simp only [finsert, memWf, Bool.and_eq_true, decide_eq_true_eq]
    exact ⟨⟨hk, by simpa using hv⟩, trivial⟩
  | cons e r ih =>
    obtain ⟨k', v'⟩ := e
    simp only [memWf, Bool.and_eq_true, decide_eq_true_eq] at h
    simp only [finsert]
    split
    · simp only [memWf, Bool.and_eq_true, decide_eq_true_eq]
      exact ⟨⟨hk, by simpa using hv⟩, ⟨by omega, h.1.2⟩, h.2⟩
    · split
      · simp only [memWf, Bool.and_eq_true, decide_eq_true_eq]
        exact ⟨⟨hk, by simpa using hv⟩, memWf_mono h.2 (by omega)⟩
      · simp only [memWf, Bool.and_eq_true, decide_eq_true_eq]
        exact ⟨h.1, ih h.2 (by omega)⟩

theorem memory_wf_fset {m : List Host.Cell} (h : Memory.wf m = true) (k : Nat) (v : Byte) :
    Memory.wf (fset 0 m k v) = true := by
  unfold fset
  split
  · exact memWf_ferase h k
  · exact memWf_finsert h (Nat.zero_le _) ‹_›

theorem memory_wf_fclear {m : List Host.Cell} (h : Memory.wf m = true) (lo hi : Nat) :
    Memory.wf (fclear m lo hi) = true := by
  have gen : ∀ b, memWf b m = true → memWf b (fclear m lo hi) = true := by
    induction m with
    | nil => intro b _; rfl
    | cons e r ih =>
      obtain ⟨k, v⟩ := e
      intro b hb
      simp only [memWf, Bool.and_eq_true, decide_eq_true_eq] at hb
      have hr := ih (memWf_mono hb.2 (Nat.zero_le _)) (k + 1) hb.2
      unfold fclear at hr ⊢
      rw [List.filter_cons]
      split
      · simp only [memWf, Bool.and_eq_true, decide_eq_true_eq]
        exact ⟨hb.1, hr⟩
      · exact memWf_mono hr (by omega)
  exact gen 0 h

theorem memory_wf_memBytes {m : List Host.Cell} (h : Memory.wf m = true) (a : Nat) (bs : List Byte) :
    Memory.wf (memBytes m a bs) = true := by
  induction bs generalizing m a with
  | nil => exact h
  | cons b bs ih => exact ih (memory_wf_fset h a b) (a + 1)

theorem memory_wf_memApply {m : List Host.Cell} (h : Memory.wf m = true) (w : MW) : Memory.wf (memApply m w) = true := by
  cases w with
  | bytes a bs => exact memory_wf_memBytes h a bs
  | clear lo hi => exact memory_wf_fclear h lo hi

/-- The end of a step keeps the canonical form of memory. -/
theorem memory_wf_memCommit {m : List Host.Cell} (h : Memory.wf m = true) (log : List MW) :
    Memory.wf (memCommit m log) = true := by
  induction log with
  | nil => exact h
  | cons w r ih => exact memory_wf_memApply ih w

/-- The memory after reset has the canonical form. -/
theorem memory_wf_reset : Memory.wf State.reset.mem = true := rfl

theorem fget_below {m : List Host.Cell} {lo k : Nat} (h : memWf lo m = true) (hk : k < lo) : fget 0 m k = 0 := by
  cases m with
  | nil => rfl
  | cons e r =>
    obtain ⟨k', v⟩ := e
    simp only [memWf, Bool.and_eq_true, decide_eq_true_eq] at h
    simp only [fget]
    rw [if_neg (by omega), if_pos (by omega)]

theorem fget_ferase {m : List Host.Cell} {lo : Nat} (h : memWf lo m = true) (k j : Nat) :
    fget 0 (ferase m k) j = if j = k then 0 else fget 0 m j := by
  induction m generalizing lo with
  | nil => simp [ferase, fget]
  | cons e r ih =>
    obtain ⟨k', v⟩ := e
    simp only [memWf, Bool.and_eq_true, decide_eq_true_eq] at h
    have ih := ih h.2
    simp only [ferase]
    split
    · subst_vars
      by_cases hj : j = k'
      · subst hj; rw [if_pos rfl]; exact fget_below h.2 (Nat.lt_succ_self _)
      · simp only [if_neg hj, fget]
        split
        · exact fget_below h.2 (by omega)
        · rfl
    · split
      · by_cases hj : j = k
        · subst hj; simp only [fget, if_true]; rw [if_neg (by omega), if_pos (by omega)]
        · simp [hj]
      · simp only [fget]
        by_cases hj : j = k'
        · subst hj
          rw [if_pos rfl, if_pos rfl, if_neg (by omega)]
        · rw [if_neg hj, if_neg hj]
          split
          · split <;> rfl
          · rw [ih]

theorem fget_finsert (m : List Host.Cell) (k j : Nat) (v : Byte) {lo : Nat} (h : memWf lo m = true) :
    fget 0 (finsert k v m) j = if j = k then v else fget 0 m j := by
  induction m generalizing lo with
  | nil => simp only [finsert, fget]; split <;> simp
  | cons e r ih =>
    obtain ⟨k', v'⟩ := e
    simp only [memWf, Bool.and_eq_true, decide_eq_true_eq] at h
    have ih := ih h.2
    simp only [finsert]
    split
    · simp only [fget]
      by_cases hj : j = k
      · simp [hj]
      · rw [if_neg hj, if_neg hj]
        split
        · rw [if_neg (by omega), if_pos (by omega)]
        · rfl
    · split
      · subst_vars
        simp only [fget]
        by_cases hj : j = k'
        · simp [hj]
        · simp [hj]
      · simp only [fget]
        by_cases hj : j = k'
        · subst hj; rw [if_pos rfl, if_pos rfl, if_neg (by omega)]
        · rw [if_neg hj, if_neg hj]
          split
          · rw [if_neg (by omega)]
          · rw [ih]

/-- A read after a write to the same place gives the value written; every other place is left alone. -/
theorem memByte_fset {m : List Host.Cell} (h : Memory.wf m = true) (k j : Nat) (v : Byte) :
    memByte (fset 0 m k v) j = if j = k then v else memByte m j := by
  unfold memByte fset
  split
  · rw [fget_ferase h]; split <;> simp [*]
  · exact fget_finsert m k j v h

theorem memByte_memBytes {m : List Host.Cell} (h : Memory.wf m = true) (a : Nat) (bs : List Byte) (j : Nat) :
    memByte (memBytes m a bs) j = if a ≤ j ∧ j < a + bs.length then bs.getD (j - a) 0 else memByte m j := by
  induction bs generalizing m a with
  | nil => rw [if_neg (by simp)]; rfl
  | cons b bs ih =>
    simp only [memBytes]
    rw [ih (memory_wf_fset h a b), memByte_fset h]
    by_cases hj : j = a
    · subst hj
      rw [if_neg (by omega), if_pos rfl, if_pos (by simp)]
      simp
    · by_cases hi : a + 1 ≤ j ∧ j < a + 1 + bs.length
      · rw [if_pos hi, if_pos (by simp only [List.length_cons]; omega)]
        have : j - a = (j - (a + 1)) + 1 := by omega
        rw [this, List.getD_cons_succ]
      · rw [if_neg hi, if_neg hj, if_neg (by simp only [List.length_cons]; omega)]

theorem memByte_fclear {m : List Host.Cell} (h : Memory.wf m = true) (lo hi j : Nat) :
    memByte (fclear m lo hi) j = if lo ≤ j ∧ j < hi then 0 else memByte m j := by
  have gen : ∀ b, memWf b m = true → fget 0 (fclear m lo hi) j = if lo ≤ j ∧ j < hi then 0 else fget 0 m j := by
    induction m with
    | nil => intro b _; simp [fclear, fget]
    | cons e r ih =>
      obtain ⟨k, v⟩ := e
      intro b hb
      simp only [memWf, Bool.and_eq_true, decide_eq_true_eq] at hb
      have hr := ih (memWf_mono hb.2 (Nat.zero_le _)) (k + 1) hb.2
      unfold fclear at hr ⊢
      rw [List.filter_cons]
      split
      · simp only [fget]
        rename_i hk
        simp only [Bool.or_eq_true, decide_eq_true_eq] at hk
        by_cases hj : j = k
        · subst hj; rw [if_pos rfl, if_pos rfl, if_neg (by omega)]
        · rw [if_neg hj, if_neg hj]
          split
          · split <;> rfl
          · exact hr
      · rename_i hk
        simp only [Bool.or_eq_true, decide_eq_true_eq, not_or, Nat.not_lt, Nat.not_le] at hk
        rw [hr]
        simp only [fget]
        by_cases hj : j = k
        · subst hj; rw [if_pos (by omega), if_pos (by omega)]
        · rw [if_neg hj]
          split
          · rfl
          · split
            · exact fget_below hb.2 (by omega)
            · rfl
  exact gen 0 h

/-- What a byte of memory holds when a step ends: its newest logged write, or what it held before. -/
theorem memByte_memCommit {m : List Host.Cell} (h : Memory.wf m = true) (log : List MW) (j : Nat) :
    memByte (memCommit m log) j = match logByte j log with | some b => b | none => memByte m j := by
  induction log with
  | nil => rfl
  | cons w r ih =>
    have hw := memory_wf_memCommit h r
    change memByte (memApply (memCommit m r) w) j = _
    cases w with
    | bytes a bs =>
      simp only [memApply, logByte, memByte_memBytes hw]
      by_cases hj : a ≤ j ∧ j < a + bs.length
      · rw [if_pos hj, if_pos (by simpa using hj)]
      · rw [if_neg hj, if_neg (by simpa using hj), ih]
    | clear lo hi =>
      simp only [memApply, logByte, memByte_fclear hw]
      by_cases hj : lo ≤ j ∧ j < hi
      · rw [if_pos hj, if_pos (by simpa using hj)]
      · rw [if_neg hj, if_neg (by simpa using hj), ih]

/-- A byte that a step does not write is unchanged when the step ends. -/
theorem memByte_close (s t : State) (h : Memory.wf s.mem = true) (j : Nat) :
    memByte (close s t).mem j = match logByte j t.wlog with | some b => b | none => memByte s.mem j :=
  memByte_memCommit h t.wlog j

/-- Above its last cell a memory reads as zero. -/
theorem fget_above {m : List Host.Cell} {lo a : Nat} (h : ∀ c ∈ m, c.1 < lo) (ha : lo ≤ a) : fget (0 : Byte) m a = 0 := by
  induction m with
  | nil => rfl
  | cons c m ih =>
    have := h c (List.mem_cons_self ..)
    simp only [fget]
    rw [if_neg (by omega), if_neg (by omega), ih fun d hd => h d (List.mem_cons_of_mem _ hd)]

/-- Bytes above the last cell of memory, with no write pending, read as zero. -/
theorem rdBytes_above (s : State) (lo n : Nat) (hw : s.wlog = []) (hm : ∀ c ∈ s.mem, c.1 < lo) :
    (rdBytes s lo n).all (· == 0) = true := by
  simp only [rdBytes, List.all_map, List.all_eq_true, List.mem_range, Function.comp, rd8, hw, logByte, memByte]
  intro k _
  rw [fget_above hm (Nat.le_add_right ..)]
  rfl

/-- Zero bytes make the number zero. -/
theorem leNat_zeros : ∀ l : List Byte, l.all (· == 0) = true → leNat l = 0
  | [], _ => rfl
  | b :: l, h => by
    simp only [List.all_cons, Bool.and_eq_true, beq_iff_eq] at h
    simp [leNat, h.1, leNat_zeros l h.2]

/-- A number above the last cell of memory, with no write pending, is zero. -/
theorem rdN_above (s : State) (lo n : Nat) (hw : s.wlog = []) (hm : ∀ c ∈ s.mem, c.1 < lo) : rdN s lo n = 0 :=
  leNat_zeros _ (rdBytes_above s lo n hw hm)

end Sys2Proof.Machine
end

