-- ==== Sys2Proof/Laws/State.lean ====
section
/-!
SUPPORT. One lemma per field of the state and per named update: what the update leaves as it was, and what it sets.
-/

namespace Sys2Proof.Machine

open Sys2Proof

/-! ### close -/

@[simp] theorem close_clock (s t : State) : (close s t).clock = t.clock := rfl
@[simp] theorem close_agenda (s t : State) : (close s t).agenda = t.agenda := rfl
@[simp] theorem close_fresh (s t : State) : (close s t).fresh = t.fresh := rfl
@[simp] theorem close_firing (s t : State) : (close s t).firing = [] := rfl
@[simp] theorem close_wlog (s t : State) : (close s t).wlog = [] := rfl
@[simp] theorem close_mem (s t : State) : (close s t).mem = memCommit s.mem t.wlog := rfl
@[simp] theorem close_mtag (s t : State) : (close s t).mtag = t.mtag := rfl
@[simp] theorem close_routes (s t : State) : (close s t).routes = s.routes := rfl
@[simp] theorem close_fab (s t : State) : (close s t).fab = t.fab := rfl
@[simp] theorem close_mu (s t : State) : (close s t).mu = t.mu := rfl
@[simp] theorem close_ctxs (s t : State) : (close s t).ctxs = t.ctxs := rfl
@[simp] theorem close_yard (s t : State) : (close s t).yard = t.yard := rfl
@[simp] theorem close_tr (s t : State) : (close s t).tr = t.tr := rfl
@[simp] theorem close_cp (s t : State) : (close s t).cp = t.cp := rfl
@[simp] theorem close_tn (s t : State) : (close s t).tn = t.tn := rfl
@[simp] theorem close_un (s t : State) : (close s t).un = t.un := rfl
@[simp] theorem close_lk (s t : State) : (close s t).lk = t.lk := rfl
@[simp] theorem close_boot (s t : State) : (close s t).boot = t.boot := rfl
@[simp] theorem close_svc (s t : State) : (close s t).svc = t.svc := rfl

/-! ### closeLoad -/

@[simp] theorem closeLoad_clock (s t : State) : (closeLoad s t).clock = t.clock := rfl
@[simp] theorem closeLoad_agenda (s t : State) : (closeLoad s t).agenda = t.agenda := rfl
@[simp] theorem closeLoad_fresh (s t : State) : (closeLoad s t).fresh = t.fresh := rfl
@[simp] theorem closeLoad_firing (s t : State) : (closeLoad s t).firing = [] := rfl
@[simp] theorem closeLoad_wlog (s t : State) : (closeLoad s t).wlog = [] := rfl
@[simp] theorem closeLoad_mem (s t : State) : (closeLoad s t).mem = memCommit s.mem t.wlog := rfl
@[simp] theorem closeLoad_mtag (s t : State) : (closeLoad s t).mtag = t.mtag := rfl
@[simp] theorem closeLoad_routes (s t : State) : (closeLoad s t).routes = t.routes := rfl
@[simp] theorem closeLoad_fab (s t : State) : (closeLoad s t).fab = t.fab := rfl
@[simp] theorem closeLoad_mu (s t : State) : (closeLoad s t).mu = t.mu := rfl
@[simp] theorem closeLoad_ctxs (s t : State) : (closeLoad s t).ctxs = t.ctxs := rfl
@[simp] theorem closeLoad_yard (s t : State) : (closeLoad s t).yard = t.yard := rfl
@[simp] theorem closeLoad_tr (s t : State) : (closeLoad s t).tr = t.tr := rfl
@[simp] theorem closeLoad_cp (s t : State) : (closeLoad s t).cp = t.cp := rfl
@[simp] theorem closeLoad_tn (s t : State) : (closeLoad s t).tn = t.tn := rfl
@[simp] theorem closeLoad_un (s t : State) : (closeLoad s t).un = t.un := rfl
@[simp] theorem closeLoad_lk (s t : State) : (closeLoad s t).lk = t.lk := rfl
@[simp] theorem closeLoad_boot (s t : State) : (closeLoad s t).boot = t.boot := rfl
@[simp] theorem closeLoad_svc (s t : State) : (closeLoad s t).svc = t.svc := rfl

/-! ### wrBytes -/

@[simp] theorem wrBytes_clock (s : State) (a : Nat) (bs : List Byte) : (wrBytes s a bs).clock = s.clock := rfl
@[simp] theorem wrBytes_agenda (s : State) (a : Nat) (bs : List Byte) : (wrBytes s a bs).agenda = s.agenda := rfl
@[simp] theorem wrBytes_fresh (s : State) (a : Nat) (bs : List Byte) : (wrBytes s a bs).fresh = s.fresh := rfl
@[simp] theorem wrBytes_firing (s : State) (a : Nat) (bs : List Byte) : (wrBytes s a bs).firing = s.firing := rfl
@[simp] theorem wrBytes_wlog (s : State) (a : Nat) (bs : List Byte) : (wrBytes s a bs).wlog = .bytes a bs :: s.wlog := rfl
@[simp] theorem wrBytes_mem (s : State) (a : Nat) (bs : List Byte) : (wrBytes s a bs).mem = s.mem := rfl
@[simp] theorem wrBytes_mtag (s : State) (a : Nat) (bs : List Byte) : (wrBytes s a bs).mtag = s.mtag := rfl
@[simp] theorem wrBytes_routes (s : State) (a : Nat) (bs : List Byte) : (wrBytes s a bs).routes = s.routes := rfl
@[simp] theorem wrBytes_fab (s : State) (a : Nat) (bs : List Byte) : (wrBytes s a bs).fab = s.fab := rfl
@[simp] theorem wrBytes_mu (s : State) (a : Nat) (bs : List Byte) : (wrBytes s a bs).mu = s.mu := rfl
@[simp] theorem wrBytes_ctxs (s : State) (a : Nat) (bs : List Byte) : (wrBytes s a bs).ctxs = s.ctxs := rfl
@[simp] theorem wrBytes_yard (s : State) (a : Nat) (bs : List Byte) : (wrBytes s a bs).yard = s.yard := rfl
@[simp] theorem wrBytes_tr (s : State) (a : Nat) (bs : List Byte) : (wrBytes s a bs).tr = s.tr := rfl
@[simp] theorem wrBytes_cp (s : State) (a : Nat) (bs : List Byte) : (wrBytes s a bs).cp = s.cp := rfl
@[simp] theorem wrBytes_tn (s : State) (a : Nat) (bs : List Byte) : (wrBytes s a bs).tn = s.tn := rfl
@[simp] theorem wrBytes_un (s : State) (a : Nat) (bs : List Byte) : (wrBytes s a bs).un = s.un := rfl
@[simp] theorem wrBytes_lk (s : State) (a : Nat) (bs : List Byte) : (wrBytes s a bs).lk = s.lk := rfl
@[simp] theorem wrBytes_boot (s : State) (a : Nat) (bs : List Byte) : (wrBytes s a bs).boot = s.boot := rfl
@[simp] theorem wrBytes_svc (s : State) (a : Nat) (bs : List Byte) : (wrBytes s a bs).svc = s.svc := rfl

/-! ### wrN -/

@[simp] theorem wrN_clock (s : State) (a n v : Nat) : (wrN s a n v).clock = s.clock := rfl
@[simp] theorem wrN_agenda (s : State) (a n v : Nat) : (wrN s a n v).agenda = s.agenda := rfl
@[simp] theorem wrN_fresh (s : State) (a n v : Nat) : (wrN s a n v).fresh = s.fresh := rfl
@[simp] theorem wrN_firing (s : State) (a n v : Nat) : (wrN s a n v).firing = s.firing := rfl
@[simp] theorem wrN_wlog (s : State) (a n v : Nat) : (wrN s a n v).wlog = .bytes a (leBytes v n) :: s.wlog := rfl
@[simp] theorem wrN_mem (s : State) (a n v : Nat) : (wrN s a n v).mem = s.mem := rfl
@[simp] theorem wrN_mtag (s : State) (a n v : Nat) : (wrN s a n v).mtag = s.mtag := rfl
@[simp] theorem wrN_routes (s : State) (a n v : Nat) : (wrN s a n v).routes = s.routes := rfl
@[simp] theorem wrN_fab (s : State) (a n v : Nat) : (wrN s a n v).fab = s.fab := rfl
@[simp] theorem wrN_mu (s : State) (a n v : Nat) : (wrN s a n v).mu = s.mu := rfl
@[simp] theorem wrN_ctxs (s : State) (a n v : Nat) : (wrN s a n v).ctxs = s.ctxs := rfl
@[simp] theorem wrN_yard (s : State) (a n v : Nat) : (wrN s a n v).yard = s.yard := rfl
@[simp] theorem wrN_tr (s : State) (a n v : Nat) : (wrN s a n v).tr = s.tr := rfl
@[simp] theorem wrN_cp (s : State) (a n v : Nat) : (wrN s a n v).cp = s.cp := rfl
@[simp] theorem wrN_tn (s : State) (a n v : Nat) : (wrN s a n v).tn = s.tn := rfl
@[simp] theorem wrN_un (s : State) (a n v : Nat) : (wrN s a n v).un = s.un := rfl
@[simp] theorem wrN_lk (s : State) (a n v : Nat) : (wrN s a n v).lk = s.lk := rfl
@[simp] theorem wrN_boot (s : State) (a n v : Nat) : (wrN s a n v).boot = s.boot := rfl
@[simp] theorem wrN_svc (s : State) (a n v : Nat) : (wrN s a n v).svc = s.svc := rfl

/-! ### wrClear -/

@[simp] theorem wrClear_clock (s : State) (lo hi : Nat) : (wrClear s lo hi).clock = s.clock := rfl
@[simp] theorem wrClear_agenda (s : State) (lo hi : Nat) : (wrClear s lo hi).agenda = s.agenda := rfl
@[simp] theorem wrClear_fresh (s : State) (lo hi : Nat) : (wrClear s lo hi).fresh = s.fresh := rfl
@[simp] theorem wrClear_firing (s : State) (lo hi : Nat) : (wrClear s lo hi).firing = s.firing := rfl
@[simp] theorem wrClear_wlog (s : State) (lo hi : Nat) : (wrClear s lo hi).wlog = .clear lo hi :: s.wlog := rfl
@[simp] theorem wrClear_mem (s : State) (lo hi : Nat) : (wrClear s lo hi).mem = s.mem := rfl
@[simp] theorem wrClear_mtag (s : State) (lo hi : Nat) : (wrClear s lo hi).mtag = s.mtag := rfl
@[simp] theorem wrClear_routes (s : State) (lo hi : Nat) : (wrClear s lo hi).routes = s.routes := rfl
@[simp] theorem wrClear_fab (s : State) (lo hi : Nat) : (wrClear s lo hi).fab = s.fab := rfl
@[simp] theorem wrClear_mu (s : State) (lo hi : Nat) : (wrClear s lo hi).mu = s.mu := rfl
@[simp] theorem wrClear_ctxs (s : State) (lo hi : Nat) : (wrClear s lo hi).ctxs = s.ctxs := rfl
@[simp] theorem wrClear_yard (s : State) (lo hi : Nat) : (wrClear s lo hi).yard = s.yard := rfl
@[simp] theorem wrClear_tr (s : State) (lo hi : Nat) : (wrClear s lo hi).tr = s.tr := rfl
@[simp] theorem wrClear_cp (s : State) (lo hi : Nat) : (wrClear s lo hi).cp = s.cp := rfl
@[simp] theorem wrClear_tn (s : State) (lo hi : Nat) : (wrClear s lo hi).tn = s.tn := rfl
@[simp] theorem wrClear_un (s : State) (lo hi : Nat) : (wrClear s lo hi).un = s.un := rfl
@[simp] theorem wrClear_lk (s : State) (lo hi : Nat) : (wrClear s lo hi).lk = s.lk := rfl
@[simp] theorem wrClear_boot (s : State) (lo hi : Nat) : (wrClear s lo hi).boot = s.boot := rfl
@[simp] theorem wrClear_svc (s : State) (lo hi : Nat) : (wrClear s lo hi).svc = s.svc := rfl

/-! ### setLineTag -/

@[simp] theorem setLineTag_clock (s : State) (a : Nat) (t : BitVec 16) : (setLineTag s a t).clock = s.clock := rfl
@[simp] theorem setLineTag_agenda (s : State) (a : Nat) (t : BitVec 16) : (setLineTag s a t).agenda = s.agenda := rfl
@[simp] theorem setLineTag_fresh (s : State) (a : Nat) (t : BitVec 16) : (setLineTag s a t).fresh = s.fresh := rfl
@[simp] theorem setLineTag_firing (s : State) (a : Nat) (t : BitVec 16) : (setLineTag s a t).firing = s.firing := rfl
@[simp] theorem setLineTag_wlog (s : State) (a : Nat) (t : BitVec 16) : (setLineTag s a t).wlog = s.wlog := rfl
@[simp] theorem setLineTag_mem (s : State) (a : Nat) (t : BitVec 16) : (setLineTag s a t).mem = s.mem := rfl
@[simp] theorem setLineTag_mtag (s : State) (a : Nat) (t : BitVec 16) : (setLineTag s a t).mtag = fset 0x7F00 s.mtag (a / 64) t := rfl
@[simp] theorem setLineTag_routes (s : State) (a : Nat) (t : BitVec 16) : (setLineTag s a t).routes = s.routes := rfl
@[simp] theorem setLineTag_fab (s : State) (a : Nat) (t : BitVec 16) : (setLineTag s a t).fab = s.fab := rfl
@[simp] theorem setLineTag_mu (s : State) (a : Nat) (t : BitVec 16) : (setLineTag s a t).mu = s.mu := rfl
@[simp] theorem setLineTag_ctxs (s : State) (a : Nat) (t : BitVec 16) : (setLineTag s a t).ctxs = s.ctxs := rfl
@[simp] theorem setLineTag_yard (s : State) (a : Nat) (t : BitVec 16) : (setLineTag s a t).yard = s.yard := rfl
@[simp] theorem setLineTag_tr (s : State) (a : Nat) (t : BitVec 16) : (setLineTag s a t).tr = s.tr := rfl
@[simp] theorem setLineTag_cp (s : State) (a : Nat) (t : BitVec 16) : (setLineTag s a t).cp = s.cp := rfl
@[simp] theorem setLineTag_tn (s : State) (a : Nat) (t : BitVec 16) : (setLineTag s a t).tn = s.tn := rfl
@[simp] theorem setLineTag_un (s : State) (a : Nat) (t : BitVec 16) : (setLineTag s a t).un = s.un := rfl
@[simp] theorem setLineTag_lk (s : State) (a : Nat) (t : BitVec 16) : (setLineTag s a t).lk = s.lk := rfl
@[simp] theorem setLineTag_boot (s : State) (a : Nat) (t : BitVec 16) : (setLineTag s a t).boot = s.boot := rfl
@[simp] theorem setLineTag_svc (s : State) (a : Nat) (t : BitVec 16) : (setLineTag s a t).svc = s.svc := rfl

/-! ### updCtx -/

@[simp] theorem updCtx_clock (s : State) (c : Nat) (g : Ctx → Ctx) : (updCtx s c g).clock = s.clock := rfl
@[simp] theorem updCtx_agenda (s : State) (c : Nat) (g : Ctx → Ctx) : (updCtx s c g).agenda = s.agenda := rfl
@[simp] theorem updCtx_fresh (s : State) (c : Nat) (g : Ctx → Ctx) : (updCtx s c g).fresh = s.fresh := rfl
@[simp] theorem updCtx_firing (s : State) (c : Nat) (g : Ctx → Ctx) : (updCtx s c g).firing = s.firing := rfl
@[simp] theorem updCtx_wlog (s : State) (c : Nat) (g : Ctx → Ctx) : (updCtx s c g).wlog = s.wlog := rfl
@[simp] theorem updCtx_mem (s : State) (c : Nat) (g : Ctx → Ctx) : (updCtx s c g).mem = s.mem := rfl
@[simp] theorem updCtx_mtag (s : State) (c : Nat) (g : Ctx → Ctx) : (updCtx s c g).mtag = s.mtag := rfl
@[simp] theorem updCtx_routes (s : State) (c : Nat) (g : Ctx → Ctx) : (updCtx s c g).routes = s.routes := rfl
@[simp] theorem updCtx_fab (s : State) (c : Nat) (g : Ctx → Ctx) : (updCtx s c g).fab = s.fab := rfl
@[simp] theorem updCtx_mu (s : State) (c : Nat) (g : Ctx → Ctx) : (updCtx s c g).mu = s.mu := rfl
@[simp] theorem updCtx_ctxs (s : State) (c : Nat) (g : Ctx → Ctx) : (updCtx s c g).ctxs = s.ctxs.map fun x => if x.id == c then g x else x := rfl
@[simp] theorem updCtx_yard (s : State) (c : Nat) (g : Ctx → Ctx) : (updCtx s c g).yard = s.yard := rfl
@[simp] theorem updCtx_tr (s : State) (c : Nat) (g : Ctx → Ctx) : (updCtx s c g).tr = s.tr := rfl
@[simp] theorem updCtx_cp (s : State) (c : Nat) (g : Ctx → Ctx) : (updCtx s c g).cp = s.cp := rfl
@[simp] theorem updCtx_tn (s : State) (c : Nat) (g : Ctx → Ctx) : (updCtx s c g).tn = s.tn := rfl
@[simp] theorem updCtx_un (s : State) (c : Nat) (g : Ctx → Ctx) : (updCtx s c g).un = s.un := rfl
@[simp] theorem updCtx_lk (s : State) (c : Nat) (g : Ctx → Ctx) : (updCtx s c g).lk = s.lk := rfl
@[simp] theorem updCtx_boot (s : State) (c : Nat) (g : Ctx → Ctx) : (updCtx s c g).boot = s.boot := rfl
@[simp] theorem updCtx_svc (s : State) (c : Nat) (g : Ctx → Ctx) : (updCtx s c g).svc = s.svc := rfl

/-! ### updRec -/

@[simp] theorem updRec_clock (s : State) (c k n : Nat) (g : CallRec → CallRec) : (updRec s c k n g).clock = s.clock := rfl
@[simp] theorem updRec_agenda (s : State) (c k n : Nat) (g : CallRec → CallRec) : (updRec s c k n g).agenda = s.agenda := rfl
@[simp] theorem updRec_fresh (s : State) (c k n : Nat) (g : CallRec → CallRec) : (updRec s c k n g).fresh = s.fresh := rfl
@[simp] theorem updRec_firing (s : State) (c k n : Nat) (g : CallRec → CallRec) : (updRec s c k n g).firing = s.firing := rfl
@[simp] theorem updRec_wlog (s : State) (c k n : Nat) (g : CallRec → CallRec) : (updRec s c k n g).wlog = s.wlog := rfl
@[simp] theorem updRec_mem (s : State) (c k n : Nat) (g : CallRec → CallRec) : (updRec s c k n g).mem = s.mem := rfl
@[simp] theorem updRec_mtag (s : State) (c k n : Nat) (g : CallRec → CallRec) : (updRec s c k n g).mtag = s.mtag := rfl
@[simp] theorem updRec_routes (s : State) (c k n : Nat) (g : CallRec → CallRec) : (updRec s c k n g).routes = s.routes := rfl
@[simp] theorem updRec_fab (s : State) (c k n : Nat) (g : CallRec → CallRec) : (updRec s c k n g).fab = s.fab := rfl
@[simp] theorem updRec_mu (s : State) (c k n : Nat) (g : CallRec → CallRec) : (updRec s c k n g).mu = s.mu := rfl
@[simp] theorem updRec_yard (s : State) (c k n : Nat) (g : CallRec → CallRec) : (updRec s c k n g).yard = s.yard := rfl
@[simp] theorem updRec_tr (s : State) (c k n : Nat) (g : CallRec → CallRec) : (updRec s c k n g).tr = s.tr := rfl
@[simp] theorem updRec_cp (s : State) (c k n : Nat) (g : CallRec → CallRec) : (updRec s c k n g).cp = s.cp := rfl
@[simp] theorem updRec_tn (s : State) (c k n : Nat) (g : CallRec → CallRec) : (updRec s c k n g).tn = s.tn := rfl
@[simp] theorem updRec_un (s : State) (c k n : Nat) (g : CallRec → CallRec) : (updRec s c k n g).un = s.un := rfl
@[simp] theorem updRec_lk (s : State) (c k n : Nat) (g : CallRec → CallRec) : (updRec s c k n g).lk = s.lk := rfl
@[simp] theorem updRec_boot (s : State) (c k n : Nat) (g : CallRec → CallRec) : (updRec s c k n g).boot = s.boot := rfl
@[simp] theorem updRec_svc (s : State) (c k n : Nat) (g : CallRec → CallRec) : (updRec s c k n g).svc = s.svc := rfl

/-! ### addOrph -/

@[simp] theorem addOrph_clock (s : State) (c n : Nat) : (addOrph s c n).clock = s.clock := rfl
@[simp] theorem addOrph_agenda (s : State) (c n : Nat) : (addOrph s c n).agenda = s.agenda := rfl
@[simp] theorem addOrph_fresh (s : State) (c n : Nat) : (addOrph s c n).fresh = s.fresh := rfl
@[simp] theorem addOrph_firing (s : State) (c n : Nat) : (addOrph s c n).firing = s.firing := rfl
@[simp] theorem addOrph_wlog (s : State) (c n : Nat) : (addOrph s c n).wlog = s.wlog := rfl
@[simp] theorem addOrph_mem (s : State) (c n : Nat) : (addOrph s c n).mem = s.mem := rfl
@[simp] theorem addOrph_mtag (s : State) (c n : Nat) : (addOrph s c n).mtag = s.mtag := rfl
@[simp] theorem addOrph_routes (s : State) (c n : Nat) : (addOrph s c n).routes = s.routes := rfl
@[simp] theorem addOrph_fab (s : State) (c n : Nat) : (addOrph s c n).fab = s.fab := rfl
@[simp] theorem addOrph_mu (s : State) (c n : Nat) : (addOrph s c n).mu = s.mu := rfl
@[simp] theorem addOrph_yard (s : State) (c n : Nat) : (addOrph s c n).yard = s.yard := rfl
@[simp] theorem addOrph_tr (s : State) (c n : Nat) : (addOrph s c n).tr = s.tr := rfl
@[simp] theorem addOrph_cp (s : State) (c n : Nat) : (addOrph s c n).cp = s.cp := rfl
@[simp] theorem addOrph_tn (s : State) (c n : Nat) : (addOrph s c n).tn = s.tn := rfl
@[simp] theorem addOrph_un (s : State) (c n : Nat) : (addOrph s c n).un = s.un := rfl
@[simp] theorem addOrph_lk (s : State) (c n : Nat) : (addOrph s c n).lk = s.lk := rfl
@[simp] theorem addOrph_boot (s : State) (c n : Nat) : (addOrph s c n).boot = s.boot := rfl
@[simp] theorem addOrph_svc (s : State) (c n : Nat) : (addOrph s c n).svc = s.svc := rfl

/-! ### updLife -/

@[simp] theorem updLife_clock (s : State) (p : Nat) (g : Life → Life) : (updLife s p g).clock = s.clock := rfl
@[simp] theorem updLife_agenda (s : State) (p : Nat) (g : Life → Life) : (updLife s p g).agenda = s.agenda := rfl
@[simp] theorem updLife_fresh (s : State) (p : Nat) (g : Life → Life) : (updLife s p g).fresh = s.fresh := rfl
@[simp] theorem updLife_firing (s : State) (p : Nat) (g : Life → Life) : (updLife s p g).firing = s.firing := rfl
@[simp] theorem updLife_wlog (s : State) (p : Nat) (g : Life → Life) : (updLife s p g).wlog = s.wlog := rfl
@[simp] theorem updLife_mem (s : State) (p : Nat) (g : Life → Life) : (updLife s p g).mem = s.mem := rfl
@[simp] theorem updLife_mtag (s : State) (p : Nat) (g : Life → Life) : (updLife s p g).mtag = s.mtag := rfl
@[simp] theorem updLife_routes (s : State) (p : Nat) (g : Life → Life) : (updLife s p g).routes = s.routes := rfl
@[simp] theorem updLife_fab (s : State) (p : Nat) (g : Life → Life) : (updLife s p g).fab = s.fab := rfl
@[simp] theorem updLife_mu (s : State) (p : Nat) (g : Life → Life) : (updLife s p g).mu = s.mu := rfl
@[simp] theorem updLife_ctxs (s : State) (p : Nat) (g : Life → Life) : (updLife s p g).ctxs = s.ctxs := rfl
@[simp] theorem updLife_yard (s : State) (p : Nat) (g : Life → Life) : (updLife s p g).yard = s.yard := rfl
@[simp] theorem updLife_tr (s : State) (p : Nat) (g : Life → Life) : (updLife s p g).tr = s.tr := rfl
@[simp] theorem updLife_cp (s : State) (p : Nat) (g : Life → Life) : (updLife s p g).cp = s.cp := rfl
@[simp] theorem updLife_tn (s : State) (p : Nat) (g : Life → Life) : (updLife s p g).tn = s.tn := rfl
@[simp] theorem updLife_lk (s : State) (p : Nat) (g : Life → Life) : (updLife s p g).lk = s.lk := rfl
@[simp] theorem updLife_boot (s : State) (p : Nat) (g : Life → Life) : (updLife s p g).boot = s.boot := rfl
@[simp] theorem updLife_svc (s : State) (p : Nat) (g : Life → Life) : (updLife s p g).svc = s.svc := rfl

/-! ### updRx -/

@[simp] theorem updRx_clock (s : State) (p : Nat) (g : RxPort → RxPort) : (updRx s p g).clock = s.clock := rfl
@[simp] theorem updRx_agenda (s : State) (p : Nat) (g : RxPort → RxPort) : (updRx s p g).agenda = s.agenda := rfl
@[simp] theorem updRx_fresh (s : State) (p : Nat) (g : RxPort → RxPort) : (updRx s p g).fresh = s.fresh := rfl
@[simp] theorem updRx_firing (s : State) (p : Nat) (g : RxPort → RxPort) : (updRx s p g).firing = s.firing := rfl
@[simp] theorem updRx_wlog (s : State) (p : Nat) (g : RxPort → RxPort) : (updRx s p g).wlog = s.wlog := rfl
@[simp] theorem updRx_mem (s : State) (p : Nat) (g : RxPort → RxPort) : (updRx s p g).mem = s.mem := rfl
@[simp] theorem updRx_mtag (s : State) (p : Nat) (g : RxPort → RxPort) : (updRx s p g).mtag = s.mtag := rfl
@[simp] theorem updRx_routes (s : State) (p : Nat) (g : RxPort → RxPort) : (updRx s p g).routes = s.routes := rfl
@[simp] theorem updRx_fab (s : State) (p : Nat) (g : RxPort → RxPort) : (updRx s p g).fab = s.fab := rfl
@[simp] theorem updRx_mu (s : State) (p : Nat) (g : RxPort → RxPort) : (updRx s p g).mu = s.mu := rfl
@[simp] theorem updRx_ctxs (s : State) (p : Nat) (g : RxPort → RxPort) : (updRx s p g).ctxs = s.ctxs := rfl
@[simp] theorem updRx_yard (s : State) (p : Nat) (g : RxPort → RxPort) : (updRx s p g).yard = s.yard := rfl
@[simp] theorem updRx_tr (s : State) (p : Nat) (g : RxPort → RxPort) : (updRx s p g).tr = s.tr := rfl
@[simp] theorem updRx_cp (s : State) (p : Nat) (g : RxPort → RxPort) : (updRx s p g).cp = s.cp := rfl
@[simp] theorem updRx_tn (s : State) (p : Nat) (g : RxPort → RxPort) : (updRx s p g).tn = s.tn := rfl
@[simp] theorem updRx_un (s : State) (p : Nat) (g : RxPort → RxPort) : (updRx s p g).un = s.un := rfl
@[simp] theorem updRx_boot (s : State) (p : Nat) (g : RxPort → RxPort) : (updRx s p g).boot = s.boot := rfl
@[simp] theorem updRx_svc (s : State) (p : Nat) (g : RxPort → RxPort) : (updRx s p g).svc = s.svc := rfl

/-! ### updDie -/

@[simp] theorem updDie_clock (s : State) (d : Nat) (g : DieReg → DieReg) : (updDie s d g).clock = s.clock := rfl
@[simp] theorem updDie_agenda (s : State) (d : Nat) (g : DieReg → DieReg) : (updDie s d g).agenda = s.agenda := rfl
@[simp] theorem updDie_fresh (s : State) (d : Nat) (g : DieReg → DieReg) : (updDie s d g).fresh = s.fresh := rfl
@[simp] theorem updDie_firing (s : State) (d : Nat) (g : DieReg → DieReg) : (updDie s d g).firing = s.firing := rfl
@[simp] theorem updDie_wlog (s : State) (d : Nat) (g : DieReg → DieReg) : (updDie s d g).wlog = s.wlog := rfl
@[simp] theorem updDie_mem (s : State) (d : Nat) (g : DieReg → DieReg) : (updDie s d g).mem = s.mem := rfl
@[simp] theorem updDie_mtag (s : State) (d : Nat) (g : DieReg → DieReg) : (updDie s d g).mtag = s.mtag := rfl
@[simp] theorem updDie_routes (s : State) (d : Nat) (g : DieReg → DieReg) : (updDie s d g).routes = s.routes := rfl
@[simp] theorem updDie_fab (s : State) (d : Nat) (g : DieReg → DieReg) : (updDie s d g).fab = s.fab := rfl
@[simp] theorem updDie_mu (s : State) (d : Nat) (g : DieReg → DieReg) : (updDie s d g).mu = s.mu := rfl
@[simp] theorem updDie_ctxs (s : State) (d : Nat) (g : DieReg → DieReg) : (updDie s d g).ctxs = s.ctxs := rfl
@[simp] theorem updDie_yard (s : State) (d : Nat) (g : DieReg → DieReg) : (updDie s d g).yard = s.yard := rfl
@[simp] theorem updDie_tr (s : State) (d : Nat) (g : DieReg → DieReg) : (updDie s d g).tr = s.tr := rfl
@[simp] theorem updDie_cp (s : State) (d : Nat) (g : DieReg → DieReg) : (updDie s d g).cp = s.cp := rfl
@[simp] theorem updDie_tn (s : State) (d : Nat) (g : DieReg → DieReg) : (updDie s d g).tn = s.tn := rfl
@[simp] theorem updDie_un (s : State) (d : Nat) (g : DieReg → DieReg) : (updDie s d g).un = s.un := rfl
@[simp] theorem updDie_lk (s : State) (d : Nat) (g : DieReg → DieReg) : (updDie s d g).lk = s.lk := rfl
@[simp] theorem updDie_boot (s : State) (d : Nat) (g : DieReg → DieReg) : (updDie s d g).boot = s.boot := rfl

/-! ### updQueue -/

@[simp] theorem updQueue_clock (s : State) (q : Nat) (g : Queue → Queue) : (updQueue s q g).clock = s.clock := rfl
@[simp] theorem updQueue_agenda (s : State) (q : Nat) (g : Queue → Queue) : (updQueue s q g).agenda = s.agenda := rfl
@[simp] theorem updQueue_fresh (s : State) (q : Nat) (g : Queue → Queue) : (updQueue s q g).fresh = s.fresh := rfl
@[simp] theorem updQueue_firing (s : State) (q : Nat) (g : Queue → Queue) : (updQueue s q g).firing = s.firing := rfl
@[simp] theorem updQueue_wlog (s : State) (q : Nat) (g : Queue → Queue) : (updQueue s q g).wlog = s.wlog := rfl
@[simp] theorem updQueue_mem (s : State) (q : Nat) (g : Queue → Queue) : (updQueue s q g).mem = s.mem := rfl
@[simp] theorem updQueue_mtag (s : State) (q : Nat) (g : Queue → Queue) : (updQueue s q g).mtag = s.mtag := rfl
@[simp] theorem updQueue_routes (s : State) (q : Nat) (g : Queue → Queue) : (updQueue s q g).routes = s.routes := rfl
@[simp] theorem updQueue_fab (s : State) (q : Nat) (g : Queue → Queue) : (updQueue s q g).fab = s.fab := rfl
@[simp] theorem updQueue_mu (s : State) (q : Nat) (g : Queue → Queue) : (updQueue s q g).mu = s.mu := rfl
@[simp] theorem updQueue_ctxs (s : State) (q : Nat) (g : Queue → Queue) : (updQueue s q g).ctxs = s.ctxs := rfl
@[simp] theorem updQueue_tr (s : State) (q : Nat) (g : Queue → Queue) : (updQueue s q g).tr = s.tr := rfl
@[simp] theorem updQueue_cp (s : State) (q : Nat) (g : Queue → Queue) : (updQueue s q g).cp = s.cp := rfl
@[simp] theorem updQueue_tn (s : State) (q : Nat) (g : Queue → Queue) : (updQueue s q g).tn = s.tn := rfl
@[simp] theorem updQueue_un (s : State) (q : Nat) (g : Queue → Queue) : (updQueue s q g).un = s.un := rfl
@[simp] theorem updQueue_lk (s : State) (q : Nat) (g : Queue → Queue) : (updQueue s q g).lk = s.lk := rfl
@[simp] theorem updQueue_boot (s : State) (q : Nat) (g : Queue → Queue) : (updQueue s q g).boot = s.boot := rfl
@[simp] theorem updQueue_svc (s : State) (q : Nat) (g : Queue → Queue) : (updQueue s q g).svc = s.svc := rfl

/-! ### setBar -/

@[simp] theorem setBar_clock (s : State) (a : Nat) (b : Option Bar) : (setBar s a b).clock = s.clock := rfl
@[simp] theorem setBar_agenda (s : State) (a : Nat) (b : Option Bar) : (setBar s a b).agenda = s.agenda := rfl
@[simp] theorem setBar_fresh (s : State) (a : Nat) (b : Option Bar) : (setBar s a b).fresh = s.fresh := rfl
@[simp] theorem setBar_firing (s : State) (a : Nat) (b : Option Bar) : (setBar s a b).firing = s.firing := rfl
@[simp] theorem setBar_wlog (s : State) (a : Nat) (b : Option Bar) : (setBar s a b).wlog = s.wlog := rfl
@[simp] theorem setBar_mem (s : State) (a : Nat) (b : Option Bar) : (setBar s a b).mem = s.mem := rfl
@[simp] theorem setBar_mtag (s : State) (a : Nat) (b : Option Bar) : (setBar s a b).mtag = s.mtag := rfl
@[simp] theorem setBar_routes (s : State) (a : Nat) (b : Option Bar) : (setBar s a b).routes = s.routes := rfl
@[simp] theorem setBar_fab (s : State) (a : Nat) (b : Option Bar) : (setBar s a b).fab = s.fab := rfl
@[simp] theorem setBar_mu (s : State) (a : Nat) (b : Option Bar) : (setBar s a b).mu = s.mu := rfl
@[simp] theorem setBar_ctxs (s : State) (a : Nat) (b : Option Bar) : (setBar s a b).ctxs = s.ctxs := rfl
@[simp] theorem setBar_yard (s : State) (a : Nat) (b : Option Bar) : (setBar s a b).yard = s.yard := rfl
@[simp] theorem setBar_tr (s : State) (a : Nat) (b : Option Bar) : (setBar s a b).tr = s.tr := rfl
@[simp] theorem setBar_tn (s : State) (a : Nat) (b : Option Bar) : (setBar s a b).tn = s.tn := rfl
@[simp] theorem setBar_un (s : State) (a : Nat) (b : Option Bar) : (setBar s a b).un = s.un := rfl
@[simp] theorem setBar_lk (s : State) (a : Nat) (b : Option Bar) : (setBar s a b).lk = s.lk := rfl
@[simp] theorem setBar_boot (s : State) (a : Nat) (b : Option Bar) : (setBar s a b).boot = s.boot := rfl
@[simp] theorem setBar_svc (s : State) (a : Nat) (b : Option Bar) : (setBar s a b).svc = s.svc := rfl

/-! ### charge -/

@[simp] theorem charge_clock (s : State) (u : UId) (k n : Nat) : (charge s u k n).clock = s.clock := rfl
@[simp] theorem charge_agenda (s : State) (u : UId) (k n : Nat) : (charge s u k n).agenda = s.agenda := rfl
@[simp] theorem charge_fresh (s : State) (u : UId) (k n : Nat) : (charge s u k n).fresh = s.fresh := rfl
@[simp] theorem charge_firing (s : State) (u : UId) (k n : Nat) : (charge s u k n).firing = s.firing := rfl
@[simp] theorem charge_wlog (s : State) (u : UId) (k n : Nat) : (charge s u k n).wlog = s.wlog := rfl
@[simp] theorem charge_mem (s : State) (u : UId) (k n : Nat) : (charge s u k n).mem = s.mem := rfl
@[simp] theorem charge_mtag (s : State) (u : UId) (k n : Nat) : (charge s u k n).mtag = s.mtag := rfl
@[simp] theorem charge_routes (s : State) (u : UId) (k n : Nat) : (charge s u k n).routes = s.routes := rfl
@[simp] theorem charge_mu (s : State) (u : UId) (k n : Nat) : (charge s u k n).mu = s.mu := rfl
@[simp] theorem charge_ctxs (s : State) (u : UId) (k n : Nat) : (charge s u k n).ctxs = s.ctxs := rfl
@[simp] theorem charge_yard (s : State) (u : UId) (k n : Nat) : (charge s u k n).yard = s.yard := rfl
@[simp] theorem charge_tr (s : State) (u : UId) (k n : Nat) : (charge s u k n).tr = s.tr := rfl
@[simp] theorem charge_cp (s : State) (u : UId) (k n : Nat) : (charge s u k n).cp = s.cp := rfl
@[simp] theorem charge_tn (s : State) (u : UId) (k n : Nat) : (charge s u k n).tn = s.tn := rfl
@[simp] theorem charge_un (s : State) (u : UId) (k n : Nat) : (charge s u k n).un = s.un := rfl
@[simp] theorem charge_lk (s : State) (u : UId) (k n : Nat) : (charge s u k n).lk = s.lk := rfl
@[simp] theorem charge_boot (s : State) (u : UId) (k n : Nat) : (charge s u k n).boot = s.boot := rfl
@[simp] theorem charge_svc (s : State) (u : UId) (k n : Nat) : (charge s u k n).svc = s.svc := rfl

/-! ### addReady -/

@[simp] theorem addReady_clock (s : State) (F : Ready) : (addReady s F).clock = s.clock := rfl
@[simp] theorem addReady_agenda (s : State) (F : Ready) : (addReady s F).agenda = s.agenda := rfl
@[simp] theorem addReady_fresh (s : State) (F : Ready) : (addReady s F).fresh = s.fresh := rfl
@[simp] theorem addReady_firing (s : State) (F : Ready) : (addReady s F).firing = s.firing := rfl
@[simp] theorem addReady_wlog (s : State) (F : Ready) : (addReady s F).wlog = s.wlog := rfl
@[simp] theorem addReady_mem (s : State) (F : Ready) : (addReady s F).mem = s.mem := rfl
@[simp] theorem addReady_mtag (s : State) (F : Ready) : (addReady s F).mtag = s.mtag := rfl
@[simp] theorem addReady_routes (s : State) (F : Ready) : (addReady s F).routes = s.routes := rfl
@[simp] theorem addReady_mu (s : State) (F : Ready) : (addReady s F).mu = s.mu := rfl
@[simp] theorem addReady_ctxs (s : State) (F : Ready) : (addReady s F).ctxs = s.ctxs := rfl
@[simp] theorem addReady_yard (s : State) (F : Ready) : (addReady s F).yard = s.yard := rfl
@[simp] theorem addReady_tr (s : State) (F : Ready) : (addReady s F).tr = s.tr := rfl
@[simp] theorem addReady_cp (s : State) (F : Ready) : (addReady s F).cp = s.cp := rfl
@[simp] theorem addReady_tn (s : State) (F : Ready) : (addReady s F).tn = s.tn := rfl
@[simp] theorem addReady_un (s : State) (F : Ready) : (addReady s F).un = s.un := rfl
@[simp] theorem addReady_lk (s : State) (F : Ready) : (addReady s F).lk = s.lk := rfl
@[simp] theorem addReady_boot (s : State) (F : Ready) : (addReady s F).boot = s.boot := rfl
@[simp] theorem addReady_svc (s : State) (F : Ready) : (addReady s F).svc = s.svc := rfl

end Sys2Proof.Machine
end

