-- ==== Sys2Proof/Laws/Operands.lean ====
section
/-!
SUPPORT. What the shared operations of the station instructions can do, said once: how a step ends, what R62 decides, and
where an emitted token goes.
-/

namespace Sys2Proof.Machine

open Sys2Proof

/-- One latched firing: the step is its lane, ended. -/
theorem runLanes_one (g : Ready → State → State) (s : State) (F : Ready) (h : s.firing = [F]) :
    runLanes g s = .next (close s (g F s)) := by
  simp [runLanes, h]

/-- Several latched firings run in their order (R69). -/
theorem runLanes_cons (g : Ready → State → State) (s : State) (F : Ready) (Fs : List Ready) (h : s.firing = F :: Fs) :
    runLanes g s = .next (close s (Fs.foldl (fun t F => g F t) (g F s))) := by
  simp [runLanes, h]

/-- A run over the latched firings always answers a next state. -/
theorem runLanes_next (g : Ready → State → State) (s : State) : ∃ t, runLanes g s = .next t := ⟨_, rfl⟩

/-- The end of a step keeps memory's canonical form and leaves nothing latched. -/
theorem close_settled (s t : State) (h : Memory.wf s.mem = true) :
    Memory.wf (close s t).mem = true ∧ (close s t).firing = [] ∧ (close s t).wlog = [] :=
  ⟨memory_wf_memCommit h _, rfl, rfl⟩

theorem closeLoad_settled (s t : State) (h : Memory.wf s.mem = true) :
    Memory.wf (closeLoad s t).mem = true ∧ (closeLoad s t).firing = [] ∧ (closeLoad s t).wlog = [] :=
  ⟨memory_wf_memCommit h _, rfl, rfl⟩

/-- A firing that R62 lets compute runs its body. -/
theorem lane_go {a b p : Bool} {f : Fields} {body : Ready → State → State} {F : Ready} {s : State}
    (h : settle p F = .go) : lane a b p f body F s = body F s := by
  simp [lane, laneOf, h]

theorem lane_null {a b p : Bool} {f : Fields} {body : Ready → State → State} {F : Ready} {s : State}
    (h : settle p F = .null) : lane a b p f body F s = emitDef a b f F kNull 0 s := by
  simp [lane, laneOf, h]

theorem lane_eof {a b p : Bool} {f : Fields} {body : Ready → State → State} {F : Ready} {s : State} {v : Word}
    (h : settle p F = .eof v) : lane a b p f body F s = emitDef a b f F kEof v s := by
  simp [lane, laneOf, h]

theorem emitDef_both (f : Fields) (F : Ready) (k : BitVec 3) (v : Word) (s : State) :
    emitDef true true f F k v s = emitBoth f F k v s := rfl

/-- A discarded target receives nothing (R35). -/
theorem emitFrom_discard {s : State} {src u : UId} {col itr : Nat} {t : BitVec 12} {k : BitVec 3} {v : Word} {c : Bool}
    (h : tgtPos t = 3) : emitFrom s src u col itr t k v c = s := by
  simp [emitFrom, h]

/-- Nothing is sent once the context's stop has been sent (R369, R398). -/
theorem emitFrom_stopped {s : State} {src u : UId} {col itr : Nat} {t : BitVec 12} {k : BitVec 3} {v : Word} {c : Bool}
    (h : emitsTokens (ctxOf s u.ctx) = false) : emitFrom s src u col itr t k v c = s := by
  simp [emitFrom, h]

/-- A token to a site of this module is formed and sent to the site that the route gives (R36, R59). -/
theorem emitFrom_here {s : State} {src u : UId} {col itr : Nat} {t : BitVec 12} {k : BitVec 3} {v : Word} {c : Bool}
    (hp : tgtPos t ≠ 3) (he : emitsTokens (ctxOf s u.ctx) = true) (hm : onModule (ctxOf s u.ctx) u.x = true) :
    emitFrom s src u col itr t k v c =
      sendTok s src (routeDest s u (tgtRoute t)) (tgtRoute t == 0 && src == u)
        (mkTok (ctxOf s u.ctx).key u.ctx col itr t k v c) := by
  simp [emitFrom, hp, he, hm]

/-- A sent token joins the arrivals of its own CU or the tokens in flight; nothing else of the state changes. -/
theorem sendTok_cases (s : State) (src d : UId) (own : Bool) (t : Flit) :
    (own = true ∧ sendTok s src d own t =
      { s with fab := { s.fab with arrivals := s.fab.arrivals ++ [{ u := d, own := true, tok := t, cfg := none }] } }) ∨
    (own = false ∧ ∃ e : Flight, e.u = src ∧ sendTok s src d own t =
      { s with fab := { s.fab with flights := s.fab.flights ++ [e] } }) := by
  cases own with
  | true => exact .inl ⟨rfl, rfl⟩
  | false => exact .inr ⟨rfl, _, rfl, rfl⟩

@[simp] theorem sendTok_mem (s : State) (src d : UId) (own : Bool) (t : Flit) : (sendTok s src d own t).mem = s.mem := by
  cases own <;> rfl

@[simp] theorem sendTok_wlog (s : State) (src d : UId) (own : Bool) (t : Flit) : (sendTok s src d own t).wlog = s.wlog := by
  cases own <;> rfl

/-- What waits to leave the module changes the links alone. -/
theorem sendOne_frame (s : State) (e : Nat × Nat × Cargo) : ∃ k, sendOne s e = { s with lk := k } := by
  unfold sendOne
  dsimp only
  split
  · exact ⟨_, rfl⟩
  · exact ⟨_, rfl⟩

/-- An emission changes the tokens in flight, the arrivals of the CU itself, or what leaves the module, and nothing else. -/
theorem emitFrom_frame (s : State) (src u : UId) (col itr : Nat) (t : BitVec 12) (k : BitVec 3) (v : Word) (c : Bool) :
    ∃ fl ar lk, emitFrom s src u col itr t k v c =
      { s with fab := { s.fab with flights := fl, arrivals := ar }, lk := lk } := by
  unfold emitFrom
  dsimp only
  split
  · exact ⟨_, _, _, rfl⟩
  · split
    · obtain ⟨k', h⟩ := sendOne_frame s (memberMid (ctxOf s u.ctx) (memberAt (ctxOf s u.ctx) u.x), s.clock,
        .msg (.emit src u col itr t k v c))
      exact ⟨_, _, k', h⟩
    · unfold sendTok sendFlit
      split
      · exact ⟨_, _, _, rfl⟩
      · exact ⟨_, _, _, rfl⟩

/-- Two emissions of a firing have the frame of one. -/
theorem emitBoth_frame (f : Fields) (F : Ready) (k : BitVec 3) (v : Word) (s : State) :
    ∃ fl ar lk, emitBoth f F k v s = { s with fab := { s.fab with flights := fl, arrivals := ar }, lk := lk } := by
  unfold emitBoth emit
  obtain ⟨a, b, c, h⟩ := emitFrom_frame s F.u F.u (fcol F) (fitr F) f.ta k v false
  rw [h]
  obtain ⟨a', b', c', h'⟩ := emitFrom_frame { s with fab := { s.fab with flights := a, arrivals := b }, lk := c } F.u F.u
    (fcol F) (fitr F) f.tb k v false
  exact ⟨a', b', c', h'⟩

end Sys2Proof.Machine
end

