-- ==== Sys2Proof/Laws/PerInstr.lean ====
section
/-!
SUPPORT. A statement about every instruction as syntax, one lemma per constructor: the opcode and the fields that the
encoder writes choose the same constructor again, whenever the word passes the checks of its entry. Events have no word.
-/

namespace Sys2Proof.Laws.Chosen

open Sys2Proof

/-- The decoder's choice of the constructor gives back the instruction that passes its checks. -/
def Statement (i : Instr) : Prop :=
  ∀ e op f, opOf i = some op → fieldsOf i = some f → firstFail e i = none → build op f = some i

/-- A row whose own check of `FN` fails is refused, so `FN` passes. -/
theorem fn_ok {e : Option RtEnv} {i : Instr} {r f} (hr : stationRule e i = some r) (hf : fieldsOf i = some f)
    (h : firstFail e i = none) : r.fn = true := by
  unfold firstFail at h
  rw [hr, hf] at h
  simp only at h
  split at h
  · cases h
  · split at h
    · cases h
    · simpa using ‹¬(!r.fn) = true›

theorem nop (f : Fields) : Statement (.nop f) := by
  rintro e op f' ⟨⟩ ⟨⟩ -
  rfl

theorem move (f : Fields) : Statement (.move f) := by
  rintro e op f' ⟨⟩ ⟨⟩ -
  rfl

theorem const (f : Fields) : Statement (.const f) := by
  rintro e op f' ⟨⟩ ⟨⟩ -
  rfl

theorem steer (f : Fields) : Statement (.steer f) := by
  rintro e op f' ⟨⟩ ⟨⟩ -
  rfl

theorem merge (f : Fields) : Statement (.merge f) := by
  rintro e op f' ⟨⟩ ⟨⟩ -
  rfl

theorem select (f : Fields) : Statement (.select f) := by
  rintro e op f' ⟨⟩ ⟨⟩ -
  rfl

theorem gate (f : Fields) : Statement (.gate f) := by
  rintro e op f' ⟨⟩ ⟨⟩ -
  rfl

theorem join (f : Fields) : Statement (.join f) := by
  rintro e op f' ⟨⟩ ⟨⟩ -
  rfl

theorem nulls (f : Fields) : Statement (.nulls f) := by
  rintro e op f' ⟨⟩ ⟨⟩ -
  rfl

theorem sink (f : Fields) : Statement (.sink f) := by
  rintro e op f' ⟨⟩ ⟨⟩ -
  rfl

theorem iterEnter (f : Fields) : Statement (.iterEnter f) := by
  rintro e op f' ⟨⟩ ⟨⟩ -
  rfl

theorem iterNextStep (f : Fields) : Statement (.iterNextStep f) := by
  rintro e op f' ⟨⟩ ⟨⟩ h
  have hf := fn_ok (e := e) (i := .iterNextStep f) rfl rfl h
  obtain ⟨fn, _, _, _, _, _, _, _⟩ := f
  obtain rfl : fn = _ := eq_of_beq hf
  rfl

theorem iterNextDone (f : Fields) : Statement (.iterNextDone f) := by
  rintro e op f' ⟨⟩ ⟨⟩ h
  have hf := fn_ok (e := e) (i := .iterNextDone f) rfl rfl h
  obtain ⟨fn, _, _, _, _, _, _, _⟩ := f
  obtain rfl : fn = _ := eq_of_beq hf
  rfl

theorem iterExit (f : Fields) : Statement (.iterExit f) := by
  rintro e op f' ⟨⟩ ⟨⟩ -
  rfl

theorem iterIdx (f : Fields) : Statement (.iterIdx f) := by
  rintro e op f' ⟨⟩ ⟨⟩ -
  rfl

theorem tagGet (f : Fields) : Statement (.tagGet f) := by
  rintro e op f' ⟨⟩ ⟨⟩ -
  rfl

theorem tagSet (f : Fields) : Statement (.tagSet f) := by
  rintro e op f' ⟨⟩ ⟨⟩ -
  rfl

theorem colourNew (f : Fields) : Statement (.colourNew f) := by
  rintro e op f' ⟨⟩ ⟨⟩ -
  rfl

theorem colourArg (f : Fields) : Statement (.colourArg f) := by
  rintro e op f' ⟨⟩ ⟨⟩ -
  rfl

theorem colourRet (f : Fields) : Statement (.colourRet f) := by
  rintro e op f' ⟨⟩ ⟨⟩ -
  rfl

theorem colourEnd (f : Fields) : Statement (.colourEnd f) := by
  rintro e op f' ⟨⟩ ⟨⟩ -
  rfl

theorem svcCall (f : Fields) : Statement (.svcCall f) := by
  rintro e op f' ⟨⟩ ⟨⟩ h
  have hf := fn_ok (e := e) (i := .svcCall f) rfl rfl h
  obtain ⟨fn, _, _, _, _, _, _, _⟩ := f
  obtain rfl : fn = _ := eq_of_beq hf
  rfl

theorem svcArg (f : Fields) : Statement (.svcArg f) := by
  rintro e op f' ⟨⟩ ⟨⟩ h
  have hf := fn_ok (e := e) (i := .svcArg f) rfl rfl h
  obtain ⟨fn, _, _, _, _, _, _, _⟩ := f
  obtain rfl : fn = _ := eq_of_beq hf
  rfl

theorem yield (f : Fields) : Statement (.yield f) := by
  rintro e op f' ⟨⟩ ⟨⟩ -
  rfl

theorem exit (f : Fields) : Statement (.exit f) := by
  rintro e op f' ⟨⟩ ⟨⟩ -
  rfl

theorem trap (f : Fields) : Statement (.trap f) := by
  rintro e op f' ⟨⟩ ⟨⟩ -
  rfl

theorem brk (f : Fields) : Statement (.brk f) := by
  rintro e op f' ⟨⟩ ⟨⟩ -
  rfl

theorem errf (f : Fields) : Statement (.errf f) := by
  rintro e op f' ⟨⟩ ⟨⟩ -
  rfl

theorem grpId (f : Fields) : Statement (.grpId f) := by
  rintro e op f' ⟨⟩ ⟨⟩ -
  rfl

theorem grpSize (f : Fields) : Statement (.grpSize f) := by
  rintro e op f' ⟨⟩ ⟨⟩ -
  rfl

theorem cfgWStn (f : Fields) : Statement (.cfgWStn f) := by
  rintro e op f' ⟨⟩ ⟨⟩ h
  have hf := fn_ok (e := e) (i := .cfgWStn f) rfl rfl h
  obtain ⟨fn, _, _, _, _, _, _, _⟩ := f
  obtain rfl : fn = _ := eq_of_beq hf
  rfl

theorem cfgWK (f : Fields) : Statement (.cfgWK f) := by
  rintro e op f' ⟨⟩ ⟨⟩ h
  have hf := fn_ok (e := e) (i := .cfgWK f) rfl rfl h
  obtain ⟨fn, _, _, _, _, _, _, _⟩ := f
  obtain rfl : fn = _ := eq_of_beq hf
  rfl

theorem cfgWReconf (f : Fields) : Statement (.cfgWReconf f) := by
  rintro e op f' ⟨⟩ ⟨⟩ h
  have hf := fn_ok (e := e) (i := .cfgWReconf f) rfl rfl h
  obtain ⟨fn, _, _, _, _, _, _, _⟩ := f
  obtain rfl : fn = _ := eq_of_beq hf
  rfl

theorem kset (f : Fields) : Statement (.kset f) := by
  rintro e op f' ⟨⟩ ⟨⟩ -
  rfl

theorem launch (f : Fields) : Statement (.launch f) := by
  rintro e op f' ⟨⟩ ⟨⟩ -
  rfl

theorem kget (f : Fields) : Statement (.kget f) := by
  rintro e op f' ⟨⟩ ⟨⟩ -
  rfl

theorem add (f : Fields) : Statement (.add f) := by
  rintro e op f' ⟨⟩ ⟨⟩ -
  rfl

theorem sub (f : Fields) : Statement (.sub f) := by
  rintro e op f' ⟨⟩ ⟨⟩ -
  rfl

theorem addc (f : Fields) : Statement (.addc f) := by
  rintro e op f' ⟨⟩ ⟨⟩ -
  rfl

theorem subb (f : Fields) : Statement (.subb f) := by
  rintro e op f' ⟨⟩ ⟨⟩ -
  rfl

theorem mul (f : Fields) : Statement (.mul f) := by
  rintro e op f' ⟨⟩ ⟨⟩ -
  rfl

theorem mulc (f : Fields) : Statement (.mulc f) := by
  rintro e op f' ⟨⟩ ⟨⟩ -
  rfl

theorem div (f : Fields) : Statement (.div f) := by
  rintro e op f' ⟨⟩ ⟨⟩ -
  rfl

theorem rem (f : Fields) : Statement (.rem f) := by
  rintro e op f' ⟨⟩ ⟨⟩ -
  rfl

theorem min (f : Fields) : Statement (.min f) := by
  rintro e op f' ⟨⟩ ⟨⟩ -
  rfl

theorem max (f : Fields) : Statement (.max f) := by
  rintro e op f' ⟨⟩ ⟨⟩ -
  rfl

theorem abs (f : Fields) : Statement (.abs f) := by
  rintro e op f' ⟨⟩ ⟨⟩ -
  rfl

theorem neg (f : Fields) : Statement (.neg f) := by
  rintro e op f' ⟨⟩ ⟨⟩ -
  rfl

theorem and (f : Fields) : Statement (.and f) := by
  rintro e op f' ⟨⟩ ⟨⟩ -
  rfl

theorem or (f : Fields) : Statement (.or f) := by
  rintro e op f' ⟨⟩ ⟨⟩ -
  rfl

theorem xor (f : Fields) : Statement (.xor f) := by
  rintro e op f' ⟨⟩ ⟨⟩ -
  rfl

theorem andn (f : Fields) : Statement (.andn f) := by
  rintro e op f' ⟨⟩ ⟨⟩ -
  rfl

theorem not (f : Fields) : Statement (.not f) := by
  rintro e op f' ⟨⟩ ⟨⟩ -
  rfl

theorem shl (f : Fields) : Statement (.shl f) := by
  rintro e op f' ⟨⟩ ⟨⟩ -
  rfl

theorem shr (f : Fields) : Statement (.shr f) := by
  rintro e op f' ⟨⟩ ⟨⟩ -
  rfl

theorem sar (f : Fields) : Statement (.sar f) := by
  rintro e op f' ⟨⟩ ⟨⟩ -
  rfl

theorem rot (f : Fields) : Statement (.rot f) := by
  rintro e op f' ⟨⟩ ⟨⟩ -
  rfl

theorem clz (f : Fields) : Statement (.clz f) := by
  rintro e op f' ⟨⟩ ⟨⟩ -
  rfl

theorem popc (f : Fields) : Statement (.popc f) := by
  rintro e op f' ⟨⟩ ⟨⟩ -
  rfl

theorem brev (f : Fields) : Statement (.brev f) := by
  rintro e op f' ⟨⟩ ⟨⟩ -
  rfl

theorem bfx (f : Fields) : Statement (.bfx f) := by
  rintro e op f' ⟨⟩ ⟨⟩ -
  rfl

theorem bfi (f : Fields) : Statement (.bfi f) := by
  rintro e op f' ⟨⟩ ⟨⟩ -
  rfl

theorem cmp (f : Fields) : Statement (.cmp f) := by
  rintro e op f' ⟨⟩ ⟨⟩ -
  rfl

theorem ext (f : Fields) : Statement (.ext f) := by
  rintro e op f' ⟨⟩ ⟨⟩ -
  rfl

theorem addsat (f : Fields) : Statement (.addsat f) := by
  rintro e op f' ⟨⟩ ⟨⟩ -
  rfl

theorem aidx (f : Fields) : Statement (.aidx f) := by
  rintro e op f' ⟨⟩ ⟨⟩ -
  rfl

theorem hash (f : Fields) : Statement (.hash f) := by
  rintro e op f' ⟨⟩ ⟨⟩ -
  rfl

theorem fadd (f : Fields) : Statement (.fadd f) := by
  rintro e op f' ⟨⟩ ⟨⟩ -
  rfl

theorem fsub (f : Fields) : Statement (.fsub f) := by
  rintro e op f' ⟨⟩ ⟨⟩ -
  rfl

theorem fmul (f : Fields) : Statement (.fmul f) := by
  rintro e op f' ⟨⟩ ⟨⟩ -
  rfl

theorem ffma (f : Fields) : Statement (.ffma f) := by
  rintro e op f' ⟨⟩ ⟨⟩ -
  rfl

theorem fmin (f : Fields) : Statement (.fmin f) := by
  rintro e op f' ⟨⟩ ⟨⟩ -
  rfl

theorem fmax (f : Fields) : Statement (.fmax f) := by
  rintro e op f' ⟨⟩ ⟨⟩ -
  rfl

theorem fabs (f : Fields) : Statement (.fabs f) := by
  rintro e op f' ⟨⟩ ⟨⟩ -
  rfl

theorem fneg (f : Fields) : Statement (.fneg f) := by
  rintro e op f' ⟨⟩ ⟨⟩ -
  rfl

theorem fcmp (f : Fields) : Statement (.fcmp f) := by
  rintro e op f' ⟨⟩ ⟨⟩ -
  rfl

theorem fclass (f : Fields) : Statement (.fclass f) := by
  rintro e op f' ⟨⟩ ⟨⟩ -
  rfl

theorem fcvt (f : Fields) : Statement (.fcvt f) := by
  rintro e op f' ⟨⟩ ⟨⟩ -
  rfl

theorem ftoi (f : Fields) : Statement (.ftoi f) := by
  rintro e op f' ⟨⟩ ⟨⟩ -
  rfl

theorem itof (f : Fields) : Statement (.itof f) := by
  rintro e op f' ⟨⟩ ⟨⟩ -
  rfl

theorem frnd (f : Fields) : Statement (.frnd f) := by
  rintro e op f' ⟨⟩ ⟨⟩ -
  rfl

theorem fdiv (f : Fields) : Statement (.fdiv f) := by
  rintro e op f' ⟨⟩ ⟨⟩ -
  rfl

theorem fsqrt (f : Fields) : Statement (.fsqrt f) := by
  rintro e op f' ⟨⟩ ⟨⟩ -
  rfl

theorem frcp (f : Fields) : Statement (.frcp f) := by
  rintro e op f' ⟨⟩ ⟨⟩ -
  rfl

theorem frsq (f : Fields) : Statement (.frsq f) := by
  rintro e op f' ⟨⟩ ⟨⟩ -
  rfl

theorem fexp2 (f : Fields) : Statement (.fexp2 f) := by
  rintro e op f' ⟨⟩ ⟨⟩ -
  rfl

theorem flog2 (f : Fields) : Statement (.flog2 f) := by
  rintro e op f' ⟨⟩ ⟨⟩ -
  rfl

theorem fsin (f : Fields) : Statement (.fsin f) := by
  rintro e op f' ⟨⟩ ⟨⟩ -
  rfl

theorem fcos (f : Fields) : Statement (.fcos f) := by
  rintro e op f' ⟨⟩ ⟨⟩ -
  rfl

theorem ftanh (f : Fields) : Statement (.ftanh f) := by
  rintro e op f' ⟨⟩ ⟨⟩ -
  rfl

theorem fdot2 (f : Fields) : Statement (.fdot2 f) := by
  rintro e op f' ⟨⟩ ⟨⟩ -
  rfl

theorem fscale (f : Fields) : Statement (.fscale f) := by
  rintro e op f' ⟨⟩ ⟨⟩ -
  rfl

theorem quant (f : Fields) : Statement (.quant f) := by
  rintro e op f' ⟨⟩ ⟨⟩ -
  rfl

theorem deq (f : Fields) : Statement (.deq f) := by
  rintro e op f' ⟨⟩ ⟨⟩ -
  rfl

theorem ld (f : Fields) : Statement (.ld f) := by
  rintro e op f' ⟨⟩ ⟨⟩ -
  rfl

theorem st (f : Fields) : Statement (.st f) := by
  rintro e op f' ⟨⟩ ⟨⟩ -
  rfl

theorem ldl (f : Fields) : Statement (.ldl f) := by
  rintro e op f' ⟨⟩ ⟨⟩ -
  rfl

theorem stl (f : Fields) : Statement (.stl f) := by
  rintro e op f' ⟨⟩ ⟨⟩ -
  rfl

theorem ltagGet (f : Fields) : Statement (.ltagGet f) := by
  rintro e op f' ⟨⟩ ⟨⟩ -
  rfl

theorem ltagSet (f : Fields) : Statement (.ltagSet f) := by
  rintro e op f' ⟨⟩ ⟨⟩ -
  rfl

theorem isRd (f : Fields) : Statement (.isRd f) := by
  rintro e op f' ⟨⟩ ⟨⟩ -
  rfl

theorem isWr (f : Fields) : Statement (.isWr f) := by
  rintro e op f' ⟨⟩ ⟨⟩ -
  rfl

theorem isClr (f : Fields) : Statement (.isClr f) := by
  rintro e op f' ⟨⟩ ⟨⟩ -
  rfl

theorem pfch (f : Fields) : Statement (.pfch f) := by
  rintro e op f' ⟨⟩ ⟨⟩ -
  rfl

theorem phase (f : Fields) : Statement (.phase f) := by
  rintro e op f' ⟨⟩ ⟨⟩ -
  rfl

theorem fence (f : Fields) : Statement (.fence f) := by
  rintro e op f' ⟨⟩ ⟨⟩ -
  rfl

theorem capAlloc (f : Fields) : Statement (.capAlloc f) := by
  rintro e op f' ⟨⟩ ⟨⟩ -
  rfl

theorem capFree (f : Fields) : Statement (.capFree f) := by
  rintro e op f' ⟨⟩ ⟨⟩ -
  rfl

theorem capNarrow (f : Fields) : Statement (.capNarrow f) := by
  rintro e op f' ⟨⟩ ⟨⟩ -
  rfl

theorem capInfo (f : Fields) : Statement (.capInfo f) := by
  rintro e op f' ⟨⟩ ⟨⟩ -
  rfl

theorem gld (f : Fields) : Statement (.gld f) := by
  rintro e op f' ⟨⟩ ⟨⟩ -
  rfl

theorem lds (f : Fields) : Statement (.lds f) := by
  rintro e op f' ⟨⟩ ⟨⟩ -
  rfl

theorem sts (f : Fields) : Statement (.sts f) := by
  rintro e op f' ⟨⟩ ⟨⟩ -
  rfl

theorem poolPart (f : Fields) : Statement (.poolPart f) := by
  rintro e op f' ⟨⟩ ⟨⟩ -
  rfl

theorem aadd (f : Fields) : Statement (.aadd f) := by
  rintro e op f' ⟨⟩ ⟨⟩ -
  rfl

theorem amin (f : Fields) : Statement (.amin f) := by
  rintro e op f' ⟨⟩ ⟨⟩ -
  rfl

theorem amax (f : Fields) : Statement (.amax f) := by
  rintro e op f' ⟨⟩ ⟨⟩ -
  rfl

theorem aand (f : Fields) : Statement (.aand f) := by
  rintro e op f' ⟨⟩ ⟨⟩ -
  rfl

theorem aor (f : Fields) : Statement (.aor f) := by
  rintro e op f' ⟨⟩ ⟨⟩ -
  rfl

theorem axor (f : Fields) : Statement (.axor f) := by
  rintro e op f' ⟨⟩ ⟨⟩ -
  rfl

theorem axchg (f : Fields) : Statement (.axchg f) := by
  rintro e op f' ⟨⟩ ⟨⟩ -
  rfl

theorem acas (f : Fields) : Statement (.acas f) := by
  rintro e op f' ⟨⟩ ⟨⟩ -
  rfl

theorem afadd (f : Fields) : Statement (.afadd f) := by
  rintro e op f' ⟨⟩ ⟨⟩ -
  rfl

theorem aaddth (f : Fields) : Statement (.aaddth f) := by
  rintro e op f' ⟨⟩ ⟨⟩ -
  rfl

theorem await (f : Fields) : Statement (.await f) := by
  rintro e op f' ⟨⟩ ⟨⟩ -
  rfl

theorem barInit (f : Fields) : Statement (.barInit f) := by
  rintro e op f' ⟨⟩ ⟨⟩ -
  rfl

theorem barArrive (f : Fields) : Statement (.barArrive f) := by
  rintro e op f' ⟨⟩ ⟨⟩ -
  rfl

theorem barExpect (f : Fields) : Statement (.barExpect f) := by
  rintro e op f' ⟨⟩ ⟨⟩ -
  rfl

theorem barWait (f : Fields) : Statement (.barWait f) := by
  rintro e op f' ⟨⟩ ⟨⟩ -
  rfl

theorem barTest (f : Fields) : Statement (.barTest f) := by
  rintro e op f' ⟨⟩ ⟨⟩ -
  rfl

theorem barDrop (f : Fields) : Statement (.barDrop f) := by
  rintro e op f' ⟨⟩ ⟨⟩ -
  rfl

theorem barRetire (f : Fields) : Statement (.barRetire f) := by
  rintro e op f' ⟨⟩ ⟨⟩ -
  rfl

theorem ringInit (f : Fields) : Statement (.ringInit f) := by
  rintro e op f' ⟨⟩ ⟨⟩ -
  rfl

theorem ringAwait (f : Fields) : Statement (.ringAwait f) := by
  rintro e op f' ⟨⟩ ⟨⟩ -
  rfl

theorem ringRelease (f : Fields) : Statement (.ringRelease f) := by
  rintro e op f' ⟨⟩ ⟨⟩ -
  rfl

theorem ringStat (f : Fields) : Statement (.ringStat f) := by
  rintro e op f' ⟨⟩ ⟨⟩ -
  rfl

theorem ringRetire (f : Fields) : Statement (.ringRetire f) := by
  rintro e op f' ⟨⟩ ⟨⟩ -
  rfl

theorem ringBind (f : Fields) : Statement (.ringBind f) := by
  rintro e op f' ⟨⟩ ⟨⟩ -
  rfl

theorem send (f : Fields) : Statement (.send f) := by
  rintro e op f' ⟨⟩ ⟨⟩ h
  have hf := fn_ok (e := e) (i := .send f) rfl rfl h
  obtain ⟨fn, _, _, _, _, _, _, _⟩ := f
  obtain rfl : fn = _ := eq_of_beq hf
  rfl

theorem sendRing (f : Fields) : Statement (.sendRing f) := by
  rintro e op f' ⟨⟩ ⟨⟩ h
  have hf := fn_ok (e := e) (i := .sendRing f) rfl rfl h
  obtain ⟨fn, _, _, _, _, _, _, _⟩ := f
  obtain rfl : fn = _ := eq_of_beq hf
  rfl

theorem sendr (f : Fields) : Statement (.sendr f) := by
  rintro e op f' ⟨⟩ ⟨⟩ -
  rfl

theorem sendkChain (f : Fields) : Statement (.sendkChain f) := by
  rintro e op f' ⟨⟩ ⟨⟩ h
  have hf := fn_ok (e := e) (i := .sendkChain f) rfl rfl h
  obtain ⟨fn, _, _, _, _, _, _, _⟩ := f
  obtain rfl : fn = _ := eq_of_beq hf
  rfl

theorem sendkLast (f : Fields) : Statement (.sendkLast f) := by
  rintro e op f' ⟨⟩ ⟨⟩ h
  have hf := fn_ok (e := e) (i := .sendkLast f) rfl rfl h
  obtain ⟨fn, _, _, _, _, _, _, _⟩ := f
  obtain rfl : fn = _ := eq_of_beq hf
  rfl

theorem copy (f : Fields) : Statement (.copy f) := by
  rintro e op f' ⟨⟩ ⟨⟩ -
  rfl

theorem copyo (f : Fields) : Statement (.copyo f) := by
  rintro e op f' ⟨⟩ ⟨⟩ -
  rfl

theorem stream (f : Fields) : Statement (.stream f) := by
  rintro e op f' ⟨⟩ ⟨⟩ -
  rfl

theorem streamw (f : Fields) : Statement (.streamw f) := by
  rintro e op f' ⟨⟩ ⟨⟩ -
  rfl

theorem sclose (f : Fields) : Statement (.sclose f) := by
  rintro e op f' ⟨⟩ ⟨⟩ -
  rfl

theorem cstat (f : Fields) : Statement (.cstat f) := by
  rintro e op f' ⟨⟩ ⟨⟩ -
  rfl

theorem ioread (f : Fields) : Statement (.ioread f) := by
  rintro e op f' ⟨⟩ ⟨⟩ h
  have hf := fn_ok (e := e) (i := .ioread f) rfl rfl h
  obtain ⟨fn, _, _, _, _, _, _, _⟩ := f
  obtain rfl : fn = _ := eq_of_beq hf
  rfl

theorem ioreadRing (f : Fields) : Statement (.ioreadRing f) := by
  rintro e op f' ⟨⟩ ⟨⟩ h
  have hf := fn_ok (e := e) (i := .ioreadRing f) rfl rfl h
  obtain ⟨fn, _, _, _, _, _, _, _⟩ := f
  obtain rfl : fn = _ := eq_of_beq hf
  rfl

theorem iowrite (f : Fields) : Statement (.iowrite f) := by
  rintro e op f' ⟨⟩ ⟨⟩ -
  rfl

theorem netsend (f : Fields) : Statement (.netsend f) := by
  rintro e op f' ⟨⟩ ⟨⟩ -
  rfl

theorem netrecvBind (f : Fields) : Statement (.netrecvBind f) := by
  rintro e op f' ⟨⟩ ⟨⟩ h
  have hf := fn_ok (e := e) (i := .netrecvBind f) rfl rfl h
  obtain ⟨fn, _, _, _, _, _, _, _⟩ := f
  obtain rfl : fn = _ := eq_of_beq hf
  rfl

theorem netrecvUnbind (f : Fields) : Statement (.netrecvUnbind f) := by
  rintro e op f' ⟨⟩ ⟨⟩ h
  have hf := fn_ok (e := e) (i := .netrecvUnbind f) rfl rfl h
  obtain ⟨fn, _, _, _, _, _, _, _⟩ := f
  obtain rfl : fn = _ := eq_of_beq hf
  rfl

theorem tmap (f : Fields) : Statement (.tmap f) := by
  rintro e op f' ⟨⟩ ⟨⟩ -
  rfl

theorem tfill (f : Fields) : Statement (.tfill f) := by
  rintro e op f' ⟨⟩ ⟨⟩ -
  rfl

theorem ttagBind (f : Fields) : Statement (.ttagBind f) := by
  rintro e op f' ⟨⟩ ⟨⟩ h
  have hf := fn_ok (e := e) (i := .ttagBind f) rfl rfl h
  obtain ⟨fn, _, _, _, _, _, _, _⟩ := f
  obtain rfl : fn = _ := eq_of_beq hf
  rfl

theorem ttagFull (f : Fields) : Statement (.ttagFull f) := by
  rintro e op f' ⟨⟩ ⟨⟩ h
  have hf := fn_ok (e := e) (i := .ttagFull f) rfl rfl h
  obtain ⟨fn, _, _, _, _, _, _, _⟩ := f
  obtain rfl : fn = _ := eq_of_beq hf
  rfl

theorem ttagEmpty (f : Fields) : Statement (.ttagEmpty f) := by
  rintro e op f' ⟨⟩ ⟨⟩ h
  have hf := fn_ok (e := e) (i := .ttagEmpty f) rfl rfl h
  obtain ⟨fn, _, _, _, _, _, _, _⟩ := f
  obtain rfl : fn = _ := eq_of_beq hf
  rfl

theorem ttagStat (f : Fields) : Statement (.ttagStat f) := by
  rintro e op f' ⟨⟩ ⟨⟩ h
  have hf := fn_ok (e := e) (i := .ttagStat f) rfl rfl h
  obtain ⟨fn, _, _, _, _, _, _, _⟩ := f
  obtain rfl : fn = _ := eq_of_beq hf
  rfl

theorem mma (f : Fields) : Statement (.mma f) := by
  rintro e op f' ⟨⟩ ⟨⟩ -
  rfl

theorem mmas (f : Fields) : Statement (.mmas f) := by
  rintro e op f' ⟨⟩ ⟨⟩ -
  rfl

theorem mmag (f : Fields) : Statement (.mmag f) := by
  rintro e op f' ⟨⟩ ⟨⟩ -
  rfl

theorem mmar (f : Fields) : Statement (.mmar f) := by
  rintro e op f' ⟨⟩ ⟨⟩ -
  rfl

theorem wld (f : Fields) : Statement (.wld f) := by
  rintro e op f' ⟨⟩ ⟨⟩ -
  rfl

theorem accz (f : Fields) : Statement (.accz f) := by
  rintro e op f' ⟨⟩ ⟨⟩ -
  rfl

theorem accrd (f : Fields) : Statement (.accrd f) := by
  rintro e op f' ⟨⟩ ⟨⟩ -
  rfl

theorem tcvt (f : Fields) : Statement (.tcvt f) := by
  rintro e op f' ⟨⟩ ⟨⟩ -
  rfl

theorem tred (f : Fields) : Statement (.tred f) := by
  rintro e op f' ⟨⟩ ⟨⟩ -
  rfl

theorem texp (f : Fields) : Statement (.texp f) := by
  rintro e op f' ⟨⟩ ⟨⟩ -
  rfl

theorem ttrn (f : Fields) : Statement (.ttrn f) := by
  rintro e op f' ⟨⟩ ⟨⟩ -
  rfl

theorem tdot (f : Fields) : Statement (.tdot f) := by
  rintro e op f' ⟨⟩ ⟨⟩ -
  rfl

theorem bfly (f : Fields) : Statement (.bfly f) := by
  rintro e op f' ⟨⟩ ⟨⟩ -
  rfl

theorem bfch (f : Fields) : Statement (.bfch f) := by
  rintro e op f' ⟨⟩ ⟨⟩ -
  rfl

theorem sdset (f : Fields) : Statement (.sdset f) := by
  rintro e op f' ⟨⟩ ⟨⟩ -
  rfl

theorem bwld (f : Fields) : Statement (.bwld f) := by
  rintro e op f' ⟨⟩ ⟨⟩ -
  rfl

theorem bperm (f : Fields) : Statement (.bperm f) := by
  rintro e op f' ⟨⟩ ⟨⟩ -
  rfl

theorem bfsc (f : Fields) : Statement (.bfsc f) := by
  rintro e op f' ⟨⟩ ⟨⟩ -
  rfl

theorem binOpen (f : Fields) : Statement (.binOpen f) := by
  rintro e op f' ⟨⟩ ⟨⟩ -
  rfl

theorem binPut (f : Fields) : Statement (.binPut f) := by
  rintro e op f' ⟨⟩ ⟨⟩ h
  have hf := fn_ok (e := e) (i := .binPut f) rfl rfl h
  obtain ⟨fn, _, _, _, _, _, _, _⟩ := f
  obtain rfl : fn = _ := eq_of_beq hf
  rfl

theorem binPutMap (f : Fields) : Statement (.binPutMap f) := by
  rintro e op f' ⟨⟩ ⟨⟩ h
  have hf := fn_ok (e := e) (i := .binPutMap f) rfl rfl h
  obtain ⟨fn, _, _, _, _, _, _, _⟩ := f
  obtain rfl : fn = _ := eq_of_beq hf
  rfl

theorem binPlay (f : Fields) : Statement (.binPlay f) := by
  rintro e op f' ⟨⟩ ⟨⟩ -
  rfl

theorem binClose (f : Fields) : Statement (.binClose f) := by
  rintro e op f' ⟨⟩ ⟨⟩ -
  rfl

theorem mpath (f : Fields) : Statement (.mpath f) := by
  rintro e op f' ⟨⟩ ⟨⟩ -
  rfl

theorem fscan (f : Fields) : Statement (.fscan f) := by
  rintro e op f' ⟨⟩ ⟨⟩ -
  rfl

theorem fisect (f : Fields) : Statement (.fisect f) := by
  rintro e op f' ⟨⟩ ⟨⟩ -
  rfl

theorem funion (f : Fields) : Statement (.funion f) := by
  rintro e op f' ⟨⟩ ⟨⟩ -
  rfl

theorem femit (f : Fields) : Statement (.femit f) := by
  rintro e op f' ⟨⟩ ⟨⟩ -
  rfl

theorem gath (f : Fields) : Statement (.gath f) := by
  rintro e op f' ⟨⟩ ⟨⟩ -
  rfl

theorem sysrd (f : Fields) : Statement (.sysrd f) := by
  rintro e op f' ⟨⟩ ⟨⟩ -
  rfl

theorem syswr (f : Fields) : Statement (.syswr f) := by
  rintro e op f' ⟨⟩ ⟨⟩ -
  rfl

theorem enrd (f : Fields) : Statement (.enrd f) := by
  rintro e op f' ⟨⟩ ⟨⟩ -
  rfl

theorem wearrd (f : Fields) : Statement (.wearrd f) := by
  rintro e op f' ⟨⟩ ⟨⟩ -
  rfl

theorem ctxid (f : Fields) : Statement (.ctxid f) := by
  rintro e op f' ⟨⟩ ⟨⟩ -
  rfl

theorem cyc (f : Fields) : Statement (.cyc f) := by
  rintro e op f' ⟨⟩ ⟨⟩ -
  rfl

theorem errinj (f : Fields) : Statement (.errinj f) := by
  rintro e op f' ⟨⟩ ⟨⟩ -
  rfl

theorem diag (f : Fields) : Statement (.diag f) := by
  rintro e op f' ⟨⟩ ⟨⟩ -
  rfl

theorem tokenHop a0 a1 : Statement (.tokenHop a0 a1) := by
  rintro e op f ⟨⟩

theorem tokenArrival a0 a1 : Statement (.tokenArrival a0 a1) := by
  rintro e op f ⟨⟩

theorem spillProbeDone a0 : Statement (.spillProbeDone a0) := by
  rintro e op f ⟨⟩

theorem configTokenArrival a0 : Statement (.configTokenArrival a0) := by
  rintro e op f ⟨⟩

theorem configTokenApply a0 : Statement (.configTokenApply a0) := by
  rintro e op f ⟨⟩

theorem muRequest a0 : Statement (.muRequest a0) := by
  rintro e op f ⟨⟩

theorem globalAtomicPerform a0 a1 : Statement (.globalAtomicPerform a0 a1) := by
  rintro e op f ⟨⟩

theorem phaseBoundaryComplete a0 a1 a2 a3 : Statement (.phaseBoundaryComplete a0 a1 a2 a3) := by
  rintro e op f ⟨⟩

theorem activationReleaseComplete a0 a1 a2 : Statement (.activationReleaseComplete a0 a1 a2) := by
  rintro e op f ⟨⟩

theorem errorSurface a0 a1 : Statement (.errorSurface a0 a1) := by
  rintro e op f ⟨⟩

theorem barrierCredit a0 : Statement (.barrierCredit a0) := by
  rintro e op f ⟨⟩

theorem barrierCompletion a0 a1 : Statement (.barrierCompletion a0 a1) := by
  rintro e op f ⟨⟩

theorem barrierRelease a0 a1 : Statement (.barrierRelease a0 a1) := by
  rintro e op f ⟨⟩

theorem barrierRetry a0 : Statement (.barrierRetry a0) := by
  rintro e op f ⟨⟩

theorem copyAccept a0 : Statement (.copyAccept a0) := by
  rintro e op f ⟨⟩

theorem copyStart a0 a1 : Statement (.copyStart a0 a1) := by
  rintro e op f ⟨⟩

theorem chunkApply a0 a1 : Statement (.chunkApply a0 a1) := by
  rintro e op f ⟨⟩

theorem chunkBusyResend a0 a1 : Statement (.chunkBusyResend a0 a1) := by
  rintro e op f ⟨⟩

theorem chunkAck a0 a1 : Statement (.chunkAck a0 a1) := by
  rintro e op f ⟨⟩

theorem copyRelease a0 : Statement (.copyRelease a0) := by
  rintro e op f ⟨⟩

theorem copyAckTimeout a0 a1 : Statement (.copyAckTimeout a0 a1) := by
  rintro e op f ⟨⟩

theorem streamElement a0 a1 : Statement (.streamElement a0 a1) := by
  rintro e op f ⟨⟩

theorem streamwToken a0 a1 : Statement (.streamwToken a0 a1) := by
  rintro e op f ⟨⟩

theorem ringReservation a0 a1 : Statement (.ringReservation a0 a1) := by
  rintro e op f ⟨⟩

theorem ringSlotReturn a0 a1 : Statement (.ringSlotReturn a0 a1) := by
  rintro e op f ⟨⟩

theorem ringBindRequest a0 : Statement (.ringBindRequest a0) := by
  rintro e op f ⟨⟩

theorem ringBindReply a0 : Statement (.ringBindReply a0) := by
  rintro e op f ⟨⟩

theorem tfillComplete a0 a1 : Statement (.tfillComplete a0 a1) := by
  rintro e op f ⟨⟩

theorem arrayOpEnd a0 : Statement (.arrayOpEnd a0) := by
  rintro e op f ⟨⟩

theorem mmarPassComplete a0 : Statement (.mmarPassComplete a0) := by
  rintro e op f ⟨⟩

theorem binUpdateAppend a0 a1 : Statement (.binUpdateAppend a0 a1) := by
  rintro e op f ⟨⟩

theorem binReplayStart a0 a1 : Statement (.binReplayStart a0 a1) := by
  rintro e op f ⟨⟩

theorem binReplayRegion a0 a1 : Statement (.binReplayRegion a0 a1) := by
  rintro e op f ⟨⟩

theorem binReplayEnd a0 a1 : Statement (.binReplayEnd a0 a1) := by
  rintro e op f ⟨⟩

theorem fibrePosition a0 a1 : Statement (.fibrePosition a0 a1) := by
  rintro e op f ⟨⟩

theorem femitToken a0 a1 : Statement (.femitToken a0 a1) := by
  rintro e op f ⟨⟩

theorem kernelHeaderRead a0 : Statement (.kernelHeaderRead a0) := by
  rintro e op f ⟨⟩

theorem kernelVerified a0 : Statement (.kernelVerified a0) := by
  rintro e op f ⟨⟩

theorem kernelLoadComplete a0 : Statement (.kernelLoadComplete a0) := by
  rintro e op f ⟨⟩

theorem drainComplete a0 : Statement (.drainComplete a0) := by
  rintro e op f ⟨⟩

theorem queueCreate a0 a1 : Statement (.queueCreate a0 a1) := by
  rintro e op f ⟨⟩

theorem queueDestroy a0 a1 : Statement (.queueDestroy a0 a1) := by
  rintro e op f ⟨⟩

theorem queueEnable a0 a1 : Statement (.queueEnable a0 a1) := by
  rintro e op f ⟨⟩

theorem queueDisable a0 a1 : Statement (.queueDisable a0 a1) := by
  rintro e op f ⟨⟩

theorem queueSuspend a0 a1 : Statement (.queueSuspend a0 a1) := by
  rintro e op f ⟨⟩

theorem queueResume a0 a1 : Statement (.queueResume a0 a1) := by
  rintro e op f ⟨⟩

theorem queueTailWrite a0 a1 a2 : Statement (.queueTailWrite a0 a1 a2) := by
  rintro e op f ⟨⟩

theorem queueHeadSkip a0 a1 a2 : Statement (.queueHeadSkip a0 a1 a2) := by
  rintro e op f ⟨⟩

theorem headWaitRegister a0 : Statement (.headWaitRegister a0) := by
  rintro e op f ⟨⟩

theorem yardDecision a0 : Statement (.yardDecision a0) := by
  rintro e op f ⟨⟩

theorem ageingStep a0 : Statement (.ageingStep a0) := by
  rintro e op f ⟨⟩

theorem quantumExpiry a0 : Statement (.quantumExpiry a0) := by
  rintro e op f ⟨⟩

theorem claimRound a0 a1 a2 : Statement (.claimRound a0 a1 a2) := by
  rintro e op f ⟨⟩

theorem energyBudgetReached a0 : Statement (.energyBudgetReached a0) := by
  rintro e op f ⟨⟩

theorem energyForward a0 : Statement (.energyForward a0) := by
  rintro e op f ⟨⟩

theorem freeze a0 a1 : Statement (.freeze a0 a1) := by
  rintro e op f ⟨⟩

theorem thaw a0 a1 : Statement (.thaw a0 a1) := by
  rintro e op f ⟨⟩

theorem save a0 a1 : Statement (.save a0 a1) := by
  rintro e op f ⟨⟩

theorem requeue a0 a1 a2 : Statement (.requeue a0 a1 a2) := by
  rintro e op f ⟨⟩

theorem kill a0 a1 : Statement (.kill a0 a1) := by
  rintro e op f ⟨⟩

theorem go a0 a1 : Statement (.go a0 a1) := by
  rintro e op f ⟨⟩

theorem freezeComplete a0 : Statement (.freezeComplete a0) := by
  rintro e op f ⟨⟩

theorem saveComplete a0 : Statement (.saveComplete a0) := by
  rintro e op f ⟨⟩

theorem relocationComplete a0 : Statement (.relocationComplete a0) := by
  rintro e op f ⟨⟩

theorem restoreComplete a0 : Statement (.restoreComplete a0) := by
  rintro e op f ⟨⟩

theorem tlbWalkComplete a0 : Statement (.tlbWalkComplete a0) := by
  rintro e op f ⟨⟩

theorem tlbInvalidate a0 a1 : Statement (.tlbInvalidate a0 a1) := by
  rintro e op f ⟨⟩

theorem invalidateComplete : Statement (.invalidateComplete) := by
  rintro e op f ⟨⟩

theorem hostFlushComplete a0 : Statement (.hostFlushComplete a0) := by
  rintro e op f ⟨⟩

theorem hostSnoop a0 : Statement (.hostSnoop a0) := by
  rintro e op f ⟨⟩

theorem regionCommitComplete a0 : Statement (.regionCommitComplete a0) := by
  rintro e op f ⟨⟩

theorem ownershipTimeout a0 : Statement (.ownershipTimeout a0) := by
  rintro e op f ⟨⟩

theorem shenisFlitRetry a0 a1 a2 a3 : Statement (.shenisFlitRetry a0 a1 a2 a3) := by
  rintro e op f ⟨⟩

theorem ryenxonFlitReceive a0 a1 a2 a3 a4 a5 a6 : Statement (.ryenxonFlitReceive a0 a1 a2 a3 a4 a5 a6) := by
  rintro e op f ⟨⟩

theorem ryenxonNak a0 a1 : Statement (.ryenxonNak a0 a1) := by
  rintro e op f ⟨⟩

theorem ryenxonAckTimeout a0 : Statement (.ryenxonAckTimeout a0) := by
  rintro e op f ⟨⟩

theorem linkEnable a0 a1 a2 : Statement (.linkEnable a0 a1 a2) := by
  rintro e op f ⟨⟩

theorem linkDisable a0 a1 a2 : Statement (.linkDisable a0 a1 a2) := by
  rintro e op f ⟨⟩

theorem trainingComplete a0 a1 a2 : Statement (.trainingComplete a0 a1 a2) := by
  rintro e op f ⟨⟩

theorem trainingFailed a0 a1 : Statement (.trainingFailed a0 a1) := by
  rintro e op f ⟨⟩

theorem trainingRetry a0 a1 : Statement (.trainingRetry a0 a1) := by
  rintro e op f ⟨⟩

theorem laneLost a0 a1 : Statement (.laneLost a0 a1) := by
  rintro e op f ⟨⟩

theorem retrainWindowClose a0 a1 : Statement (.retrainWindowClose a0 a1) := by
  rintro e op f ⟨⟩

theorem outingPortTimeout a0 : Statement (.outingPortTimeout a0) := by
  rintro e op f ⟨⟩

theorem ioCommandArrival a0 a1 : Statement (.ioCommandArrival a0 a1) := by
  rintro e op f ⟨⟩

theorem ioCompletion a0 a1 a2 a3 : Statement (.ioCompletion a0 a1 a2 a3) := by
  rintro e op f ⟨⟩

theorem ioCommandTimeout a0 a1 : Statement (.ioCommandTimeout a0 a1) := by
  rintro e op f ⟨⟩

theorem inboundRdmaWrite a0 a1 a2 a3 : Statement (.inboundRdmaWrite a0 a1 a2 a3) := by
  rintro e op f ⟨⟩

theorem inboundSend a0 a1 : Statement (.inboundSend a0 a1) := by
  rintro e op f ⟨⟩

theorem inboundWriteImmediate a0 a1 a2 a3 a4 : Statement (.inboundWriteImmediate a0 a1 a2 a3 a4) := by
  rintro e op f ⟨⟩

theorem inboundRdmaRead a0 a1 a2 : Statement (.inboundRdmaRead a0 a1 a2) := by
  rintro e op f ⟨⟩

theorem qpFatalEvent a0 : Statement (.qpFatalEvent a0) := by
  rintro e op f ⟨⟩

theorem qpStateWrite a0 a1 a2 : Statement (.qpStateWrite a0 a1 a2) := by
  rintro e op f ⟨⟩

theorem regionRegister a0 a1 : Statement (.regionRegister a0 a1) := by
  rintro e op f ⟨⟩

theorem mailboxPartArrival a0 : Statement (.mailboxPartArrival a0) := by
  rintro e op f ⟨⟩

theorem mailboxReply a0 a1 a2 a3 : Statement (.mailboxReply a0 a1 a2 a3) := by
  rintro e op f ⟨⟩

theorem mailboxHeadAdvance a0 a1 : Statement (.mailboxHeadAdvance a0 a1) := by
  rintro e op f ⟨⟩

theorem imageCacheFlush a0 : Statement (.imageCacheFlush a0) := by
  rintro e op f ⟨⟩

theorem hostInterrupt a0 : Statement (.hostInterrupt a0) := by
  rintro e op f ⟨⟩

theorem quarantineRelease a0 : Statement (.quarantineRelease a0) := by
  rintro e op f ⟨⟩

theorem injectionArm a0 a1 : Statement (.injectionArm a0 a1) := by
  rintro e op f ⟨⟩

theorem registerWrite a0 a1 a2 : Statement (.registerWrite a0 a1 a2) := by
  rintro e op f ⟨⟩

theorem wearTick a0 : Statement (.wearTick a0) := by
  rintro e op f ⟨⟩

theorem unitRetire a0 : Statement (.unitRetire a0) := by
  rintro e op f ⟨⟩

theorem failureWindowClose a0 : Statement (.failureWindowClose a0) := by
  rintro e op f ⟨⟩

theorem lifetimeFlush : Statement (.lifetimeFlush) := by
  rintro e op f ⟨⟩

theorem digestExchange a0 : Statement (.digestExchange a0) := by
  rintro e op f ⟨⟩

theorem lidOverLimit a0 : Statement (.lidOverLimit a0) := by
  rintro e op f ⟨⟩

theorem lidResume a0 : Statement (.lidResume a0) := by
  rintro e op f ⟨⟩

theorem thermalTrip : Statement (.thermalTrip) := by
  rintro e op f ⟨⟩

theorem powerOnReset a0 : Statement (.powerOnReset a0) := by
  rintro e op f ⟨⟩

theorem diagreq a0 : Statement (.diagreq a0) := by
  rintro e op f ⟨⟩

theorem attestationReport a0 : Statement (.attestationReport a0) := by
  rintro e op f ⟨⟩

theorem globalLoadPerform a0 a1 : Statement (.globalLoadPerform a0 a1) := by
  rintro e op f ⟨⟩

theorem staticEnergyCharge a0 : Statement (.staticEnergyCharge a0) := by
  rintro e op f ⟨⟩

theorem roceRetransmission a0 a1 : Statement (.roceRetransmission a0 a1) := by
  rintro e op f ⟨⟩

theorem powerLoss a0 : Statement (.powerLoss a0) := by
  rintro e op f ⟨⟩

theorem supervisorMemoryWrite a0 a1 a2 : Statement (.supervisorMemoryWrite a0 a1 a2) := by
  rintro e op f ⟨⟩

end Sys2Proof.Laws.Chosen
end

