-- ==== Sys2Proof/Tests/Slice0.lean ====
section
/-!
SUPPORT. Tests: a term that each load check refuses; words of the encoding tables, family by family; single steps on a small state; and
for every statement a state and operands that meet its hypotheses.
-/

namespace Sys2Proof.Tests

set_option Elab.async false

open Sys2Proof Sys2Proof.Machine

/-! ### What the load checks refuse (R46) -/

/-- Fields that an ADD accepts. -/
def addF : Fields := { fn := 0, ty := .i64, u := false, pd := false, src := .toks, ta := 0x001, tb := 0xC00, imm := 0 }

theorem test_wf_add : firstFail none (.add addF) = none := by decide
/-- ADD has no FN but 0 (R133). -/
theorem test_wf_fn : firstFail none (.add { addF with fn := 1 }) = some .fn := by decide
/-- ADD takes no floating-point type (R42). -/
theorem test_wf_ty : firstFail none (.add { addF with ty := .f32 }) = some .ty := by decide
/-- FFMA requires PD = 1 (R32). -/
theorem test_wf_pd : firstFail none (.ffma { addF with ty := .f32 }) = some .pd := by decide
/-- ADD has a right operand, so SRC 11 is none of its modes (R33). -/
theorem test_wf_src : firstFail none (.add { addF with src := .unary }) = some .src := by decide
/-- A K index stands in IMM[5:0] alone (R33). -/
theorem test_wf_src_k : firstFail none (.add { addF with src := .kreg, imm := 0x00040 }) = some .src := by decide
/-- COLOUR.END defines no target (R100). -/
theorem test_wf_ta : firstFail none (.colourEnd { addF with ty := .i8, src := .unary, ta := 0xC00, tb := 0 }) = some .ta := by decide
/-- A position 11 target other than the discard value is refused (R35). -/
theorem test_wf_tb : firstFail none (.add { addF with tb := 0xC01 }) = some .tb := by decide
/-- lsb + width may not pass 64 (R139). -/
theorem test_wf_imm : firstFail none (.bfx { addF with src := .unary, imm := 0x00FC1 }) = some .imm := by decide
/-- DIAG stands in diagnostic kernels alone (R45). -/
theorem test_wf_diag :
    firstFail (some { diag := false, x := 0, routes := List.replicate 6 0, enters := [], levels := [] }) (.diag { addF with ty := .i8, src := .unary })
      = some .diag := by decide
/-- 0x3F is a reserved opcode (R44). -/
theorem test_wf_op : decode (0x3F#8 ++ 0#56) = .error .op := by decide
/-- LDS takes no window-crossing type code: LN is not listed (R192). -/
theorem test_wf_lds_ty : firstFail none (.lds { addF with ty := .ln, src := .unary }) = some .ty := by decide
/-! ### Words written out from the encodings, one family each (R30, R33, R41; the entry of each instruction) -/

theorem test_decode_move : decode (0x01#8 ++ 0#4 ++ 0x0#4 ++ 0#1 ++ 1#1 ++ 0b11#2 ++ 0x401#12 ++ 0x805#12 ++ 0x00000#20) =
    .ok (.move { fn := 0, ty := .i8, u := false, pd := true, src := .unary, ta := 0x401, tb := 0x805, imm := 0x00000 }) := by decide
theorem test_decode_iterNextDone : decode (0x0B#8 ++ 1#4 ++ 0x0#4 ++ 0#1 ++ 0#1 ++ 0b11#2 ++ 0x000#12 ++ 0x000#12 ++ 0x00005#20) =
    .ok (.iterNextDone { fn := 1, ty := .i8, u := false, pd := false, src := .unary, ta := 0x000, tb := 0x000, imm := 0x00005 }) := by decide
theorem test_decode_colourArg : decode (0x11#8 ++ 0#4 ++ 0x0#4 ++ 0#1 ++ 0#1 ++ 0b00#2 ++ 0x402#12 ++ 0x000#12 ++ 0x00006#20) =
    .ok (.colourArg { fn := 0, ty := .i8, u := false, pd := false, src := .toks, ta := 0x402, tb := 0x000, imm := 0x00006 }) := by decide
theorem test_decode_svcArg : decode (0x14#8 ++ 1#4 ++ 0x0#4 ++ 0#1 ++ 0#1 ++ 0b11#2 ++ 0x004#12 ++ 0xC00#12 ++ 0x00005#20) =
    .ok (.svcArg { fn := 1, ty := .i8, u := false, pd := false, src := .unary, ta := 0x004, tb := 0xC00, imm := 0x00005 }) := by decide
theorem test_decode_grpId : decode (0x1A#8 ++ 3#4 ++ 0x0#4 ++ 0#1 ++ 0#1 ++ 0b11#2 ++ 0x003#12 ++ 0xC00#12 ++ 0x00002#20) =
    .ok (.grpId { fn := 3, ty := .i8, u := false, pd := false, src := .unary, ta := 0x003, tb := 0xC00, imm := 0x00002 }) := by decide
theorem test_decode_kset : decode (0x1D#8 ++ 0#4 ++ 0x0#4 ++ 0#1 ++ 0#1 ++ 0b11#2 ++ 0xC00#12 ++ 0x401#12 ++ 0x0003F#20) =
    .ok (.kset { fn := 0, ty := .i8, u := false, pd := false, src := .unary, ta := 0xC00, tb := 0x401, imm := 0x0003F }) := by decide
theorem test_decode_mulHigh : decode (0x24#8 ++ 1#4 ++ 0x7#4 ++ 0#1 ++ 0#1 ++ 0b01#2 ++ 0x080#12 ++ 0xC00#12 ++ 0x0000C#20) =
    .ok (.mul { fn := 1, ty := .n64, u := false, pd := false, src := .kreg, ta := 0x080, tb := 0xC00, imm := 0x0000C }) := by decide
theorem test_decode_bfx : decode (0x38#8 ++ 0#4 ++ 0x6#4 ++ 0#1 ++ 0#1 ++ 0b11#2 ++ 0x001#12 ++ 0xC00#12 ++ 0x001C8#20) =
    .ok (.bfx { fn := 0, ty := .i64, u := false, pd := false, src := .unary, ta := 0x001, tb := 0xC00, imm := 0x001C8 }) := by decide
theorem test_decode_fadd : decode (0x40#8 ++ 9#4 ++ 0xA#4 ++ 0#1 ++ 0#1 ++ 0b00#2 ++ 0x001#12 ++ 0xC00#12 ++ 0x00000#20) =
    .ok (.fadd { fn := 9, ty := .f32, u := false, pd := false, src := .toks, ta := 0x001, tb := 0xC00, imm := 0x00000 }) := by decide
theorem test_decode_fclass : decode (0x49#8 ++ 0#4 ++ 0x8#4 ++ 0#1 ++ 0#1 ++ 0b11#2 ++ 0x001#12 ++ 0xC00#12 ++ 0x00000#20) =
    .ok (.fclass { fn := 0, ty := .f16, u := false, pd := false, src := .unary, ta := 0x001, tb := 0xC00, imm := 0x00000 }) := by decide
theorem test_decode_ld : decode (0x60#8 ++ 0#4 ++ 0xD#4 ++ 1#1 ++ 0#1 ++ 0b11#2 ++ 0x001#12 ++ 0xC00#12 ++ 0xFFFF8#20) =
    .ok (.ld { fn := 0, ty := .e5m2, u := true, pd := false, src := .unary, ta := 0x001, tb := 0xC00, imm := 0xFFFF8 }) := by decide
theorem test_decode_gld : decode (0x70#8 ++ 0#4 ++ 0xB#4 ++ 0#1 ++ 0#1 ++ 0b00#2 ++ 0x001#12 ++ 0x402#12 ++ 0x00009#20) =
    .ok (.gld { fn := 0, ty := .f64, u := false, pd := false, src := .toks, ta := 0x001, tb := 0x402, imm := 0x00009 }) := by decide
theorem test_decode_aadd : decode (0x80#8 ++ 0#4 ++ 0x5#4 ++ 0#1 ++ 0#1 ++ 0b00#2 ++ 0x001#12 ++ 0xC00#12 ++ 0x00000#20) =
    .ok (.aadd { fn := 0, ty := .n32, u := false, pd := false, src := .toks, ta := 0x001, tb := 0xC00, imm := 0x00000 }) := by decide
theorem test_decode_barArrive : decode (0x91#8 ++ 0#4 ++ 0x0#4 ++ 0#1 ++ 0#1 ++ 0b11#2 ++ 0x001#12 ++ 0xC00#12 ++ 0x00000#20) =
    .ok (.barArrive { fn := 0, ty := .i8, u := false, pd := false, src := .unary, ta := 0x001, tb := 0xC00, imm := 0x00000 }) := by decide
theorem test_decode_ringAwait : decode (0x99#8 ++ 0#4 ++ 0x0#4 ++ 0#1 ++ 0#1 ++ 0b11#2 ++ 0x001#12 ++ 0xC00#12 ++ 0x00000#20) =
    .ok (.ringAwait { fn := 0, ty := .i8, u := false, pd := false, src := .unary, ta := 0x001, tb := 0xC00, imm := 0x00000 }) := by decide
theorem test_decode_copy : decode (0xA3#8 ++ 0#4 ++ 0x0#4 ++ 0#1 ++ 0#1 ++ 0b11#2 ++ 0x001#12 ++ 0xC00#12 ++ 0x00000#20) =
    .ok (.copy { fn := 0, ty := .i8, u := false, pd := false, src := .unary, ta := 0x001, tb := 0xC00, imm := 0x00000 }) := by decide
theorem test_decode_ioread : decode (0xA9#8 ++ 0#4 ++ 0x0#4 ++ 0#1 ++ 0#1 ++ 0b00#2 ++ 0x001#12 ++ 0xC00#12 ++ 0x00000#20) =
    .ok (.ioread { fn := 0, ty := .i8, u := false, pd := false, src := .toks, ta := 0x001, tb := 0xC00, imm := 0x00000 }) := by decide
theorem test_decode_accz : decode (0xB8#8 ++ 0#4 ++ 0xA#4 ++ 0#1 ++ 0#1 ++ 0b11#2 ++ 0x001#12 ++ 0xC00#12 ++ 0x00000#20) =
    .ok (.accz { fn := 0, ty := .f32, u := false, pd := false, src := .unary, ta := 0x001, tb := 0xC00, imm := 0x00000 }) := by decide
theorem test_decode_bperm : decode (0xC4#8 ++ 0#4 ++ 0xA#4 ++ 0#1 ++ 0#1 ++ 0b01#2 ++ 0x001#12 ++ 0xC00#12 ++ 0x00003#20) =
    .ok (.bperm { fn := 0, ty := .f32, u := false, pd := false, src := .kreg, ta := 0x001, tb := 0xC00, imm := 0x00003 }) := by decide
theorem test_decode_fscan : decode (0xD5#8 ++ 0#4 ++ 0x0#4 ++ 0#1 ++ 0#1 ++ 0b11#2 ++ 0x001#12 ++ 0xC00#12 ++ 0x00000#20) =
    .ok (.fscan { fn := 0, ty := .i8, u := false, pd := false, src := .unary, ta := 0x001, tb := 0xC00, imm := 0x00000 }) := by decide
theorem test_decode_mmas : decode (0xB4#8 ++ 2#4 ++ 0xA#4 ++ 0#1 ++ 0#1 ++ 0b11#2 ++ 0x001#12 ++ 0xC00#12 ++ 0x00422#20) =
    .ok (.mmas { fn := 2, ty := .f32, u := false, pd := false, src := .unary, ta := 0x001, tb := 0xC00, imm := 0x00422 }) := by decide
theorem test_decode_cyc : decode (0xE5#8 ++ 0#4 ++ 0x0#4 ++ 0#1 ++ 0#1 ++ 0b11#2 ++ 0x001#12 ++ 0xC00#12 ++ 0x00000#20) =
    .ok (.cyc { fn := 0, ty := .i8, u := false, pd := false, src := .unary, ta := 0x001, tb := 0xC00, imm := 0x00000 }) := by decide

/-- Words of the manual's listings (R30's chapter, and those of tokens, values, barriers, copies and butterflies), with what the listings say that
they are: MUL.I64 k2; ADD.I64.U #-5; SHL.I64 #1; a carry chain's ADDC.N64 with its carry from P; a chained butterfly;
GRP.ID.PAR #2. -/
theorem test_listing_words :
    decode 0x240610_01C0000002 = .ok (.mul { fn := 0, ty := .i64, u := false, pd := false, src := .kreg, ta := 0x001, tb := 0xC00, imm := 2 }) ∧
    decode 0x2006A084_002FFFFB = .ok (.add { fn := 0, ty := .i64, u := true, pd := false, src := .immd, ta := 0x084, tb := 0x002, imm := 0xFFFFB }) ∧
    decode 0x31062482_C0000001 = .ok (.shl { fn := 0, ty := .i64, u := false, pd := false, src := .immd, ta := 0x482, tb := 0xC00, imm := 1 }) ∧
    decode 0x22074003_00400000 = .ok (.addc { fn := 0, ty := .n64, u := false, pd := true, src := .toks, ta := 0x003, tb := 0x004, imm := 0 }) ∧
    decode 0xC1191005_C0000800 = .ok (.bfch { fn := 1, ty := .bf16, u := false, pd := false, src := .kreg, ta := 0x005, tb := 0xC00, imm := 0x00800 }) ∧
    decode 0x1A203001_C0000002 = .ok (.grpId { fn := 2, ty := .i8, u := false, pd := false, src := .unary, ta := 0x001, tb := 0xC00, imm := 2 }) := by
  decide


/-! ### Single steps on a small state

The helpers give a small state: context 0 of one cell at the origin, running, with one firing latched or one request at its MU. -/

/-- An operand token with a value, of a kind. -/
def opd (k : BitVec 3) (v : Word) : Flit := { (homeFiring 0).l with kind := k, val := v }

/-- A firing of station 5 with the operands L and perhaps R and P. -/
def fireOf (l : Flit) (r p : Option Flit) : Ready := { homeFiring 0 with stn := 5, l := l, r := r, p := p }

/-- A firing with the values of L and R. -/
def fire2 (l r : Word) : Ready := fireOf (opd 0 l) (some (opd 0 r)) none

/-- Context 0 alone, with nothing ready. -/
def quiet : State := { placeWord State.reset 0 with agenda := [] }

/-- The small state with these firings latched. -/
def lit (Fs : List Ready) : State := { quiet with firing := Fs }

/-- The state that a step leaves; the state after reset if it leaves none. -/
def after (o : Host.Outcome State Fault Refusal) : State := match o with | .next t => t | _ => State.reset

/-- What a step sends to its own CU: kind, station and value of each token. -/
def sent (o : Host.Outcome State Fault Refusal) : List (Nat × Nat × Word) :=
  (after o).fab.arrivals.map fun a => (a.tok.kind.toNat, a.tok.stn.toNat, a.tok.val)

/-- The small state with one range of address space 0 that maps every address to itself. -/
def mapped (s : State) : State :=
  let r : RangeEnt := { vbase := 0, vlim := 2 ^ 44, pbase := 0, v := true, rd := true, wr := true, ws := false }
  { s with tr := { s.tr with spaces := [(0, { asReset with v := true, nrng := 1, ranges := some [r] })] } }

/-- The kinds of the faults that a step leaves recorded in context 0. -/
def raised (o : Host.Outcome State Fault Refusal) : Option Nat := (ctxOf (after o) 0).frec.map fun r => r.kind

/-- The fields of a word for the tests: TA is station 1, position L, and TB is discarded. -/
def wf1 (ty : Ty) (fn : BitVec 4) : Fields := { addF with ty := ty, fn := fn }

/-- R101, R133: 127 + 1 is -128 in I8, and the token carries it sign-extended. -/
theorem test_add_wraps : sent (exec (.add (wf1 .i8 0)) (lit [fire2 127 1])) = [(0, 1, 0xFFFFFFFFFFFFFF80)] := by decide
/-- R133: the high half of an unsigned product. -/
theorem test_mul_high : sent (exec (.mul (wf1 .n64 1)) (lit [fire2 0xFFFFFFFFFFFFFFFF 2])) = [(0, 1, 1)] := by decide
/-- R134: the one overflow of a signed division gives the dividend. -/
theorem test_div_overflow : sent (exec (.div (wf1 .i32 0)) (lit [fire2 0x80000000 0xFFFFFFFF])) = [(0, 1, 0xFFFFFFFF80000000)] := by decide
/-- R134: a zero divisor leaves the dividend as the remainder. -/
theorem test_rem_zero : sent (exec (.rem (wf1 .n16 0)) (lit [fire2 0x1234 0])) = [(0, 1, 0x1234)] := by decide
/-- R137: an amount of the width or more leaves copies of the sign. -/
theorem test_sar_far : sent (exec (.sar (wf1 .i64 0)) (lit [fire2 0x8000000000000000 200])) = [(0, 1, 0xFFFFFFFFFFFFFFFF)] := by decide
/-- R148: half a unit in the last place rounds to even. -/
theorem test_fadd_tie : sent (exec (.fadd (wf1 .f32 0)) (lit [fire2 0x3F800000 0x33800000])) = [(0, 1, 0x3F800000)] := by decide
/-- R106, R148: infinity minus infinity is the canonical NaN. -/
theorem test_fsub_nan : sent (exec (.fsub (wf1 .f32 0)) (lit [fire2 0x7F800000 0x7F800000])) = [(0, 1, 0x7FC00000)] := by decide
/-- R84: the target not taken gets null. -/
theorem test_steer_null :
    sent (exec (.steer { wf1 .i8 0 with tb := 0x402 }) (lit [fire2 7 0])) = [(1, 1, 0), (0, 2, 7)] := by decide
/-- R62: an end-of-fibre operand goes before a null one. -/
theorem test_eof_first :
    sent (exec (.add (wf1 .i64 0)) (lit [fireOf (opd 1 0) (some (opd 2 9)) none])) = [(2, 1, 9)] := by decide
/-- R142: an offset that leaves its field faults with 0x07. -/
theorem test_aidx_leaves : raised (exec (.aidx (wf1 .i64 0)) (mapped (lit [fire2 0x4000000000000000 0xFFFFFFFFFFFFFFFF]))) = some 7 := by decide
/-- R171: a load reads the CU's own pool, low byte first, extends by TY and answers with a reply. -/
theorem test_ld_pool :
    sent (exec (.ld { wf1 .n16 0 with src := .unary })
      { lit [fire2 0x8000000000000002 0] with mem := memBytes [] (locUnit homeCu 2) [0x34, 0x92] }) = [(6, 1, 0x9234)] := by decide
/-- R68, R83: the placed word, a constant, is what the very next step runs. -/
theorem test_step_runs :
    sent (step (State.withFetchWord State.reset 64 (0x02#8 ++ 0#4 ++ 0#4 ++ 0#1 ++ 0#1 ++ 0b11#2 ++ 0x001#12 ++ 0xC00#12 ++ 0xFFFFE#20).toNat)) =
      [(0, 1, 0xFFFFFFFFFFFFFFFE)] := by decide

/-! ### The hypotheses of the statements are met

For every statement that has hypotheses, states and operands that meet them together; where its clauses divide the values of one input,
one witness for each, at a boundary. -/

/-- The MU of the first cell, the home of its stations. -/
def homeMu : UId := { ctx := 0, copy := 0, x := 3, y := 0 }

/-- The MU that is the colour unit of context 0. -/
def colourMu : UId := { ctx := 0, copy := 0, x := 3, y := 0 }

/-- Fields with all of them zero. -/
def f0 : Fields := { addF with ty := .i64, ta := 0x001, tb := 0x402 }

/-- A request at the home MU. -/
def ask (i : Instr) (l : Word) (k : List Word) : Req := { mu := homeMu, i := i, c := fire2 l 0, k := k, iseq := 0 }

/-- The small state with one request at the home MU's port. -/
def asks (q : Req) : State := { quiet with mu := { quiet.mu with reqs := [q] } }

/-- The context of the small state. -/
def ctx0 : Ctx := ctxOf quiet 0

/-- The small state with its context changed. -/
def withCtx (g : Ctx → Ctx) (s : State) : State := updCtx s 0 g

/-- An issued copy object of a command at the home MU. -/
def copy0 (i : Instr) : Copy :=
  { mu := homeMu, id := 1, i := i, c := fire2 0 0, k := [0, 0, 0], st := .issued, rsn := 0, nch := 0, total := 1, sent := 0, cw := 0,
    src := 0, dst := 0, len := 64, maps := [], timer := none, crfail := false, resv := none, strm := [], pos := 0, n := 0, cnt := 0,
    aux := [], toks := [], toks2 := [], left := false }

/-- The small state with one copy object. -/
def copying (p : Copy) : State := { quiet with cp := { quiet.cp with copies := [p] } }

/-- An armed slot of context 0 with one arrival outstanding. -/
def bar0 : Bar := { exp := 1, pnd := 1, txb := 0, par := false, st := .armed, lvl := 0, own := 0, units := [], done := [], owed := false, away := 0 }

/-- The state with that slot at the start of the home MU's scratchpad. -/
def barred (b : Bar) (s : State) : State := { s with cp := { s.cp with bars := [(locUnit homeMu 0, some b)] } }

/-- A fixed ring of four 64-byte slots at offset 64, nothing in it. -/
def ring0 : Ring :=
  { base := 64, kd := false, bnd := false, own := 0, sz := 64, cnt := 4, rp := 0, wp := 0, rsv := 0, rl := 0, free := 4, fill := 0, bpx := 0,
    bpy := 0, bmod := 0, net := none, held := 0 }

/-- The state with that ring's header at the start of the home MU's scratchpad. -/
def ringed (r : Ring) (s : State) : State := { s with cp := { s.cp with rings := [(locUnit homeMu 0, some r)] } }

theorem witness_EmitFormsAndRoutesTheToken :
    tgtPos 0xC00 = 3 ∧ tgtPos 0xBFF ≠ 3 ∧ tgtPos 0x000 ≠ 3 ∧ tgtRoute 0x07F = 0 ∧ tgtRoute 0x080 = 1 ∧ tgtRoute 0xBFF = 7 ∧
    emitsTokens (ctxOf quiet (fire2 1 2).u.ctx) = true ∧ onModule (ctxOf quiet (fire2 1 2).u.ctx) (fire2 1 2).u.x = true := by decide

/-- R62: one firing of each outcome. -/
theorem witness_OperandKindsAndSettledFirings :
    settle true (fire2 1 2) = .go ∧ settle true (fireOf (opd 1 0) (some (opd 0 1)) none) = .null ∧
    settle true (fireOf (opd 0 1) (some (opd 0 1)) (some (opd 0 0))) = .null ∧
    settle true (fireOf (opd 1 0) (some (opd 2 9)) none) = .eof 9 ∧
    [opd 1 0, opd 2 9].find? (fun t => t.kind == 2) = some (opd 2 9) ∧
    (lit [fireOf (opd 2 9) none none]).firing ≠ [] := by decide

/-- Two firings that compute, for the statements about what their stations send. -/
theorem witness_values : Claims.Computes true (lit [fire2 1 2, fire2 3 4]) ∧ (lit [fire2 1 2, fire2 3 4]).firing ≠ [] := by
  unfold Claims.Computes; decide

/-- The branches of division, minimum, saturation and comparison. -/
theorem witness_LogicalDivisionAndOneOperandResults :
    Claims.Computes true (lit [fire2 0x80 0xFF]) ∧ Claims.b (wf1 .i8 0) (fire2 1 0) quiet = 0 ∧
    Claims.a (wf1 .i8 0) (fire2 0x80 0xFF) = -2 ^ (tyW .i8 - 1) ∧ Claims.b (wf1 .i8 0) (fire2 0x80 0xFF) quiet = -1 ∧
    Claims.a (wf1 .i8 0) (fire2 0x80 0) = tyMin .i8 ∧ (wf1 .i8 5).fn = BitVec.ofNat 4 5 := by
  unfold Claims.Computes; decide

/-- R140: firings without and with a carry, which a predicate of 0 does not hold back. -/
theorem witness_ArithmeticAndCarryResults :
    Claims.Computes true (lit [fire2 1 2]) ∧
    (∀ F ∈ (lit [fire2 1 2, fireOf (opd 0 1) (some (opd 0 1)) (some { opd 0 0 with chn := true })]).firing,
      settle (!isCarry F) F = .go) := by
  unfold Claims.Computes; decide

/-- R139, R142: the widest field, and a pointer whose move stays inside and one whose move leaves. -/
theorem witness_BitAndIndexResults :
    Claims.Computes true (lit [fire2 0x40000000000FFFFF 1]) ∧ fld { f0 with imm := 0x00FC0 } 0 6 + fld { f0 with imm := 0x00FC0 } 6 6 + 1 ≤ 64 ∧
    tySgn .n64 = false ∧ tySgn .i64 = true := by
  unfold Claims.Computes; decide

/-- R84 to R90: a control of every sort. -/
theorem witness_SteeringInstructionEffects :
    let F := fireOf (opd 0 7) (some (opd 0 1)) none
    (lit [F]).firing = [F] ∧ F.r = some (opd 0 1) ∧ (∀ G ∈ (lit [F]).firing, G.r.isSome) ∧
    (fireOf (opd 0 7) none (some (opd 0 0))).p = some (opd 0 0) ∧ (opd 2 0).kind = 2 ∧ (opd 1 0).kind = 1 ∧
    rightOp (wf1 .i8 0) F (lit [F]) ≠ 0 ∧ rightOp (wf1 .i8 0) (fire2 7 0) quiet = 0 ∧ (wf1 .i8 1).fn = 1 := by decide

/-- A frame of station 5 of the small state's CU, with window 4 and one exit. -/
def frame0 : Frame :=
  { u := homeCu, stn := 5, col := 0, outer := 9, w := 4, e := 1, base := 0, head := 1, retired := 0, exitn := none, exits := 0 }

/-- The small state with that frame, a firing latched. -/
def looping (F : Ready) (r : Frame) : State := { lit [F] with fab := { quiet.fab with frames := [r] } }

/-- R72, R91 to R96: a frame that the firing finds, an iteration in its window, one below it, and none. -/
theorem witness_LoopFramesAndTags :
    let s := looping (fire2 1 2) frame0
    s.firing = [fire2 1 2] ∧ frameOf s homeCu (fld { f0 with imm := 5 } 0 7) 0 = some frame0 ∧ fullIter frame0 0 = some 0 ∧
    frame0.base ≤ 0 ∧ frame0.retired.getLsbD 0 = false ∧
    fullIter { frame0 with base := 3, head := 4 } 2 = some 2 ∧ fullIter frame0 2 = none ∧
    frameOf quiet homeCu 5 0 = none ∧ settle true (fire2 1 2) = .go ∧ settleOver [opd 0 1] (falseP (fire2 1 2)) = .go := by decide

theorem witness_FloatArithmeticRoundsTheExactValueOnce :
    Claims.Computes true (lit [fire2 0x3F800000 0x33800000]) ∧
    (∀ F ∈ (lit [fireOf (opd 0 1) (some (opd 0 1)) (some (opd 0 0))]).firing, settle false F = .go) ∧
    Claims.xa (wf1 .f32 0) (fire2 0x7FC00000 0) = .nan := by
  unfold Claims.Computes; decide

/-- R151 to R154: operands of every sort that the statement names. -/
theorem witness_FloatSelectionSignAndComparisonResults :
    Claims.Computes true (lit [fire2 0x3F800000 0x33800000]) ∧ (wf1 .f32 0).src ≠ .immd ∧
    Claims.xa (wf1 .f32 0) (fire2 0x7FC00000 0) = .nan ∧ Claims.xa (wf1 .f32 0) (fire2 0xFF800000 0) = .inf true ∧
    (∃ d e, Claims.xa (wf1 .f32 0) (fire2 0x80000000 0) = .fin true 0 d e) ∧
    Ex.cmp (Claims.xa (wf1 .f32 0) (fire2 0x3F800000 0)) (Claims.xa (wf1 .f32 0) (fire2 0x40000000 0)) = .lt ∧
    Ex.cmp (Claims.xa (wf1 .f32 0) (fire2 0 0)) (Claims.xa (wf1 .f32 0) (fire2 0x80000000 0)) = .eq ∧
    (wf1 .f32 7).fn = BitVec.ofNat 4 7 := by
  refine ⟨by unfold Claims.Computes; decide, by decide, by decide, by decide, ⟨_, _, rfl⟩, by decide, by decide, by decide⟩

theorem witness_FloatConversionResults :
    Claims.Computes true (lit [fire2 0x3F800000 0x33800000]) ∧ (wf1 .f16 0).ty ≠ .i8 ∧ (wf1 .i8 0).ty = .i8 := by
  unfold Claims.Computes; decide

/-- R159: the special operands. -/
theorem witness_FunctionResultsAndSpecialOperands :
    Claims.Computes true (lit [fire2 0xBF800000 0]) ∧ (∀ F ∈ (lit [fire2 0xFF800000 0]).firing, Claims.xa (wf1 .f32 0) F = .inf true) ∧
    (∀ F ∈ (lit [fire2 0x7F800000 0]).firing, Claims.xa (wf1 .f32 0) F = .inf false) ∧
    (∃ d e, d ≠ 0 ∧ Claims.xa (wf1 .f32 0) (fire2 0x80000000 0) = .fin true 0 d e) ∧
    (∃ d e, d ≠ 0 ∧ Claims.xa (wf1 .f32 0) (fire2 0 0) = .fin false 0 d e) ∧
    (∃ m d e, m ≠ 0 ∧ Claims.xa (wf1 .f32 0) (fire2 0xBF800000 0) = .fin true m d e) := by
  refine ⟨by unfold Claims.Computes; decide, by decide, by decide, ⟨_, _, ?_, rfl⟩, ⟨_, _, ?_, rfl⟩, ⟨_, _, _, ?_, rfl⟩⟩ <;> decide

/-- A call record of colour 1 that waits for its one argument. -/
def rec0 : CallRec :=
  { copy := 0, col := 1, pcol := 0, pitr := 0, sx := 0, sy := 0, ss := 5, narg := 1, nrec := 0, state := .opened, cm := false, tries := 0,
    site := 0, fwd := 0, args := List.replicate 7 none }

/-- The small state with that record and a firing. -/
def calling (F : Ready) (r : CallRec) : State := withCtx (fun x => { x with recs := [r], rcache := [(0, r.col)] }) (mapped (lit [F]))

/-- R97 to R100, R77: no record yet, an OPEN record and the one argument it still takes, and one whose slot is beyond its count. -/
theorem witness_ColourInstructionEffects :
    let F := fire2 7 1
    let s := calling F rec0
    s.firing = [F] ∧ hubHere (ctxOf s 0) = true ∧ settle true F = .go ∧ recOf (ctxOf s 0) 0 1 = some rec0 ∧
    recOf (ctxOf quiet 0) 0 1 = none ∧ F.r = some (opd 0 1) ∧ rec0.args.getD 0 none = none ∧ (0 : Nat) < rec0.narg ∧ rec0.narg ≤ 1 ∧
    (let c := calling (fire2 7 1) { rec0 with col := 0, state := .live }
     let w := touchRec c 0 0 (fcol F)
     isLive (ctxOf w 0) = true ∧ (usedRec (ctxOf w 0) 0 (fcol F)).isSome) ∧
    (let w := touchArg s 0 0 1
     isLive (ctxOf w 0) = true ∧ (usedRec (ctxOf w 0) 0 1).isSome) ∧
    translateNow s (ctxOf s 0) .write ((ctxOf s 0).crb + 128 * 1) = .ok ⟨128, none, false⟩ := by decide

/-- R369 to R376, R409, R482: a running context, a draining one, both settings of the breakpoint enable, and a declared level. -/
theorem witness_ControlInstructionEffects :
    let F := fire2 7 1
    let s := lit [F]
    let d := withCtx (fun x => { x with cst := .draining, freezing := true }) s
    s.firing = [F] ∧ settle true F = .go ∧ s.ctxs.find? (fun y => y.id == F.u.ctx) = some ctx0 ∧ ctx0.cst = .running ∧ ctx0.purges = [] ∧
    d.ctxs.find? (fun y => y.id == F.u.ctx) = some { ctx0 with cst := .draining, freezing := true } ∧ d.firing = [F] ∧
    F.again = false ∧ { F with again := true }.again = true ∧
    (dieReg (updDie s 0 fun k => { k with bke := 1 }) (dieOf s F.u)).bke.getLsbD 0 = true ∧ (dieReg s (dieOf s F.u)).bke.getLsbD 0 = false ∧
    ctx0.members.length ≤ 1 ∧ ctx0.member = 0 ∧ F.u.copy = 0 ∧ onModule ctx0 (routeDest s F.u (tgtRoute 0x001)).x = true ∧
    (routeDest s F.u (tgtRoute 0x001)).ctx = 0 ∧ fcol F = 0 ∧
    windowFault ctx0 (poolSize ctx0) [0, 1, 2, 3] 0x4000000000000000 64 = none ∧
    windowFault ctx0 (poolSize ctx0) [0, 1, 2, 3] 0x8000000000000040 64 = none ∧
    groupAt { ctx0 with groups := [⟨1, 1, 1⟩] } 1 = some ⟨1, 1, 1⟩ ∧ groupAt ctx0 0 = none := by decide

/-- R409 to R486: a secure context and a normal one, both kinds of selector, and every branch of an injection. -/
theorem witness_RegisterReadingInstructionEffects :
    let F := fire2 1 0
    let s := withCtx (fun x => { x with world := 1 }) (lit [F])
    s.firing = [F] ∧ settle true F = .go ∧ (ctxOf s 0).world ≠ 0 ∧ (ctxOf (lit [F]) 0).world = 0 ∧ F.l.val.toNat < 2 ^ 27 ∧
    2 ^ 27 ≤ (fire2 0x8000000 0).l.val.toNat ∧ (injOf s (injDie s F)).iar = false ∧ injInside s F = true ∧ F.l.val.toNat % 8 = 1 ∧
    injInside s (fire2 0xFE01 0) = false ∧ (injOf (setInj s 0 { ik := 1, ibt := 0, ix := 0, iy := 0, iof := 0, iar := true }) (injDie s F)).iar = true ∧
    inPaddock (ctxOf s 0) (wearSite F).1 (wearSite F).2 = true ∧ onModule (ctxOf s 0) (wearSite F).1 = true := by decide

/-- R163 to R165: the last byte of every window and the first of the next, and the last valid pointer of each. -/
theorem witness_PointerWindowChecks :
    let w (p : Word) (n : Nat) := windowFault ctx0 (poolSize ctx0) [0, 1, 2, 3] p n
    w 0x3FFFFFFFFFFFFFFF 2 = some 0x06 ∧ w 0x7FFFFFFFFFFFFFFF 2 = some 0x06 ∧ w 0xFFFFFFFFFFFFFFFF 2 = some 0x06 ∧
    w 0x01FFFFFFFFFFFFF8 8 = none ∧ w 0x01FFFFFFFFFFFFF9 8 = some 0x07 ∧ w 0x40000000000FFFF8 8 = none ∧ w 0x4000000000100000 8 = some 0x07 ∧
    w 0x8000000000037FF8 8 = (if poolSize ctx0 = 0x38000 then none else w 0x8000000000037FF8 8) ∧ w 0xFFFFFFFFFFFFFFF8 8 = none ∧
    windowFault ctx0 (poolSize ctx0) [1] 0 8 = some 0x07 := by decide

/-- A pointer of every window that a memory instruction takes, and one that none takes. -/
theorem witness_MemoryFamilyAtIssue :
    let F := fire2 0x8000000000000008 5
    (lit [F]).firing = [F] ∧ settle true F = .go ∧ settle false F = .go ∧
    shiftPtr F.l.val (dispOf f0) = some 0x8000000000000008 ∧ winOf F.l.val = 2 ∧ windowFault ctx0 (poolSize ctx0) [2] F.l.val 8 = none ∧
    offOf F.l.val % 8 = 0 ∧ offOf (0x8000000000000009 : Word) % 8 ≠ 0 ∧ winOf 0x4000000000000000 = 1 ∧
    windowFault ctx0 (poolSize ctx0) [0, 1, 3] 0x4000000000000000 8 = none ∧ windowFault ctx0 (poolSize ctx0) [1] 0x4000000000000000 8 = none ∧
    windowFault ctx0 (poolSize ctx0) [1] 0xC000000000000000 8 = some 0x07 ∧ homePtr f0 (fire2 0xFFFF8 0) = some 0x40000000000FFFF8 ∧
    homePtr { f0 with imm := 0x00008 } (fire2 0xFFFF8 0) = none ∧ shiftPtr 0 (dispOf { f0 with imm := 0xFFFFF }) = none ∧
    winOf 0xC000000000000000 = 3 ∧ windowFault ctx0 (poolSize ctx0) [0, 1, 3] 0 8 = none ∧
    { homeFiring 0 with u := { homeCu with copy := 1 } }.u.copy ≠ 0 ∧ onModule ctx0 homeMu.x = true := by decide

/-- R186, R192: an aligned and a misaligned access of the home scratchpad, and a store that the phase buffer takes. -/
theorem witness_ScratchpadLoadsAndStoresServed :
    let q := ask (.ld f0) 0x4000000000000008 []
    let r := ask (.st f0) 0x4000000000000008 [7]
    let o : StoreOp := { la := muPtr homeMu 0, loc := locUnit homeMu 0, off := 8, bytes := leBytes 7 8, ntag := none, page := none, host := false }
    (Claims.Oldest (asks q) q ∧ Claims.Oldest (asks r) r) ∧ shiftPtr q.c.l.val (dispOf f0) = some 0x4000000000000008 ∧
    winOf 0x4000000000000008 = 1 ∧ muNamed q.c.u 0x4000000000000008 = homeMu ∧ offOf 0x4000000000000008 % 8 = 0 ∧
    offOf 0x4000000000000009 % 8 ≠ 0 ∧ liveFault (asks q) (locUnit homeMu 8) 8 = none ∧ readFails (asks q) (locUnit homeMu 8) = false ∧
    liveFault (barred bar0 (asks q)) (locUnit homeMu 8) 8 ≠ none ∧ (acceptStore (Claims.taken (asks r) r) r o).isSome := by
  unfold Claims.Oldest; decide

/-- R194 to R197, R201: a described line, its format read and written, an element within it and one beyond, and a prefetch of a pool, an
invalid and a global pointer. -/
theorem witness_LineAccessesAndPrefetchServed :
    let q := ask (.ldl f0) 0x4000000000000000 [15]
    let s := { asks q with mtag := [(locUnit homeMu 0 / 64, 0x0002)] }
    Claims.Oldest s q ∧ winOf q.c.l.val = 1 ∧ liveFault s (locUnit homeMu 0) 64 = none ∧ ownTag s q.mu q.c (muPtr homeMu 0) = none ∧
    (lineFmtOf ((lineTag s (locUnit homeMu 0)).extractLsb' 0 8).toNat).isSome ∧ lineFmtOf 0x08 = none ∧ offOf q.c.l.val % 64 = 0 ∧
    readFails s (locUnit homeMu 0) = false ∧ (lineFmtOf 0x02).isSome ∧ liveFault s (locUnit homeMu 0 + 60) 4 = none ∧
    liveFault (barred bar0 s) (locUnit homeMu 0) 4 ≠ none ∧ liveFault (barred bar0 s) (locUnit homeMu 0 + 60) 4 = none ∧
    (acceptStore (Claims.taken s q) q { la := muPtr homeMu 0, loc := locUnit homeMu 0, off := 0, bytes := [], ntag := some 0x0002, page := none,
                                        host := false }).isSome ∧
    pfchVa quiet homeMu 0xC000000000000000 = none ∧ pfchVa quiet homeMu 0 = some 0 ∧
    (lookUp (mapped quiet) homeMu ctx0 .read 0).isSome ∧
    lookUp { quiet with tr := { quiet.tr with spaces := [(0, { asReset with v := true, ranges := some [] })] } } homeMu ctx0 .read 0 = none := by
  unfold Claims.Oldest; decide

/-- R187, R193, R205: a global load with a mapped address, one whose address space is not valid, and a load that has been translated. -/
theorem witness_GlobalAccessesServed :
    let q := ask (.ld f0) 8 []
    let s := mapped (asks q)
    let g : GAccess := { req := q, va := 8, phys := 8 }
    Claims.Oldest s q ∧ shiftPtr q.c.l.val (dispOf f0) = some 8 ∧ winOf 8 ≠ 1 ∧ resolveVa (Claims.taken s q) homeMu 8 8 8 false = .ok 8 ∧
    (match translate (Claims.taken s q) q .read 8 with | .ok a t => a.phys == 8 && !allOwn t q (lineVa 8) 8 8 | _ => false) = true ∧
    (match translate (Claims.taken (asks q) q) q .read 8 with | .fault _ => true | _ => false) = true ∧
    (match resolveVa (Claims.taken s q) homeMu 9 8 8 false with | .error _ => true | _ => false) = true ∧
    ({ s with mu := { s.mu with loads := [g] } }.mu.loads.filter fun (g : GAccess) => g.req.mu == homeMu)[0]? = some g := by
  unfold Claims.Oldest; decide

set_option maxRecDepth 8192 in
/-- R198, R200: a word of each state, and an aligned and a misaligned offset. -/
theorem witness_WriteOnceWordsServed :
    let q := ask (.isRd f0) 0x4000000000000008 []
    let s := asks q
    let e (n : Nat) := { s with mu := { s.mu with isst := [(locUnit homeMu 8 / 8, n)] } }
    Claims.Oldest s q ∧ shiftPtr q.c.l.val (dispOf f0) = some 0x4000000000000008 ∧ offOf 0x4000000000000008 % 8 = 0 ∧
    offOf 0x4000000000000009 % 8 ≠ 0 ∧ liveFault s (locUnit homeMu 8) 8 = none ∧ isState s (locUnit homeMu 8) = 0 ∧
    isState (e 1) (locUnit homeMu 8) = 1 ∧ isState (e 2) (locUnit homeMu 8) = 2 ∧ readFails s (locUnit homeMu 8) = false ∧
    (freeWaiter s homeMu).isSome ∧ fcol q.c = 0 := by
  unfold Claims.Oldest; decide

set_option maxRecDepth 8192 in
/-- R211 to R214: an atomic at the home bank, a threshold that it crosses, an AWAIT that must wait, and a global atomic at its word. -/
theorem witness_AtomicsPerformed :
    let q := ask (.aadd f0) 0x4000000000000008 [5]
    let s := asks q
    let g : GAccess := { req := ask (.acas f0) 8 [5], va := 8, phys := 8 }
    Claims.Oldest s q ∧ winOf q.c.l.val = 1 ∧ offOf q.c.l.val % tyBytes f0.ty = 0 ∧ liveFault s (locUnit homeMu 8) 8 = none ∧
    isState s (locUnit homeMu 8) = 0 ∧ readFails s (locUnit homeMu 8) = false ∧ intOf f0.ty (BitVec.ofNat 64 (rdN s (locUnit homeMu 8) 8)) < intOf f0.ty 5 ∧
    (freeWaiter s homeMu).isSome ∧ ({ s with mu := { s.mu with atomics := [g] } }.mu.atomics.filter fun (g : GAccess) => g.req.mu == homeMu)[0]? = some g ∧
    fieldsOf g.req.i = some f0 ∧ g.req.c.pair = none ∧ fcol q.c = 0 := by
  unfold Claims.Oldest; decide

/-- R204 to R209: an allocation that fits, one of length 0, one of 2^44, one beyond the heap, a live capability and a freed one. -/
theorem witness_CapabilityInstructionEffects :
    let F := fire2 64 0
    let s := withCtx (fun x => { x with ctb := 0x10000, rvb := 0x20000, hbase := 0x1000, hsize := 64, htop := 0x1000 }) (mapped (lit [F]))
    let x := ctxOf s 0
    let p : Word := 0xC000100000000000
    let e : CapEnt := { base := 0x1000, len := 64, root := 1, w := true, v := true }
    let t := { withCtx (fun x => { x with nextidx := 2 }) s with mem := memBytes [] 0x10010 (capBytes e) }
    s.firing = [F] ∧ settle true F = .go ∧ hubHere x = true ∧ F.u.copy = 0 ∧ F.pair = none ∧ (0 : Word).toNat = 0 ∧
    2 ^ 44 ≤ (0x100000000000 : Word).toNat ∧ F.l.val.toNat ≠ 0 ∧ x.nextidx < 2 ^ 18 ∧ (0x1000 + 64 - 1) / 64 * 64 + 64 ≤ x.hbase + x.hsize + 63 ∧
    s.ctxs.find? (fun y => y.id == F.u.ctx) = some x ∧
    translateNow s x .write (x.ctb + 16 * x.nextidx) = .ok ⟨0x10010, none, false⟩ ∧
    winOf p = 3 ∧ capIdx p = 1 ∧ (match capLive t homeMu p with | .ok k => k == e | .error _ => false) = true ∧
    (match capLive { t with mem := memBytes t.mem 0x20000 [2] } homeMu p with | .ok _ => false | .error _ => true) = true ∧
    (match capDeref t homeMu p 64 false with | .ok va => va == 0x1000 | .error _ => false) = true ∧
    (match capEntry t homeMu 1 with | .ok k => k == e | .error _ => false) = true := by decide

/-- R229 to R233, R264: a slot's and a header's pointer, and one at the end of the scratchpad where neither fits. -/
theorem witness_BarrierAndRingInstructionsAtIssue :
    let F := fire2 0x4000000000000020 0x4000000000000020
    (lit [F]).firing = [F] ∧ settle true F = .go ∧ shiftPtr F.l.val (dispOf f0) = some 0x4000000000000020 ∧
    windowFault ctx0 (poolSize ctx0) [1] F.l.val 16 = none ∧ windowFault ctx0 (poolSize ctx0) [1] F.l.val 32 = none ∧
    windowFault ctx0 (poolSize ctx0) [1] 0x40000000000FFFF0 16 = none ∧ windowFault ctx0 (poolSize ctx0) [1] 0x40000000000FFFF8 16 = some 0x07 ∧
    windowFault ctx0 (poolSize ctx0) [1] 0x40000000000FFFF0 32 = some 0x07 ∧
    shiftPtr 0x4000000000000000 (dispOf { f0 with imm := 0xFFFFF }) = none ∧
    shiftPtr (rightOp f0 F (lit [F])) (dispOf f0) = some 0x4000000000000020 ∧ offOf 0x4000000000000020 % 32 = 0 ∧ offOf 0x4000000000000030 % 32 ≠ 0 := by
  decide

set_option maxRecDepth 8192 in
/-- R215 to R233: no slot; an ARMED, a COMPLETING and an IDLE slot; a count that fits, one of 0 and one beyond; both parities. -/
theorem witness_BarrierSlotsServed :
    let q := ask (.barArrive f0) 0x4000000000000000 [1]
    let s := barred bar0 (asks q)
    Claims.Oldest s q ∧ shiftPtr q.c.l.val (dispOf f0) = some 0x4000000000000000 ∧ offOf 0x4000000000000000 % 16 = 0 ∧
    offOf 0x4000000000000008 % 16 ≠ 0 ∧ barAt (asks q) (locUnit homeMu 0) = none ∧
    barAt (evalBar homeMu 0 (Claims.taken s q)) (locUnit homeMu 0) = some bar0 ∧ bar0.own = q.c.u.ctx ∧ bar0.st ≠ .idle ∧
    inBarGroup (evalBar homeMu 0 (Claims.taken s q)) homeMu bar0.lvl q.c.u = true ∧ inBarGroup (asks q) homeMu 0 q.c.u = true ∧
    (1 ≤ 1 ∧ 1 ≤ bar0.pnd) ∧ bar0.pnd < 2 ∧ bar0.txb + 1 ≤ 2 ^ 31 - 1 ∧ liveFault (asks q) (locUnit homeMu 0) 16 = none ∧
    isState (asks q) (locUnit homeMu 0) = 0 ∧ waitersOn (evalBar homeMu 0 (Claims.taken s q)) homeMu 2 0 = [] ∧
    (∀ k < 16, inRing s (locUnit homeMu 0 + k) = false) ∧ (∃ k < 16, inRing (ringed ring0 (asks q)) (locUnit homeMu 0 + k) = true) ∧
    (freeWaiter (asks q) homeMu).isSome ∧ inBarGroup (asks q) homeMu 7 q.c.u = false ∧
    barAt (barred { bar0 with st := .completing } quiet) (locUnit homeMu 0) = some { bar0 with st := .completing } ∧
    barAt (barred { bar0 with st := .idle } quiet) (locUnit homeMu 0) = some { bar0 with st := .idle } := by
  unfold Claims.Oldest; decide

/-- R219 to R221, R264, R265, R273: a slot that completes, one that is released, a held request, a free ring asked for, and its answer. -/
theorem witness_BarrierAndRingEvents :
    let b := { bar0 with pnd := 0 }
    let q := ask (.ringBind f0) 0 [0x4000000000000000]
    let m : BindMsg := { mu := { homeMu with x := 7 }, ring := homeMu, off := 0, reply := false, free := 0, rsv := 0, kd := false, sz := 0, cnt := 0 }
    let w := withCtx (fun x => { x with pw := 2 }) quiet
    let r : Retry := { req := ask (.barWait f0) 0x4000000000000000 [0], off := 0, due := true }
    barAt (barred b quiet) (locUnit homeMu 0) = some b ∧ barsRun (ctxOf quiet 0) = true ∧ hostBlocks quiet 0 (fun _ => true) = [] ∧ isRedundant (ctxOf quiet 0) = false ∧
    (ctxOf quiet 0).members.length ≤ 1 ∧ b.st = .armed ∧ b.pnd = 0 ∧ b.txb = 0 ∧
    barAt (barred { b with st := .completing } quiet) (locUnit homeMu 0) = some { b with st := .completing } ∧ b.owed = false ∧ b.away = 0 ∧
    { quiet with cp := { quiet.cp with retry := [r] } }.cp.retry.find? (fun r => r.req.mu == homeMu && r.due) = some r ∧
    Claims.Oldest (asks q) q ∧ bindingOf (asks q) homeMu homeMu 0 = none ∧ ((asks q).cp.binds.filter fun b => b.mu == homeMu).length < 8 ∧
    ({ w with cp := { w.cp with bindMsgs := [m] } }.cp.bindMsgs.filter fun (m : BindMsg) => !m.reply)[0]? = some m ∧
    ringAt (ringed ring0 w) (locUnit homeMu 0) = some ring0 ∧ ring0.own = m.ring.ctx ∧ m.ring ≠ m.mu ∧ ring0.rsv = ring0.wp ∧
    fillsRing (ringed ring0 w) homeMu homeMu 0 = false ∧ onModule (ctxOf w 0) m.mu.x = true ∧ ring0.sz ≠ 0 := by
  unfold Claims.Oldest; decide

set_option maxRecDepth 8192 in
/-- R256 to R273: no header; one with a free description; one with nothing, with a message, with a claimed one. -/
theorem witness_RingInstructionsServed :
    let q := ask (.ringInit f0) 0x4000000000000000 [0x0080004000000040]
    let s := asks q
    let r := { ring0 with fill := 1, free := 3, wp := 1, rsv := 1 }
    let c := { r with fill := 0, rp := 1, held := 1 }
    Claims.Oldest s q ∧ shiftPtr q.c.l.val (dispOf f0) = some 0x4000000000000000 ∧ offOf 0x4000000000000000 % 32 = 0 ∧
    ringAt s (locUnit homeMu 0) = none ∧ barAt s (locUnit homeMu 0) = none ∧ barAt s (locUnit homeMu 0 + 16) = none ∧
    (∀ k ∈ [0, 8, 16, 24], isState s (locUnit homeMu 0 + k) = 0) ∧ ringDescOk 0x0080004000000040 0 = true ∧
    ringAt (ringed r s) (locUnit homeMu 0) = some r ∧ r.own = q.c.u.ctx ∧ 1 ≤ r.fill ∧ r.kd = false ∧ ring0.fill = 0 ∧
    (freeWaiter (Claims.taken s q) homeMu).isSome ∧ 1 ≤ c.held ∧ muPtr homeMu (payOff c c.rl) = 0x4000000000000040 ∧ c.bnd = false ∧
    ring0.net = none ∧ waitersOn (ringed ring0 s) homeMu 3 0 = [] ∧ ring0.rsv = ring0.wp ∧ fillsRing (ringed ring0 s) homeMu homeMu 0 = false := by
  unfold Claims.Oldest; decide

theorem witness_CommandsAtIssueAndAtThePort :
    let F := fire2 1 2
    let q := ask (.send f0) 0x4000000000000000 [0x4000000000001000, 0, 0]
    (lit [F]).firing = [F] ∧ settle true F = .go ∧ settle false F = .go ∧ Claims.Oldest (asks q) q ∧ (ctxOf (asks q) q.c.u.ctx).cst = .running := by
  unfold Claims.Oldest; decide

/-- A map of `d0` elements of the format `ef` at a pointer, all other dimensions 1. -/
def map0 (base : Word) (ef : BitVec 4) (d0 : BitVec 32) : BitVec 512 :=
  (0x800000000000000#60 ++ ef) ++ 0#64 ++ 0#64 ++ 0#64 ++ 0x0000000100000001#64 ++ (1#32 ++ d0) ++ 0#64 ++ base

/-- The small state with that map in entry 0 of its CU. -/
def withMap (d : BitVec 512) (s : State) : State := { s with tn := { s.tn with maps := [(uKey homeCu * 16, d)] } }

/-- The small state with one command at the head of the home MU's queue. -/
def queued (q : Req) (s : State) : State := { s with cp := { s.cp with queue := [q] } }

/-- A push that is accepted and one whose source lies outside; a map copy; streams both ways; and status entries of every sort. -/
theorem witness_CopyAcceptanceAndStatus :
    let q := ask (.send f0) 0x4000000000000000 [0x4000000000001000, 0x0000004000000000, 0]
    let s := queued q quiet
    let d := map0 0x4000000000000000 6 4
    let w := ask (.stream f0) 0 [0, 0, 0]
    let c := ask (.cstat f0) 1 []
    let t := { asks c with cp := { quiet.cp with copies := [{ copy0 (.send f0) with st := .complete }] } }
    s.cp.queue.find? (fun q => q.mu == homeMu) = some q ∧ isRunning (ctxOf s q.c.u.ctx) = true ∧ (ctxOf s q.c.u.ctx).freezing = false ∧
    tableFull s homeMu = false ∧ sourceWaits q.c (sourceRanges q s) s = none ∧ (match acceptPush q quiet with | .ok _ => true | .error _ => false) = true ∧
    (match acceptPush (ask (.send f0) 0x400000000000FFFF0 [0, 0x0000004000000000, 0]) quiet with | .ok _ => false | .error _ => true) = true ∧
    (match acceptMap (ask (.copy f0) 0x4000000000000000 [0, 0, 0]) (mapped (withMap (map0 0 6 4) quiet)) with | .ok _ => true | .error _ => false) = true ∧
    (match acceptMap (ask (.copy f0) 0x4000000000000000 [0, 0, 0]) quiet with | .ok _ => false | .error _ => true) = true ∧
    (match acceptStream w (withMap d quiet) with | .ok _ => true | .error _ => false) = true ∧
    (match acceptStream w quiet with | .ok _ => false | .error _ => true) = true ∧
    (match acceptStreamw (ask (.streamw f0) 0 [0, 0, 0]) (withMap d quiet) with | .ok _ => true | .error _ => false) = true ∧
    (match acceptStreamw (ask (.streamw f0) 0 [0, 0, 0]) quiet with | .ok _ => false | .error _ => true) = true ∧
    (let g := ask (.send f0) 8 [0x4000000000001000, 0x0000000800000000, 0]
     let e : PbEntry := { mu := homeMu, shadow := false, direct := false, la := 0, data := 0, mask := 0xFF00, loc := 0, col := 0, itr := 0, sx := 0, sy := 0,
                          ss := 5, seq := 0, ntag := none, page := none, host := true, tagAt := 0, tagSeq := 0, stamps := [], bseqs := [] }
     let w := queued g { mapped quiet with mu := { quiet.mu with pbuf := [e] },
                                           tr := { (mapped quiet).tr with regions := [{ idx := 0, num := 0, own := .host, since := 0, snoop := false }] } }
     (sourceWaits g.c (sourceRanges g w) w).isSome) ∧
    Claims.Oldest t c ∧ copyOf t homeMu 1 = some { copy0 (.send f0) with st := .complete } ∧ isChunkCopy (.send f0) = true ∧
    copyOf (asks c) homeMu 1 = none := by
  unfold Claims.Oldest; decide +kernel

/-- R237 to R242: a copy in every state, its chunk in order, repeated and early, its acknowledgements and its release. -/
theorem witness_ByteCopyEvents :
    let p := copy0 (.send f0)
    let k : Chunk := { src := homeMu, dst := homeMu, id := 1, idx := 0, last := true, off := 0, bytes := [7], tags := [], op := .plain, ring := none,
                       cw := 0 }
    let e : CommitEnt := { dst := homeMu, mu := homeMu, id := 1, nxt := 0, sum := 0 }
    let a : ChunkAck := { mu := homeMu, id := 1, idx := 0, busy := false, since := 0, sum := 0 }
    let s := copying p
    copyOf s homeMu 1 = some p ∧ isChunkCopy p.i = true ∧ engineRuns (ctxOf s p.mu.ctx) = true ∧ p.st = .issued ∧ (ctxOf s p.mu.ctx).cst = .running ∧
    servedCount s p.mu < 4 ∧ busyWait s p = false ∧ takesTurn s p = true ∧ takesTurn s { p with id := 2 } = false ∧ isRingSend p.i = false ∧
    isMoving { p with st := .streaming } = true ∧ onModule (ctxOf s 0) homeMu.x = true ∧ p.nch < { p with sent := 1 }.sent ∧
    4096 ≤ { p with timer := some 4096 }.timer.getD 0 ∧
    { s with cp := { s.cp with acks := [{ a with busy := true }] } }.cp.acks.find? (fun (a : ChunkAck) => a.mu == homeMu && a.id == 1 && a.busy) =
      some { a with busy := true } ∧
    { a with busy := true }.since + 64 ≤ { s with clock := 64 }.clock ∧
    (({ s with cp := { s.cp with chunks := [k] } }.cp.chunks.filter fun (k : Chunk) => k.dst == homeMu).take 4)[0]? = some k ∧
    isFirstOf { s with cp := { s.cp with chunks := [k] } } k = true ∧
    { s with cp := { s.cp with commits := [e] } }.cp.commits.find? (fun (e : CommitEnt) => e.dst == k.dst && e.mu == k.src && e.id == k.id) = some e ∧
    (k.idx < { e with nxt := 1 }.nxt ∧ e.nxt < { k with idx := 1 }.idx ∧ k.idx = e.nxt) ∧
    ({ s with cp := { s.cp with acks := [a] } }.cp.acks.filter fun (a : ChunkAck) => a.mu == homeMu && !a.busy)[0]? = some a ∧
    ({ s with cp := { s.cp with acks := [a] } }.cp.acks.filter fun (a : ChunkAck) => a.mu == homeMu && !a.busy).find? (fun (b : ChunkAck) => b.id == a.id) = some a ∧
    (a.idx < { p with nch := 1 }.nch ∧ p.nch ≤ a.idx ∧ a.idx + 1 = p.total ∧ a.idx + 1 ≠ { p with total := 2 }.total) ∧
    p.rsn < 6 ∧ p.crfail = false ∧
    { s with cp := { s.cp with rels := [{ dst := homeMu, mu := homeMu, id := 1 }] } }.cp.rels[0]? = some { dst := homeMu, mu := homeMu, id := 1 } ∧
    (∃ c ∈ { s with cp := { s.cp with chunks := [k] } }.cp.chunks, c.src = homeMu ∧ c.id = 1) ∧ (∀ c ∈ s.cp.chunks, ¬(c.src = homeMu ∧ c.id = 1)) := by
  decide +kernel

/-- R222, R260, R262, R252 to R254: a credit with and without its slot; a ring with too little and with enough space; an open stream and
writer; and the last element. -/
theorem witness_CreditAndStreamEvents :
    let c : Credit := { slot := homeMu, off := 0, bytes := 64, mu := homeMu, id := 1 }
    let s := barred bar0 { quiet with cp := { quiet.cp with credits := [c] } }
    let p := { copy0 (.sendRing f0) with cw := 0x0000004000000000 }
    let r := ringed ring0 (copying p)
    let g := { copy0 (.stream f0) with st := .streaming, n := 1, maps := [map0 0x4000000000000000 6 1] }
    let w := { copy0 (.streamw f0) with st := .streaming, n := 2, maps := [map0 0x4000000000000000 6 2], strm := [0] }
    let x : Flight := { u := homeMu, port := .loc, rx := 0, ry := 0, tok := opd 1 0, cfg := none }
    let z := ask (.sclose f0) 1 []
    s.cp.credits[0]? = some c ∧ barAt (evalBar homeMu 0 { s with cp := { s.cp with credits := s.cp.credits.erase c } }) (locUnit homeMu 0) = some bar0 ∧
    -(2 ^ 31) ≤ bar0.txb - c.bytes ∧ (-(2 ^ 31) : Int) - c.bytes < -(2 ^ 31) ∧
    copyOf r homeMu 1 = some p ∧ isRingSend p.i = true ∧ p.st = .issued ∧ p.resv = none ∧ ringAhead r p = false ∧ isRunning (ctxOf r 0) = true ∧
    ringAt (ringed { ring0 with free := 0 } quiet) (locUnit homeMu 0) = some { ring0 with free := 0 } ∧
    copyOf (copying g) homeMu 1 = some g ∧ isMoving g = true ∧ engineRuns (ctxOf (copying g) 0) = true ∧ (g.pos < g.n ∧ { g with pos := 1 }.n ≤ 1) ∧
    (match engRead (copyEng g) (some (g.maps.headD 0)) (elemPtrs (g.maps.headD 0) 0) (copying g) with
     | .ok ls t => !srcFails t ls && (match streamValue t g.i (g.maps.headD 0) 0 ls with | .ok _ => true | .error _ => false)
     | _ => false) = true ∧
    (match streamValue { copying g with mtag := [(locUnit homeMu 0 / 64, 0x00FF)] } (.stream { f0 with fn := 1 }) (g.maps.headD 0) 0
        [locUnit homeMu 0] with | .ok _ => false | .error _ => true) = true ∧
    openWriter (copying w) homeMu 0 = some w ∧ openWriter quiet homeMu 0 = none ∧
    { copying w with cp := { (copying w).cp with toQueues := [x] } }.cp.toQueues.find? (fun (x : Flight) => x.u == homeMu && x.tok.stn.toNat % 4 == 0) = some x ∧
    x.tok.kind = 1 ∧ x.tok.itr.toNat < w.n ∧ w.cnt + 1 ≠ w.n ∧ (opd 2 0).kind = 2 ∧ Claims.Oldest (asks z) z ∧
    isOpenStream g = true ∧ isOpenStream { g with st := .complete } = false ∧ freeStreams (copying { g with st := .issued }) homeMu 1 = some [0] ∧
    f0.imm.toNat / 16 % 4 ∉ usedStreams quiet homeMu := by
  unfold Claims.Oldest; decide +kernel

/-- An open bin set of eight I64 elements at the scratchpad's start, its area mapped global memory. -/
def bin0 : BinSet :=
  { st := .opened, dest := 0x4000000000000000, ctl := 0x0001000600000008, area := 0, cw := 0x0000200000000000, app := 0, drp := 0, blocks := 2,
    used := 1, region := none, play := none }

/-- The state with that set as set 0 of the home MU. -/
def binning (b : BinSet) (s : State) : State := { s with cp := { s.cp with bins := [(binKey homeMu 0, some b)] } }

/-- R336 to R348: an open set, none, a legal set to open, a map put, and a path over a pointer array. -/
theorem witness_BinAndMergePathInstructions :
    let F := fire2 0 7
    let q := ask (.binPut f0) 0 [7]
    let o := ask (.binOpen f0) 0 [0x4000000000000000, 0x0001000600000008, 0, 0x0000200000000000]
    let d := map0 0x4000000000000000 6 4
    let m := ask (.mpath f0) 0x0000000100000000 []
    let s := withMap d (asks m)
    (lit [F]).firing = [F] ∧ settle true F = .go ∧ Claims.Oldest (asks q) q ∧ binAt (binning bin0 (asks q)) homeMu 0 = some bin0 ∧
    binAt (asks q) homeMu 0 = none ∧ badBin (mapped (asks o)) o 0x0001000600000008 0x0000200000000000 = false ∧ binTyOk (binTy 0x0001000600000008) = true ∧
    addrFault (mapped (asks o)) o false [0, 3] 0 64 8 true = none ∧ badMap s m d isCoord = none ∧ 2 ≤ mapD d 0 ∧ elemFault s m d 0 4 false = none ∧
    badSeg 0x0000000400000000 (mapD d 0) = none ∧
    (match rpAt m d 0 (Claims.taken s m) with
     | .ok r t => (match rpAt m d 3 t with
       | .ok z t => (match mpathResult m d r z t with | .ok _ _ => true | _ => false)
       | _ => false)
     | _ => false) = true := by
  unfold Claims.Oldest; decide +kernel

/-- R341, R342, R349 to R352: an update in range, and on either side of it; a replay at its start, in and after its last region; a fibre unit
at its first and past its last position; an emitter with a token behind its window, and an end-of-fibre. -/
theorem witness_BinAndFibreEvents :
    let q := ask (.binPut f0) 7 [7]
    let u : BinPut := { req := q, set := 0, maps := [], pos := 0, app := 0, drp := 0 }
    let s := mapped (binning bin0 { quiet with cp := { quiet.cp with puts := [u] } })
    let b := { bin0 with st := .playing, play := some (fire2 0 0) }
    let c := ask (.fscan f0) 0 [0, 0, 0]
    let p := { copy0 (.fscan { f0 with tb := 0xC00 }) with st := .streaming, n := 1, aux := [0, 0, 0, 0, 0, 0, 0], maps := [map0 0x4000000000000000 6 1, 0] }
    let e := { copy0 (.femit f0) with st := .streaming, pos := 1, aux := [0, 0, 0, 0, 0, 0, 0], strm := [0] }
    let x : Flight := { u := homeMu, port := .loc, rx := 0, ry := 0, tok := opd 0 0, cfg := none }
    (s.cp.puts.filter fun (u : BinPut) => u.req.mu == homeMu)[0]? = some u ∧ u.req.mu = homeMu ∧ isRunning (ctxOf s 0) = true ∧
    binAt s homeMu 0 = some bin0 ∧ ((fire2 7 0).l.val.toInt < binLen bin0.ctl ∧ (binLen bin0.ctl : Int) ≤ (fire2 8 0).l.val.toInt ∧
      (fire2 0xFFFFFFFFFFFFFFFF 0).l.val.toInt < 0) ∧
    binAt (binning b quiet) homeMu 0 = some b ∧ engineRuns (ctxOf quiet 0) = true ∧ b.region = none ∧ 0 < binRegions b.ctl ∧
    (queued c quiet).cp.queue.find? (fun q => q.mu == homeMu) = some c ∧ tableFull (queued c quiet) homeMu = false ∧
    copyOf (copying p) homeMu 1 = some p ∧ isMoving p = true ∧ p.pos < p.n ∧ { p with pos := 1 }.n ≤ 1 ∧ tgtPos (0xC00 : BitVec 12) = 3 ∧
    (match seenRead (copyEng p) (mapAt p 0) (elemPtrs (mapAt p 0) 0) (copying p) with | .ok r _ => !r.2 | _ => false) = true ∧ auxAt p 4 = 0 ∧
    (match seenRead (copyEng p) (map0 0 6 1) (elemPtrs (map0 0 6 1) 0) (copying p) with | .fault _ => true | _ => false) = true ∧
    openWriter (copying e) homeMu 0 = some e ∧ x.tok.itr.toNat < e.pos ∧ (opd 2 0).kind = 2 ∧
    { copying e with cp := { (copying e).cp with toQueues := [x] } }.cp.toQueues.find? (fun (x : Flight) => x.u == homeMu && x.tok.stn.toNat % 4 == 0) = some x := by
  decide +kernel

/-- A tag of F16 rows at the pool's start, in a state. -/
def tag0 (st : TagSt) : Tag := { st := st, toff := 0, soff := 0, sv := false, ef := 8, bk := 0, bn := 0, sf := 0 }

/-- The state with these tags as the first of the CU. -/
def tagged (l : List Tag) (s : State) : State :=
  { s with tn := { s.tn with tags := (List.range l.length).zipWith (fun k g => (uKey homeCu * 32 + k, g)) l } }

/-- R276, R281, R289, R296 to R309: a valid map, one that fails R276, an empty entry; a tag that may be filled; each form of TTAG; and a dot
product of two maps. -/
theorem witness_MapFillTagAndDotAtIssue :
    let F := fire2 0x8000000000000000 0
    let d := map0 0x4000000000000000 10 64
    let s := withMap d (tagged [tag0 .empty] (lit [fire2 0 0]))
    (lit [F]).firing = [F] ∧ settle true F = .go ∧ mapValid d = true ∧ mapV d = true ∧ mapValid (map0 0 15 4) = false ∧
    mapV (tmapOf (lit [F]) F.u 0) = false ∧ windowFault ctx0 (poolSize ctx0) [0, 1, 2, 3] F.l.val 64 = none ∧ offOf F.l.val % 64 = 0 ∧
    offOf (0x8000000000000020 : Word) % 64 ≠ 0 ∧ Claims.Unheld s 0xB1 f0 (fire2 0 0) ∧ mapBk d = 0 ∧
    (fire2 0 0).l.val.toNat % 2 ^ 32 % min 8 (rowElems (mapTy d)) = 0 ∧ mapBn d = 0 ∧ fillPtrOk s homeCu (mapBase d) = true ∧
    (tagOf s homeCu 0).st = .empty ∧ (tagOf (lit [F]) homeCu 0).st = .unbound ∧ outsidePool ctx0 (tag0 .empty) = false ∧
    outsidePool ctx0 { tag0 .empty with toff := 127 } = false ∧
    outsidePool { ctx0 with part := 1 } { tag0 .empty with toff := 127 } = true ∧ (tdotClass (map0 0 8 4) (map0 0 8 4)).isSome ∧ tdotClass d (map0 0 6 4) = none ∧ 64 ≤ mapD d 0 := by
  unfold Claims.Unheld; decide +kernel

/-- R282 to R288: ready operands, unbound ones, one that must still be filled, and accumulators beyond those that the partition gives. -/
theorem witness_ArrayInstructionsAtIssue :
    let F := fire2 0 0
    let f := { f0 with ty := .f32, imm := 0x00020 }
    let h := { f with ty := .f16 }
    let s (a b : TagSt) := withCtx (fun x => { x with part := 16 }) (tagged [tag0 a, tag0 b] (lit [F]))
    (s .full .full).firing = [F] ∧ settle true F = .go ∧ Claims.Unheld (s .full .full) 0xB3 f F ∧
    (match checkMma f false F (s .full .full) with | .ok r => r.1 == 32 | .error _ => false) = true ∧
    tileFault (lit [F]) 0xB3 f F = some 4 ∧ tileFault (lit [F]) 0xBC f F = some 3 ∧ tileFault (s .full .filling) 0xB3 f F = none ∧
    tileReady (s .full .filling) 0xB3 f F = false ∧ Claims.Unheld (s .full .empty) 0xB8 { f with imm := 0 } F ∧ Claims.Unheld (s .full .empty) 0xBA h F ∧
    Claims.Unheld (s .full .empty) 0xBB f F ∧ Claims.Unheld (s .full .empty) 0xBC h F ∧ Claims.Unheld (s .full .empty) 0xBD h F ∧
    Claims.Unheld (s .full .full) 0xB7 f F ∧ (match checkMmag { f with imm := 0 } F (s .full .full) with | .ok _ => true | .error _ => false) = true := by
  unfold Claims.Unheld; decide +kernel

/-- R282, R299 to R309: an operation of each kind under way, a fill, and the requests of TMAP and TDOT at their MU. -/
theorem witness_TensorOperationsComplete :
    let f := { f0 with ty := .f32, imm := 0x00020 }
    let F := fire2 0 0
    let o : ArrayOp := { us := [homeCu], i := .mma f, c := F, k := [] }
    let s := tagged [tag0 .full, tag0 .full] { quiet with tn := { quiet.tn with ops := [o] } }
    let r : ArrayOp := { o with i := .mmar f }
    let b : Fill := { c := F, i := .tfill f, tag := 0, map := map0 0x4000000000000000 10 16, rows := 0 }
    let q := ask (.tmap f0) 0x4000000000000000 []
    s.tn.ops.find? (fun (o : ArrayOp) => o.c.u == homeCu) = some o ∧ occupies (ctxOf s 0) = true ∧ wldHeld s f F = false ∧ (tagClass (endOp o s) homeCu 0 1).isSome ∧ f.fn = 0 ∧
    { s with tn := { s.tn with fills := [b] } }.tn.fills.find? (fun (b : Fill) => b.c.u == homeCu && b.tag == 0) = some b ∧ engineRuns (ctxOf s 0) = true ∧ b.rows < fillLines b ∧
    (match fillLine b 0 s with | .ok _ _ => true | _ => false) = true ∧ (match fillLine { b with map := map0 0 10 16 } 0 s with | .fault _ => true | _ => false) = true ∧
    { s with tn := { s.tn with ops := [r] } }.tn.ops.find? (fun (o : ArrayOp) => o.c.u == homeCu && (match o.i with | .mmar _ => true | _ => false)) = some r ∧
    Claims.Oldest (asks q) q ∧ q.k = [] ∧ onModule (reqCtx (asks q) q) q.c.u.x = true ∧ winOf q.c.l.val = 1 ∧ offOf q.c.l.val % 64 = 0 ∧
    liveFault (asks q) (locUnit homeMu 0) 64 = none ∧ readFails (asks q) (locUnit homeMu 0) = false := by
  unfold Claims.Oldest; decide +kernel

/-- R309: a dot product of two maps of four elements at its MU, and the two reads that it takes. -/
theorem witness_TdotAtTheMu :
    let d := map0 0x4000000000000000 8 4
    let q := { ask (.tdot { f0 with ty := .f32 }) 4 ([0, 0] ++ mapWords d ++ mapWords d) with i := .tdot { f0 with ty := .f32 } }
    Claims.Oldest (asks q) q ∧ q.k.length = 18 ∧ wordsMap q.k 2 = d ∧ wordsMap q.k 10 = d ∧ (tdotClass d d).isSome ∧ (tdotPieces d 4).length = 1 ∧
    (∀ e ∈ tdotPieces d 4, readMu (reqCtx (asks q) q) q.c e.1 = q.mu ∧
      (match tdotRead q d e (Claims.taken (asks q) q) with | .ok r _ => r.1.length == e.2 && !r.2 | _ => false) = true) := by
  unfold Claims.Oldest; decide +kernel

/-- R310 to R330: N of 2 and of 4096, and 1 and 6 which are none; a vector handle; stride registers; both windows of BWLD. -/
theorem witness_ButterflyInstructionsAtIssue :
    let F := fire2 0x8000000000000000 0
    let f := { f0 with ty := .f16, src := .kreg, imm := 0x00800 }
    let s := { tagged [tag0 .full, { tag0 .empty with toff := 4 }] (lit [F]) with fab := { quiet.fab with kregs := [(uKey homeCu * 64, 16)], sdregs := [(uKey homeCu * 8, 0x80000000007F0200)] } }
    s.firing = [F] ∧ settle true F = .go ∧ (kreg s homeCu 0).toNat = 16 ∧ (2 ≤ 16 ∧ 16 ≤ 4096 ∧ (16 : Nat) = 2 ^ 4) ∧ vecTy .f16 = true ∧
    (tagOf s homeCu 0).bk = 0 ∧ badVectors s 0xC4 f F 16 true = false ∧ Claims.Unheld s 0xC4 f F ∧ f.fn = 0 ∧ sdValid 0x80000000007F0200 = true ∧
    sdValid 0 = false ∧ stageOk 0x80000000007F0200 16 = true ∧ Claims.Unheld s 0xC2 f F ∧ isMu (routeDest s homeCu 7).x = true ∧
    isMu (routeDest s homeCu 0).x = false ∧ windowFault ctx0 (poolSize ctx0) [0, 1, 2, 3] 0x8000000000000000 8 = none ∧
    offOf (0x8000000000000000 : Word) % 8 = 0 ∧ winOf 0x8000000000000000 = 2 ∧ Claims.Unheld s 0xC0 f F ∧ badVectors s 0xC0 f F 16 true = false ∧ badVectors s 0xC5 f F 16 true = false ∧ badVectors s 0xC1 f F 16 true = false := by
  unfold Claims.Unheld; decide +kernel

/-- R16, R58 to R66, R363: a token at a switch and at a CU, its probe, tiers with and without room, and a config token held. -/
theorem witness_TokenAndConfigEvents :
    let f : Flight := { u := homeCu, port := .loc, rx := 0, ry := 0, tok := opd 0 5, cfg := none }
    let s := { quiet with fab := { quiet.fab with flights := [f] } }
    let a : Arrival := { u := homeCu, own := true, tok := { opd 0 5 with stn := 5 }, cfg := none }
    let p : Probe := { u := homeCu, seq := 0, tok := opd 0 5 }
    let l : CfgLoad := { rd := false, reply := none, grp := none }
    let g : Arrival := { u := homeCu, own := false, tok := { opd 0 5 with kind := 3 }, cfg := some l }
    let r : ReplyTo := { u := homeCu, col := 0, itr := 0, ta := 1, tb := 2, kind := 0 }
    let h : HeldCfg := { u := homeCu, obj := .kreg 0, val := some 1, grp := none, code := 0, before := [], reply := some r }
    grant s homeCu .loc = some f ∧ emitsTokens (ctxOf s 0) = true ∧ (ctxOf s 0).cst ≠ .loading ∧ f.tok.ctx.toNat = homeCu.ctx ∧
    ridOk s f.tok = true ∧ ridOk s { f.tok with rid := 99 } = false ∧ (∀ k ∈ [1, 2, 5], injAt s homeCu k = false) ∧ isMu homeCu.x = false ∧
    isMu homeMu.x = true ∧ badHeader a.tok = false ∧ holdsOp quiet homeCu 5 0x00 = true ∧
    holdsOp { quiet with fab := { quiet.fab with stations := [(uKey homeCu * 128 + 5, 0x20060000C0000000)] } } homeCu 5 0x00 = false ∧
    { quiet with fab := { quiet.fab with arrivals := [a] } }.fab.arrivals.find? (fun (a : Arrival) => a.u == homeCu && a.own == true) = some a ∧
    { quiet with fab := { quiet.fab with probes := [p] } }.fab.probes.find? (fun (p : Probe) => p.u == homeCu) = some p ∧
    tierCount quiet homeCu false < 64 ∧ tierCount quiet homeCu true < 512 * ({ ctx0 with part := 1 }.part % 16) ∧
    { quiet with fab := { quiet.fab with arrivals := [g] } }.fab.arrivals[0]? = some g ∧ g.tok.kind = 3 ∧
    (({ quiet with fab := { quiet.fab with arrivals := [g] } }.fab.arrivals.take 0).any fun b => b.u == g.u && b.own == g.own) = false ∧
    (({ quiet with fab := { quiet.fab with arrivals := [g, g] } }.fab.arrivals.take 1).any fun b => b.u == g.u && b.own == g.own) = true ∧
    (g.tok.rsv = 0 ∧ g.tok.pos = 0 ∧ g.cfg = some l ∧ l.rd = false ∧ ({ g.tok with pos := 1 } : Flit).pos = 1 ∧
      2 ≤ ({ g.tok with pos := 2 } : Flit).pos.toNat ∧ ({ g.tok with rsv := 1 } : Flit).rsv ≠ 0) ∧
    leavesPaddock ctx0 f = false ∧ leavesPaddock ctx0 { f with rx := -1 } = true ∧ f.tok.kind ≠ 3 ∧ cfgMayApply { quiet with fab := { quiet.fab with cfgHeld := [h, h] } } 1 h = false ∧
    { quiet with fab := { quiet.fab with cfgHeld := [h] } }.fab.cfgHeld[0]? = some h ∧ cfgMayApply { quiet with fab := { quiet.fab with cfgHeld := [h] } } 0 h = true := by
  decide

/-- An image of shape 1 × 1 with one empty section, signed with its own digest. -/
def image0 : List Byte :=
  let head : List Byte := [0x4C, 0x58, 0x4B, 0x4E, 1, 0, 0, 0, 1, 0, 1, 0, 1, 0, 0, 0] ++ List.replicate 32 0 ++ [0x10, 1, 0, 0, 0, 0, 0, 0] ++ List.replicate 8 0
  let sec : List Byte := [1, 0, 0, 0, 0, 0, 0, 0, 0x10, 1, 0, 0, 0, 0, 0, 0]
  head ++ sha384 (head ++ sec) ++ List.replicate 144 0 ++ sec

/-- The small state, mapped, with that image at address 4096 and context 0 loading it. -/
def loading (stage : Nat) (img : List Byte) : State :=
  withCtx (fun x => { x with cst := .loading, loadStage := stage, img := 4096 }) { mapped quiet with mem := memBytes [] 4096 img }

set_option maxRecDepth 8192 in
/-- R357 to R360, R369: the stages of a load; an image that verifies and one that does not; a drained context. -/
theorem witness_LoadAndDrainEvents :
    let s := loading 0 image0
    (ctxOf s 0).cst = .loading ∧ (ctxOf s 0).loadStage = 0 ∧ (match loaderRead s (ctxOf s 0) 4096 256 with | .ok bs => (cacheHit s (ctxOf s 0) (imgHead bs)).isNone | _ => false) = true ∧
    (match loaderRead quiet ctx0 4096 256 with | .bad _ => true | _ => false) = true ∧
    (match readImage s (ctxOf s 0) 4096 with | .ok bs => (match verifyImage s (ctxOf s 0) bs with | .ok _ => true | .error _ => false) | _ => false) = true ∧
    (match verifyImage s (ctxOf s 0) (image0.set 64 0) with | .ok _ => false | .error _ => true) = true ∧
    cachePinned s (cacheDie (ctxOf s 0)) = false ∧ (match argEntries s (ctxOf s 0) (argOf (ctxOf s 0)) with | .ok _ => true | .error _ => false) = true ∧
    (ctxOf s 0).members.length ≤ 1 ∧ (ctxOf quiet 0).cst ≠ .loading ∧ (ctxOf s 0).frz.fault = false ∧ isLive (ctxOf s 0) = true ∧
    killBusy (withCtx (fun x => { x with dying := true }) quiet) 0 = false ∧ killBusy (asks (ask (.ld f0) 0 [])) 0 = true ∧
    (ctxOf (withCtx (fun x => { x with dying := true }) quiet) 0).dying = true ∧ hostBlocks quiet 0 (fun _ => true) = [] ∧
    (let d := withCtx (fun x => { x with cst := .draining }) quiet
     (ctxOf d 0).dying = false ∧ (ctxOf d 0).cst = .draining ∧ (ctxOf d 0).freezing = false ∧ (ctxOf d 0).syncs = [] ∧ drained d 0 = true ∧ (ctxOf d 0).reconf = none ∧
     (∀ e ∈ (stepSrg (boundary d 0 fun _ => true) 0).un.errs, e.u.ctx ≠ 0) ∧ (ctxOf (stepSrg (boundary d 0 fun _ => true) 0) 0).reconf = none) := by
  decide +kernel

/-- A queue of the normal world, created and enabled, with one packet at its head. -/
def queue0 : Queue := { queueReset with created := true, en := true, qw := false, tail := 1 }

/-- The mapped small state with that queue as queue 0 and all its dies taking part. -/
def queueing (k : Queue) : State :=
  let s := updDie (mapped quiet) 0 fun d => { d with nsr := BitVec.allOnes 48 }
  { s with yard := { s.yard with queues := [(0, k)] }, boot := { s.boot with dies := [0, 1, 2, 3, 4, 5, 6, 7] } }

/-- A claim of queue 0 for the place next to the small state's context. -/
def claim0 : Claim := { die := 0, queue := 0, e := 0, resume := none, place := [⟨4, 0⟩] }

/-- R378 to R388, R403: a queue of each state and world; a packet that passes and one that does not; an eligible head with a claim; and a
context at its budget. -/
theorem witness_QueueAndYardEvents :
    let s := queueing queue0
    let p : List Byte := List.replicate 16 0 ++ [1, 0, 1, 0] ++ List.replicate 44 0
    let t := { s with mem := memBytes [] 0 p }
    let e := { queueing { queue0 with hs := .eligible } with mem := memBytes [] 0 p }
    let d : CacheEnt := { die := 0, digest := [], world := 0, pw := 1, ph := 1, part := 0, image := [] }
    (queueOf s 0).qw = false ∧ (queueOf quiet 0).qw = true ∧ (queueOf quiet 0).created = false ∧ (queueOf s 0).created = true ∧ (queueOf s 0).en = true ∧
    (1 + 2 ^ 32 - (queueOf s 0).head % 2 ^ 32) % 2 ^ 32 ≤ 2 ^ (queueOf s 0).logn ∧ 2 ^ 4 < (17 + 2 ^ 32 - 0 % 2 ^ 32) % 2 ^ 32 ∧
    hasHead (queueOf s 0) = true ∧ hasHead (queueOf quiet 0) = false ∧ (queueOf s 0).hs = .fresh ∧
    (match headPacket t (queueOf t 0) with | some p => !badPacket t (queueOf t 0) p && depsOf p == [] | none => false) = true ∧
    (match headPacket s (queueOf s 0) with | some p => badPacket s (queueOf s 0) p | none => false) = true ∧
    headPacket (queueing { queue0 with qas := 1 }) { queue0 with qas := 1 } = none ∧ dieOpen e 0 = true ∧ dieOpen quiet 0 = false ∧
    roomComing e { pw := 1, ph := 1, sec := false, redundant := false } = false ∧ (offer e 0).isSome ∧ (chosenHead (moveOff e) 0).isSome ∧
    claimStands { e with yard := { e.yard with claims := [] } } claim0 = true ∧ claimStands s claim0 = false ∧ d.die = 0 ∧
    (let b := withCtx (fun x => { x with budHit := true, residence := 4, charged := 1 }) quiet
     (ctxOf b 0).budHit = true ∧ (ctxOf b 0).cst = .running ∧ (ctxOf b 0).charged < (ctxOf b 0).residence) ∧
    (let b := withCtx (fun x => { x with residence := 2 ^ 16 }) (queueing { queue0 with qnt := 1 })
     isResident (ctxOf b 0) = true ∧ (queueOf b 0).qnt * 2 ^ 16 ≤ (ctxOf b 0).residence) := by
  decide +kernel

/-- The memory of a paddock of 1 × 1 saved at 0x10000: the header of R399 alone. -/
def saved0 : State := { quiet with mem := memBytes [] 0x10000 [0x48, 0x41, 0x4D, 0x50, 1, 0, 1, 0, 1, 0, 0, 0] }

/-- R402: a hamper whose header fits the context and whose reserved bytes are zero. -/
theorem witness_HamperFits : hamperFits saved0 { ctx0 with hmp := 0x10000 } = true := by
  have r : ∀ (u : UId) (n k : Nat), (readRecords u n (List.replicate k 0)).isSome = true := by
    intro u n k
    cases n <;> cases k <;> simp [readRecords, List.replicate_succ]
  have e : ∀ u a, 0x20000 ≤ a → (engObjsAt saved0 u a).isSome = true := by
    intro u a h
    have z : ∀ k, rdN saved0 (a + 8 * k) 8 = 0 := fun k => rdN_above _ _ _ rfl fun c hc =>
      lt_of_lt_of_le ((by decide : ∀ c ∈ saved0.mem, c.1 < 0x20000) c hc) (by omega)
    rw [engObjsAt, funext z, List.map_const', List.length_range]
    exact r _ _ _
  have g : enginesFit saved0 { ctx0 with hmp := 0x10000 } = true := by
    simp only [enginesFit, List.all_eq_true]
    exact fun u _ => e u _ (by simp only [slotAddr, slotBase]; omega)
  simp only [hamperFits, g]
  decide

/-- R391 to R402: a context in every state that a command asks for, and in another. -/
theorem witness_ContextEvents :
    let st (c : CState) := withCtx (fun x => { x with cst := c }) quiet
    let f := withCtx (fun x => { x with freezing := true, frz := { noFrz with superv := true } }) quiet
    let h := withCtx (fun x => { x with cst := .restoring, hmp := 0x10000 }) { quiet with mem := memBytes [] 0x10010 [1] }
    (∃ x ∈ quiet.ctxs, x.id = 0) ∧ (ctxOf quiet 0).world = 0 ∧ (ctxOf quiet 0).cst = .running ∧ (ctxOf (st .frozen) 0).cst = .frozen ∧
    (ctxOf (withCtx (fun x => { x with hmp := 0x10000 }) (st .frozen)) 0).hmp ≠ 0 ∧ isOuting (ctxOf (st .frozen) 0) = false ∧
    (ctxOf (st .saved) 0).cst = .saved ∧ (queueOf (queueing queue0) 0).created = true ∧ isLive (ctxOf quiet 0) = true ∧
    isLive (ctxOf (st .killed) 0) = false ∧ (ctxOf (st .relocating) 0).cst = .relocating ∧ (ctxOf (st .created) 0).cst = .created ∧ (ctxOf f 0).freezing = true ∧ freezeReady f 0 = true ∧
    (ctxOf f 0).frz.superv = true ∧ (ctxOf f 0).member = 0 ∧ (ctxOf h 0).cst = .restoring ∧ backedRange (ctxOf h 0).hmp 0x10000 = true ∧
    frzOf (rdN h ((ctxOf h 0).hmp + 16) 2) ≠ noFrz ∧ rdN h (ctxOf h 0).hmp 4 ≠ 0x504D4148 := by
  decide +kernel

/-- R417 to R423, R202, R467: a walk that finds nothing, an invalidation under way, a region in every state; a group whose one CU set is parked;
an ENDED colour; and an error on its way. -/
theorem witness_ColourAndTranslationEvents :
    let w : Walk := { mu := homeMu, as := 0, va := 0, req := ask (.ld f0) 0 [] }
    let s := { quiet with tr := { quiet.tr with walks := [w] } }
    let r (o : Owner) : Region := { idx := 0, num := 0, own := o, since := 0, snoop := false }
    let g (o : Owner) := { quiet with tr := { quiet.tr with regions := [r o] } }
    let k (u : UId) : Parked := { f := { fire2 1 2 with u := u }, ta := 1, tb := 2, lvl := 0 }
    let p := { quiet with fab := { quiet.fab with parked := [0, 1, 2].map fun x => k { homeCu with x := x } } }
    let c := withCtx (fun x => { x with recs := [{ rec0 with state := .ended }] }) quiet
    let e : ErrMsg := { u := homeCu, col := 1, kind := 0x0C, reply := [] }
    s.tr.walks[0]? = some w ∧ rootUnbacked { s with tr := { s.tr with walks := [] } } 0 = false ∧
    (match walkPage { s with tr := { s.tr with walks := [] } } 0 0 with | .absent _ => true | _ => false) = true ∧
    { quiet with tr := { quiet.tr with invBusy := true } }.tr.invRun.2.1 = 0 ∧ findRegion (g .host) 0 = some (r .host) ∧
    findRegion (g .device) 0 = some (r .device) ∧ findRegion (g .toDevice) 0 = some (r .toDevice) ∧ findRegion (g .toHost) 0 = some (r .toHost) ∧
    ({ g .toDevice with clock := 2 ^ 22 }.clock ≥ (r .toDevice).since + 2 ^ 22) ∧ (g .toDevice).clock < (r .toDevice).since + 2 ^ 22 ∧
    mismatched p 0 = false ∧ mismatched { p with un := { p.un with errs := [{ e with kind := 0x13 }] } } 0 = true ∧ (ctxOf p 0).phases = [] ∧
    hostBlocks p 0 (phaseCovers (ctxOf p 0) 0 0 0) = [] ∧ badGroups p 0 (phaseCovers (ctxOf p 0) 0 0 0) = [] ∧ (ctxOf p 0).cst = .running ∧
    (phaseCus (ctxOf p 0) 0 0 0).length = 3 ∧ (phaseParked p (ctxOf p 0) 0 0 0).length = 3 ∧ (phaseParked quiet ctx0 0 0 0).length ≠ 3 ∧
    recOf (ctxOf c 0) 0 1 = some { rec0 with state := .ended } ∧ buffered c 0 0 1 = false ∧ (ctxOf c 0).member = 0 ∧
    (∀ q ∈ (ctxOf c 0).recs, q.copy = 0 → q.pcol = 1 → q.col = 1) ∧
    ({ quiet with un := { quiet.un with errs := [e] } }.un.errs.filter fun (e : ErrMsg) => e.u.ctx == 0)[0]? = some e := by
  decide +kernel

/-- R432 to R457: a port and a channel in every state that an event asks for, an I/O command, and a queue pair in each state. -/
theorem witness_LinkAndIoEvents :
    let q (l : LinkSt) : RxPort := { rxReset with lst := l, pen := true, pws := false }
    let s (l : LinkSt) := { quiet with lk := { quiet.lk with ports := [(0, q l)] } }
    let v (l : LinkSt) := { quiet with lk := { quiet.lk with eth := [(0, { ethReset with lst := l, ews := false })] } }
    let f : OutFlit := { fsq := 0, tsq := 0, tries := 0, peer := 1, wait := none, cargo := .token { u := homeCu, port := .loc, rx := 0, ry := 0, tok := opd 0 5, cfg := none } }
    let p := { copy0 (.iowrite f0) with st := .streaming }
    let e : IoCmd := { mu := homeMu, id := 1, sent := false, since := 0, qp := 0, locs := [] }
    let i (b : Bool) := { copying p with lk := { quiet.lk with ios := [{ e with sent := b }] } }
    let n := { quiet with lk := { quiet.lk with qps := [(0, { qpReset with word := 9 })] } }
    isChannel (0, 0, 47) = true ∧ isChannel (0, 0, 48) = false ∧ fget 0 quiet.lk.shenisRetry 0 + 1 < 8 ∧ fget 0 [(0, 7)] 0 + 1 = 8 ∧
    linkUsable (rxOf (s .up) 0).lst = true ∧ linkUsable (rxOf (s .down) 0).lst = false ∧ 0 % 4096 = (rxOf (s .up) 0).rx ∧ 1 % 4096 ≠ (rxOf (s .up) 0).rx ∧
    { q .up with tx := [f] }.tx ≠ [] ∧ (rxOf (s .up) 0).since + 4096 ≤ { s .up with clock := 4096 }.clock ∧ (s .up).clock < (rxOf (s .up) 0).since + 4096 ∧
    (rxOf (s .disabled) 0).lst = .disabled ∧ (rxOf (s .training) 0).lst = .training ∧ (rxOf (s .down) 0).pen = true ∧ (rxOf quiet 0).pws = true ∧
    (rxOf (s .down) 0).since + 2 ^ 20 ≤ { s .down with clock := 2 ^ 20 }.clock ∧ { q .up with win := some 0 }.win = some 0 ∧
    (ethOf (v .training) 0).lst = .training ∧ linkUsable (ethOf (v .up) 0).lst = true ∧ (ethOf (v .retrying) 0).lst = .retrying ∧ (ethOf quiet 0).win = none ∧
    portWaits quiet 0 = false ∧ copyOf (i false) homeMu 1 = some p ∧ isMoving p = true ∧
    (i false).lk.ios.find? (fun (e : IoCmd) => e.mu == homeMu && e.id == 1 && !e.sent) = some { e with sent := false } ∧
    (i true).lk.ios.find? (fun (e : IoCmd) => e.mu == homeMu && e.id == 1 && e.sent) = some { e with sent := true } ∧
    sendAhead (i false) p = false ∧ qpSt (qpOf n 0) = 1 ∧ qpSt (qpOf quiet 0) = 0 ∧ recvWindow n 0 0 0 4 = none ∧ qpSec (qpOf n 0) = true ∧
    isRedundant (ctxOf quiet 0) = false := by
  decide +kernel

/-- R480 to R486, R29, R423: parts of a call, the mailbox entry that they fill and the answer to it, a head that may move, the invalidation and
region registers, and selectors of both kinds. -/
theorem witness_ServiceEvents :
    let q := { ask (.svcCall { f0 with imm := 0x00001 }) 5 [] with i := .svcCall { f0 with imm := 0x00001 } }
    let e : MboxEnt := { svn := 0, na := 0, am := 0, u := homeCu, col := 0, itr := 0, stn := 5, args := List.replicate 6 0, ta := 1, tb := 2, posted := true, pair := none }
    let s := updDie { quiet with svc := { quiet.svc with parts := [q] } } (dieOf quiet homeMu) fun k => { k with ring := [(0, some e)], mbtl := 1, mbn := 1 }
    s.svc.parts[0]? = some q ∧ fget none (dieReg s (dieOf quiet homeMu)).ring 0 = some e ∧ e.svn ≠ 0xFFFF ∧ (ctxOf s e.u.ctx).cst = .running ∧
    fget none (dieReg quiet 0).ring 0 = none ∧ findCall s q = some (0, e) ∧ complete (fillSlot q e).1 = true ∧ { e with am := 1 }.am / 2 ^ partSlot q % 2 = 1 ∧
    (passed (dieReg s (dieOf quiet homeMu)) 1).length ≤ (dieReg s (dieOf quiet homeMu)).mbn ∧
    (∃ i ∈ passed (dieReg s (dieOf quiet homeMu)) 1, mayPass (dieReg s (dieOf quiet homeMu)) i = false) ∧
    (∀ i ∈ passed (dieReg (updDie quiet 0 fun k => { k with mbtl := 1, mbn := 1 }) 0) 1, mayPass (dieReg (updDie quiet 0 fun k => { k with mbtl := 1, mbn := 1 }) 0) i = true) ∧
    (0x800 : Word).getLsbD 11 = true ∧ quiet.tr.invBusy = false ∧ { quiet with tr := { quiet.tr with invBusy := true } }.tr.invBusy = true ∧ (0x8000000000000 : Word).getLsbD 51 = true ∧ regRead quiet 0xFFFFFFFF = none ∧
    regSecure quiet 0x30000000 = true := by
  decide +kernel

/-- R18, R460 to R471, R487 to R494: a unit in every state, a remapped row, a resident context's unit, twins that agree and twins that do not, a die
over its limit, a trip, a loss of power and a start. -/
theorem witness_UnitAndStartEvents :
    let l (n : Nat) : Life := { lifeOf quiet 0 with ust := n }
    let s := { quiet with un := { quiet.un with life := [(0, l 2)] } }
    let a : Twin := { f := { fire2 1 2 with u := homeCu }, digest := 7 }
    let b : Twin := { f := { fire2 1 2 with u := { homeCu with copy := 1 } }, digest := 7 }
    let t := { quiet with un := { quiet.un with twins := [a, b] } }
    (lifeOf s 0).ust = 2 ∧ fget 15 s.un.remap 0 = 15 ∧ fget 15 [(0, 3)] 0 ≠ 15 ∧ rowFree { s with ctxs := [] } 0 = true ∧ rowFree s 0 = false ∧
    isResident (ctxOf quiet 0) = true ∧ (unitsOf (ctxOf quiet 0)).contains homeCu = true ∧ (l 4).frac < 16 ∧ (l 4).ust ≤ 4 ∧ l 2 ≠ lifeReset ∧ lifeRecord (l 2) ≠ lifeReset ∧
    t.un.twins[0]? = some a ∧ t.un.twins.find? (isTwinOf t a) = some b ∧ a.digest = b.digest ∧ a.digest ≠ { b with digest := 8 }.digest ∧
    quiet.boot.hot.contains 0 = false ∧ quiet.boot.trip = false ∧ (quiet.boot.halted = true ∨ quiet.boot.dies = []) ∧
    { quiet with boot := { quiet.boot with dies := [0] } }.boot.dies ≠ [] ∧ quiet.boot.halted = false ∧
    backedRange 0 8 = true ∧ backedRange 0xEE6B280000 8 = false := by
  decide +kernel

/-- R488: a bundle whose digest is not its contents' starts nothing, whatever the fuses hold. -/
theorem witness_NoBundle :
    let b : Bundle := { key := [], kernelKey := [], contents := [], digest := [0], sig := [] }
    bootBundle { cool := true, rom := b, mirror := b, steps := [], mem := [], memAlt := [], memCheck := [], dies := [], badUnits := [],
                 badChannels := [], ports := [], setup := [], load := false, cut := none } = none := by
  have h : ([0#8] : List Byte) ≠ sha384 [] := by decide +kernel
  simp [bootBundle, bundleOk, h]

/-- R67, R68: an empty agenda, an event at its head, a CU with a firing, and one without. -/
theorem witness_StepRunsTheDecodedInstruction :
    let s := placeWord State.reset 0x20060001C0000000
    let F := homeFiring 0x20060001C0000000
    State.reset.agenda = [] ∧ s.agenda = [{ dt := 0, act := .issue homeCu }] ∧ leader s homeCu = some F ∧ leader quiet homeMu = none ∧
    waitsTwin { s with agenda := [] } F = false ∧ trappingCode { s with agenda := [] } homeCu 0 = 0 ∧
    decode (stationWord { s with agenda := [] } homeCu 0) = .ok (.add { fn := 0, ty := .i64, u := false, pd := false, src := .toks, ta := 0x001, tb := 0xC00, imm := 0 }) ∧
    decode (stationWord { placeWord State.reset 0x3F00000000000000 with agenda := [] } homeCu 0) = .error .op := by
  decide

/-- R69: an instance that stands ready. -/
theorem witness_IssueLatchesTheGatheredInstances :
    homeFiring 0x20060001C0000000 ∈ (placeWord State.reset 0x20060001C0000000).fab.ready := by decide

/-- The state after reset is settled, and steps. -/
theorem witness_EveryStepCompletesAndKeepsTheSettledState : Safety.Settled State.reset ∧ ∃ t, step State.reset = .next t :=
  ⟨⟨by decide, rfl, rfl⟩, _, rfl⟩

/-- R38: an event that is no load, and a step that it takes. -/
theorem witness_RoutesChangeOnlyAtLoads :
    let s := { quiet with agenda := [{ dt := 1, act := .event (.lifetimeFlush) }] }
    due s = some ({ dt := 1, act := .event (.lifetimeFlush) }, []) ∧ ∃ t, step s = .next t := ⟨by decide, _, rfl⟩

/-- R168, R176, R192: a store into the pool, and one that a phase buffer takes. -/
theorem witness_StoresAndTheirBytes :
    let F := fire2 0x8000000000000008 5
    let q := ask (.st f0) 0x4000000000000008 [7]
    let o : StoreOp := { la := muPtr homeMu 0, loc := locUnit homeMu 0, off := 8, bytes := leBytes 7 8, ntag := none, page := none, host := false }
    Memory.wf (lit [F]).mem = true ∧ (lit [F]).wlog = [] ∧ (lit [F]).firing = [F] ∧ settle true F = .go ∧ shiftPtr F.l.val (dispOf f0) = some 0x8000000000000008 ∧
    winOf 0x8000000000000008 = 2 ∧ windowFault ctx0 (poolSize ctx0) [2] 0x8000000000000008 8 = none ∧ offOf 0x8000000000000008 % 8 = 0 ∧
    Claims.Oldest (asks q) q ∧ liveFault (asks q) (locUnit homeMu 8) 8 = none ∧ (acceptStore (Claims.taken (asks q) q) q o).isSome := by
  unfold Claims.Oldest; decide

/-- R180, R196: an atomic on a FULL word, and a write of one that is not. -/
theorem witness_BankWritesTouchTheirWord :
    let q := ask (.aadd f0) 0x4000000000000008 [5]
    let w := ask (.isWr f0) 0x4000000000000008 [5]
    let t := { asks w with mu := { (asks w).mu with isst := [(locUnit homeMu 8 / 8, 1)] } }
    Memory.wf (asks q).mem = true ∧ (asks q).wlog = [] ∧ Claims.Oldest (asks q) q ∧ winOf q.c.l.val = 1 ∧ offOf q.c.l.val % 8 = 0 ∧
    liveFault (asks q) (locUnit homeMu 8) 8 = none ∧ isState (asks q) (locUnit homeMu 8) = 0 ∧ readFails (asks q) (locUnit homeMu 8) = false ∧
    fcol q.c = 0 ∧ fcol w.c = 0 ∧ Claims.Oldest t w ∧ isState t (locUnit homeMu 8) ≠ 0 ∧ liveFault t (locUnit homeMu 8) 8 = none := by
  unfold Claims.Oldest; decide

/-- R424 to R427: the first fault of a running context whose fault page is mapped, and a record whose fields are all at their largest. -/
theorem witness_FaultEntry :
    let s := mapped quiet
    let x := ctxOf s 0
    x.cst = .running ∧ x.frz.fault = false ∧ inNestWindow s homeCu { kind := 0x07 } = false ∧
    translateNow s x .write (x.frp + 64 * (x.fseq % 64)) = .ok ⟨0, none, false⟩ ∧ (0xFF < 2 ^ 8 ∧ (7 : Nat) < 2 ^ 3 ∧ 0xFFFF < 2 ^ 16) := by decide

/-- R430: a frozen context with the marker of a trap. -/
theorem witness_FaultReturn :
    let m : Marker := { f := fire2 1 2, kind := 0x18, rearrive := false }
    let s := withCtx (fun x => { x with cst := .frozen, frz := { noFrz with fault := true }, marker := some m }) quiet
    let x := ctxOf s 0
    x.cst = .frozen ∧ x.frz = { noFrz with fault := true } ∧ x.marker = some m ∧ m.rearrive = false ∧ m.f.u.ctx = 0 ∧ x.members = [] ∧ s.svc.held = [] ∧
    onModule x m.f.u.x = true ∧ x.world = 0 := by decide

/-- R88 to R90, R95, R152, R410: two firings that compute, and the two forms of NULLS. -/
theorem witness_JoinTagAndSign :
    let s := lit [fire2 1 2, fireOf (opd 0 3) (some (opd 1 0)) none]
    (∀ F ∈ s.firing, F.r.isSome) ∧ Claims.Computes true (lit [fire2 1 2]) ∧ (∀ F ∈ s.firing, F.u.ctx < 512) ∧ f0.fn = 0 ∧ { f0 with fn := 1 }.fn = 1 ∧
    (∀ c, (ctxOf State.reset c).id < 512 ∧ (ctxOf State.reset c).member < 256 ∧ (ctxOf State.reset c).world < 4) := by
  unfold Claims.Computes
  exact ⟨by decide, by decide, by decide, rfl, rfl,
    fun _ => (by decide : ctxReset.id < 512 ∧ ctxReset.member < 256 ∧ ctxReset.world < 4)⟩

set_option maxRecDepth 20000 in
/-- R434: CRC-32C of 32 zero bytes, as RFC 3720 lists it, and the head and tail of a flit with one token. -/
theorem test_crc32c : crc32c (List.replicate 32 0) = 0x8A9136AA := by decide

set_option maxRecDepth 20000 in
/-- R434: FSQ 5 with FTY 1, FAK 9 with FAV, one token, TSQ 7. -/
theorem test_flit_bytes :
    let k : Flight := { u := homeCu, port := .loc, rx := 0, ry := 0, tok := opd 0 3, cfg := none }
    let b := (flitBytes 5 (some 9) false 7 [.token k]).getD []
    b.length = 128 ∧ b.take 5 = [0x05, 0x10, 0x09, 0x10, 0x03] ∧ (b.drop 120).take 4 = [7, 0, 0, 0] := by decide

/-- R481: the key of a call at station 9 of site (2, 1) of context 3, colour 1, iteration 2. -/
theorem test_mailbox_key :
    let e : MboxEnt := { svn := 4, na := 1, am := 1, u := { ctx := 3, copy := 0, x := 2, y := 1 }, col := 1, itr := 2, stn := 9,
                         args := [7, 0, 0, 0, 0, 0], ta := 0, tb := 0, posted := true, pair := none }
    let n := leNat (mboxBytes State.reset e)
    (mboxBytes State.reset e).length = 64 ∧ nbits n 0 16 = 4 ∧ nbits n 32 9 = 3 ∧ nbits n 41 12 = 1 ∧ nbits n 53 16 = 2 ∧ nbits n 69 8 = 2 ∧
    nbits n 77 7 = 1 ∧ nbits n 84 7 = 9 ∧ nbits n 128 64 = 7 := by decide

/-! ### More clauses

Where a statement divides its inputs further, a state and operands for each further branch. -/

/-- R151: an immediate operand, and two equal operands that are no zeros. -/
theorem witness_FloatSelection_immediate :
    Claims.Computes true (lit [fire2 0x3F800000 0]) ∧ ({ wf1 .f32 0 with src := .immd, imm := 1 } : Fields).src = .immd ∧
    rightBits { wf1 .f32 0 with src := .immd, imm := 1 } (fire2 0x3F800000 0) quiet = 0x3F800000 ∧
    Ex.cmp (Claims.xa (wf1 .f32 0) (fire2 0x3F800000 0)) (decodeF (fmtD .f32) 0x3F800000) = .eq ∧
    Ex.cmp (Claims.xa (wf1 .f32 0) (fire2 0 0)) (decodeF (fmtD .f32) 0x80000000) = .eq := by
  unfold Claims.Computes; decide

/-- R159: 1 is an integer for FEXP2 and a power of two for FLOG2, whose exponent is 0, and has a root. -/
theorem witness_FunctionResults_exact :
    Claims.Computes true (lit [fire2 0x3F800000 0]) ∧
    (∀ F ∈ (lit [fire2 0x3F800000 0]).firing, Claims.xa (wf1 .f32 0) F = .fin false (2 ^ 23) 1 (-23)) ∧
    ((1 : Int) * 2 ^ (-(-23 : Int)).toNat = (if false then -((2 ^ 23 : Nat) : Int) else (2 ^ 23 : Nat)) * 2 ^ (-23 : Int).toNat) ∧
    ((23 : Nat) : Int) + (-23) = 0 ∧ (2 ^ 23 : Nat) ≠ 0 ∧ (2 ^ 23 : Nat) < 2 ^ 64 ∧
    (∀ F ∈ (lit [fire2 0x40000000 0]).firing, Claims.xa (wf1 .f32 0) F = .fin false (2 ^ 23) 1 (-22)) := by
  unfold Claims.Computes; decide

/-- R365, R476: the first commit point of a firing of colour 0 and of one of colour 1 with its record, and a die that the last boot released. -/
theorem witness_ControlAndRegister_commit :
    let F := fire2 7 1
    let G : Ready := { F with l := { F.l with col := 1 } }
    let s := lit [F]
    let c := calling G { rec0 with state := .live }
    (commitPt s 0 0 (fcol F)).ctxs.find? (fun y => y.id == 0) = some ctx0 ∧ fcol G = 1 ∧
    ((commitPt c 0 0 1).ctxs.find? fun y => y.id == 0).map (fun x => (x.cst, x.purges)) = some (.running, []) ∧
    { s with boot := { s.boot with dies := [dieOf s F.u] } }.boot.dies.contains (dieOf s F.u) = true := by decide +kernel

/-- R207: a narrowing inside its capability, one of length 0 and one that leaves it; an allocation where every index is used. -/
theorem witness_CapabilityInstructionEffects_narrow :
    let p : Word := 0xC000100000000000
    let F := fire2 p 32
    let e : CapEnt := { base := 0x1000, len := 64, root := 1, w := true, v := true }
    let s := withCtx (fun x => { x with ctb := 0x10000, rvb := 0x20000, hbase := 0x1000, hsize := 64, htop := 0x1000, nextidx := 2 })
      { mapped (lit [F]) with mem := memBytes [] 0x10010 (capBytes e) }
    let x := ctxOf s 0
    s.firing = [F] ∧ settle true F = .go ∧ hubHere x = true ∧ F.u.copy = 0 ∧ F.pair = none ∧ winOf F.l.val = 3 ∧
    (rightOp f0 F s).toNat = 32 ∧ (match capDeref s (hubOf F.u) p 32 false with | .ok va => va == 0x1000 | .error _ => false) = true ∧
    (match capLive s (hubOf F.u) p with | .ok k => k == e | .error _ => false) = true ∧ x.nextidx < 2 ^ 18 ∧
    (match translateNow (capTouch s (hubOf F.u) (fcol F) p) x .write (x.ctb + 16 * x.nextidx) with | .ok a => a.phys == 0x10020 | .error _ => false) = true ∧
    (match capDeref s (hubOf F.u) p 65 false with | .ok _ => false | .error _ => true) = true ∧ (rightOp f0 (fire2 p 0) s).toNat = 0 ∧
    2 ^ 18 ≤ { x with nextidx := 2 ^ 18 }.nextidx ∧
    (match translateNow s x .write (x.rvb + capIdx p / 8) with | .ok _ => true | .error _ => false) = true := by decide +kernel

/-- R187, R193: a global store that joins the buffer, and an index of GLD inside its capability, below it and beyond it. -/
theorem witness_GlobalAccessesServed_stores :
    let r := ask (.st f0) 8 [7]
    let s := mapped (asks r)
    let q := ask (.gld f0) 0xC000100000000000 [7, 0]
    let e : CapEnt := { base := 0x1000, len := 64, root := 1, w := true, v := true }
    let t := withCtx (fun x => { x with ctb := 0x10000, rvb := 0x20000, nextidx := 2 }) { mapped (asks q) with mem := memBytes [] 0x10010 (capBytes e) }
    Claims.Oldest s r ∧ shiftPtr r.c.l.val (dispOf f0) = some 8 ∧ (match resolveVa (Claims.touched s r) homeMu 8 8 8 true with | .ok va => va == 8 | .error _ => false) = true ∧
    (match translate (Claims.touched s r) r .write 8 with
     | .ok a t => (acceptStore t r (globalOp (ctxOf t 0) 8 a (leBytes 7 8) none)).isSome
     | _ => false) = true ∧
    Claims.Oldest t q ∧ (match capLive (Claims.touched t q) homeMu q.c.l.val with | .ok k => k == e | .error _ => false) = true ∧
    (match capLive (Claims.touched (mapped (asks q)) q) homeMu q.c.l.val with | .ok _ => false | .error _ => true) = true ∧
    (0 ≤ (7 : Word).toInt ∧ (capOff q.c.l.val : Int) + (7 + 1) * 8 ≤ 64 ∧ (capOff q.c.l.val : Int) + (8 + 1) * 8 > 64 ∧ (0xFFFFFFFFFFFFFFFF : Word).toInt < 0) ∧
    0x1000 % tyBytes f0.ty = 0 ∧
    (match translate (Claims.touched t q) q .read 0x1038 with | .ok _ u => !allOwn u q (lineVa 0x1038) 0x38 8 | _ => false) = true := by
  unfold Claims.Oldest; decide +kernel

/-- R268, R269: a byte ring's first message, its claim and its return. -/
theorem witness_RingInstructionsServed_bytes :
    let q := ask (.ringAwait f0) 0x4000000000000000 []
    let r : Ring := { ring0 with kd := true, sz := 256, cnt := 0, fill := 1, free := 192, wp := 64, rsv := 64 }
    let h : Ring := { r with fill := 0, rp := 64, held := 1 }
    let l := ask (.ringRelease f0) 0x4000000000000000 [muPtr homeMu (payOff h h.rl)]
    Claims.Oldest (ringed r (asks q)) q ∧ ringAt (ringed r (asks q)) (locUnit homeMu 0) = some r ∧ r.own = q.c.u.ctx ∧ 1 ≤ r.fill ∧ r.kd = true ∧
    Claims.Oldest (ringed h (asks l)) l ∧ ringAt (ringed h (asks l)) (locUnit homeMu 0) = some h ∧ 1 ≤ h.held ∧
    l.k.getD 0 0 = muPtr homeMu (payOff h h.rl) ∧ shiftPtr l.c.l.val (dispOf f0) = some 0x4000000000000000 ∧
    h.held ≠ 0 ∧ muPtr homeMu (payOff h h.rl) ≠ 0 := by
  unfold Claims.Oldest; decide +kernel

/-- R229, R258: a live ring header under a barrier instruction, and a slot in none. -/
theorem witness_BarrierCountsServed_onRing :
    let q := ask (.barInit f0) 0x4000000000000000 [0]
    Claims.Oldest (ringed ring0 (asks q)) q ∧ (∃ k < 16, inRing (ringed ring0 (asks q)) (locUnit homeMu 0 + k) = true) ∧
    ¬(∃ k < 16, inRing (asks q) (locUnit homeMu 0 + k) = true) ∧ (q.k.getD 0 0).toNat = 0 ∧ offOf 0x4000000000000000 % 16 = 0 := by
  unfold Claims.Oldest; decide +kernel

/-- R231: a wait that emits, one that parks, one held and one that faults, by parity and state. -/
theorem witness_BarrierWaitsAndRetirementServed :
    let q := ask (.barWait f0) 0x4000000000000000 [1]
    let z := ask (.barWait f0) 0x4000000000000000 [0]
    let s := barred bar0 (asks q)
    let u := evalBar homeMu 0 (Claims.taken s q)
    Claims.Oldest s q ∧ shiftPtr q.c.l.val (dispOf f0) = some 0x4000000000000000 ∧ offOf 0x4000000000000000 % 16 = 0 ∧
    (∀ k < 16, inRing s (locUnit homeMu 0 + k) = false) ∧ barAt u (locUnit homeMu 0) = some bar0 ∧ bar0.own = q.c.u.ctx ∧
    bar0.st = .armed ∧ (q.k.getD 0 0).getLsbD 0 ≠ bar0.par ∧ (z.k.getD 0 0).getLsbD 0 = bar0.par ∧
    (freeWaiter u homeMu).isSome ∧ (freeWaiter (commitPt u 0 0 (fcol q.c)) homeMu).isSome ∧
    barAt (evalBar homeMu 0 (Claims.taken (barred { bar0 with st := .completing } (asks q)) q)) (locUnit homeMu 0) =
      some { bar0 with st := .completing } ∧
    barAt (evalBar homeMu 0 (Claims.taken (barred { bar0 with st := .idle } (asks z)) z)) (locUnit homeMu 0) = some { bar0 with st := .idle } ∧
    waitersOn u homeMu 2 0 = [] := by
  unfold Claims.Oldest; decide +kernel

/-- R237, R239: a push that holds no data of an I/O read, and one whose data are the only ones and have all come. -/
theorem witness_ByteCopyEvents_data :
    let p := copy0 (.send f0)
    let s := copying p
    holdsData s p = false ∧ (∀ e ∈ s.lk.ioData, e.mu = p.mu → e.id = p.id → e.ok = true) ∧ copyLocal s p = true ∧
    (p.st = .issued ∧ { p with st := .failed, rsn := 2 }.rsn = 2 ∧ { p with st := .streaming }.sent < p.total ∧ p.sent < p.nch + 4) ∧
    (∀ f, p.i ≠ .copyo f) ∧ s.cp.chunks = [] ∧ { p with crfail := true }.crfail = true := by
  refine ⟨by decide, by decide, by decide, by decide, ?_, rfl, rfl⟩
  intro f h; cases h

/-- R253: a value token that writes its element, the n-th token, and an end-of-fibre; a null token beside them. -/
theorem witness_StreamEvents_writes :
    let w := { copy0 (.streamw f0) with st := .streaming, n := 2, maps := [map0 0x4000000000000000 6 2], strm := [0] }
    let x : Flight := { u := homeMu, port := .loc, rx := 0, ry := 0, tok := opd 0 7, cfg := none }
    let s := { copying w with cp := { (copying w).cp with toQueues := [x] } }
    openWriter s homeMu 0 = some w ∧ isMoving w = true ∧ engineRuns (ctxOf s 0) = true ∧ (ctxOf s 0).cst = .running ∧ x.tok.kind ≠ 2 ∧ x.tok.kind ≠ 1 ∧
    x.tok.itr.toNat < w.n ∧ w.cnt + 1 ≠ w.n ∧ { w with cnt := 1 }.cnt + 1 = w.n ∧ 8 ≤ tyW (mapTy (w.maps.headD 0)) ∧ w.mu.copy = 0 ∧
    (match engLocs (copyEng w) .write w.dst none (elemPtrs (w.maps.headD 0) 0) s with
     | .ok ls b => ls.length == 8 && ls.all (fun l => !isFar b l)
     | _ => false) = true ∧
    (let v := { w with maps := [map0 0 6 2] }
     (match engLocs (copyEng v) .write v.dst none (elemPtrs (v.maps.headD 0) 0) (copying v) with | .fault _ => true | _ => false) = true) := by
  decide +kernel

/-- R334, R350: FSCAN over three coordinates in order, with values; the same ones out of order; GATH inside its table and beyond it. -/
theorem witness_FibreUnitEvents_positions :
    let d := map0 0x4000000000000000 6 4
    let v := map0 0x4000000000000040 6 4
    let p := { copy0 (.fscan f0) with st := .streaming, n := 3, aux := [0, 0, 0, 0, 0, 0, 0], maps := [d, v, 0] }
    let g := { p with i := .gath f0 }
    let s := { copying p with mem := memBytes [] (locUnit homeMu 0) [2, 0, 0, 0, 0, 0, 0, 0, 5] }
    copyOf s homeMu 1 = some p ∧ isMoving p = true ∧ tgtPos f0.tb ≠ 3 ∧ p.pos < p.n ∧ { p with pos := 3 }.n ≤ 3 ∧
    (match seenRead (copyEng p) (mapAt p 0) (elemPtrs (mapAt p 0) 0) s with
     | .ok r t => !r.2 && (elemBits (mapAt p 0) 0 r.1 == 2) && !notAbove (mapTy (mapAt p 0)) (auxAt p 4) 2 && notAbove (mapTy (mapAt p 0)) 6 2 &&
       (match seenRead (copyEng p) (mapAt p 1) (elemPtrs (mapAt p 1) 0) (chargeElem p (mapAt p 0) 0 0 t) with | .ok z _ => !z.2 | _ => false)
     | _ => false) = true ∧
    (match seenRead (copyEng g) (mapAt g 0) (elemPtrs (mapAt g 0) 0) { s with cp := (copying g).cp } with
     | .ok r t => !r.2 && (decide (2 < mapD (mapAt g 1) 0)) && (decide (mapD (mapAt g 1) 0 ≤ 5)) &&
       (match seenRead (copyEng g) (mapAt g 1) (elemPtrs (mapAt g 1) 2) (chargeElem g (mapAt g 0) 0 0 t) with | .ok z _ => !z.2 | _ => false)
     | _ => false) = true := by decide +kernel

/-- R335, R352: an emitter's token inside its window at either input, one that finds the window full, and both tokens of a position: a null, a
pair with room in the maps, and a pair without. -/
theorem witness_FibreUnitEvents_window :
    let d := map0 0x4000000000000000 6 4
    let a : FibTok := { itr := 1, kind := 0, val := 7 }
    let e := { copy0 (.femit f0) with st := .streaming, pos := 1, aux := [0, 0, 0, 0, 0, 0, 0], strm := [0], maps := [d, d], toks := [a], toks2 := [a] }
    let x : Flight := { u := homeMu, port := .loc, rx := 0, ry := 0, tok := { opd 0 0 with itr := 2 }, cfg := none }
    let s := { copying e with cp := { (copying e).cp with toQueues := [x] } }
    let full : List FibTok := (List.range 65536).map fun k => { itr := k, kind := 0, val := 0 }
    openWriter s homeMu 0 = some e ∧ isMoving e = true ∧ x.tok.kind ≠ 2 ∧ e.pos ≤ x.tok.itr.toNat ∧ auxAt e 3 = 0 ∧ femitFull s e x.tok = false ∧
    (∀ u ∈ e.toks, u.itr ≠ 2) ∧ (∀ u ∈ e.toks2, u.itr ≠ 2) ∧ (0 % 2 = 0 ∧ 1 % 2 = 1) ∧ full.length = 65536 ∧
    takeTok e.toks e.pos = some (a, []) ∧ takeTok e.toks2 e.pos = some (a, []) ∧ takeTok ([] : List FibTok) 1 = none ∧ a.kind ≠ 1 ∧
    { a with kind := 1 }.kind = 1 ∧ auxAt e 0 + auxAt e 1 < mapD (mapAt e 0) 0 ∧ mapD (mapAt e 0) 0 ≤ 4 ∧
    (match emitElem e (mapAt e 0) 0 7 s with | .ok _ t => (match emitElem e (mapAt e 1) 0 7 t with | .ok _ _ => true | _ => false) | _ => false) = true := by
  decide +kernel

/-- R350: two segments with one coordinate in common, one before the other's, an order broken, and the last position. -/
theorem witness_MergePositions :
    let d := map0 0x4000000000000000 6 4
    let v := map0 0x4000000000000040 6 4
    let p := { copy0 (.funion f0) with st := .streaming, n := 2, aux := [0, 2, 0, 0, 0, 0, 0], maps := [d, d, v, v] }
    let s := { copying p with mem := memBytes [] (locUnit homeMu 0) [2, 0, 0, 0, 0, 0, 0, 0, 5] }
    copyOf s homeMu 1 = some p ∧ (p.i = .fisect f0 ∨ p.i = .funion f0) ∧ isMoving p = true ∧ engineRuns (ctxOf s 0) = true ∧ (ctxOf s 0).cst = .running ∧
    p.pos < p.n ∧ auxAt p 0 < auxAt p 1 ∧ p.cnt ≠ 65535 ∧
    (match seenRead (copyEng p) (mapAt p 0) (elemPtrs (mapAt p 0) 0) s with
     | .ok r t => !r.2 && (elemBits (mapAt p 0) 0 r.1 == 2) &&
       (match seenRead (copyEng p) (mapAt p 1) (elemPtrs (mapAt p 1) 0) (chargeElem p (mapAt p 0) 0 0 t) with
        | .ok z u => !z.2 && (match seenRead (copyEng p) (mapAt p 2) (elemPtrs (mapAt p 2) 0) (chargeElem p (mapAt p 1) 0 0 u) with
          | .ok y w => !y.2 && (match seenRead (copyEng p) (mapAt p 3) (elemPtrs (mapAt p 3) 0) (chargeElem p (mapAt p 2) 0 0 w) with
            | .ok k _ => !k.2 | _ => false)
          | _ => false)
        | _ => false)
     | _ => false) = true ∧
    notAbove .i64 0 2 = false ∧ notAbove .i64 3 2 = true ∧ coordLt .i64 2 5 = true ∧ coordLt .i64 5 2 = false ∧ coordLt .i64 2 2 = false ∧
    { p with pos := 2 }.n ≤ 2 ∧ auxAt { p with aux := [2, 2, 0, 0, 0, 0, 0] } 1 ≤ 2 := by
  refine ⟨by decide +kernel, .inr rfl, ?_⟩; decide +kernel

/-- R297: a block-scaled map, filled into a tag with and without a scale part; an element inside a block, and a base in another cell's
scratchpad. -/
theorem witness_MapFill_scaled :
    let d : BitVec 512 := (0x80000000000000D#60 ++ 12#4) ++ 0#64 ++ 0#64 ++ 0#64 ++ 0x0000000100000001#64 ++ (1#32 ++ 128#32) ++ 0#64 ++ 0#64
    let g : Tag := { tag0 .empty with ef := 12 }
    let s (g : Tag) (l : Word) := withMap d (tagged [g] (lit [fire2 l 0]))
    let far := map0 0x4080000000000000 10 64
    mapV d = true ∧ mapBk d = 1 ∧ mapBn d = 3 ∧ Claims.Unheld (s g 0) 0xB1 f0 (fire2 0 0) ∧ (tagOf (s g 0) homeCu 0).sv = false ∧
    Claims.Unheld (s { g with sv := true } 0) 0xB1 f0 (fire2 0 0) ∧ (tagOf (s { g with sv := true } 0) homeCu 0).sv = true ∧
    (64 : Word).toNat % 2 ^ 32 % min (blockSize (mapBn d)) (rowElems (mapTy d)) = 0 ∧
    (63 : Word).toNat % 2 ^ 32 % min (blockSize (mapBn d)) (rowElems (mapTy d)) ≠ 0 ∧ fillPtrOk (s g 0) homeCu (mapBase d) = true ∧
    fillPtrOk (s g 0) homeCu (mapSbase d) = true ∧ mapV far = true ∧ mapBk far = 0 ∧ fillPtrOk (s g 0) homeCu (mapBase far) = false ∧
    mapBk (d ^^^ (3#512 <<< 452)) = 2 := by
  unfold Claims.Unheld; decide +kernel

/-- R281: a map in global memory, valid and not, and a pointer that a mapped space refuses. -/
theorem witness_TensorOperationsComplete_tmap :
    let q := ask (.tmap f0) 0 []
    let s := { mapped (asks q) with mem := memBytes [] 0 (mapWords (map0 0 6 4) |>.flatMap fun w => leBytes w.toNat 8) }
    Claims.Oldest s q ∧ winOf q.c.l.val ≠ 1 ∧ q.k = [] ∧ onModule (reqCtx s q) q.c.u.x = true ∧
    (match resolveVa (Claims.taken s q) q.mu q.c.l.val 64 64 false with
     | .ok va => va == 0 && (match translate (Claims.touched s q) q .read 0 with
       | .ok a t => onModule (reqCtx t q) q.c.u.x && !readFails t a.phys && mapValid (bits512 (seenGlobal t q 0 a.phys 64))
       | _ => false)
     | .error _ => false) = true ∧
    (match translate (Claims.touched (mapped (asks q)) q) q .read 0 with
     | .ok a t => !mapValid (bits512 (seenGlobal t q 0 a.phys 64)) | _ => false) = true ∧
    (match resolveVa (Claims.taken s (ask (.tmap f0) 32 [])) homeMu 32 64 64 false with | .ok _ => false | .error _ => true) = true ∧
    (match translate (Claims.touched (asks q) q) q .read 0 with | .fault _ => true | _ => false) = true := by
  unfold Claims.Oldest; decide +kernel

/-- R16, R58, R467: a token that leaves its paddock over a border between worlds and over none, purge and marker tokens, and a station
that nothing waits for. -/
theorem witness_TokenEvents_kinds :
    let f : Flight := { u := homeCu, port := .loc, rx := 1, ry := 0, tok := { opd 4 5 with stn := 5 }, cfg := none }
    let s := updDie { quiet with fab := { quiet.fab with flights := [f] } } 0 fun k => { k with nsr := BitVec.allOnes 48 }
    crossesWorld s { homeCu with x := 3 } .e = false ∧ crossesWorld quiet { homeCu with x := 3 } .e = true ∧ (ctxOf quiet 0).cst = .running ∧
    (ctxOf quiet 0).frz.fault = false ∧ badHeader f.tok = false ∧ badHeader { f.tok with kind := 5 } = false ∧ f.tok.kind = 4 ∧
    (∀ k ∈ [(0 : BitVec 3), 1, 2, 6], k ∉ [(3 : BitVec 3), 4, 5]) ∧ stationTokens quiet homeCu 5 = [] := by decide +kernel

/-- R357, R413: a load's entry that its station takes, and a check that failed at no root. -/
theorem witness_LoadAndDrainEvents_args :
    let s := loading 2 image0
    argsFit s 0 [{ val := 7, x := 1, y := 0, stn := 5, pos := 0, itr := 0 }] = true ∧
    loaderCheck s 0 { kind := 0x02, flg := 0, lvl := 5, va := 0 } = s ∧ (ctxOf s 0).loadStage = 2 ∧ (ctxOf s 0).members.length ≤ 1 := by
  refine ⟨by decide +kernel, rfl, by decide +kernel, by decide +kernel⟩

/-- R417 to R423: a walk that finds a leaf; a region with a snoop pending, with and without a held access; an access of a unit and one of an
engine held until its time limit. -/
theorem witness_TranslationEvents :
    let q := ask (.ld f0) 0x2000 []
    let h : HeldHost := { region := 0, req := q, since := 0, eng := none }
    let p := copy0 (.send f0)
    let e : HeldHost := { h with req := { q with c := p.c, i := p.i }, eng := some 1 }
    let r : Region := { idx := 0, num := 0, own := .toDevice, since := 0, snoop := true }
    let s (hs : List HeldHost) := { copying p with clock := 2 ^ 22, tr := { quiet.tr with regions := [r], heldHost := hs } }
    findRegion (s []) 0 = some r ∧ regionHeld (s []) 0 = false ∧ regionHeld (s [h]) 0 = true ∧ r.since + 2 ^ 22 ≤ (s [h]).clock ∧
    ((s [h]).tr.heldHost.filter fun h => h.region == 0) = [h] ∧ h.eng = none ∧ ((s [e]).tr.heldHost.filter fun h => h.region == 0) = [e] ∧
    e.eng = some 1 ∧ copyOf (s [e]) e.req.mu 1 = some p ∧ p.c = e.req.c ∧
    (match walkPage { quiet with mem := memBytes (memBytes (memBytes [] 0 [1, 0x10]) 0x1000 [1, 0x20]) 0x2000 [0xF] } 0 0 with
     | .leaf l k => k == 3 && l.pbase == 0 | _ => false) = true ∧
    rootUnbacked { quiet with tr := { quiet.tr with spaces := [(0, { asReset with effRoot := 2 ^ 50 })] } } 0 = true := by decide +kernel

/-- R467: a member's error that has gone to the home and one that has not; and the members that an activation's release still asks. -/
theorem witness_ColourEvents_members :
    let e : ErrMsg := { u := homeCu, col := 1, kind := 0x0C, reply := [] }
    let g (sent : Bool) := withCtx (fun x => { x with members := [0, 1], member := 1 }) { quiet with un := { quiet.un with errs := [{ e with sent := sent }] } }
    let m := withCtx (fun x => { x with members := [0, 1], recs := [{ rec0 with state := .ended }], rcache := [(0, 1)] }) quiet
    (ctxOf (g true) 0).member ≠ 0 ∧ ((g true).un.errs.filter fun (e : ErrMsg) => e.u.ctx == 0)[0]? = some { e with sent := true } ∧
    ((g false).un.errs.filter fun (e : ErrMsg) => e.u.ctx == 0)[0]? = some { e with sent := false } ∧
    isLive (ctxOf (touchRec m 0 0 1) 0) = true ∧ (usedRec (ctxOf (touchRec m 0 0 1) 0) 0 1).map (fun r => r.state) = some .ended ∧
    unswept (ctxOf (touchRec m 0 0 1) 0) 0 1 = [1] ∧ buffered (touchRec m 0 0 1) 0 0 1 = false ∧
    unswept (ctxOf (touchRec (withCtx (fun x => { x with syncs := [(sweptKind 0 1, 1)] }) m) 0 0 1) 0) 0 1 = [] := by decide +kernel

/-- R434, R438: the check word of an empty flit, and another; an Ethernet port on both its alternates and at its third retrain; an orderly port up. -/
theorem witness_LinkEvents_crc :
    (∃ crc, flitCrc 0 none false 0 [] = some crc) ∧ (∀ crc, flitCrc 0 none false 0 [] = some crc → flitCrc 0 none false 0 [] ≠ some (crc + 1)) ∧
    (let v (n : Nat) (a : Bool) := { quiet with lk := { quiet.lk with eth := [(0, { ethReset with lst := .up, ews := false, rtn := n, ealt := a })] } }
     (ethOf (v 0 true) 0).ealt = true ∧ (ethOf (v 0 false) 0).ealt = false ∧ (ethOf (v 1 false) 0).rtn + 1 < 3 ∧ 3 ≤ (ethOf (v 2 false) 0).rtn + 1 ∧
     linkUsable (ethOf (v 2 false) 0).lst = true) ∧
    carriesData [] = false ∧ carriesData [.token { u := homeCu, port := .loc, rx := 0, ry := 0, tok := opd 0 5, cfg := none }] = false := by
  refine ⟨⟨_, rfl⟩, ?_, ?_⟩
  · intro crc h e
    have := Option.some.inj (h.symm.trans e)
    exact absurd this (by bv_omega)
  · decide +kernel

/-- R447, R450: a queue pair whose port is up and one whose port is down, a read whose data are whole, and a bound ring. -/
theorem witness_StorageAndNetworkEvents_ports :
    let n := { quiet with lk := { quiet.lk with qps := [(0, { qpReset with word := 9 })], eth := [(0, { ethReset with lst := .up, ews := false })] } }
    let q := ask (.netrecvBind f0) 0x4000000000000000 [0]
    pairUp n 0 = true ∧ pairUp { n with lk := { n.lk with eth := [] } } 0 = false ∧ qpSt (qpOf n 0) = 1 ∧
    Claims.Oldest (ringed ring0 (asks q)) q ∧ netRing (Claims.taken (ringed ring0 (asks q)) q) q = some ring0 ∧
    netRing (Claims.taken (asks q) q) q = none ∧ q.c.pair = none ∧ isIoRead (.ioread f0) = true ∧ (List.replicate 64 (0 : Byte)).length = (copy0 (.ioread f0)).len := by
  unfold Claims.Oldest; decide +kernel

/-- R478, R481: a register of a die that takes part and of one left out; an address and a size that no register has; an entry that a hart answers;
a head that may pass what has gone. -/
theorem witness_ServiceEvents_writes :
    let e : MboxEnt := { svn := 0, na := 0, am := 0, u := homeCu, col := 0, itr := 0, stn := 5, args := List.replicate 6 0, ta := 1, tb := 2, posted := true, pair := none }
    let s := updDie { quiet with boot := { quiet.boot with dies := [0] } } 0 fun k => { k with ring := [(0, some e)], mbn := 1, mbtl := 1 }
    leftOut s 0 = false ∧ leftOut s 1 = true ∧ fget none (dieReg s 0).ring 0 = some e ∧ e.posted = true ∧ e.svn ≠ 0xFFFF ∧
    ((4 : Nat) ≠ 8 ∧ 0x20_0000_0004 % 8 ≠ 0 ∧ 0 < 0x20_0000_0000) ∧ (passed (dieReg s 0) 1).length = 1 ∧ mayPass (dieReg s 0) 0 = false ∧
    mayPass (dieReg s 0) 1 = true ∧ (passed (dieReg quiet 0) 1).length > (dieReg quiet 0).mbn := by decide +kernel

/-- R29, R461, R462, R487 to R493: a unit whose 29 cycles are over and one whose are not, a flush that is due, a lid still hot, a start cut in its first
step, and a report for a supervisor. -/
theorem witness_UnitAndStartEvents_times :
    let x := ctxOf (withCtx (fun x => { x with residence := 29 }) quiet) 0
    let b : Bundle := { key := [], kernelKey := [], contents := [], digest := [0], sig := [] }
    let g : BootArg := {
      cool := true, rom := b, mirror := b, steps := [], mem := [], memAlt := [], memCheck := [], dies := [], badUnits := [],
      badChannels := [], ports := [], setup := [], load := false, cut := some { step := 1, ents := [], trip := false } }
    tickBase { quiet with clock := 29 } x 0 + 29 = 29 ∧ ({ quiet with clock := 28 } : State).clock < tickBase { quiet with clock := 28 } { x with residence := 28 } 0 + 29 ∧
    quiet.un.flushed + 2 ^ 30 ≤ ({ quiet with clock := 2 ^ 30 } : State).clock ∧ quiet.clock < quiet.un.flushed + 2 ^ 30 ∧
    windowOver { quiet with clock := 10 ^ 9 } (some 0) = true ∧ windowOver quiet (some 0) = false ∧
    ({ quiet with boot := { quiet.boot with trip := true, hot := [0] } } : State).boot.hot ≠ [] ∧ cutIn g 1 = true ∧ cutIn { g with cut := none } 1 = false ∧
    ({ mach := true, nonce := [] } : ReportArg).mach = true ∧ ({ mach := false, nonce := [] } : ReportArg).mach = false := by decide +kernel

/-- R176: a store of a program to its home scratchpad, which joins no entry of the buffer, and one that joins the entry of its line. -/
theorem witness_BufferedStoresLeaveMemory :
    let q := ask (.sts f0) 8 [7]
    let o : StoreOp := { la := muPtr homeMu 0, loc := locUnit homeMu 0, off := 8, bytes := leBytes 7 8, ntag := none, page := none, host := false }
    Claims.Oldest (asks q) q ∧ homePtr f0 q.c = some 0x4000000000000008 ∧ isLive (ctxOf (asks q) 0) = true ∧
    liveFault (asks q) (locUnit homeMu 8) 8 = none ∧ (asks q).mu.pbuf = [] ∧
    (match acceptStore (Claims.taken (asks q) q) q o with
     | some t => t.mu.pbuf.length == 1 && t.mu.pbuf.all (fun e => joins q o e && e.mask.getLsbD 8) && (acceptStore t q o).isSome
     | none => false) = true := by
  unfold Claims.Oldest; decide +kernel

/-- R238, R469: a network push whose source, in the home MU's scratchpad, holds an uncorrectable error, and one whose source does not. -/
theorem witness_StorageAndNetworkEvents_source :
    let p := { copy0 (.netsend f0) with c := fire2 0x4000000000000000 0, st := .streaming }
    let e : IoCmd := { mu := homeMu, id := 1, sent := false, since := 0, qp := 0, locs := [] }
    let s := { copying p with lk := { quiet.lk with ios := [e] } }
    let bad := { s with un := { s.un with upsets := [.line (locUnit homeMu 0 / 64)] } }
    isNetsend p.i = true ∧ isMoving p = true ∧ sendAhead bad p = false ∧ twinCopy bad p = none ∧ copyOf bad homeMu 1 = some p ∧
    (match ioLocs p (qpDie (qpOf bad 0)) bad with | .ok ls t => srcFails t ls | _ => false) = true ∧
    (match ioLocs p (qpDie (qpOf s 0)) s with | .ok ls t => !srcFails t ls | _ => false) = true := by decide +kernel

/-- R469: an array that reads a line with an uncorrectable error records it, one that reads the next line does not, and a walk through such a
line records it too. -/
theorem test_upset_reads :
    let s (n : Nat) : State := { quiet with un := { quiet.un with upsets := [.line n] } }
    let w := { s 64 with tr := { quiet.tr with spaces := [(0, { asReset with v := true, effRoot := 4096 })] } }
    (noteArray (fire2 0 0) [(6400, 64)] (s 100)).un.errs.map (fun e => e.kind) = [0x12] ∧ (noteArray (fire2 0 0) [(6400, 64)] (s 101)).un.errs = [] ∧
    walkUpset w 0 0 = true ∧ walkUpset w 0 (2 ^ 51) = false := by decide +kernel

end Sys2Proof.Tests
end

/-!
The frame of an issue, and the one end of every step (O32). A step reads the agenda, may latch instances, and runs one meaning;
memory itself is written only when the step ends, by `close` or `closeLoad`, from the write log. So two facts carry the statement:
every meaning ends with one of the two, and nothing that an issue does before its meaning touches memory.
-/

namespace Sys2Proof.Machine

open Sys2Proof

/-! ### The issue frame -/

/-- What no effect of an issue changes once its instances stand latched: the clock, the agenda, the latch itself, memory with its line
tags, and the routes. Tokens, contexts, counters, errors and the write log are not in it. -/
def issueFrame (s : State) : Nat × List Agendum × List Ready × List Host.Cell × FMap (BitVec 16) × FMap (BitVec 32) :=
  (s.clock, s.agenda, s.firing, s.mem, s.mtag, s.routes)

/-- Equal frames, field by field. -/
theorem issueFrame_eq_iff {s t : State} : issueFrame t = issueFrame s ↔
    t.clock = s.clock ∧ t.agenda = s.agenda ∧ t.firing = s.firing ∧ t.mem = s.mem ∧ t.mtag = s.mtag ∧ t.routes = s.routes := by
  simp [issueFrame]

/-- A fold of operations that each keep the frame keeps it. -/
theorem foldl_issueFrame {α : Type} {g : State → α → State} (h : ∀ s a, issueFrame (g s a) = issueFrame s) (l : List α) (s : State) :
    issueFrame (l.foldl g s) = issueFrame s := by
  induction l generalizing s with
  | nil => rfl
  | cons a l ih => exact (ih (g s a)).trans (h s a)

@[simp] theorem updCtx_issueFrame (s : State) (c : Nat) (g : Ctx → Ctx) : issueFrame (updCtx s c g) = issueFrame s := rfl
@[simp] theorem updDie_issueFrame (s : State) (d : Nat) (g : DieReg → DieReg) : issueFrame (updDie s d g) = issueFrame s := rfl
@[simp] theorem updQueue_issueFrame (s : State) (q : Nat) (g : Queue → Queue) : issueFrame (updQueue s q g) = issueFrame s := rfl
@[simp] theorem withYard_issueFrame (s : State) (y : Yard) : issueFrame { s with yard := y } = issueFrame s := rfl
@[simp] theorem setCause_issueFrame (s : State) (d b : Nat) : issueFrame (setCause s d b) = issueFrame s := rfl

/-! ### Messages and tokens -/

@[simp] theorem sendOne_issueFrame (s : State) (e : Nat × Nat × Cargo) : issueFrame (sendOne s e) = issueFrame s := by
  obtain ⟨k, h⟩ := sendOne_frame s e
  rw [h]
  rfl

@[simp] theorem sendOut_issueFrame (s : State) (x : Ctx) (m : Nat) (c : Cargo) : issueFrame (sendOut s x m c) = issueFrame s :=
  sendOne_issueFrame s _

@[simp] theorem tellMembers_issueFrame (s : State) (c : Nat) (m : LinkMsg) : issueFrame (tellMembers s c m) = issueFrame s :=
  foldl_issueFrame (fun t _ => sendOut_issueFrame t _ _ _) _ s

@[simp] theorem sendTok_issueFrame (s : State) (src d : UId) (own : Bool) (t : Flit) :
    issueFrame (sendTok s src d own t) = issueFrame s := by
  cases own <;> rfl

@[simp] theorem returnReady_issueFrame (s : State) (F : Ready) : issueFrame (returnReady s F) = issueFrame s := by
  unfold returnReady
  dsimp only
  split
  · rfl
  · exact sendOut_issueFrame ..

/-! ### Imprecise errors -/

@[simp] theorem trapErr_issueFrame (s : State) (u : UId) (col kind : Nat) : issueFrame (trapErr s u col kind) = issueFrame s := by
  unfold trapErr
  dsimp only
  split <;> rfl

@[simp] theorem checkRes_issueFrame (F : Ready) (s : State) : issueFrame (checkRes F s) = issueFrame s :=
  foldl_issueFrame (fun t _ => trapErr_issueFrame t _ _ _) _ s

@[simp] theorem issueErrors_issueFrame (op : BitVec 8) (F : Ready) (s : State) : issueFrame (issueErrors op F s) = issueFrame s := by
  unfold issueErrors
  dsimp only
  split
  · split
    · exact (trapErr_issueFrame ..).trans (trapErr_issueFrame ..)
    · exact trapErr_issueFrame ..
  · split
    · exact trapErr_issueFrame ..
    · rfl

/-! ### The end of a context (R398): a fault at issue may kill its context (R429) -/

@[simp] theorem gatherCharges_issueFrame (s : State) (c : Nat) : issueFrame (gatherCharges s c) = issueFrame s := by
  unfold gatherCharges
  dsimp only
  split
  · rfl
  · split
    · rfl
    · exact sendOut_issueFrame ..

@[simp] theorem sweepSpillPage_issueFrame (x : Ctx) (s : State) (k : Nat) : issueFrame (sweepSpillPage x s k) = issueFrame s := by
  unfold sweepSpillPage
  split
  · rfl
  · refine foldl_issueFrame (fun t j => ?_) _ s
    split <;> rfl

@[simp] theorem sweepSpill_issueFrame (s : State) (c : Nat) : issueFrame (sweepSpill s c) = issueFrame s := by
  unfold sweepSpill
  split
  · rfl
  · exact foldl_issueFrame (sweepSpillPage_issueFrame _) _ s

@[simp] theorem sweepCtx_issueFrame (s : State) (c : Nat) : issueFrame (sweepCtx s c) = issueFrame s := sweepSpill_issueFrame s c

@[simp] theorem suspendQueue_issueFrame (s : State) (q : Nat) (w : Word) : issueFrame (suspendQueue s q w) = issueFrame s := by
  unfold suspendQueue notice
  exact (updDie_issueFrame ..).trans ((setCause_issueFrame ..).trans (updQueue_issueFrame ..))

@[simp] theorem refuseHead_issueFrame (s : State) (q : Nat) (w : Word) : issueFrame (refuseHead s q w) = issueFrame s :=
  (updQueue_issueFrame ..).trans (suspendQueue_issueFrame s q w)

@[simp] theorem refuseFar_issueFrame (s : State) (c : Nat) : issueFrame (refuseFar s c) = issueFrame s :=
  foldl_issueFrame (fun t _ => sendOne_issueFrame t _) _ _

@[simp] theorem hamperCount_issueFrame (s : State) (l : Nat) : issueFrame (hamperCount s l) = issueFrame s := by
  unfold hamperCount
  dsimp only
  split <;> rfl

@[simp] theorem takeSignal_issueFrame (s : State) (w : Nat) : issueFrame (takeSignal s w).2 = issueFrame s := by
  unfold takeSignal
  dsimp only
  split
  · rfl
  · split
    · exact foldl_issueFrame (fun t l => hamperCount_issueFrame (setBar t l _) l) _ s
    · rfl

@[simp] theorem signalExit_issueFrame (s : State) (q w : Nat) : issueFrame (signalExit s q w) = issueFrame s := by
  unfold signalExit
  dsimp only
  split
  · rfl
  · split
    · exact sendOut_issueFrame ..
    · split
      · exact takeSignal_issueFrame s w
      · exact suspendQueue_issueFrame ..

@[simp] theorem endCtx_issueFrame (s : State) (c : Nat) (st : CState) (kind code : Nat) :
    issueFrame (endCtx s c st kind code) = issueFrame s := by
  have refused (l : List (Nat × Queue)) (t : State) : issueFrame (l.foldl (fun t e => refuseHead t e.1 dependStatus) t) = issueFrame t :=
    foldl_issueFrame (fun t (e : Nat × Queue) => refuseHead_issueFrame t e.1 dependStatus) l t
  have swept : issueFrame (sweepCtx (gatherCharges s c) c) = issueFrame s :=
    (sweepCtx_issueFrame _ c).trans (gatherCharges_issueFrame s c)
  unfold endCtx
  dsimp only
  refine (signalExit_issueFrame ..).trans ?_
  refine (withYard_issueFrame ..).trans ?_
  refine (refused ..).trans ?_
  exact (refuseFar_issueFrame ..).trans ((updCtx_issueFrame ..).trans swept)

@[simp] theorem killLocal_issueFrame (s : State) (c kind : Nat) : issueFrame (killLocal s c kind) = issueFrame s := by
  unfold killLocal finishKill
  dsimp only
  split
  · rfl
  · split
    · exact endCtx_issueFrame ..
    · split
      · rfl
      · exact endCtx_issueFrame ..

@[simp] theorem killCtx_issueFrame (s : State) (c kind : Nat) : issueFrame (killCtx s c kind) = issueFrame s := by
  unfold killCtx
  split
  · exact (killLocal_issueFrame ..).trans (tellMembers_issueFrame ..)
  · rfl

/-! ### Precise faults (R424 to R429) -/

@[simp] theorem requestFreeze_issueFrame (s : State) (c : Nat) (g : Frz → Frz) : issueFrame (requestFreeze s c g) = issueFrame s := by
  unfold requestFreeze
  dsimp only
  split
  · rfl
  · exact tellMembers_issueFrame ..

@[simp] theorem nestedFault_issueFrame (s : State) (u : UId) (r : FaultRec) : issueFrame (nestedFault s u r) = issueFrame s :=
  killCtx_issueFrame (fallback s _ r) _ _

@[simp] theorem rootCheck_issueFrame (s : State) (u : UId) (kind lvl : Nat) : issueFrame (rootCheck s u kind lvl) = issueFrame s := by
  unfold rootCheck
  split <;> rfl

@[simp] theorem recordFault_issueFrame (s : State) (F : Ready) (r : FaultRec) (m : Option Marker) (nest : Bool) :
    issueFrame (recordFault s F r m nest) = issueFrame s := by
  unfold recordFault
  dsimp only
  split
  · exact nestedFault_issueFrame ..
  · split
    · exact (nestedFault_issueFrame ..).trans (rootCheck_issueFrame ..)
    · exact requestFreeze_issueFrame ..

@[simp] theorem undoPrimary_issueFrame (s : State) (c : Nat) : issueFrame (undoPrimary s c) = issueFrame s := by
  unfold undoPrimary
  split
  · rfl
  · split
    · exact sendTok_issueFrame ..
    · exact returnReady_issueFrame ..

/-- Taking a precise fault keeps the issue frame: its record goes to the write log, not to memory. -/
@[simp] theorem raiseWith_issueFrame (re : Bool) (F : Ready) (fi : FaultInfo) (s : State) :
    issueFrame (raiseWith re F fi s) = issueFrame s := by
  have root := rootCheck_issueFrame s F.u fi.kind fi.lvl
  unfold raiseWith
  dsimp only
  split
  · exact root
  · split
    · exact root
    · split
      · split
        · exact (sendTok_issueFrame ..).trans root
        · exact (returnReady_issueFrame ..).trans root
      · refine (recordFault_issueFrame ..).trans ?_
        split
        · exact (undoPrimary_issueFrame ..).trans root
        · exact root

/-! ### Matching and the latch (R61, R69) -/

theorem partner_issueFrame {s t : State} {probe near : Bool} {u : UId} {k : Flit} {pos : BitVec 2} {w : Waiting}
    (h : partner s probe u k pos = some (w, near, t)) : issueFrame t = issueFrame s := by
  unfold partner at h
  dsimp only at h
  split at h
  · split at h <;> cases h <;> rfl
  · cases h; rfl
  · cases h; rfl
  · cases h

theorem gather_issueFrame {probe own near : Bool} {u : UId} {k : Flit} {ps : List (BitVec 2)} {s t : State} {ws : List Waiting}
    (h : gather probe u k own ps s = some (ws, near, t)) : issueFrame t = issueFrame s := by
  induction ps generalizing s ws near with
  | nil => cases h; rfl
  | cons p ps ih =>
    unfold gather at h
    split at h
    · exact ih h
    · split at h
      · cases h
      next w n s1 hp =>
        obtain ⟨⟨ws', near', t'⟩, hg, e⟩ := Option.map_eq_some_iff.1 h
        cases e
        exact (ih hg).trans (partner_issueFrame hp)

@[simp] theorem completeAt_issueFrame (s : State) (F : Ready) : issueFrame (completeAt s F) = issueFrame s := by
  unfold completeAt
  dsimp only
  split
  · rfl
  · split
    · exact raiseWith_issueFrame ..
    · rfl

@[simp] theorem rematch_issueFrame (s : State) (F : Ready) : issueFrame (rematch s F) = issueFrame s := by
  unfold rematch
  dsimp only
  split
  · rfl
  · split
    · rfl
    next hg => exact (completeAt_issueFrame ..).trans (gather_issueFrame hg)

@[simp] theorem chargeIssue_issueFrame (op : BitVec 8) (F : Ready) (s : State) : issueFrame (chargeIssue op F s) = issueFrame s := by
  unfold chargeIssue
  split
  · rfl
  · split <;> rfl

/-- Latching changes nothing of the frame but the latch itself. -/
theorem latch_issueFrame (s : State) (F : Ready) (ls : List Ready) : issueFrame (latch s F ls) = issueFrame { s with firing := ls } := by
  unfold latch
  refine (foldl_issueFrame rematch_issueFrame _ _).trans ?_
  refine (foldl_issueFrame (fun t r => chargeIssue_issueFrame _ r t) _ _).trans ?_
  exact foldl_issueFrame (fun t r => (issueErrors_issueFrame _ r _).trans (checkRes_issueFrame r t)) _ _

/-- Latching leaves memory, its line tags and the routes as they were. -/
theorem latch_store (s : State) (F : Ready) (ls : List Ready) :
    (latch s F ls).mem = s.mem ∧ (latch s F ls).mtag = s.mtag ∧ (latch s F ls).routes = s.routes := by
  obtain ⟨-, -, -, hmem, htag, hroutes⟩ := issueFrame_eq_iff.1 (latch_issueFrame s F ls)
  exact ⟨hmem, htag, hroutes⟩

/-! ### One step -/

/-- An issue that runs a meaning runs it on the latched state. -/
theorem issue_run {s t : State} {u : UId} {i : Instr} (h : issue s u = .run i t) : ∃ F ls, t = latch s F ls := by
  unfold issue at h
  dsimp only at h
  split at h
  · cases h
  next F _ =>
    split at h
    · cases h
    · split at h
      · cases h
      · split at h
        · cases h; exact ⟨F, _, rfl⟩
        · cases h

/-- The meaning that a step runs begins with the memory, line tags and routes of the step's own beginning. -/
theorem nextAct_run_store {s t : State} {i : Instr} (h : nextAct s = .run i t) :
    t.mem = s.mem ∧ t.mtag = s.mtag ∧ t.routes = s.routes := by
  unfold nextAct at h
  dsimp only at h
  split at h
  · cases h
  · split at h
    · obtain ⟨F, ls, rfl⟩ := issue_run h
      exact latch_store _ F ls
    · cases h; exact ⟨rfl, rfl, rfl⟩

/-- Every meaning ends its step: a loader, a restore, a drain or a reset with `closeLoad`, any other with `close`. -/
theorem exec_ends (i : Instr) (s : State) : ∃ t, exec i s = .next (close s t) ∨ exec i s = .next (closeLoad s t) := by
  cases i with
  | kernelVerified c => exact ⟨_, .inr rfl⟩
  | kernelLoadComplete c => exact ⟨_, .inr rfl⟩
  | drainComplete c => exact ⟨_, .inr rfl⟩
  | restoreComplete c => exact ⟨_, .inr rfl⟩
  | thermalTrip => exact ⟨_, .inr rfl⟩
  | powerOnReset b => exact ⟨_, .inr rfl⟩
  | powerLoss orderly => exact ⟨_, .inr rfl⟩
  | _ => exact ⟨_, .inl rfl⟩

/-- Every step ends with one of the two, over a state that has the memory of the step's beginning. -/
theorem step_ends (s : State) : ∃ r t, r.mem = s.mem ∧ (step s = .next (close r t) ∨ step s = .next (closeLoad r t)) := by
  unfold step
  split
  next t _ => exact ⟨s, t, rfl, .inl rfl⟩
  next i r h =>
    obtain ⟨t, ht⟩ := exec_ends i r
    exact ⟨r, t, (nextAct_run_store h).1, ht⟩

/-- A step from canonical memory answers a settled state, whatever was latched or pending before it. -/
theorem step_settles {s : State} (h : Memory.wf s.mem = true) : ∃ t, step s = .next t ∧ Safety.Settled t := by
  obtain ⟨r, t, hm, e | e⟩ := step_ends s
  · exact ⟨_, e, close_settled r t (hm ▸ h)⟩
  · exact ⟨_, e, closeLoad_settled r t (hm ▸ h)⟩

/-- Settles O32: a step ends by applying its write log to canonical memory, and clears the latch and the log as it does. -/
theorem everyStepCompletesAndKeepsTheSettledState : Obligations.EveryStepCompletesAndKeepsTheSettledState := by
  intro s hs
  obtain ⟨hwf, -, -⟩ := hs
  obtain ⟨t, ht, settled⟩ := step_settles hwf
  refine ⟨⟨t, ht⟩, fun t' ht' => ?_⟩
  cases ht.symm.trans ht'
  exact settled

end Sys2Proof.Machine

/-!
The steps of a token and of a config token (O52). Each body of a step has one lemma per outcome; the statement is read off from them.
-/

namespace Sys2Proof.Machine

open Sys2Proof

/-- A step that is done over a body ends with the body's state. -/
theorem ends_of_body {i : Instr} {s b t : State} (h : b = t) (he : exec i s = done s b) : Claims.Ends i s t :=
  h ▸ he

/-! ### What a unit accepts (R57, R58) -/

theorem badHeader_iff {t : Flit} : badHeader t = true ↔ t.rsv ≠ 0 ∨ t.kind = 7 ∨ t.pos = 3 := by
  simp [badHeader, or_assoc]

theorem neverMatches_iff {t : Flit} : neverMatches t = true ↔ t.kind = 4 ∨ t.kind = 5 := by
  simp [neverMatches, kMarker]

/-- A kind outside config, purge and marker is one that a station or a write queue takes. -/
theorem plain_kind {t : Flit} (h : t.kind ∉ [(3 : BitVec 3), 4, 5]) : t.kind ≠ 3 ∧ neverMatches t = false := by
  simp only [List.mem_cons, List.not_mem_nil, or_false, not_or] at h
  exact ⟨h.1, Bool.eq_false_iff.2 fun hn => (neverMatches_iff.1 hn).elim h.2.1 h.2.2⟩

/-! ### A switch (R16, R27, R40) -/

/-- The state in which a switch has taken a granted token from its input port, and its round robin has moved on (R16). -/
def tookFlight (s : State) (u : UId) (out : Port) (f : Flight) : State :=
  { s with fab := { s.fab with flights := s.fab.flights.erase f,
                               rr := fset 0 s.fab.rr (siteKey s u * 5 + portNum out) ((portNum f.port + 1) % 5) } }

@[simp] theorem tookFlight_injAt (s : State) (u v : UId) (out : Port) (f : Flight) (k : Nat) :
    injAt (tookFlight s u out f) v k = injAt s v k := rfl

section
variable {s : State} {u : UId} {out : Port} {f : Flight}

/-- A switch that grants a token takes it off its input port; then the route check, the border and the output port decide. -/
theorem bodyTokenHop_granted (hl : (ctxOf s u.ctx).cst ≠ .loading) (hg : grant s u out = some f)
    (he : emitsTokens (ctxOf s u.ctx) = true) : bodyTokenHop u out s =
      let t := tookFlight s u out f
      if f.tok.ctx.toNat != u.ctx || !ridOk s f.tok then trapErr t u f.tok.col.toNat 0x11
      else if leavesPaddock (ctxOf s u.ctx) f then refuseBorder t u out f.tok
      else if out = .loc then deliver t u f.tok f.cfg
      else
        let k := injForward t u f.tok
        let g := hop { f with tok := k.1 }
        if onModule (ctxOf s u.ctx) g.u.x then { k.2 with fab := { k.2.fab with flights := k.2.fab.flights ++ [g] } }
        else sendOut k.2 (ctxOf s u.ctx) (memberAt (ctxOf s u.ctx) g.u.x) (.token g) := by
  have hm : tokensMove (tookFlight s u out f) u.ctx = true := he
  unfold bodyTokenHop
  rw [if_neg (by simpa using hl), hg]
  change (if !tokensMove (tookFlight s u out f) u.ctx then _ else _) = _
  rw [hm]
  cases out <;> rfl


/-- A token whose context or route is not the switch's records ROUTE (R40). -/
theorem bodyTokenHop_misrouted (hl : (ctxOf s u.ctx).cst ≠ .loading) (hg : grant s u out = some f)
    (he : emitsTokens (ctxOf s u.ctx) = true) (h : f.tok.ctx.toNat ≠ u.ctx ∨ ridOk s f.tok = false) :
    bodyTokenHop u out s = trapErr (tookFlight s u out f) u f.tok.col.toNat 0x11 := by
  rw [bodyTokenHop_granted hl hg he]
  exact if_pos (by simpa using h)

/-- A token that would leave its paddock meets the border (R27). -/
theorem bodyTokenHop_leaves (hl : (ctxOf s u.ctx).cst ≠ .loading) (hg : grant s u out = some f)
    (he : emitsTokens (ctxOf s u.ctx) = true) (hc : f.tok.ctx.toNat = u.ctx) (hr : ridOk s f.tok = true)
    (h : leavesPaddock (ctxOf s u.ctx) f = true) :
    bodyTokenHop u out s = refuseBorder (tookFlight s u out f) u out f.tok := by
  simp [bodyTokenHop_granted hl hg he, hc, hr, h]

/-- A token that has come to its destination is delivered. -/
theorem bodyTokenHop_local (hl : (ctxOf s u.ctx).cst ≠ .loading) (hg : grant s u .loc = some f)
    (he : emitsTokens (ctxOf s u.ctx) = true) (hc : f.tok.ctx.toNat = u.ctx) (hr : ridOk s f.tok = true)
    (h : leavesPaddock (ctxOf s u.ctx) f = false) :
    bodyTokenHop u .loc s = deliver (tookFlight s u .loc f) u f.tok f.cfg := by
  simp [bodyTokenHop_granted hl hg he, hc, hr, h]

/-- Any other token moves one hop, to a site of this module (R16). -/
theorem bodyTokenHop_onward (hl : (ctxOf s u.ctx).cst ≠ .loading) (hg : grant s u out = some f)
    (he : emitsTokens (ctxOf s u.ctx) = true) (hc : f.tok.ctx.toNat = u.ctx) (hr : ridOk s f.tok = true)
    (h : leavesPaddock (ctxOf s u.ctx) f = false) (hi : injAt s u 2 = false) (ho : out ≠ .loc)
    (hm : onModule (ctxOf s u.ctx) (hop f).u.x = true) : bodyTokenHop u out s =
      let t := tookFlight s u out f
      { t with fab := { t.fab with flights := t.fab.flights ++ [hop f] } } := by
  simp [bodyTokenHop_granted hl hg he, hc, hr, h, injForward, hi, ho, hm]

end

/-- At a border between blocks of one world the token records ROUTE (R16). -/
theorem refuseBorder_sameWorld {s : State} {u : UId} {out : Port} {t : Flit} (h : crossesWorld s u out = false) :
    refuseBorder s u out t = trapErr s u t.col.toNat 0x11 := by
  simp [refuseBorder, h]

/-- In a paddock that drains, a token that would cross into the other world counts as an orphan (log entry 89). -/
theorem refuseBorder_draining {s : State} {u : UId} {out : Port} {t : Flit} (h : crossesWorld s u out = true)
    (hd : (ctxOf s u.ctx).cst = .draining) : refuseBorder s u out t = addOrph s u.ctx 1 := by
  simp [refuseBorder, h, raiseBorder, hd]

/-- In a running paddock without a pending fault, it faults WORLD, and the record names the switch (R27, R428). -/
theorem refuseBorder_faults {s : State} {u : UId} {out : Port} {t : Flit} (h : crossesWorld s u out = true)
    (hr : (ctxOf s u.ctx).cst = .running) (hf : (ctxOf s u.ctx).frz.fault = false) :
    ∃ r : FaultRec, r.kind = 0x1A ∧ r.x = relCol (ctxOf s u.ctx) u.x ∧ r.y = u.y ∧ r.stn = t.stn.toNat ∧ r.col = t.col.toNat ∧
      refuseBorder s u out t = recordFault s (tokFiring u 0 t) r none false := by
  have hb : refuseBorder s u out t = raiseBorder s u t := if_pos h
  rw [hb]
  unfold raiseBorder
  simp only [hr, hf, emitsTokens]
  exact ⟨_, rfl, rfl, rfl, rfl, rfl, rfl⟩

/-! ### Delivery (R36, R57, R58, R362) -/

section
variable {s : State} {u : UId} {t : Flit} {l : Option CfgLoad}

/-- Without an injection a token is delivered as it is. -/
theorem injDeliver_none (h1 : injAt s u 1 = false) (h5 : injAt s u 5 = false) : injDeliver s u t = (t, s) := by
  simp [injDeliver, h1, h5]

/-- At a CU the token joins the arrivals. -/
theorem deliver_cu (hd : injDeliver s u t = (t, s)) (hu : isMu u.x = false) : deliver s u t l =
    { s with fab := { s.fab with arrivals := s.fab.arrivals ++ [{ u := u, own := false, tok := t, cfg := l }] } } := by
  simp [deliver, hd, hu]

/-- An MU discards a header that no unit accepts, and a config token. -/
theorem deliver_mu_discards (hd : injDeliver s u t = (t, s)) (hu : isMu u.x = true) (h : badHeader t = true ∨ t.kind = 3) :
    deliver s u t l = trapErr s u t.col.toNat 0x11 := by
  have h : (badHeader t || t.kind == kConfig) = true := by simpa [kConfig] using h
  simp only [deliver, hd, hu, h, if_true]

/-- A purge or a marker has no effect at an MU. -/
theorem deliver_mu_unmatched (hd : injDeliver s u t = (t, s)) (hu : isMu u.x = true) (hb : badHeader t = false)
    (h : t.kind = 4 ∨ t.kind = 5) : deliver s u t l = s := by
  have h3 : t.kind ≠ kConfig := by rcases h with h | h <;> simp [h, kConfig]
  simp [deliver, hd, hu, hb, h3, neverMatches_iff.2 h]

/-- Any other token joins the MU's write queues. -/
theorem deliver_mu_queues (hd : injDeliver s u t = (t, s)) (hu : isMu u.x = true) (hb : badHeader t = false)
    (h : t.kind ∉ [(3 : BitVec 3), 4, 5]) : deliver s u t l = { s with cp := { s.cp with
      toQueues := s.cp.toQueues ++ [{ u := u, port := .loc, rx := 0, ry := 0, tok := t, cfg := none }] } } := by
  obtain ⟨h3, hn⟩ := plain_kind h
  have h3 : t.kind ≠ kConfig := h3
  simp [deliver, hd, hu, hb, h3, hn]

end

/-! ### One hop (R16) -/

theorem hop_paddock (f : Flight) : (hop f).u.ctx = f.u.ctx ∧ (hop f).u.copy = f.u.copy := by
  unfold hop
  split <;> exact ⟨rfl, rfl⟩

theorem wants_east {f : Flight} (h : 0 < f.rx) : wants f = .e := if_pos h

theorem wants_west {f : Flight} (h : f.rx < 0) : wants f = .w := by
  simp [wants, h, Int.not_lt.2 h.le]

theorem wants_north {f : Flight} (h : f.rx = 0) (hy : 0 < f.ry) : wants f = .n := by
  simp [wants, h, hy]

theorem wants_south {f : Flight} (h : f.rx = 0) (hy : f.ry < 0) : wants f = .s := by
  simp [wants, h, hy, Int.not_lt.2 hy.le]

theorem wants_local {f : Flight} (h : f.rx = 0) (hy : f.ry = 0) : wants f = .loc := by
  simp [wants, h, hy]

/-! ### Arrival at a CU (R57, R58, R64, R81) -/

/-- The state in which a CU has taken an arrival. -/
def tookArrival (s : State) (a : Arrival) : State := { s with fab := { s.fab with arrivals := s.fab.arrivals.erase a } }

section
variable {s : State} {u : UId} {own : Bool} {a : Arrival}

/-- A config token, and what came behind it, waits for CONFIG_TOKEN_ARRIVAL (R362). -/
theorem bodyTokenArrival_config (ha : s.fab.arrivals.find? (fun a => a.u == u && a.own == own) = some a)
    (he : emitsTokens (ctxOf s u.ctx) = true) (h : a.tok.kind = 3) : bodyTokenArrival u own s = s := by
  unfold bodyTokenArrival
  rw [ha]
  exact if_pos (by simp [h, kConfig, tokensMove, he])

/-- Any other arrival is taken; then the header, the kind and the station decide. -/
theorem bodyTokenArrival_taken (ha : s.fab.arrivals.find? (fun a => a.u == u && a.own == own) = some a)
    (he : emitsTokens (ctxOf s u.ctx) = true) (h : a.tok.kind ≠ 3) : bodyTokenArrival u own s =
      let t := tookArrival s a
      if badHeader a.tok then trapErr t u a.tok.col.toNat 0x11
      else if neverMatches a.tok then t
      else if holdsOp s u a.tok.stn.toNat 0x00 then addOrph t u.ctx 1
      else place (nextSeq t u).2 u (nextSeq t u).1 a.tok false := by
  have hm : tokensMove (tookArrival s a) u.ctx = true := he
  unfold bodyTokenArrival
  rw [ha]
  dsimp only
  have h3 : a.tok.kind ≠ kConfig := h
  rw [if_neg (by simp [h3])]
  change (if !tokensMove (tookArrival s a) u.ctx then _ else _) = _
  rw [hm]
  rfl

/-- A header that no unit accepts records ROUTE. -/
theorem bodyTokenArrival_discards (ha : s.fab.arrivals.find? (fun a => a.u == u && a.own == own) = some a)
    (he : emitsTokens (ctxOf s u.ctx) = true) (h : a.tok.kind ≠ 3) (hb : badHeader a.tok = true) :
    bodyTokenArrival u own s = trapErr (tookArrival s a) u a.tok.col.toNat 0x11 :=
  (bodyTokenArrival_taken ha he h).trans (if_pos hb)

/-- A purge or a marker matches nothing. -/
theorem bodyTokenArrival_unmatched (ha : s.fab.arrivals.find? (fun a => a.u == u && a.own == own) = some a)
    (he : emitsTokens (ctxOf s u.ctx) = true) (hb : badHeader a.tok = false) (h : a.tok.kind = 4 ∨ a.tok.kind = 5) :
    bodyTokenArrival u own s = tookArrival s a := by
  have h3 : a.tok.kind ≠ 3 := by rcases h with h | h <;> simp [h]
  rw [bodyTokenArrival_taken ha he h3]
  dsimp only
  rw [if_neg (by simp [hb]), if_pos (neverMatches_iff.2 h)]

/-- Any other token is an orphan at a NOP station, and takes its place at another. -/
theorem bodyTokenArrival_plain (ha : s.fab.arrivals.find? (fun a => a.u == u && a.own == own) = some a)
    (he : emitsTokens (ctxOf s u.ctx) = true) (h : a.tok.kind ∉ [(3 : BitVec 3), 4, 5]) (hb : badHeader a.tok = false) :
    bodyTokenArrival u own s =
      let t := tookArrival s a
      if holdsOp s u a.tok.stn.toNat 0x00 then addOrph t u.ctx 1 else place (nextSeq t u).2 u (nextSeq t u).1 a.tok false := by
  obtain ⟨h3, hn⟩ := plain_kind h
  rw [bodyTokenArrival_taken ha he h3]
  dsimp only
  rw [if_neg (by simp [hb]), if_neg (by simp [hn])]

end

/-- A probe that returns places its token (R66, R67). -/
theorem bodySpillProbeDone_returns {s : State} {u : UId} {p : Probe} (hp : s.fab.probes.find? (fun p => p.u == u) = some p)
    (he : emitsTokens (ctxOf s u.ctx) = true) :
    bodySpillProbeDone u s = place { s with fab := { s.fab with probes := s.fab.probes.erase p } } u p.seq p.tok true := by
  unfold bodySpillProbeDone
  rw [hp]
  exact if_pos he

/-- A token waits in the store while that has room (R64). -/
theorem park_store {s : State} {u : UId} {seq : Nat} {t : Flit} (h : tierCount s u false < 64) :
    park s u seq t = { s with fab := { s.fab with waiting := s.fab.waiting ++ [{ u := u, hold := false, seq := seq, tok := t }] } } :=
  if_pos h

/-- Beside a full store it waits in the hold, while that has room (R64). -/
theorem park_hold {s : State} {u : UId} {seq : Nat} {t : Flit} (h : 64 ≤ tierCount s u false)
    (hh : tierCount s u true < 512 * ((ctxOf s u.ctx).part % 16)) :
    park s u seq t = { s with fab := { s.fab with waiting := s.fab.waiting ++ [{ u := u, hold := true, seq := seq, tok := t }] } } := by
  have hg : tierCount s u true < 512 * holdGran (ctxOf s u.ctx).part := by simpa [holdGran, nbits] using hh
  unfold park
  rw [if_neg (by omega), if_pos hg]

/-- The steps of a token (the first half of O52). -/
theorem tokenEvents : Claims.TokenEvents := by
  refine ⟨fun s u out f hg he hl => ⟨?_, ?_, ?_, ?_⟩, fun s u own a ha he => ⟨?_, ?_, ?_, ?_, ?_⟩, ?_, ?_, ?_⟩
  · exact fun hc => ends_of_body (bodyTokenHop_misrouted hl hg he (.inl hc)) rfl
  · exact fun _ hr => ends_of_body (bodyTokenHop_misrouted hl hg he (.inr hr)) rfl
  · intro hc hr hx
    have hb := bodyTokenHop_leaves hl hg he hc hr hx
    refine ⟨fun hw => ?_, fun hw hd => ?_, fun hw hr hf => ?_⟩
    · exact ends_of_body (hb.trans (refuseBorder_sameWorld hw)) rfl
    · exact ends_of_body (hb.trans (refuseBorder_draining hw hd)) rfl
    · obtain ⟨r, hk, hx, hy, hs, hcol, e⟩ := refuseBorder_faults (t := f.tok) hw hr hf
      exact ⟨r, hk, hx, hy, hs, hcol, ends_of_body (hb.trans e) rfl⟩
  · intro hc hr hx hi
    have hd : injDeliver (tookFlight s u out f) u f.tok = (f.tok, tookFlight s u out f) :=
      injDeliver_none (hi 1 (by simp)) (hi 5 (by simp))
    refine ⟨?_, ?_, ?_, ?_, ?_⟩
    · rintro rfl hu
      exact ends_of_body ((bodyTokenHop_local hl hg he hc hr hx).trans (deliver_cu hd hu)) rfl
    · rintro rfl hu hb hk
      exact ends_of_body ((bodyTokenHop_local hl hg he hc hr hx).trans (deliver_mu_unmatched hd hu hb hk)) rfl
    · rintro rfl hu hb hk
      exact ends_of_body ((bodyTokenHop_local hl hg he hc hr hx).trans (deliver_mu_queues hd hu hb hk)) rfl
    · rintro rfl hu hb
      exact ends_of_body ((bodyTokenHop_local hl hg he hc hr hx).trans (deliver_mu_discards hd hu hb)) rfl
    · exact fun ho hm => ends_of_body (bodyTokenHop_onward hl hg he hc hr hx (hi 2 (by simp)) ho hm) rfl
  · exact fun h => ends_of_body (bodyTokenArrival_config ha he h) rfl
  · exact fun h hb => ends_of_body (bodyTokenArrival_discards ha he h (badHeader_iff.2 hb)) rfl
  · exact fun h hb => ends_of_body (bodyTokenArrival_unmatched ha he hb h) rfl
  · exact fun h hb hop => ends_of_body ((bodyTokenArrival_plain ha he h hb).trans (if_pos hop)) rfl
  · exact fun h hb hop => ends_of_body ((bodyTokenArrival_plain ha he h hb).trans (if_neg (ne_true_of_eq_false hop))) rfl
  · exact fun s u p hp he => ends_of_body (bodySpillProbeDone_returns hp he) rfl
  · exact fun s u seq t => ⟨park_store, park_hold⟩
  · intro f
    refine ⟨(hop_paddock f).1, (hop_paddock f).2, fun h => ?_, fun h => ?_, fun h hy => ?_, fun h hy => ?_, fun h hy => ?_⟩
    · simp [hop, wants_east h]
    · simp [hop, wants_west h]
    · simp [hop, wants_north h hy]
    · simp [hop, wants_south h hy]
    · simp [hop, wants_local h hy]


/-! ### A config token reaches its CU (R48, R57, R362, R363) -/

/-- The state in which a CU has taken the arrival numbered `n`. -/
def tookArrivalAt (s : State) (n : Nat) : State := { s with fab := { s.fab with arrivals := s.fab.arrivals.eraseIdx n } }

section
variable {s : State} {n : Nat} {a : Arrival}

/-- A token of another kind, and one that another of its way stands before, is not this step's to take. -/
theorem bodyConfigArrival_idle (ha : s.fab.arrivals[n]? = some a)
    (h : a.tok.kind ≠ 3 ∨ ((s.fab.arrivals.take n).any fun b => b.u == a.u && b.own == a.own) = true) :
    bodyConfigArrival n s = s := by
  unfold bodyConfigArrival
  rw [ha]
  refine if_pos ?_
  rcases h with h | h
  · have h3 : a.tok.kind ≠ kConfig := h
    simp [h3]
  · simp only [h, Bool.or_true]

/-- A config token at the head of its way is taken and held. -/
theorem bodyConfigArrival_taken (ha : s.fab.arrivals[n]? = some a) (hk : a.tok.kind = 3)
    (hf : ((s.fab.arrivals.take n).any fun b => b.u == a.u && b.own == a.own) = false)
    (he : emitsTokens (ctxOf s a.u.ctx) = true) : bodyConfigArrival n s = holdConfig a (tookArrivalAt s n) := by
  have h3 : a.tok.kind = kConfig := hk
  unfold bodyConfigArrival
  rw [ha]
  dsimp only
  rw [if_neg (by simp only [h3, hf]; decide)]
  exact if_pos he

end

section
variable {s : State} {a : Arrival} {l : CfgLoad}

/-- A config token that names no object, or has a reserved bit set, records ROUTE. -/
theorem holdConfig_route (h : 2 ≤ a.tok.pos.toNat ∨ a.tok.rsv ≠ 0) : holdConfig a s = trapErr s a.u a.tok.col.toNat 0x11 := by
  unfold holdConfig
  split
  · rfl
  next o ho =>
    refine if_pos (badHeader_iff.2 (.inl ?_))
    refine h.resolve_left fun hp => ?_
    unfold cfgObj at ho
    split at ho
    · omega
    · omega
    · cases ho

/-- A config token of a K register is held, with a value unless it reads. -/
theorem holdConfig_kreg (hk : a.tok.kind = 3) (hr : a.tok.rsv = 0) (hl : a.cfg = some l) (hp : a.tok.pos = 1) :
    holdConfig a s =
      let o := CfgObj.kreg (a.tok.stn.toNat % 64)
      { s with fab := { s.fab with cfgHeld := s.fab.cfgHeld ++
          [{ u := a.u, obj := o, val := if l.rd = true then none else some a.tok.val, reply := l.reply, before := readersOf s a.u o,
             code := 0, grp := l.grp }] } } := by
  have hb : badHeader a.tok = false := by simp [badHeader, hr, hk, hp]
  have ho : cfgObj a.tok = some (.kreg (a.tok.stn.toNat % 64)) := by simp [cfgObj, hp]
  unfold holdConfig
  rw [ho, hl]
  simp [hb]

/-- A config token that writes a station is held, with the code of its word's check. -/
theorem holdConfig_stn (hk : a.tok.kind = 3) (hr : a.tok.rsv = 0) (hl : a.cfg = some l) (hp : a.tok.pos = 0) (hw : l.rd = false) :
    holdConfig a s =
      let o := CfgObj.stn a.tok.stn.toNat
      { s with fab := { s.fab with cfgHeld := s.fab.cfgHeld ++
          [{ u := a.u, obj := o, val := some a.tok.val, reply := l.reply, before := readersOf s a.u o,
             code := wordCode s a.u a.tok.val, grp := l.grp }] } } := by
  have hb : badHeader a.tok = false := by simp [badHeader, hr, hk, hp]
  have ho : cfgObj a.tok = some (.stn a.tok.stn.toNat) := by simp [cfgObj, hp]
  unfold holdConfig
  rw [ho, hl]
  simp [hb, hw]

end

/-! ### A held config token is applied (R363) -/

/-- The state in which the held token numbered `n` is no longer held. -/
def tookHeld (s : State) (n : Nat) : State := { s with fab := { s.fab with cfgHeld := s.fab.cfgHeld.eraseIdx n } }

section
variable {s : State} {n : Nat} {h : HeldCfg}

/-- A held token whose readers have not issued stays held. -/
theorem bodyConfigApply_waits (hn : s.fab.cfgHeld[n]? = some h) (hm : cfgMayApply s n h = false) : bodyConfigApply n s = s := by
  unfold bodyConfigApply
  rw [hn]
  exact if_pos (by simp [hm])

/-- Applied without a reply, a token writes its object, and the instances that waited for it are checked. -/
theorem bodyConfigApply_silent (hn : s.fab.cfgHeld[n]? = some h) (he : emitsTokens (ctxOf s h.u.ctx) = true)
    (hm : cfgMayApply s n h = true) (hr : h.reply = none) :
    bodyConfigApply n s = recheck (cfgWrite h (tookHeld s n)) h.u h.obj := by
  have he : tokensMove s h.u.ctx = true := he
  unfold bodyConfigApply
  rw [hn]
  simp [he, hm, hr, tookHeld]

/-- Applied outside a BWLD, a token of a K register also replies: with the register where it reads, else with 0. -/
theorem bodyConfigApply_replies {k : Nat} {r : ReplyTo} (hn : s.fab.cfgHeld[n]? = some h) (he : emitsTokens (ctxOf s h.u.ctx) = true)
    (hm : cfgMayApply s n h = true) (ho : h.obj = .kreg k) (hr : h.reply = some r) (hg : h.grp = none) : bodyConfigApply n s =
      let v := if h.val.isNone then kreg s h.u k else 0
      emitFrom (emitFrom (recheck (cfgWrite h (tookHeld s n)) h.u (.kreg k)) h.u r.u r.col r.itr r.ta r.kind v false)
        h.u r.u r.col r.itr r.tb r.kind v false := by
  have he : tokensMove s h.u.ctx = true := he
  have hs : sameGrp h = fun _ => false := by funext e; simp [sameGrp, hg]
  unfold bodyConfigApply
  rw [hn]
  cases hv : h.val with
  | none => simp [he, hm, hr, ho, hs, hv, tookHeld, kreg]
  | some w => simp [he, hm, hr, ho, hs, hv, tookHeld]

end

section
variable {s : State} {u : UId} {k : Nat}

/-- Where the instances that a condition picks are none of a CU's station, taking them out leaves the ready queue as it was. -/
theorem ready_untouched {hit : Ready → Bool} (hh : ∀ r, hit r = true → r.u = u ∧ r.stn = k)
    (h : ∀ r ∈ s.fab.ready, r.u = u → r.stn ≠ k) :
    s.fab.ready.filter hit = [] ∧ s.fab.ready.filter (fun r => !hit r) = s.fab.ready := by
  have none_hit : ∀ r ∈ s.fab.ready, hit r = false := fun r hr =>
    Bool.eq_false_iff.2 fun e => h r hr (hh r e).1 (hh r e).2
  exact ⟨List.filter_eq_nil_iff.2 fun r hr => by simp [none_hit r hr], List.filter_eq_self.2 fun r hr => by simp [none_hit r hr]⟩

/-- A station without complete instances has none to dissolve. -/
theorem dissolve_none (h : ∀ r ∈ s.fab.ready, r.u = u → r.stn ≠ k) : dissolve s u k = s := by
  obtain ⟨hit, rest⟩ := ready_untouched (hit := fun r => r.u == u && r.stn == k) (by simp) h
  simp only [dissolve, hit, rest, List.flatMap_nil, List.nil_append]

/-- A station without complete instances has none to check again. -/
theorem recheck_stn_none (h : ∀ r ∈ s.fab.ready, r.u = u → r.stn ≠ k) : recheck s u (.stn k) = s := by
  obtain ⟨hit, rest⟩ := ready_untouched (hit := fun r => r.u == u && readsObj s u r.stn (.stn k)) (by simp +contextual [readsObj]) h
  simp only [recheck, hit, rest, List.foldl_nil]

/-- A station at which no token waits has nothing to match anew. -/
theorem rematchStation_none {counts : Bool} (h : stationTokens s u k = []) : rematchStation s u k counts = s := by
  simp [rematchStation, h, takeLefts]

end

/-- The write of a station that has neither complete instances nor waiting tokens sets its word and its code, and nothing else. -/
theorem cfgWrite_stn_idle {s : State} {h : HeldCfg} {k : Nat} {w : Word} (ho : h.obj = .stn k) (hv : h.val = some w)
    (hr : ∀ r ∈ s.fab.ready, r.u = h.u → r.stn ≠ k) :
    let t := { s with fab := { s.fab with stations := fset 0 s.fab.stations (uKey h.u * 128 + k) w,
                                          trapping := fset 0 s.fab.trapping (uKey h.u * 128 + k) h.code } }
    stationTokens t h.u k = [] → cfgWrite h s = t := by
  intro t ht
  simp only [cfgWrite, ho, hv, dissolve_none hr]
  exact rematchStation_none ht

/-- The write of a K register sets it, and nothing else. -/
theorem cfgWrite_kreg {s : State} {h : HeldCfg} {k : Nat} {w : Word} (ho : h.obj = .kreg k) (hv : h.val = some w) :
    cfgWrite h s = { s with fab := { s.fab with kregs := fset 0 s.fab.kregs (uKey h.u * 64 + k) w } } := by
  simp only [cfgWrite, ho, hv]

/-- A read writes nothing. -/
theorem cfgWrite_read {s : State} {h : HeldCfg} (hv : h.val = none) : cfgWrite h s = s := by
  simp only [cfgWrite, hv]

/-- The steps of a config token (the second half of O52). -/
theorem configTokenEvents : Claims.ConfigTokenEvents := by
  refine ⟨fun s n a ha hk hf he => ?_, fun s n a ha h => ends_of_body (bodyConfigArrival_idle ha h) rfl,
    fun s n h k w hn ho hv hr he hm hready ht => ?_, fun s n h k hn ho he => ?_⟩
  · have hb := bodyConfigArrival_taken ha hk hf he
    refine ⟨fun h => ?_, fun hr l hl => ⟨fun hp => ?_, fun hp hw => ?_⟩⟩
    · exact ends_of_body (hb.trans (holdConfig_route h)) rfl
    · exact ends_of_body (hb.trans (holdConfig_kreg hk hr hl hp)) rfl
    · exact ends_of_body (hb.trans (holdConfig_stn hk hr hl hp hw)) rfl
  · refine ends_of_body ((bodyConfigApply_silent hn he hm hr).trans ?_) rfl
    rw [cfgWrite_stn_idle (s := tookHeld s n) ho hv hready ht, ho]
    exact recheck_stn_none hready
  · refine ⟨fun hm => ends_of_body (bodyConfigApply_waits hn hm) rfl, fun hm r hr hg => ?_⟩
    have hb := bodyConfigApply_replies hn he hm ho hr hg
    refine ⟨fun w hv => ?_, fun hv => ?_⟩
    · rw [hv, cfgWrite_kreg ho hv] at hb
      exact ends_of_body hb rfl
    · rw [hv, cfgWrite_read hv] at hb
      exact ends_of_body hb rfl

/-- Settles O52: every step of a token and of a config token has the outcome that its own case of the body gives. -/
theorem tokenAndConfigEvents : Obligations.TokenAndConfigEvents := ⟨tokenEvents, configTokenEvents⟩

end Sys2Proof.Machine

/-!
The steps of units, of the wear of units and of the start (O53). What a step does is stated for its body, one lemma per outcome; the statement
is read off from them.
-/

namespace Sys2Proof.Machine

open Sys2Proof

/-! ### Lifetime records (R22, R461, R462) -/

/-- A key that has been put is found, whatever else the map holds. -/
theorem fget_finsert_same {α : Type} (d : α) (m : FMap α) (k : Nat) (v : α) : fget d (finsert k v m) k = v := by
  induction m with
  | nil => simp [finsert, fget]
  | cons e r ih =>
    obtain ⟨k', v'⟩ := e
    simp only [finsert]
    split
    · simp [fget]
    next hlt =>
      split
      · simp [fget]
      next hne => simp [fget, hlt, hne, ih]

/-- A value other than the default reads back where it was set. -/
theorem fget_fset_same {α : Type} [DecidableEq α] {d v : α} (hv : v ≠ d) (m : FMap α) (k : Nat) : fget d (fset d m k v) k = v := by
  rw [fset, if_neg hv]
  exact fget_finsert_same d m k v

/-- The record of a site after a change. -/
theorem lifeOf_updLife {s : State} {p : Nat} {f : Life → Life} (h : f (lifeOf s p) ≠ lifeReset) :
    lifeOf (updLife s p f) p = f (lifeOf s p) :=
  fget_fset_same h ..

/-- The mirror of a site's record after a change (R22). -/
theorem mirror_updLife {s : State} {p : Nat} {f : Life → Life} (h : lifeRecord (f (lifeOf s p)) ≠ lifeReset) :
    fget lifeReset (updLife s p f).un.mirror p = lifeRecord (f (lifeOf s p)) :=
  fget_fset_same h ..

/-! ### Wear and retirement (R18, R460, R461, R465) -/

theorem derateAt_lt_drainAt : derateAt < drainAt := by decide

/-- A threshold changes the state of a unit alone. -/
theorem wearStage_counts (l : Life) : (wearStage l).usf = l.usf ∧ (wearStage l).lwear = l.lwear ∧ (wearStage l).frac = l.frac := by
  unfold wearStage
  split
  · exact ⟨rfl, rfl, rfl⟩
  · split <;> exact ⟨rfl, rfl, rfl⟩

/-- The state of a unit after a threshold, which the wear and the state before it decide. -/
theorem wearStage_ust (l : Life) : (wearStage l).ust =
    if drainAt ≤ l.lwear ∧ (l.ust ≤ 1 ∨ l.ust = 4) then 2 else if derateAt ≤ l.lwear ∧ l.ust = 0 then 1 else l.ust := by
  simp only [wearStage, Bool.and_eq_true, Bool.or_eq_true, decide_eq_true_eq, beq_iff_eq, ge_iff_le, apply_ite Life.ust]

/-- A tick adds the stress to the hidden fraction, and what that carries to the wear. -/
theorem wearLife_counts (n : Nat) (l : Life) : (wearLife n l).usf = n ∧
    (wearLife n l).lwear = min (2 ^ 64 - 1) (l.lwear + (l.frac + n) / 16) ∧ (wearLife n l).frac = (l.frac + n) % 16 := by
  refine ⟨(wearStage_counts _).1, (wearStage_counts _).2.1.trans ?_, (wearStage_counts _).2.2.trans ?_⟩
  · exact congrArg (min _) (by omega)
  · show _ % 16 = _
    omega

/-- A tick leaves the state of a unit to the thresholds, which its new wear is compared with. -/
theorem wearLife_ust (n : Nat) (l : Life) : (wearLife n l).ust =
    if drainAt ≤ (wearLife n l).lwear ∧ (l.ust ≤ 1 ∨ l.ust = 4) then 2
    else if derateAt ≤ (wearLife n l).lwear ∧ l.ust = 0 then 1 else l.ust := by
  have hw : (wearLife n l).lwear = min (2 ^ 64 - 1) ((l.lwear * 16 + l.frac + n) / 16) := (wearStage_counts _).2.1
  rw [hw]
  exact wearStage_ust _

/-- What a tick makes of the state of a unit (R460, R461). -/
theorem wearLife_stages (n : Nat) (l : Life) : let w := wearLife n l
    (w.lwear < derateAt → w.ust = l.ust) ∧ (l.ust = 0 → derateAt ≤ w.lwear → w.lwear < drainAt → w.ust = 1) ∧
    (l.ust ≤ 1 → drainAt ≤ w.lwear → w.ust = 2) ∧ (l.ust = 4 → drainAt ≤ w.lwear → w.ust = 2) ∧ (l.ust = 3 → w.ust = 3) := by
  have lt := derateAt_lt_drainAt
  dsimp only
  rw [wearLife_ust]
  refine ⟨?_, ?_, ?_, ?_, ?_⟩ <;> split_ifs <;> omega

/-- A unit that is not DRAINING, or whose row a resident context covers, does not retire. -/
theorem bodyUnitRetire_idle {s : State} {site : Nat} (h : (lifeOf s site).ust ≠ 2 ∨ rowFree s site = false) :
    bodyUnitRetire site s = s := by
  refine if_pos ?_
  rcases h with h | h <;> simp [h]

/-- A unit whose row's spare is in use becomes a hole (R19). -/
theorem bodyUnitRetire_hole {s : State} {site : Nat} (hs : site < 23040) (hu : (lifeOf s site).ust = 2)
    (hr : rowFree s site = true) (hm : fget 15 s.un.remap (site / 60) ≠ 15) : bodyUnitRetire site s =
      retire { s with un := { s.un with holes := s.un.holes ++ [site] } } site := by
  simp [bodyUnitRetire, hs, hu, hr, hm]

/-- A unit whose row's spare is free gives its physical period to it (R18). -/
theorem bodyUnitRetire_spare {s : State} {site : Nat} (hs : site < 23040) (hu : (lifeOf s site).ust = 2)
    (hr : rowFree s site = true) (hm : fget 15 s.un.remap (site / 60) = 15) : bodyUnitRetire site s =
      (List.range 4).foldl (fun s k => retire s (site / 60 * 60 + 4 * (site % 60 / 4) + k))
        { s with un := { s.un with remap := fset 15 s.un.remap (site / 60) (site % 60 / 4) } } := by
  simp [bodyUnitRetire, hs, hu, hr, hm]

/-! ### A tick of a unit's monitors (R461, R463) -/

/-- Before its 29 resident cycles have passed a unit has no tick, and a unit of no resident context has none. -/
theorem bodyWearTick_idle {s : State} {u : UId} (h : isResident (ctxOf s u.ctx) = false ∨
    (unitsOf (ctxOf s u.ctx)).contains u = false ∨
    s.clock < tickBase s (ctxOf s u.ctx) (physAt s (modPos s u)) + 29) : bodyWearTick u s = s := by
  refine if_pos ?_
  rcases h with h | h | h
  · simp only [h, Bool.not_false, Bool.true_or]
  · simp only [h, Bool.not_false, Bool.true_or, Bool.or_true]
  · simp only [h, decide_true, Bool.or_true]

/-- The state after a tick at a free stress, before a unit that has passed a threshold moves its contexts off. -/
def ticked (s : State) (u : UId) : State :=
  let p := physAt s (modPos s u)
  let n := (Config.freeWord s.fresh).toNat % 256
  wearCharge u.ctx n (updLife { s with fresh := s.fresh + 1, un := { s.un with
    wtick := fset 0 s.un.wtick p (tickBase s (ctxOf s u.ctx) p + 29) } } p (wearLife n))

/-- A tick wears the unit and charges its context; where the unit's state changes, what must leave it moves off. -/
theorem bodyWearTick_due {s : State} {u : UId} (hr : isResident (ctxOf s u.ctx) = true)
    (hu : (unitsOf (ctxOf s u.ctx)).contains u = true)
    (hc : tickBase s (ctxOf s u.ctx) (physAt s (modPos s u)) + 29 ≤ s.clock) : bodyWearTick u s =
      if (lifeOf (ticked s u) (physAt s (modPos s u))).ust = (lifeOf s (physAt s (modPos s u))).ust then ticked s u
      else moveOff (ticked s u) := by
  unfold bodyWearTick
  dsimp only
  rw [if_neg (by simp only [hr, hu]; simpa using hc)]
  simp only [beq_iff_eq]
  rfl

/-! ### Digests and lids (R29, R470, R471) -/

/-- A held firing whose twin's is held too meets it. -/
theorem bodyDigestExchange_meets {s : State} {n : Nat} {a b : Twin} (ha : s.un.twins[n]? = some a)
    (hb : s.un.twins.find? (isTwinOf s a) = some b) : bodyDigestExchange n s = meetTwins a b s := by
  simp only [bodyDigestExchange, ha, hb]

/-- The lid of a fabric die that passes 80 °C interrupts that die, once. -/
theorem bodyLidOver_one {s : State} {d : Nat} (hd : d < 8) (hh : s.boot.hot.contains d = false) :
    bodyLidOver [d] s = setCause { s with boot := { s.boot with hot := s.boot.hot ++ [d] } } d 6 := by
  have h10 : ¬d ≥ 10 := by omega
  simp only [bodyLidOver, List.foldl_cons, List.foldl_nil, hh, lidDie, if_pos hd, h10, decide_false, Bool.or_false]
  rfl

/-- The steps of units (the first half of O53). -/
theorem unitEvents : Claims.UnitEvents := by
  refine ⟨fun s site => ⟨?_, ends_of_body rfl rfl, fun h => ends_of_body (if_pos h) rfl,
    fun h => ends_of_body (if_neg (Nat.not_lt.2 h)) rfl, fun f => ⟨lifeOf_updLife, mirror_updLife⟩, ?_, ?_, ?_⟩,
    fun s u => ⟨?_, ?_⟩, ?_, ?_, ?_⟩
  · exact ends_of_body (congrArg (updLife s site) (by funext l; simp)) rfl
  · exact fun h => ends_of_body (bodyUnitRetire_idle h) rfl
  · exact fun hs hu hr hm => ends_of_body (bodyUnitRetire_hole hs hu hr hm) rfl
  · exact fun hs hu hr hm => ends_of_body (bodyUnitRetire_spare hs hu hr hm) rfl
  · exact fun h => ends_of_body (bodyWearTick_idle h) rfl
  · intro hr hu hc
    have hb := bodyWearTick_due hr hu hc
    exact ⟨fun h => ends_of_body (hb.trans (if_pos h)) rfl, fun h => ends_of_body (hb.trans (if_neg h)) rfl⟩
  · intro n l _ _
    obtain ⟨hs, hw, hf⟩ := wearLife_counts n l
    exact ⟨hs, hw, hf, wearLife_stages n l⟩
  · intro s n a b ha hb
    have he := bodyDigestExchange_meets ha hb
    exact ⟨fun h => ends_of_body (he.trans (if_pos (beq_iff_eq.2 h))) rfl,
      fun h => ends_of_body (he.trans (if_neg (by simpa using h))) rfl⟩
  · exact fun s d l => ⟨rfl, fun hd hh => ends_of_body (bodyLidOver_one hd hh) rfl⟩

/-- A reset's step, which may write stations and routes, ends with the body's state. -/
theorem endsLoad_of_body {i : Instr} {s b t : State} (h : b = t) (he : exec i s = .next (closeLoad s b)) : Claims.EndsLoad i s t :=
  h ▸ he

/-! ### The start (R29, R487 to R493) -/

/-- After a trip, a start waits until every lid is cool. -/
theorem bootStart_hot {s : State} {b : BootArg} (ht : s.boot.trip = true) (hc : b.cool = false ∨ s.boot.hot ≠ []) :
    bootStart b s = resetState s := by
  refine if_pos ?_
  have hw : (!b.cool || !s.boot.hot.isEmpty) = true := by simpa using hc
  show (s.boot.trip && (!b.cool || !s.boot.hot.isEmpty)) = true
  rw [ht, hw]
  rfl

/-- A start that goes on takes the first step, which the bundle decides. -/
theorem bootStart_cool {s : State} {b : BootArg} (h : s.boot.trip = false ∨ (b.cool = true ∧ s.boot.hot = [])) : bootStart b s =
    let t := beginStart b (settleRecord (resetState s))
    if cutIn b 1 then cutOff b t
    else (bootBundle b).elim (halt (endStep t (entKey 1 0) false false)) fun k => bootSteps b k (endStep t (entKey 1 0) true false) := by
  have hw : ¬(s.boot.trip && (!b.cool || !s.boot.hot.isEmpty)) = true := by
    rcases h with h | ⟨hc, hh⟩ <;> simp [*]
  refine (if_neg hw).trans ?_
  cases bootBundle b <;> rfl

/-- Reading the record of the last start does not count as one. -/
theorem settleRecord_starts (s : State) : (settleRecord s).boot.starts = s.boot.starts := by
  unfold settleRecord
  dsimp only
  split <;> rfl

/-- A start counts itself. -/
theorem beginStart_starts (b : BootArg) (s : State) : (beginStart b s).boot.starts = (s.boot.starts + 1) % 2 ^ 32 := rfl

/-- M begins anew, with the bytes of step 1 alone (R491). -/
theorem beginStart_meas (b : BootArg) (s : State) :
    (beginStart b s).boot.meas = sha384 (List.replicate 48 0 ++ sha384 (b.steps.getD 0 [])) := rfl

/-- A running supervisor in machine mode obtains the report. -/
theorem bodyReport_signs {s : State} {nonce : List Byte} (hh : s.boot.halted = false) (hd : s.boot.dies ≠ []) :
    bodyReport { mach := true, nonce := nonce } s =
      { s with boot := { s.boot with report := reportBody s nonce ++ signReport (reportBody s nonce) } } :=
  if_neg (by simp [hh, hd])

/-- In any other mode, and in a module that has halted or not started, there is no report. -/
theorem bodyReport_none {s : State} {q : ReportArg} (h : q.mach = false ∨ s.boot.halted = true ∨ s.boot.dies = []) :
    bodyReport q s = s := by
  refine if_pos ?_
  rcases h with h | h | h <;> simp [h]

/-- The supervisor's bytes without line tags reach memory exactly where memory is. -/
theorem bodySupervisorWrite_bytes {s : State} {loc : Nat} {bs : List Byte} (hl : loc + bs.length ≤ 2 ^ 52) :
    bodySupervisorWrite loc bs [] s = if backedRange loc bs.length then wrBytes s loc bs else s := by
  simp only [bodySupervisorWrite, hl, decide_true, Bool.true_and, List.filter_nil, List.foldl_nil]

/-- The steps of the start (the second half of O53). -/
theorem startEvents : Claims.StartEvents := by
  refine ⟨fun s => ⟨rfl, rfl, rfl, rfl, rfl, fun q h => ends_of_body (bodyReport_none h) rfl,
    fun nonce hh hd => ends_of_body (bodyReport_signs hh hd) rfl⟩, fun s b => ⟨fun ht hc => ?_, fun h => ?_⟩, fun s loc bs hl => ⟨?_, ?_⟩⟩
  · exact endsLoad_of_body (bootStart_hot ht hc) rfl
  · have hb := bootStart_cool (b := b) h
    refine ⟨fun hc => ?_, fun hc hn => ?_, fun hc k hk => ?_, ?_, beginStart_meas ..⟩
    · exact endsLoad_of_body (hb.trans (if_pos hc)) rfl
    · exact endsLoad_of_body (hb.trans ((if_neg (ne_true_of_eq_false hc)).trans (by rw [hn]; rfl))) rfl
    · exact endsLoad_of_body (hb.trans ((if_neg (ne_true_of_eq_false hc)).trans (by rw [hk]; rfl))) rfl
    · rw [beginStart_starts, settleRecord_starts]
      rfl
  · exact fun h => ends_of_body ((bodySupervisorWrite_bytes hl).trans (if_pos h)) rfl
  · exact fun h => ends_of_body ((bodySupervisorWrite_bytes hl).trans (if_neg (ne_true_of_eq_false h))) rfl

/-- Settles O53: each event of a unit and of the start has the outcome that its own case of the body gives. -/
theorem unitAndStartEvents : Obligations.UnitAndStartEvents := ⟨unitEvents, startEvents⟩

end Sys2Proof.Machine

/-!
Decoding and encoding (O28, O27). A word is an opcode over its fields, and packing undoes taking apart in both directions. What is left is
the table: the constructor that an opcode chooses has that opcode, and an instruction that passes its checks is the one that its own opcode
and fields choose.
-/

namespace Sys2Proof

/-! ### The word and its fields (R30, R33, R41) -/

theorem tyCode_tyOf : ∀ b : BitVec 4, tyCode (tyOf b) = b := by decide

theorem tyOf_tyCode (t : Ty) : tyOf (tyCode t) = t := by cases t <;> rfl

theorem srcCode_srcOf : ∀ b : BitVec 2, srcCode (srcOf b) = b := by decide

theorem srcOf_srcCode (m : Src) : srcOf (srcCode m) = m := by cases m <;> rfl

theorem bitOf_getLsbD {n : Nat} (w : BitVec n) (k : Nat) : bitOf (w.getLsbD k) = w.extractLsb' k 1 := by
  ext j hj
  obtain rfl : j = 0 := by omega
  cases h : w.getLsbD k <;> simp [bitOf, h]

theorem getLsbD_bitOf (b : Bool) : (bitOf b).getLsbD 0 = b := by cases b <;> rfl

/-- The fields of a word, put together again, are the word. -/
theorem packWord_unpack (w : BitVec 64) : packWord (opOfWord w) (unpack w) = w := by
  simp only [packWord, opOfWord, unpack, tyCode_tyOf, srcCode_srcOf, bitOf_getLsbD,
    BitVec.extractLsb'_append_extractLsb'_eq_extractLsb', BitVec.extractLsb'_eq_self]

/-- A field of a packed word, over the sum of the widths: in this form the library's lemmas about appended words apply. -/
theorem extractLsb'_packWord (op : BitVec 8) (f : Fields) (lo n : Nat) : (packWord op f).extractLsb' lo n =
    BitVec.extractLsb' (n := 8 + 4 + 4 + 1 + 1 + 2 + 12 + 12 + 20) lo n
      (op ++ f.fn ++ tyCode f.ty ++ bitOf f.u ++ bitOf f.pd ++ srcCode f.src ++ f.ta ++ f.tb ++ f.imm) := rfl

/-- The same for a single bit of a packed word. -/
theorem getLsbD_packWord (op : BitVec 8) (f : Fields) (k : Nat) : (packWord op f).getLsbD k =
    BitVec.getLsbD (w := 8 + 4 + 4 + 1 + 1 + 2 + 12 + 12 + 20)
      (op ++ f.fn ++ tyCode f.ty ++ bitOf f.u ++ bitOf f.pd ++ srcCode f.src ++ f.ta ++ f.tb ++ f.imm) k := rfl

theorem opOfWord_packWord (op : BitVec 8) (f : Fields) : opOfWord (packWord op f) = op := by
  simp (disch := decide) only [opOfWord, extractLsb'_packWord, BitVec.extractLsb'_append_eq_of_le, Nat.reduceSub,
    BitVec.extractLsb'_eq_self]

theorem unpack_packWord (op : BitVec 8) (f : Fields) : unpack (packWord op f) = f := by
  simp (disch := decide) only [unpack, extractLsb'_packWord, getLsbD_packWord, BitVec.extractLsb'_append_eq_of_le,
    BitVec.extractLsb'_append_eq_of_add_le, BitVec.getLsbD_append, Nat.reduceSub, BitVec.extractLsb'_eq_self, tyOf_tyCode,
    srcOf_srcCode, getLsbD_bitOf]
  rfl

/-! ### The table (R43, R44) -/

/-- An opcode chooses a constructor of that opcode, which carries the fields. -/
theorem opOf_of_build {op : BitVec 8} {f : Fields} {i : Instr} (h : build op f = some i) :
    opOf i = some op ∧ fieldsOf i = some f := by
  obtain ⟨n, hn, rfl⟩ : ∃ n, n < 256 ∧ op = BitVec.ofNat 8 n := ⟨op.toNat, op.isLt, by simp⟩
  have h : build (BitVec.ofNat 8 n) f = some i := h
  interval_cases n
  all_goals conv at h => lhs; whnf
  all_goals try split at h
  all_goals cases h
  all_goals exact ⟨rfl, rfl⟩

open Laws in
/-- An instruction that passes its checks is chosen by its own opcode and fields. Where an opcode has several rows, the check of `FN` decides
between them; elsewhere the opcode alone does. -/
theorem build_of_firstFail (i : Instr) : Chosen.Statement i := by
  cases i with
  | iterNextStep f => exact Chosen.iterNextStep f
  | iterNextDone f => exact Chosen.iterNextDone f
  | svcCall f => exact Chosen.svcCall f
  | svcArg f => exact Chosen.svcArg f
  | cfgWStn f => exact Chosen.cfgWStn f
  | cfgWK f => exact Chosen.cfgWK f
  | cfgWReconf f => exact Chosen.cfgWReconf f
  | send f => exact Chosen.send f
  | sendRing f => exact Chosen.sendRing f
  | sendkChain f => exact Chosen.sendkChain f
  | sendkLast f => exact Chosen.sendkLast f
  | ioread f => exact Chosen.ioread f
  | ioreadRing f => exact Chosen.ioreadRing f
  | netrecvBind f => exact Chosen.netrecvBind f
  | netrecvUnbind f => exact Chosen.netrecvUnbind f
  | ttagBind f => exact Chosen.ttagBind f
  | ttagFull f => exact Chosen.ttagFull f
  | ttagEmpty f => exact Chosen.ttagEmpty f
  | ttagStat f => exact Chosen.ttagStat f
  | binPut f => exact Chosen.binPut f
  | binPutMap f => exact Chosen.binPutMap f
  | _ => rintro e op f ⟨⟩ ⟨⟩ - <;> rfl

/-! ### Encoding and decoding (R46, R47) -/

theorem encode_eq_some_iff {i : Instr} {w : Word} :
    encode i = some w ↔ ∃ op f, opOf i = some op ∧ fieldsOf i = some f ∧ packWord op f = w := by
  unfold encode
  split
  next op f ho hf => simp [ho, hf]
  next hn =>
    simp only [reduceCtorEq, false_iff]
    rintro ⟨op, f, ho, hf, -⟩
    exact hn op f ho hf

theorem decodeIn_eq_ok_iff {e : Option RtEnv} {w : Word} {i : Instr} :
    decodeIn e w = .ok i ↔ build (opOfWord w) (unpack w) = some i ∧ firstFail e i = none := by
  unfold decodeIn
  cases hb : build (opOfWord w) (unpack w) with
  | none =>
    dsimp only
    split <;> simp
  | some j =>
    dsimp only
    cases hf : firstFail e j with
    | none =>
      simp only [Except.ok.injEq, Option.some.injEq]
      exact ⟨fun h => ⟨h, h ▸ hf⟩, And.left⟩
    | some c =>
      simp only [reduceCtorEq, Option.some.injEq, false_iff]
      rintro ⟨rfl, h⟩
      cases hf.symm.trans h

/-- The word of an instruction that passes its checks decodes to it. -/
theorem decodeIn_of_encode {e : Option RtEnv} {i : Instr} {w : Word} (h : firstFail e i = none) (hw : encode i = some w) :
    decodeIn e w = .ok i := by
  obtain ⟨op, f, ho, hf, rfl⟩ := encode_eq_some_iff.1 hw
  rw [decodeIn_eq_ok_iff, opOfWord_packWord, unpack_packWord]
  exact ⟨build_of_firstFail i e op f ho hf h, h⟩

/-- A word that decodes is the word of its instruction. -/
theorem encode_of_decodeIn {e : Option RtEnv} {i : Instr} {w : Word} (h : decodeIn e w = .ok i) : encode i = some w := by
  obtain ⟨ho, hf⟩ := opOf_of_build (decodeIn_eq_ok_iff.1 h).1
  exact encode_eq_some_iff.2 ⟨_, _, ho, hf, packWord_unpack w⟩

/-- What a word decodes to is a station instruction with the word's fields. -/
theorem fieldsOf_of_decodeIn {e : Option RtEnv} {i : Instr} {w : Word} (h : decodeIn e w = .ok i) : fieldsOf i = some (unpack w) :=
  (opOf_of_build (decodeIn_eq_ok_iff.1 h).1).2

/-- Settles O28: packing and taking apart undo each other, and so do the table's two readings for an instruction that passes its checks. -/
theorem encodingAndDecodingAgree : Obligations.EncodingAndDecodingAgree :=
  fun _ _ _ => ⟨decodeIn_of_encode, fun h => ⟨encode_of_decodeIn h, (decodeIn_eq_ok_iff.1 h).2⟩⟩

/-- Settles O27: each of the three words is its instruction's, which passes the checks; the fourth has an opcode that no entry has. -/
theorem sampleWordsDecode : Obligations.SampleWordsDecode :=
  ⟨decodeIn_of_encode (by decide) rfl, decodeIn_of_encode (by decide) rfl, decodeIn_of_encode (by decide) rfl, by decide⟩

end Sys2Proof

/-!
What a step runs (O29), and that it keeps the routes (O33). `due` answers the first entry of the least rank among those of the first cycle;
`issue` has one lemma per outcome. A step that is not a load's, a restore's or a start's ends with `close`, which puts the routes back.
-/

namespace Sys2Proof.Machine

open Sys2Proof

/-! ### Ranks (R396) -/

theorem kindRank_le (s : State) (a : Act) : kindRank s a ≤ 13 := by
  unfold kindRank
  cases a with
  | issue u =>
    dsimp only
    split <;> decide
  | event i =>
    cases i with
    | muRequest m => dsimp only; split <;> decide
    | ryenxonFlitReceive => dsimp only; split <;> decide
    | _ => exact Nat.le_of_ble_eq_true rfl

theorem rank_le (s : State) (a : Act) : rank s a ≤ 13 := by
  have h := kindRank_le s a
  unfold rank
  dsimp only
  split_ifs <;> omega

theorem firstRank_single (s : State) (h : Agendum) : firstRank s [h] = (0, rank s h.act) := if_pos (rank_le s h.act)

/-- The first of the least rank: its place, its rank, and what stands before and behind it. -/
theorem firstRank_spec (s : State) (l : List Agendum) (hl : l ≠ []) :
    ∃ a, l[(firstRank s l).1]? = some a ∧ (firstRank s l).2 = rank s a.act ∧
      ∀ j b, l[j]? = some b → rank s a.act ≤ rank s b.act ∧ (j < (firstRank s l).1 → rank s a.act < rank s b.act) := by
  induction l with
  | nil => exact absurd rfl hl
  | cons h tl ih =>
    cases tl with
    | nil =>
      rw [firstRank_single]
      refine ⟨h, rfl, rfl, fun j b hb => ?_⟩
      obtain ⟨rfl, rfl⟩ : j = 0 ∧ h = b := by
        cases j with
        | zero => exact ⟨rfl, Option.some.inj hb⟩
        | succ j => cases hb
      exact ⟨le_rfl, fun h => absurd h (Nat.lt_irrefl 0)⟩
    | cons g tl =>
      obtain ⟨a, ha, hr, hmin⟩ := ih (List.cons_ne_nil g tl)
      rw [firstRank, hr]
      split
      next hle =>
        refine ⟨h, rfl, rfl, fun j b hb => ⟨?_, fun hj => absurd hj (Nat.not_lt_zero j)⟩⟩
        cases j with
        | zero => cases hb; exact le_rfl
        | succ j => exact hle.trans (hmin j b hb).1
      next hlt =>
        refine ⟨a, ha, rfl, fun j b hb => ?_⟩
        cases j with
        | zero => cases hb; exact ⟨by omega, fun _ => by omega⟩
        | succ j => exact ⟨(hmin j b hb).1, fun hj => (hmin j b hb).2 (by omega)⟩

/-! ### What is due (log entry 1) -/

/-- What acts when the entry at place `k` of an agenda is due, and the agenda without it: the cycles before the head pass first. -/
def takeAt (h : Agendum) (tl : List Agendum) : Nat → Agendum × List Agendum
  | 0 => (h, tl)
  | n + 1 => ({ dt := h.dt, act := (tl.getD n h).act }, { h with dt := 0 } :: tl.eraseIdx n)

/-- The entries of an agenda that fall in its first cycle: the head, and those that follow with no cycle between. -/
def firstCycle (h : Agendum) (tl : List Agendum) : List Agendum := h :: tl.takeWhile fun b => b.dt == 0

theorem takeAt_rest (h : Agendum) (tl : List Agendum) (k : Nat) :
    (takeAt h tl k).2 = if k = 0 then tl else ({ h with dt := 0 } :: tl).eraseIdx k := by
  cases k <;> rfl

theorem takeAt_dt (h : Agendum) (tl : List Agendum) (k : Nat) : (takeAt h tl k).1.dt = h.dt := by
  cases k <;> rfl

theorem takeAt_act {h : Agendum} {tl : List Agendum} {k : Nat} {a : Agendum} (ha : (h :: tl)[k]? = some a) :
    (takeAt h tl k).1.act = a.act := by
  cases k with
  | zero => cases ha; rfl
  | succ n =>
    have ha : tl[n]? = some a := ha
    simp [takeAt, ha]

theorem due_cons {s : State} {h : Agendum} {tl : List Agendum} (hs : s.agenda = h :: tl) :
    due s = some (takeAt h tl (firstRank s (firstCycle h tl)).1) := by
  unfold due firstCycle
  rw [hs]
  dsimp only
  split
  next hw =>
    rw [hw, firstRank_single]
    rfl
  next b bs hw =>
    rw [hw]
    split <;> simp [*, takeAt]

/-- The first cycle is a beginning of the agenda. -/
theorem firstCycle_getElem? {h : Agendum} {tl : List Agendum} {j : Nat} (hj : j ≤ (tl.takeWhile fun b => b.dt == 0).length) :
    (firstCycle h tl)[j]? = (h :: tl)[j]? := by
  have hp : firstCycle h tl <+: h :: tl := (List.prefix_cons_inj h).2 (List.takeWhile_prefix _)
  obtain ⟨t, ht⟩ := hp
  rw [← ht, List.getElem?_append_left (by simpa [firstCycle] using Nat.lt_succ_of_le hj)]

/-- The order of the acts of one cycle (log entry 1). -/
theorem due_least {s : State} {h : Agendum} {tl : List Agendum} (hs : s.agenda = h :: tl) :
    ∃ a rest k, due s = some (a, rest) ∧
      k ≤ (tl.takeWhile fun b => b.dt == 0).length ∧ a.dt = h.dt ∧ (s.agenda[k]?).map (fun b => b.act) = some a.act ∧
      rest = (if k = 0 then tl else ({ h with dt := 0 } :: tl).eraseIdx k) ∧
      ∀ j b, j ≤ (tl.takeWhile fun b => b.dt == 0).length → s.agenda[j]? = some b →
        rank s a.act ≤ rank s b.act ∧ (j < k → rank s a.act < rank s b.act) := by
  obtain ⟨a, ha, -, hmin⟩ := firstRank_spec s (firstCycle h tl) (List.cons_ne_nil h _)
  have hd := due_cons hs
  generalize (firstRank s (firstCycle h tl)).1 = k at ha hmin hd
  have hk : k ≤ (tl.takeWhile fun b => b.dt == 0).length :=
    Nat.le_of_lt_succ (List.getElem?_eq_some_iff.1 ha).1
  have ha' : (h :: tl)[k]? = some a := (firstCycle_getElem? hk).symm.trans ha
  have hact := takeAt_act ha'
  refine ⟨(takeAt h tl k).1, (takeAt h tl k).2, k, hd, hk, takeAt_dt h tl k, ?_, takeAt_rest h tl k, fun j b hj hb => ?_⟩
  · rw [hs, ha', hact]
    rfl
  · rw [hact]
    exact hmin j b ((firstCycle_getElem? hj).trans (hs ▸ hb))

/-- An empty agenda has nothing due. -/
theorem due_nil {s : State} (hs : s.agenda = []) : due s = none := by
  simp [due, hs]

/-! ### One step -/

/-- With nothing due, a cycle passes. -/
theorem step_of_due_none {s : State} (hd : due s = none) : step s = .next (close s (tick s 1)) := by
  simp only [step, nextAct, hd]

/-- An event that is due runs as it stands. -/
theorem step_of_due_event {s : State} {dt : Nat} {i : Instr} {rest : List Agendum}
    (hd : due s = some ({ dt := dt, act := .event i }, rest)) : step s = exec i { tick s dt with agenda := rest } := by
  simp only [step, nextAct, hd]

/-- An issue that is due and runs no meaning ends the step. -/
theorem step_of_issue_idle {s t : State} {dt : Nat} {u : UId} {rest : List Agendum}
    (hd : due s = some ({ dt := dt, act := .issue u }, rest)) (hi : issue { tick s dt with agenda := rest } u = .idle t) :
    step s = .next (close s t) := by
  simp only [step, nextAct, hd, hi]

/-- An issue that is due runs the meaning that it answers. -/
theorem step_of_issue_run {s t : State} {dt : Nat} {u : UId} {rest : List Agendum} {i : Instr}
    (hd : due s = some ({ dt := dt, act := .issue u }, rest)) (hi : issue { tick s dt with agenda := rest } u = .run i t) :
    step s = exec i t := by
  simp only [step, nextAct, hd, hi]

section
variable {s : State} {u : UId} {F : Ready}

theorem issue_of_no_leader (h : leader s u = none) : issue s u = .idle s := by
  simp only [issue, h]

theorem issue_of_waitsTwin (hl : leader s u = some F) (hw : waitsTwin s F = true) : issue s u =
    .idle { s with fab := { s.fab with ready := s.fab.ready.erase F },
                   un := { s.un with twins := s.un.twins ++ [{ f := F, digest := twinDigest s F }] } } := by
  simp only [issue, hl, hw, if_true]

theorem issue_of_trapping (hl : leader s u = some F) (hw : waitsTwin s F = false) (hc : trappingCode s u F.stn ≠ 0) :
    issue s u = .idle (trapIssue (trappingCode s u F.stn) (latch s F (lanesOf s F))) := by
  simp [issue, hl, hw, hc]

theorem issue_of_decodes (hl : leader s u = some F) (hw : waitsTwin s F = false) (hc : trappingCode s u F.stn = 0)
    {i : Instr} (hi : decode (stationWord s u F.stn) = .ok i) : issue s u = .run i (latch s F (lanesOf s F)) := by
  simp [issue, hl, hw, hc, hi]

theorem issue_of_refused (hl : leader s u = some F) (hw : waitsTwin s F = false) (hc : trappingCode s u F.stn = 0)
    {c : LoadCheck} (hi : decode (stationWord s u F.stn) = .error c) :
    issue s u = .idle (trapIssue c.code (latch s F (lanesOf s F))) := by
  simp [issue, hl, hw, hc, hi]

end

/-- Settles O29: the entry that `due` answers is the first of the least rank, and each outcome of an issue ends the step in its own way. -/
theorem stepRunsTheDecodedInstruction : Obligations.StepRunsTheDecodedInstruction := by
  intro s
  refine ⟨fun hs => step_of_due_none (due_nil hs), fun h tl hs => due_least hs, fun dt i rest hd => step_of_due_event hd,
    fun dt u rest hd => ⟨fun hl => ?_, fun F hl => ⟨fun hw => ?_, fun hw hc => ?_, fun hw hc => ⟨fun i hi => ?_, fun c hi => ?_⟩⟩⟩⟩
  · exact step_of_issue_idle hd (issue_of_no_leader hl)
  · exact step_of_issue_idle hd (issue_of_waitsTwin hl hw)
  · exact step_of_issue_idle hd (issue_of_trapping hl hw hc)
  · exact step_of_issue_run hd (issue_of_decodes hl hw hc hi)
  · exact step_of_issue_idle hd (issue_of_refused hl hw hc hi)

/-! ### Routes (R38) -/

/-- The steps that may write a route entry (R38): those that end a load, a reconfiguration or a restore, and those of a start. -/
def writesRoutes : Instr → Bool
  | .kernelVerified _ => true
  | .kernelLoadComplete _ => true
  | .drainComplete _ => true
  | .restoreComplete _ => true
  | .thermalTrip => true
  | .powerOnReset _ => true
  | .powerLoss _ => true
  | _ => false

/-- Every other meaning ends with `close`, which puts the routes back. -/
theorem exec_close {i : Instr} (h : writesRoutes i = false) (s : State) : ∃ t, exec i s = .next (close s t) := by
  cases i with
  | kernelVerified => cases h
  | kernelLoadComplete => cases h
  | drainComplete => cases h
  | restoreComplete => cases h
  | thermalTrip => cases h
  | powerOnReset => cases h
  | powerLoss => cases h
  | _ => exact ⟨_, rfl⟩

theorem exec_keeps_routes {i : Instr} {s t : State} (h : writesRoutes i = false) (he : exec i s = .next t) :
    t.routes = s.routes := by
  obtain ⟨t', ht'⟩ := exec_close h s
  cases he.symm.trans ht'
  exact close_routes s t'

/-- A station instruction, which has the fields of a word, writes no route. -/
theorem writesRoutes_of_fieldsOf {i : Instr} {f : Fields} (h : fieldsOf i = some f) : writesRoutes i = false := by
  cases i with
  | kernelVerified => cases h
  | kernelLoadComplete => cases h
  | drainComplete => cases h
  | restoreComplete => cases h
  | thermalTrip => cases h
  | powerOnReset => cases h
  | powerLoss => cases h
  | _ => rfl

theorem writesRoutes_eq_false {i : Instr} (hc : ∀ c, i ≠ .kernelVerified c ∧ i ≠ .kernelLoadComplete c ∧ i ≠ .drainComplete c ∧
      i ≠ .restoreComplete c) (ht : i ≠ .thermalTrip) (hp : ∀ b, i ≠ .powerOnReset b) (hl : ∀ o, i ≠ .powerLoss o) :
    writesRoutes i = false := by
  cases i with
  | kernelVerified c => obtain ⟨h, -, -, -⟩ := hc c; exact absurd rfl h
  | kernelLoadComplete c => obtain ⟨-, h, -, -⟩ := hc c; exact absurd rfl h
  | drainComplete c => obtain ⟨-, -, h, -⟩ := hc c; exact absurd rfl h
  | restoreComplete c => obtain ⟨-, -, -, h⟩ := hc c; exact absurd rfl h
  | thermalTrip => exact absurd rfl ht
  | powerOnReset b => exact absurd rfl (hp b)
  | powerLoss o => exact absurd rfl (hl o)
  | _ => rfl

/-- What an issue runs is what a station's word decodes to. -/
theorem issue_run_decodes {s t : State} {u : UId} {i : Instr} (h : issue s u = .run i t) :
    ∃ F : Ready, decode (stationWord s u F.stn) = .ok i := by
  unfold issue at h
  dsimp only at h
  split at h
  · cases h
  next F _ =>
    split at h
    · cases h
    · split at h
      · cases h
      · split at h
        next hd => cases h; exact ⟨F, hd⟩
        · cases h

theorem issue_run_writesRoutes {s t : State} {u : UId} {i : Instr} (h : issue s u = .run i t) : writesRoutes i = false := by
  obtain ⟨F, hd⟩ := issue_run_decodes h
  exact writesRoutes_of_fieldsOf (fieldsOf_of_decodeIn hd)

/-- A step whose due event writes no route runs a meaning that writes none. -/
theorem nextAct_run_writesRoutes {s t : State} {i : Instr} (h : nextAct s = .run i t)
    (he : ∀ e rest i, due s = some (e, rest) → e.act = .event i → writesRoutes i = false) : writesRoutes i = false := by
  unfold nextAct at h
  split at h
  · cases h
  next e rest hd =>
    dsimp only at h
    split at h
    · exact issue_run_writesRoutes h
    next j hj =>
      cases h
      exact he e rest _ hd hj

theorem step_keeps_routes {s t : State} (h : step s = .next t)
    (he : ∀ e rest i, due s = some (e, rest) → e.act = .event i → writesRoutes i = false) : t.routes = s.routes := by
  unfold step at h
  split at h
  · cases h; rfl
  next i r hr =>
    obtain ⟨-, -, hroutes⟩ := nextAct_run_store hr
    exact (exec_keeps_routes (nextAct_run_writesRoutes hr he) h).trans hroutes

/-- Settles O33: an issue runs a station instruction, every step but those named ends with `close`, and that puts the routes back. -/
theorem routesChangeOnlyAtLoads : Obligations.RoutesChangeOnlyAtLoads := by
  intro s t he h
  refine step_keeps_routes h fun e rest i hd hi => ?_
  obtain ⟨hc, ht, hp, hl⟩ := he e rest i hd hi
  exact writesRoutes_eq_false hc ht hp hl

end Sys2Proof.Machine

/-!
Emission (O1): what token a firing's `emit` forms, and on which route it goes.
-/

namespace Sys2Proof.Machine

open Sys2Proof

/-! ### The token of an emission (R36, R59) -/

/-- A position, a route or a station of a target field, as the bits that name it (R35). -/
theorem ofNat_tgtPos (t : BitVec 12) : BitVec.ofNat 2 (tgtPos t) = t.extractLsb' 10 2 := by
  apply BitVec.eq_of_toNat_eq
  simp [tgtPos, nbits, Nat.shiftRight_eq_div_pow]

theorem ofNat_tgtStn (t : BitVec 12) : BitVec.ofNat 7 (tgtStn t) = t.extractLsb' 0 7 := by
  apply BitVec.eq_of_toNat_eq
  simp [tgtStn, nbits]

/-- The token that an emission of a firing forms. -/
def firingTok (s : State) (F : Ready) (t : BitVec 12) (k : BitVec 3) (v : Word) : Flit :=
  mkTok (ctxOf s F.u.ctx).key F.u.ctx (fcol F) (fitr F) t k v false

theorem firingTok_value (s : State) (F : Ready) (t : BitVec 12) (k : BitVec 3) (v : Word) :
    (firingTok s F t k v).val = if k = 1 then 0 else v := by
  simp [firingTok, mkTok, kNull]

theorem firingTok_col (s : State) (F : Ready) (t : BitVec 12) (k : BitVec 3) (v : Word) : (firingTok s F t k v).col = F.l.col :=
  (BitVec.ofNat_toNat ..).trans (BitVec.setWidth_eq _)

theorem firingTok_itr (s : State) (F : Ready) (t : BitVec 12) (k : BitVec 3) (v : Word) : (firingTok s F t k v).itr = F.l.itr :=
  (BitVec.ofNat_toNat ..).trans (BitVec.setWidth_eq _)

/-- A firing's emission to a unit of this module sends its token to the site that the route gives; a token for a station of its own
does not pass the switch. -/
theorem emit_here {s : State} {F : Ready} {t : BitVec 12} {k : BitVec 3} {v : Word} (hp : tgtPos t ≠ 3)
    (he : emitsTokens (ctxOf s F.u.ctx) = true) (hm : onModule (ctxOf s F.u.ctx) F.u.x = true) :
    emit F t k v s = sendTok s F.u (routeDest s F.u (tgtRoute t)) (tgtRoute t == 0) (firingTok s F t k v) := by
  unfold emit firingTok
  rw [emitFrom_here hp he hm, beq_self_eq_true, Bool.and_true]

/-- The token in flight that a source's switch takes: it carries its whole displacement. -/
def flightTo (src d : UId) (t : Flit) : Flight :=
  { u := src, port := .loc, rx := (d.x : Int) - src.x, ry := (d.y : Int) - src.y,
    tok := { t with dx := BitVec.ofInt 8 ((d.x : Int) - src.x), dy := BitVec.ofInt 8 ((d.y : Int) - src.y) }, cfg := none }

theorem sendTok_flight (s : State) (src d : UId) (t : Flit) :
    sendTok s src d false t = { s with fab := { s.fab with flights := s.fab.flights ++ [flightTo src d t] } } := rfl

theorem routeDest_own (s : State) (u : UId) : routeDest s u 0 = u := rfl

theorem routeDest_mu (s : State) (u : UId) : routeDest s u 7 = muOf u := rfl

/-- A route entry reaches the site displaced by its two signed bytes, where that has no negative coordinate (R38). -/
theorem routeDest_entry {s : State} {u : UId} {n : Nat} (h0 : n ≠ 0) (h7 : n ≠ 7)
    (hx : 0 ≤ (u.x : Int) + ((routeEnt s u n).extractLsb' 0 8).toInt) (hy : 0 ≤ (u.y : Int) + ((routeEnt s u n).extractLsb' 8 8).toInt) :
    ((routeDest s u n).x : Int) = u.x + ((routeEnt s u n).extractLsb' 0 8).toInt ∧
    ((routeDest s u n).y : Int) = u.y + ((routeEnt s u n).extractLsb' 8 8).toInt := by
  have h : routeDest s u n = siteOf u (displace u.x ((routeEnt s u n).extractLsb' 0 8).toInt)
      (displace u.y ((routeEnt s u n).extractLsb' 8 8).toInt) := by
    simp [routeDest, h0, h7]
  rw [h]
  exact ⟨Int.toNat_of_nonneg hx, Int.toNat_of_nonneg hy⟩

/-- Settles O1: `emit` sends the token that `mkTok` forms to the site that the target's route gives. -/
theorem emitFormsAndRoutesTheToken : Obligations.EmitFormsAndRoutesTheToken := by
  intro s F t k v
  refine ⟨emitFrom_discard, fun hp he hm => ?_⟩
  have hsend := emit_here (t := t) (k := k) (v := v) hp he hm
  refine ⟨firingTok s F t k v, rfl, firingTok_value .., rfl, ofNat_tgtPos t, ofNat_tgtStn t, rfl, firingTok_col ..,
    firingTok_itr .., rfl, rfl, rfl, fun h0 => ?_, fun h0 => ⟨flightTo F.u (routeDest s F.u (tgtRoute t)) (firingTok s F t k v),
      rfl, rfl, rfl, rfl, ?_, fun h7 => ?_, fun h7 hx hy => ?_⟩⟩
  · rw [hsend, h0, routeDest_own]
    rfl
  · rw [hsend, beq_eq_false_iff_ne.2 h0]
    exact sendTok_flight ..
  · rw [h7, routeDest_mu]
    exact ⟨rfl, Int.sub_self _⟩
  · obtain ⟨ex, ey⟩ := routeDest_entry h0 h7 hx hy
    exact ⟨sub_eq_iff_eq_add'.2 ex, sub_eq_iff_eq_add'.2 ey⟩

end Sys2Proof.Machine

/-!
The readings of context, cycle, energy and wear, the register accesses, error injection and the station test word (O8): one lemma per outcome
of each body.
-/

namespace Sys2Proof.Machine

open Sys2Proof

/-- The step of one latched firing that R62 lets compute is its body, ended. -/
theorem runLanes_laneBoth_go {f : Fields} {body : Ready → State → State} {s : State} {F : Ready} (hF : s.firing = [F])
    (hs : settle true F = .go) : runLanes (laneBoth f body) s = .next (close s (body F s)) := by
  rw [runLanes_one _ s F hF, laneBoth, lane_go hs]

/-! ### CTXID and CYC (R410, R486) -/

theorem bit_toNat (n lo : Nat) : (nbits n lo 1 == 1).toNat = n / 2 ^ lo % 2 := by
  have h : nbits n lo 1 = n / 2 ^ lo % 2 := rfl
  rw [h]
  rcases Nat.mod_two_eq_zero_or_one (n / 2 ^ lo) with h | h <;> simp [h]

theorem ctxidVal_eq (x : Ctx) : ctxidVal x = BitVec.ofNat 64 (x.id + 2 ^ 9 * (x.flg % 2) + 2 ^ 10 * (x.flg / 2 % 2) +
      2 ^ 11 * x.member + 2 ^ 19 * x.world + 2 ^ 32 * (x.rcnt % 2 ^ 16)) := by
  simp only [ctxidVal, isRedundant, isOuting, bit_toNat, pow_zero, Nat.div_one, pow_one]

theorem cycleOf_released {s : State} {d : Nat} (h : s.boot.dies.contains d = true) :
    cycleOf s d = BitVec.ofNat 64 (s.clock - fget 0 s.svc.released d) := if_pos h

/-! ### Requests (R188, R434) -/

/-- A request to an MU of this module joins the MU's requests. -/
theorem sendReq_here {s : State} {F : Ready} {mu : UId} {i : Instr} {k : List Word} (h : onModule (ctxOf s F.u.ctx) mu.x = true) :
    sendReq mu i F k s = { s with mu := { s.mu with reqs := s.mu.reqs ++
      [{ mu := mu, i := i, c := F, k := k, iseq := fget 0 s.fab.issues (uKey F.u * 128 + F.stn) }] } } := if_pos h

/-- What leaves the module leaves the fabric as it was. -/
theorem sendOut_fab (s : State) (x : Ctx) (m : Nat) (c : Cargo) : (sendOut s x m c).fab = s.fab := by
  obtain ⟨l, h⟩ := sendOne_frame s (memberMid x m, s.clock, c)
  exact congrArg (·.fab) h

/-- A request, wherever it goes, leaves the fabric as it was. -/
theorem sendReq_fab (mu : UId) (i : Instr) (F : Ready) (k : List Word) (s : State) : (sendReq mu i F k s).fab = s.fab := by
  unfold sendReq
  dsimp only
  split
  · rfl
  · exact sendOut_fab ..

/-! ### WEARRD (R476) -/

section
variable {f : Fields} {F : Ready} {s : State}

theorem bodyWearrd_charge (h : f.fn = 2) : bodyWearrd f F s = sendReq (hubOf F.u) (.wearrd f) F [] s := by
  simp [bodyWearrd, h]

theorem bodyWearrd_life (h : f.fn = 0 ∨ f.fn = 1) : bodyWearrd f F s = emitBoth f F kValue (wearVal s f F) s := by
  rcases h with h | h <;> simp [bodyWearrd, h]

theorem wearVal_eq (s : State) (f : Fields) (F : Ready) : wearVal s f F =
    let x := ctxOf s F.u.ctx
    let p := wearSite F
    if inPaddock x p.1 p.2 = true ∧ onModule x p.1 = true then
      let l := lifeOf s (physAt s (modPos s (siteOf F.u p.1 p.2)))
      BitVec.ofNat 64 (if f.fn = 0 then l.lwear else lifeWord l)
    else BitVec.allOnes 64 := by
  unfold wearVal
  dsimp only
  by_cases hs : inPaddock (ctxOf s F.u.ctx) (wearSite F).1 (wearSite F).2 = true ∧ onModule (ctxOf s F.u.ctx) (wearSite F).1 = true
  · rw [if_pos hs, if_neg (by simp [hs])]
    simp only [beq_iff_eq]
  · rw [if_neg hs, if_pos (by simpa [imp_iff_not_or] using hs)]

/-! ### SYSRD and SYSWR (R485) -/

/-- The selector of a CU's own register, which a non-secure station reaches at once. -/
theorem ownRegister_iff {v : Nat} {x : Ctx} :
    (decide (v < 2 ^ 32) && selClass v == 0 && !isSecure x) = true ↔ v < 2 ^ 27 ∧ x.world = 0 := by
  have hc : selClass v = v / 2 ^ 27 % 2 ^ 5 := rfl
  simp only [Bool.and_eq_true, decide_eq_true_eq, beq_iff_eq, hc, isSecure, Bool.not_eq_true', bne_eq_false_iff_eq]
  constructor
  · rintro ⟨⟨hv, h0⟩, hw⟩
    exact ⟨by omega, hw⟩
  · rintro ⟨hv, hw⟩
    exact ⟨⟨by omega, by omega⟩, hw⟩

/-- Any other selector, and any of a secure station, goes by the home MU. -/
theorem not_ownRegister {v : Nat} {x : Ctx} (h : 2 ^ 27 ≤ v ∨ x.world ≠ 0) :
    ¬(decide (v < 2 ^ 32) && selClass v == 0 && !isSecure x) = true := by
  rw [ownRegister_iff]
  rintro ⟨hv, hw⟩
  exact h.elim (Nat.not_le.2 hv) (absurd hw)

theorem bodySyswr_own (hv : F.l.val.toNat < 2 ^ 27) (hw : (ctxOf s F.u.ctx).world = 0) : bodySyswr f F s =
    emitBoth f F kValue (BitVec.ofNat 64 (syswrStatus s F)) (syswrDo F (rVal F) s) :=
  if_pos (ownRegister_iff.2 ⟨hv, hw⟩)

theorem bodySyswr_far (h : 2 ^ 27 ≤ F.l.val.toNat ∨ (ctxOf s F.u.ctx).world ≠ 0) :
    bodySyswr f F s = sendReq (muOf F.u) (.syswr f) F [rVal F] s :=
  if_neg (not_ownRegister h)

theorem syswrDo_eq (F : Ready) (v : Word) (s : State) : syswrDo F v s =
    if syswrStatus s F = 0 then regWrite s true (stationSel s F F.l.val.toNat) v else s := by
  simp only [syswrDo, beq_iff_eq]

theorem bodySysrd_own (hv : F.l.val.toNat < 2 ^ 27) (hw : (ctxOf s F.u.ctx).world = 0) : bodySysrd f F s =
    emit F f.tb kValue (BitVec.ofNat 64 (sysrdVal s F).2) (emit F f.ta kValue (BitVec.ofNat 64 (sysrdVal s F).1) s) :=
  if_pos (ownRegister_iff.2 ⟨hv, hw⟩)

theorem bodySysrd_far (h : 2 ^ 27 ≤ F.l.val.toNat ∨ (ctxOf s F.u.ctx).world ≠ 0) :
    bodySysrd f F s = sendReq (muOf F.u) (.sysrd f) F [] s :=
  if_neg (not_ownRegister h)

/-! ### ERRINJ (R477) -/

theorem bodyErrinj_nonsecure (hw : (ctxOf s F.u.ctx).world = 0) : bodyErrinj f F s = raise F { kind := 0x1A } s := by
  simp [bodyErrinj, isSecure, hw, raiseK]

/-- What an accepted injection word arms. -/
def injection (s : State) (F : Ready) : Inj :=
  { ik := F.l.val.toNat % 8, ibt := F.l.val.toNat / 8 % 64, ix := (diePos s (injUnit F)).1, iy := (diePos s (injUnit F)).2,
    iof := F.l.val.toNat / 2 ^ 24 % 2 ^ 20, iar := F.l.val.getLsbD 63 }

theorem getLsbD_eq_nbits (w : Word) (k : Nat) : w.getLsbD k = (nbits w.toNat k 1 == 1) := by
  simp only [BitVec.getLsbD, Nat.testBit_eq_decide_div_mod_eq, nbits, pow_one]
  rfl

theorem bodyErrinj_secure (hw : (ctxOf s F.u.ctx).world ≠ 0) : bodyErrinj f F s =
    emitBoth f F kValue (BitVec.ofNat 64 (injStatus s F))
      (if injStatus s F = 0 then setInj s (injDie s F) (injection s F) else s) := by
  have h : (!isSecure (ctxOf s F.u.ctx)) = false := by simp [isSecure, hw]
  unfold bodyErrinj injection
  rw [getLsbD_eq_nbits]
  simp [h, nbits]

/-- An armed register refuses; so does a word that names no kind of injection or no site of the member. -/
theorem injStatus_eq (s : State) (F : Ready) : injStatus s F =
    let k := F.l.val.toNat % 8
    if (injOf s (injDie s F)).iar = true then 2
    else if k = 0 ∨ k = 4 ∨ 6 ≤ k ∨ injInside s F = false then 1 else 0 := by
  have hk : nbits F.l.val.toNat 0 3 = F.l.val.toNat % 8 := by simp [nbits]
  simp only [injStatus, hk, Bool.or_eq_true, beq_iff_eq, decide_eq_true_eq, Bool.not_eq_true', or_assoc, ge_iff_le]

theorem injStatus_armed (h : (injOf s (injDie s F)).iar = true) : injStatus s F = 2 := if_pos h

theorem injStatus_refused (ha : (injOf s (injDie s F)).iar = false)
    (h : F.l.val.toNat % 8 = 0 ∨ F.l.val.toNat % 8 = 4 ∨ 6 ≤ F.l.val.toNat % 8 ∨ injInside s F = false) : injStatus s F = 1 := by
  rw [injStatus_eq]
  dsimp only
  rw [if_neg (ne_true_of_eq_false ha), if_pos h]

theorem injStatus_accepted (ha : (injOf s (injDie s F)).iar = false)
    (h : F.l.val.toNat % 8 = 1 ∨ F.l.val.toNat % 8 = 2 ∨ F.l.val.toNat % 8 = 3 ∨ F.l.val.toNat % 8 = 5) (hi : injInside s F = true) :
    injStatus s F = 0 := by
  rw [injStatus_eq]
  dsimp only
  rw [if_neg (ne_true_of_eq_false ha), if_neg (by rcases h with h | h | h | h <;> simp [h, hi])]

end

/-- Settles O8: each body has one lemma per outcome, and a firing that R62 lets compute runs its body. -/
theorem registerReadingInstructionEffects : Obligations.RegisterReadingInstructionEffects := by
  intro f s F hF hs
  have run {body : Ready → State → State} {t : State} (h : body F s = t) : runLanes (laneBoth f body) s = .next (close s t) :=
    (runLanes_laneBoth_go hF hs).trans (by rw [h])
  refine ⟨run (congrArg (emitBoth f F kValue · s) (ctxidVal_eq _)), run rfl, cycleOf_released, run ?_, fun h => run (bodyWearrd_charge h),
    fun h => run ((bodyWearrd_life h).trans (congrArg (emitBoth f F kValue · s) (wearVal_eq s f F))), ?_, fun hv hw => run ?_,
    fun h => run (bodySyswr_far h), fun hv hw => run (bodySysrd_own hv hw), fun h => run (bodySysrd_far h), fun hw => run (bodyErrinj_nonsecure hw),
    fun hw => ?_⟩
  · exact congrArg (emit F f.tb kValue · _) (BitVec.ofNat_toNat ..)
  · refine ⟨_, run (body := bodyEnrd f) rfl, congrArg (·.charges) (sendReq_fab ..), fun h => ?_⟩
    exact congrArg (·.mu.reqs) (sendReq_here (s := { s with fab := { s.fab with charges := fset 0 s.fab.charges (uKey F.u) 0 } }) h)
  · rw [bodySyswr_own hv hw, syswrDo_eq]
  · have he := bodyErrinj_secure (f := f) hw
    refine ⟨fun ha => run ?_, fun ha hk => run ?_, fun ha hk hi => run ?_⟩
    · rw [he, injStatus_armed ha]
      rfl
    · rw [he, injStatus_refused ha hk]
      rfl
    · rw [he, injStatus_accepted ha hk hi]
      rfl

end Sys2Proof.Machine

/-!
Lanes over the latched firings: what R62 decides, and the steering instructions, whose lanes the statements spell out; the words that
TAG.GET and CTXID send (O2, O38, O55, O59).
-/

namespace Sys2Proof.Machine

open Sys2Proof

/-! ### What the kinds of the operands decide (R62) -/

section
variable {F : Ready} {pred : Bool}

/-- A false predicate, in words: P is there, is a value or a reply, and is 0. -/
theorem falseP_iff : falseP F = true ↔ ∃ p, F.p = some p ∧ (p.kind = 0 ∨ p.kind = 6) ∧ p.val = 0 := by
  unfold falseP
  cases F.p with
  | none => simp
  | some p => simp [isVal, kValue, kReply]

/-- The first end-of-fibre operand decides. -/
theorem settle_of_eof {t : Flit} (h : (opsOf F).find? isEof = some t) : settle pred F = .eof t.val := by
  simp [settle, settleOver, h]

/-- Without an end-of-fibre operand, a null or a false predicate decides, and nothing else. -/
theorem settleOver_of_no_eof {ts : List Flit} {no : Bool} (h : ∀ t ∈ ts, t.kind ≠ 2) :
    settleOver ts no = if (∃ t ∈ ts, t.kind = 1) ∨ no = true then .null else .go := by
  have he : ts.find? isEof = none := List.find?_eq_none.2 fun t ht => by simpa [isEof, kEof] using h t ht
  simp [settleOver, he, isNull, kNull]

/-- The predicate of an opcode that reads P as one, as R62 asks for it. -/
theorem and_falseP_iff : (pred && falseP F) = true ↔ pred = true ∧ ∃ p, F.p = some p ∧ (p.kind = 0 ∨ p.kind = 6) ∧ p.val = 0 := by
  rw [Bool.and_eq_true, falseP_iff]

end

theorem operandKindsDecideTheFiring : Claims.OperandKindsDecideTheFiring := by
  intro F pred
  refine ⟨fun t ht => settle_of_eof ht, fun he => ?_⟩
  have hs := settleOver_of_no_eof (no := pred && falseP F) he
  refine ⟨fun h => hs.trans (if_pos (h.imp_right and_falseP_iff.2)), fun hn hp => hs.trans (if_neg ?_)⟩
  rintro (⟨t, ht, h1⟩ | h)
  · exact hn t ht h1
  · exact hp (and_falseP_iff.1 h)

/-! ### Steps over the latched firings (R69) -/

/-- A fold over firings whose effects keep `P` may use `P` of the state that each of them finds. -/
theorem foldl_firings_congr {P : State → Prop} {lane g : Ready → State → State} (keeps : ∀ F t, P t → P (g F t)) (l : List Ready)
    (h : ∀ F ∈ l, ∀ t, P t → lane F t = g F t) {s : State} (hs : P s) :
    l.foldl (fun t F => lane F t) s = l.foldl (fun t F => g F t) s := by
  induction l generalizing s with
  | nil => rfl
  | cons F l ih =>
    rw [List.foldl_cons, List.foldl_cons, h F List.mem_cons_self s hs]
    exact ih (fun G hG => h G (List.mem_cons_of_mem _ hG)) (keeps F s hs)

/-- A lane that does to every latched firing what `g` says, where it finds what the firings before it keep, makes the step that `g`
describes. -/
theorem endsWith_of_lane_keeps {P : State → Prop} {i : Instr} {s : State} {lane g : Ready → State → State} (hs : P s)
    (keeps : ∀ F t, P t → P (g F t)) (he : exec i s = runLanes lane s) (h : ∀ F ∈ s.firing, ∀ t, P t → lane F t = g F t) :
    Claims.EndsWith i s g :=
  he.trans (congrArg (fun t => Host.Outcome.next (close s t)) (foldl_firings_congr keeps s.firing h hs))

/-- As `endsWith_of_lane_keeps`, for a lane that rests on nothing. -/
theorem endsWith_of_lane {i : Instr} {s : State} {lane g : Ready → State → State} (he : exec i s = runLanes lane s)
    (h : ∀ F ∈ s.firing, ∀ t, lane F t = g F t) : Claims.EndsWith i s g :=
  endsWith_of_lane_keeps (P := fun _ => True) trivial (fun _ _ _ => trivial) he fun F hF t _ => h F hF t

/-- A firing that R62 settles sends a null, or an end-of-fibre with its value, to both targets, whatever its body would do. -/
theorem endsWith_settled {i : Instr} {f : Fields} {s : State} (he : ∃ body, exec i s = runLanes (laneBoth f body) s) :
    ((∀ F ∈ s.firing, settle true F = .null) → Claims.EndsWith i s fun F t => emitBoth f F kNull 0 t) ∧
    (∀ v : Ready → Word, (∀ F ∈ s.firing, settle true F = .eof (v F)) → Claims.EndsWith i s fun F t => emitBoth f F kEof (v F) t) := by
  obtain ⟨body, he⟩ := he
  exact ⟨fun h => endsWith_of_lane he fun F hF _ => lane_null (h F hF), fun v h => endsWith_of_lane he fun F hF _ => lane_eof (h F hF)⟩

/-- The lane of each of these opcodes is R62's, over both targets and with P a predicate. -/
theorem settledFiringsHaveNoOtherEffect : Claims.SettledFiringsHaveNoOtherEffect := by
  intro mk hmk f s
  refine endsWith_settled ?_
  revert mk
  repeat refine List.forall_mem_cons.2 ⟨⟨_, rfl⟩, ?_⟩
  exact List.forall_mem_nil _

/-- Settles O55: R62's rule for the kinds of operands, and the one form of lane of the opcodes that it settles. -/
theorem operandKindsAndSettledFirings : Obligations.OperandKindsAndSettledFirings :=
  ⟨operandKindsDecideTheFiring, settledFiringsHaveNoOtherEffect⟩

/-! ### Steering (R81 to R90) -/

/-- A lane of the usual form, where R62 lets every firing compute. -/
theorem endsWith_of_body {i : Instr} {f : Fields} {s : State} {body g : Ready → State → State} (hs : Claims.Computes true s)
    (he : exec i s = runLanes (laneBoth f body) s) (h : ∀ F ∈ s.firing, ∀ t, body F t = g F t) : Claims.EndsWith i s g :=
  endsWith_of_lane he fun F hF t => (lane_go (hs F hF)).trans (h F hF t)

section
variable {f : Fields} {F : Ready} {t : State}

/-- R62 lets a MOVE compute whose predicate, if it has one, is a value other than 0. -/
theorem settleOver_pred_go (h : ∀ p, F.p = some p → p.kind ≠ 1 ∧ p.kind ≠ 2 ∧ ((p.kind = 0 ∨ p.kind = 6) → p.val ≠ 0)) :
    settleOver F.p.toList (falseP F) = .go := by
  rw [settleOver_of_no_eof fun p hp => (h p (Option.mem_toList.1 hp)).2.1, if_neg]
  rintro (⟨p, hp, h1⟩ | hz)
  · exact (h p (Option.mem_toList.1 hp)).1 h1
  · obtain ⟨p, hp, hk, hv⟩ := falseP_iff.1 hz
    exact (h p hp).2.2 hk hv

theorem laneMove_go (h : settleOver F.p.toList (falseP F) = .go) : laneMove f F t = emitBoth f F F.l.kind F.l.val t := by
  simp [laneMove, laneOf, h, emitTok]

theorem isNull_iff {t : Flit} : isNull t = true ↔ t.kind = 1 := beq_iff_eq

/-- JOIN counts the operands whose kind is not null. -/
theorem laneJoin_eq : laneJoin f F t =
    emitBoth f F kValue (BitVec.ofNat 64 ((F.l :: F.r.toList).filter fun k => k.kind ≠ 1).length) t := by
  have hp : (fun k => !isNull k) = fun k : Flit => decide (k.kind ≠ 1) := by
    funext k
    rw [Bool.eq_iff_iff, Bool.not_eq_true', ← Bool.not_eq_true, isNull_iff, decide_eq_true_iff]
  rw [laneJoin, hp]

/-- The same count, operand by operand. -/
theorem laneJoin_counts (h : F.r.isSome) : laneJoin f F t = emitBoth f F kValue
    ((if F.l.kind = 1 then 0 else 1) + (if (F.r.map fun r => r.kind) = some 1 then 0 else 1)) t := by
  obtain ⟨r, hr⟩ := Option.isSome_iff_exists.1 h
  simp only [hr, Option.map_some, Option.some_inj, ← isNull_iff]
  cases hl : isNull F.l <;> cases hk : isNull r <;> simp [laneJoin, hr, hl, hk]

theorem laneNulls_null (h : f.fn = 0) : laneNulls f F t = emitBoth f F kNull 0 t := by
  simp [laneNulls, h]

theorem laneNulls_test (h : f.fn = 1) :
    laneNulls f F t = emit F f.tb F.l.kind F.l.val (emit F f.ta kValue (if F.l.kind = 1 then 1 else 0) t) := by
  simp [laneNulls, h, truth, isNull, kNull]

/-- MERGE takes L where it is not null, else R, else sends a null. -/
theorem laneMerge_eq (h : F.r.isSome) : laneMerge f F t =
    if F.l.kind ≠ 1 then emitBoth f F F.l.kind F.l.val t
    else match F.r with
      | some r => if r.kind ≠ 1 then emitBoth f F r.kind r.val t else emitBoth f F kNull 0 t
      | none => t := by
  obtain ⟨r, hr⟩ := Option.isSome_iff_exists.1 h
  simp only [hr, ne_eq, ← isNull_iff]
  cases hl : isNull F.l <;> cases hk : isNull r <;> simp [laneMerge, hr, hl, hk, emitTok]

/-- SELECT's P is no predicate: its kind passes where it has no value, and its value chooses. -/
theorem laneSelect_eq : laneSelect f F t =
    match F.p with
    | some p =>
      if p.kind = 1 ∨ p.kind = 2 then emitBoth f F p.kind p.val t
      else if p.val ≠ 0 then emitBoth f F F.l.kind F.l.val t
      else emitBoth f F ((F.r.map fun r => r.kind).getD 0) (rightOp f F t) t
    | none => t := by
  unfold laneSelect
  cases F.p with
  | none => rfl
  | some p => simp [isNull, isEof, kNull, kEof, emitTok, rightKind, kValue]

/-- The kind of STEER's control, told from the token alone: a K register and an immediate are values. -/
theorem rightKind_eq_iff {k : BitVec 3} (h : k ≠ kValue) : rightKind F = k ↔ (F.r.map fun r => r.kind) = some k := by
  unfold rightKind
  cases F.r with
  | none => simp [h.symm]
  | some r => simp

/-- STEER sends what it does not choose a null in its plain form, and nothing in its .NN form. -/
theorem laneSteer_eq : laneSteer f F t =
    if (F.r.map fun r => r.kind) = some 2 then emitBoth f F kEof (rightOp f F t) t
    else if (F.r.map fun r => r.kind) = some 1 then emitBoth f F kNull 0 t
    else if rightOp f F t ≠ 0 then
      (if f.fn = 0 then emit F f.tb kNull 0 (emit F f.ta F.l.kind F.l.val t) else emit F f.ta F.l.kind F.l.val t)
    else emit F f.tb F.l.kind F.l.val (if f.fn = 0 then emit F f.ta kNull 0 t else t) := by
  have heof : rightKind F = kEof ↔ _ := rightKind_eq_iff (by decide)
  have hnull : rightKind F = kNull ↔ _ := rightKind_eq_iff (by decide)
  simp only [laneSteer, beq_iff_eq, bne_iff_ne, heof, hnull]
  rfl

end

/-- Settles O2: each steering lane has one lemma that says what it sends, and MOVE, CONST and GATE are R62's. -/
theorem steeringInstructionEffects : Obligations.SteeringInstructionEffects := by
  intro f s
  refine ⟨rfl, rfl, fun h => ?_, fun hs hf => ?_, fun hs hf => ?_, fun hs => ?_, fun h => ?_, fun hf => ?_, fun hf => ?_, fun h => ?_,
    fun _ => ?_, fun _ => ?_⟩
  · exact endsWith_of_lane rfl fun F hF t => laneMove_go (settleOver_pred_go (h F hF))
  · exact endsWith_of_body hs rfl fun F _ t => by simp [hf]
  · exact endsWith_of_body hs rfl fun F _ t => by simp [hf]
  · exact endsWith_of_body hs rfl fun _ _ _ => rfl
  · exact endsWith_of_lane rfl fun F hF _ => laneJoin_counts (h F hF)
  · exact endsWith_of_lane rfl fun _ _ _ => laneNulls_null hf
  · exact endsWith_of_lane rfl fun _ _ _ => laneNulls_test hf
  · exact endsWith_of_lane rfl fun F hF _ => laneMerge_eq (h F hF)
  · exact endsWith_of_lane rfl fun _ _ _ => laneSelect_eq
  · exact endsWith_of_lane rfl fun _ _ _ => laneSteer_eq

/-- Settles O38: JOIN's count is the model's own, NULLS has a lemma for each form, and SINK's lane sends nothing. -/
theorem joinNullsAndSinkEffects : Obligations.JoinNullsAndSinkEffects := by
  intro f s
  exact ⟨fun _ => endsWith_of_lane rfl fun _ _ _ => laneJoin_eq, fun hf => endsWith_of_lane rfl fun _ _ _ => laneNulls_null hf,
    fun hf => endsWith_of_lane rfl fun _ _ _ => laneNulls_test hf, rfl⟩

/-! ### The words of TAG.GET and CTXID (R95, R410) -/

/-- A field of a word that was made from a number. -/
theorem toNat_extractLsb'_ofNat (n : Nat) {lo w : Nat} (h : lo + w ≤ 64) :
    ((BitVec.ofNat 64 n).extractLsb' lo w).toNat = n / 2 ^ lo % 2 ^ w := by
  apply Nat.eq_of_testBit_eq
  intro k
  rw [BitVec.extractLsb'_toNat, BitVec.toNat_ofNat, Nat.testBit_mod_two_pow, Nat.testBit_mod_two_pow, Nat.testBit_shiftRight,
    Nat.testBit_mod_two_pow, Nat.testBit_div_two_pow, Nat.add_comm k lo]
  by_cases hk : k < w
  · simp [hk, show lo + k < 64 by omega]
  · simp [hk]

/-- A field of a word that was made from a number, given what the number holds there. -/
theorem extractLsb'_ofNat_eq {n lo w : Nat} {v : BitVec w} (h : lo + w ≤ 64) (hv : n / 2 ^ lo % 2 ^ w = v.toNat) :
    (BitVec.ofNat 64 n).extractLsb' lo w = v :=
  BitVec.eq_of_toNat_eq ((toNat_extractLsb'_ofNat n h).trans hv)

/-- The number of a firing's tag (R95). -/
def tagNumber (F : Ready) : Nat := fitr F + 2 ^ 16 * fcol F + 2 ^ 28 * F.u.ctx

theorem tagNumber_fields {F : Ready} (h : F.u.ctx < 512) : let v := BitVec.ofNat 64 (tagNumber F)
    v.extractLsb' 0 16 = F.l.itr ∧ v.extractLsb' 16 12 = F.l.col ∧ v.extractLsb' 28 9 = BitVec.ofNat 9 F.u.ctx ∧
    v.extractLsb' 37 27 = 0 := by
  have hi : F.l.itr.toNat < 2 ^ 16 := F.l.itr.isLt
  have hc : F.l.col.toNat < 2 ^ 12 := F.l.col.isLt
  refine ⟨?_, ?_, ?_, ?_⟩
  all_goals
    refine extractLsb'_ofNat_eq (by decide) ?_
    simp only [tagNumber, fitr, fcol, BitVec.ofNat_eq_ofNat, BitVec.toNat_ofNat]
    omega

theorem tagGetSendsTheTag : Claims.TagGetSendsTheTag := fun _ _ hs hc =>
  ⟨fun F => BitVec.ofNat 64 (tagNumber F), fun F hF => tagNumber_fields (hc F hF), endsWith_of_body hs rfl fun _ _ _ => rfl⟩

theorem ctxidVal_fields {x : Ctx} (hid : x.id < 512) (hm : x.member < 256) (hw : x.world < 4) : let v := ctxidVal x
    v.extractLsb' 0 9 = BitVec.ofNat 9 x.id ∧ v.getLsbD 9 = x.flg.testBit 0 ∧ v.getLsbD 10 = x.flg.testBit 1 ∧
    v.extractLsb' 11 8 = BitVec.ofNat 8 x.member ∧ v.extractLsb' 19 2 = BitVec.ofNat 2 x.world ∧
    v.extractLsb' 21 11 = 0 ∧ v.extractLsb' 32 16 = BitVec.ofNat 16 x.rcnt ∧ v.extractLsb' 48 16 = 0 := by
  rw [ctxidVal_eq]
  refine ⟨?_, ?_, ?_, ?_, ?_, ?_, ?_, ?_⟩
  case refine_2 | refine_3 =>
    rw [BitVec.getLsbD_ofNat, Nat.testBit_eq_decide_div_mod_eq, Nat.testBit_eq_decide_div_mod_eq]
    simp only [Nat.reduceLT, decide_true, Bool.true_and, decide_eq_decide]
    omega
  all_goals
    refine extractLsb'_ofNat_eq (by decide) ?_
    simp only [BitVec.ofNat_eq_ofNat, BitVec.toNat_ofNat]
    omega

theorem emitBoth_ctxs (f : Fields) (F : Ready) (k : BitVec 3) (v : Word) (s : State) : (emitBoth f F k v s).ctxs = s.ctxs := by
  obtain ⟨fl, ar, lk, h⟩ := emitBoth_frame f F k v s
  rw [h]

theorem ctxOf_of_ctxs {s t : State} (h : t.ctxs = s.ctxs) (c : Nat) : ctxOf t c = ctxOf s c := by
  unfold ctxOf
  rw [h]

/-- A CTXID lane reads the contexts of the step's beginning, which the emissions before it have left. -/
theorem ctxidSendsTheContextWord : Claims.CtxidSendsTheContextWord := fun f s hs hc =>
  ⟨fun c => ctxidVal (ctxOf s c), fun c => have ⟨hid, hm, hw⟩ := hc c; ctxidVal_fields hid hm hw,
    endsWith_of_lane_keeps (P := fun t => t.ctxs = s.ctxs) rfl (fun F t h => (emitBoth_ctxs f F kValue _ t).trans h) rfl
      fun F hF t h => (lane_go (hs F hF)).trans (by rw [ctxOf_of_ctxs h])⟩

/-- Settles O59: both words are made from one number, field by field. -/
theorem tagAndContextWords : Obligations.TagAndContextWords := ⟨tagGetSendsTheTag, ctxidSendsTheContextWord⟩

end Sys2Proof.Machine

/-!
An issue (O30): which instances gather with the leading one, and what the latch leaves as it was. Errors and charges change the units'
error list and the charges of a CU; what the firings leave behind may complete further instances, which moves tokens out of their
tiers and raises nothing but a tile fault.
-/

namespace Sys2Proof.Machine

open Sys2Proof

/-! ### The instances that issue together (R68, R69) -/

theorem sameTag_comm (a b : Flit) : sameTag a b = sameTag b a := by
  simp only [sameTag, BEq.comm]

theorem mem_insertOldest {r q : Ready} {l : List Ready} : q ∈ insertOldest r l ↔ q = r ∨ q ∈ l := by
  induction l with
  | nil => simp [insertOldest]
  | cons a l ih =>
    unfold insertOldest
    split
    · exact List.mem_cons
    · rw [List.mem_cons, ih, List.mem_cons, or_left_comm]

theorem mem_oldestFirst {q : Ready} {l : List Ready} : q ∈ l.foldr insertOldest [] ↔ q ∈ l := by
  induction l with
  | nil => rfl
  | cons a l ih => rw [List.foldr_cons, mem_insertOldest, ih, List.mem_cons]

theorem mem_readyQueue {s : State} {u : UId} {r : Ready} (h : r ∈ readyQueue s u) : r ∈ s.fab.ready ∧ r.u = u := by
  have h := mem_oldestFirst.1 (List.mem_of_mem_take h)
  simp only [List.mem_filter, Bool.and_eq_true, beq_iff_eq] at h
  exact ⟨h.1, h.2.1⟩

theorem mem_of_mem_freshTags {seen : List Flit} {l : List Ready} {r : Ready} (h : r ∈ freshTags seen l) : r ∈ l := by
  induction l generalizing seen with
  | nil => exact h
  | cons a l ih =>
    unfold freshTags at h
    split at h
    · exact List.mem_cons_of_mem _ (ih h)
    · exact (List.mem_cons.1 h).elim (· ▸ List.mem_cons_self) fun h => List.mem_cons_of_mem _ (ih h)

/-- Every kept one has another tag than all that were seen before it. -/
theorem freshTags_unseen {seen : List Flit} {l : List Ready} {r : Ready} (h : r ∈ freshTags seen l) {t : Flit} (ht : t ∈ seen) :
    sameTag r.l t = false := by
  induction l generalizing seen with
  | nil => cases h
  | cons a l ih =>
    unfold freshTags at h
    split at h
    · exact ih h ht
    next hn =>
      rcases List.mem_cons.1 h with rfl | h
      · exact Bool.eq_false_iff.2 fun e => hn (List.any_eq_true.2 ⟨t, ht, e⟩)
      · exact ih h (List.mem_cons_of_mem _ ht)

/-- The kept instances have different tags. -/
theorem freshTags_pairwise (seen : List Flit) (l : List Ready) : (freshTags seen l).Pairwise fun r q => sameTag r.l q.l = false := by
  induction l generalizing seen with
  | nil => exact .nil
  | cons a l ih =>
    unfold freshTags
    split
    · exact ih seen
    · refine .cons (fun q hq => ?_) (ih _)
      rw [sameTag_comm]
      exact freshTags_unseen hq List.mem_cons_self

/-- The instances that may gather with a leading one, oldest first. -/
def gatherable (s : State) (F : Ready) : List Ready :=
  ((readyQueue s F.u).filter fun r => r != F && r.stn == F.stn && r.near && mayIssue s r).foldr insertOldest []

theorem mem_gatherable {s : State} {F r : Ready} (h : r ∈ gatherable s F) :
    r ∈ s.fab.ready ∧ r.u = F.u ∧ r.stn = F.stn ∧ r.near = true := by
  have h := mem_oldestFirst.1 h
  simp only [List.mem_filter, Bool.and_eq_true, beq_iff_eq] at h
  obtain ⟨hq, ⟨⟨-, hstn⟩, hnear⟩, -⟩ := h
  exact ⟨(mem_readyQueue hq).1, (mem_readyQueue hq).2, hstn, hnear⟩

section
variable {s : State} {F : Ready}

/-- The leading one issues alone where its opcode does not gather or it was matched from afar. -/
theorem lanesOf_alone (h : ¬(gathers (opOfWord (stationWord s F.u F.stn)) = true ∧ F.near = true)) : lanesOf s F = [F] := by
  refine if_pos ?_
  rwa [Bool.or_eq_true, Bool.not_eq_true', Bool.not_eq_true', ← Bool.not_eq_true, ← Bool.not_eq_true, ← not_and_or]

/-- Else up to seven of another tag gather with it, for F64 one. -/
theorem lanesOf_gathered (h : gathers (opOfWord (stationWord s F.u F.stn)) = true ∧ F.near = true) :
    lanesOf s F = F :: (freshTags [F.l] (gatherable s F)).take (if (unpack (stationWord s F.u F.stn)).ty = .f64 then 1 else 7) := by
  obtain ⟨hg, hn⟩ := h
  simp [lanesOf, hg, hn, gatherable]

theorem lanesOf_length : (lanesOf s F).length ≤ 8 ∧ ((unpack (stationWord s F.u F.stn)).ty = .f64 → (lanesOf s F).length ≤ 2) := by
  by_cases h : gathers (opOfWord (stationWord s F.u F.stn)) = true ∧ F.near = true
  · rw [lanesOf_gathered h, List.length_cons, List.length_take]
    exact ⟨by split <;> omega, fun hty => by rw [if_pos hty]; omega⟩
  · rw [lanesOf_alone h]
    exact ⟨by simp, fun _ => by simp⟩

theorem lanesOf_cons : ∃ rest, lanesOf s F = F :: rest ∧ ∀ r ∈ rest, r ∈ s.fab.ready ∧ r.u = F.u ∧ r.stn = F.stn ∧ r.near = true ∧
    F.near = true ∧ gathers (opOfWord (stationWord s F.u F.stn)) = true := by
  by_cases h : gathers (opOfWord (stationWord s F.u F.stn)) = true ∧ F.near = true
  · refine ⟨_, lanesOf_gathered h, fun r hr => ?_⟩
    obtain ⟨hm, hu, hs, hn⟩ := mem_gatherable (mem_of_mem_freshTags (List.mem_of_mem_take hr))
    exact ⟨hm, hu, hs, hn, h.2, h.1⟩
  · exact ⟨[], lanesOf_alone h, fun r hr => by cases hr⟩

theorem lanesOf_pairwise : (lanesOf s F).Pairwise fun r q => sameTag r.l q.l = false := by
  by_cases h : gathers (opOfWord (stationWord s F.u F.stn)) = true ∧ F.near = true
  · rw [lanesOf_gathered h]
    refine .cons (fun q hq => ?_) ((freshTags_pairwise _ _).sublist (List.take_sublist _ _))
    rw [sameTag_comm]
    exact freshTags_unseen (List.mem_of_mem_take hq) List.mem_cons_self
  · rw [lanesOf_alone h]
    exact List.pairwise_singleton ..

/-- All that issue together belong to the leading one's CU and station. -/
theorem lanesOf_station {r : Ready} (hr : r ∈ lanesOf s F) : r.u = F.u ∧ r.stn = F.stn := by
  obtain ⟨rest, he, hrest⟩ := lanesOf_cons (s := s) (F := F)
  rcases List.mem_cons.1 (he ▸ hr) with rfl | hr
  · exact ⟨rfl, rfl⟩
  · exact ⟨(hrest r hr).2.1, (hrest r hr).2.2.1⟩

end

/-! ### Errors and charges at the issue (R63, R126, R403) -/

/-- `t` is `s` but for the recorded errors and the charges. -/
def ErrorsAndCharges (s t : State) : Prop := ∃ un ch, t = { s with un := un, fab := { s.fab with charges := ch } }

theorem ErrorsAndCharges.trans {s t w : State} (h : ErrorsAndCharges s t) (h' : ErrorsAndCharges t w) : ErrorsAndCharges s w := by
  obtain ⟨un, ch, rfl⟩ := h
  obtain ⟨un', ch', rfl⟩ := h'
  exact ⟨un', ch', rfl⟩

theorem ErrorsAndCharges.foldl {α : Type} {g : State → α → State} (h : ∀ s a, ErrorsAndCharges s (g s a)) (l : List α) (s : State) :
    ErrorsAndCharges s (l.foldl g s) :=
  List.foldlRecOn l g (motive := ErrorsAndCharges s) ⟨_, _, rfl⟩ fun t ht a _ => ht.trans (h t a)

theorem trapErr_errors (s : State) (u : UId) (col kind : Nat) : ErrorsAndCharges s (trapErr s u col kind) := by
  unfold trapErr
  dsimp only
  split <;> exact ⟨_, _, rfl⟩

theorem issueErrors_errors (op : BitVec 8) (F : Ready) (s : State) : ErrorsAndCharges s (issueErrors op F (checkRes F s)) := by
  have hres : ErrorsAndCharges s (checkRes F s) := .foldl (fun t _ => trapErr_errors t ..) _ s
  refine hres.trans ?_
  unfold issueErrors
  dsimp only
  split
  · split
    · exact (trapErr_errors ..).trans (trapErr_errors ..)
    · exact trapErr_errors ..
  · split
    · exact trapErr_errors ..
    · exact ⟨_, _, rfl⟩

theorem chargeIssue_charges (op : BitVec 8) (F : Ready) (s : State) : ErrorsAndCharges s (chargeIssue op F s) := by
  unfold chargeIssue
  split
  · exact ⟨_, _, rfl⟩
  · split <;> exact ⟨_, _, rfl⟩

/-! ### What the firings leave behind (R61, R66, R283) -/

/-- `t` is `s` but for tokens that have left their tiers and the instances that they have completed. -/
def Rematched (s t : State) : Prop :=
  ∃ wl wt su tw rd, t = { s with wlog := wl, fab := { s.fab with waiting := wt, summary := su, spillTwin := tw, ready := rd } }

theorem Rematched.refl (s : State) : Rematched s s := ⟨_, _, _, _, _, rfl⟩

theorem Rematched.trans {s t w : State} (h : Rematched s t) (h' : Rematched t w) : Rematched s w := by
  obtain ⟨_, _, _, _, _, rfl⟩ := h
  obtain ⟨_, _, _, _, _, rfl⟩ := h'
  exact ⟨_, _, _, _, _, rfl⟩

theorem Rematched.stationWord {s t : State} (h : Rematched s t) (u : UId) (n : Nat) : stationWord t u n = stationWord s u n := by
  obtain ⟨_, _, _, _, _, rfl⟩ := h
  rfl

theorem partner_rematched {s t : State} {probe near : Bool} {u : UId} {k : Flit} {pos : BitVec 2} {w : Waiting}
    (h : partner s probe u k pos = some (w, near, t)) : Rematched s t := by
  unfold partner at h
  dsimp only at h
  split at h
  · split at h <;> cases h <;> exact ⟨_, _, _, _, _, rfl⟩
  · cases h; exact ⟨_, _, _, _, _, rfl⟩
  · cases h; exact ⟨_, _, _, _, _, rfl⟩
  · cases h

theorem gather_rematched {probe own near : Bool} {u : UId} {k : Flit} {ps : List (BitVec 2)} {s t : State} {ws : List Waiting}
    (h : gather probe u k own ps s = some (ws, near, t)) : Rematched s t := by
  induction ps generalizing s ws near with
  | nil => cases h; exact .refl _
  | cons p ps ih =>
    unfold gather at h
    split at h
    · exact ih h
    · split at h
      · cases h
      next w n s1 hp =>
        obtain ⟨⟨ws', near', t'⟩, hg, e⟩ := Option.map_eq_some_iff.1 h
        cases e
        exact (partner_rematched hp).trans (ih hg)

/-- Outside the tile opcodes no operands are checked when a firing becomes complete. -/
theorem completeFault_none {s : State} {op : Nat} {f : Fields} {F : Ready} (h : op < 0xB1 ∨ 0xC5 < op) : completeFault s op f F = none := by
  have hu : tileUse s op f F = none := by
    unfold tileUse
    dsimp only
    split
    case h_18 => rfl
    all_goals omega
  have h6 : (op == 0xB6) = false := beq_eq_false_iff_ne.2 (by omega)
  simp [completeFault, h6, tileFault, hu]

theorem completeAt_rematched {s : State} {F : Ready}
    (h : let op := (opOfWord (stationWord s F.u F.stn)).toNat; op < 0xB1 ∨ 0xC5 < op) : Rematched s (completeAt s F) := by
  simp only [completeAt, completeFault_none h, ite_self]
  exact ⟨_, _, _, _, _, rfl⟩

/-- A station that is no tile station completes its next instances without a fault. -/
theorem rematch_rematched {s : State} {F : Ready}
    (h : let op := (opOfWord (stationWord s F.u F.stn)).toNat; op < 0xB1 ∨ 0xC5 < op) : Rematched s (rematch s F) := by
  unfold rematch
  dsimp only
  split
  · exact .refl s
  · split
    · exact .refl s
    next hg =>
      have hm := gather_rematched hg
      exact hm.trans (completeAt_rematched ((hm.stationWord F.u F.stn).symm ▸ h))

/-- Nothing completes where no token of the tag waits in any tier. -/
theorem rematch_of_none_waits {s : State} {F : Ready} (hsp : maySpill s F.u F.l = false)
    (hw : ∀ w ∈ s.fab.waiting, w.u = F.u → sameTag w.tok F.l = false) : rematch s F = s := by
  have hwait : waitingAt s F.u F.l 0 = none := List.find?_eq_none.2 fun w hm => by
    simp only [Bool.and_eq_true, beq_iff_eq]
    rintro ⟨⟨hu, htag⟩, -⟩
    exact Bool.eq_false_iff.1 (hw w hm hu) htag
  have hspill : spillFind s F.u F.l 0 = none := by simp [spillFind, hsp]
  have hp : partner s true F.u F.l 0 = none := by rw [partner, hwait, if_pos rfl, hspill]
  have hg (ps : List (BitVec 2)) : gather true F.u F.l false (0 :: ps) s = none := by
    rw [gather, Bool.false_and, if_neg Bool.false_ne_true, hp]
  unfold rematch
  dsimp only
  split
  · rfl
  · rw [needs, List.cons_append, List.nil_append, List.cons_append, hg]

/-! ### The latch (R70) -/

/-- The latched instances in their counters, before errors, charges and further matches. -/
def latched (s : State) (F : Ready) (ls : List Ready) : State :=
  { s with
    firing := ls
    fab := { s.fab with ready := s.fab.ready.filter fun r => !ls.contains r,
                        issueCount := bump s.fab.issueCount (siteKey s F.u) 1,
                        laneSum := bump s.fab.laneSum (siteKey s F.u) ls.length,
                        issues := fset 0 s.fab.issues (uKey F.u * 128 + F.stn)
                          ((fget 0 s.fab.issues (uKey F.u * 128 + F.stn) + ls.length) % 65536) } }

/-- An issue latches, records and charges, and then lets the tokens behind its instances match. -/
theorem latch_stages (s : State) (F : Ready) (ls : List Ready) :
    ∃ t, ErrorsAndCharges (latched s F ls) t ∧ latch s F ls = ls.foldl rematch t :=
  ⟨_, (ErrorsAndCharges.foldl (fun t r => issueErrors_errors _ r t) ls _).trans (.foldl (fun t r => chargeIssue_charges _ r t) ls _), rfl⟩

/-- The matches of an issue fault only at a tile station behind whose instances a token of their tag waits. -/
theorem latch_rematched {s : State} {F : Ready} {ls : List Ready} (hls : ∀ r ∈ ls, r.u = F.u ∧ r.stn = F.stn)
    (htile : let op := (opOfWord (stationWord s F.u F.stn)).toNat
      0xB1 ≤ op → op ≤ 0xC5 → ∀ r ∈ ls, maySpill s r.u r.l = false ∧ ∀ w ∈ s.fab.waiting, w.u = r.u → sameTag w.tok r.l = false) :
    ∃ t, ErrorsAndCharges (latched s F ls) t ∧ Rematched t (latch s F ls) := by
  obtain ⟨t, ht, he⟩ := latch_stages s F ls
  refine ⟨t, ht, he ▸ ?_⟩
  by_cases hop : 0xB1 ≤ (opOfWord (stationWord s F.u F.stn)).toNat ∧ (opOfWord (stationWord s F.u F.stn)).toNat ≤ 0xC5
  · have hfix : ls.foldl rematch t = t := by
      refine List.foldlRecOn ls rematch (motive := (· = t)) rfl fun b hb r hr => ?_
      obtain ⟨hsp, hw⟩ := htile hop.1 hop.2 r hr
      obtain ⟨un, ch, rfl⟩ := ht
      subst hb
      exact rematch_of_none_waits hsp hw
    exact hfix.symm ▸ .refl t
  · have hst : stationWord t F.u F.stn = stationWord s F.u F.stn := by
      obtain ⟨un, ch, rfl⟩ := ht
      rfl
    refine List.foldlRecOn ls rematch (.refl t) fun t ht r hr => ht.trans (rematch_rematched ?_)
    obtain ⟨hu, hn⟩ := hls r hr
    dsimp only
    rw [ht.stationWord, hu, hn, hst]
    exact not_and_or.1 hop |>.imp Nat.not_le.1 Nat.not_le.1

/-- Settles O30: the lanes of an issue, and the two stages of its latch, of which the second faults only at a tile station. -/
theorem issueLatchesTheGatheredInstances : Obligations.IssueLatchesTheGatheredInstances := by
  intro s F _
  refine ⟨lanesOf_length.1, lanesOf_cons, lanesOf_pairwise, lanesOf_length.2, fun htile => ?_⟩
  obtain ⟨t, ht, hm⟩ := latch_rematched (fun r hr => lanesOf_station hr) htile
  obtain ⟨_, _, rfl⟩ := ht
  obtain ⟨_, _, _, _, _, he⟩ := hm
  rw [he]
  exact ⟨rfl, rfl, rfl, rfl, rfl, rfl, rfl, rfl, rfl, rfl, rfl, rfl, rfl, rfl, rfl, rfl⟩

end Sys2Proof.Machine

/-!
Loop frames and tags (O43): the iteration that a tag names, what a frame becomes, and one lemma per outcome of each lane.
-/

namespace Sys2Proof.Machine

open Sys2Proof

/-! ### The iteration that a tag names (R72) -/

theorem iterationResolvedWithinTheWindow : Claims.IterationResolvedWithinTheWindow := by
  intro r itr k
  unfold fullIter
  simp only [Bool.and_eq_true, decide_eq_true_eq]
  split
  · rw [Option.some_inj]
    omega
  · simp only [reduceCtorEq, false_iff]
    omega

/-! ### Frames (R71, R92) -/

/-- BASE passes the retired iterations that stand below all others: as many as the low bits that are set, up to `n`. -/
theorem advanceBase_eq (n : Nat) (r : Frame) : ∃ k ≤ n, (∀ j < k, r.retired.getLsbD j = true) ∧
    (k < n → r.retired.getLsbD k = false) ∧ advanceBase n r = { r with base := r.base + k, retired := r.retired >>> k } := by
  induction n generalizing r with
  | zero => exact ⟨0, le_rfl, fun j hj => by omega, fun h => by omega, by simp [advanceBase]⟩
  | succ n ih =>
    by_cases h : r.retired.getLsbD 0 = true
    · obtain ⟨k, hk, hset, hclear, he⟩ := ih { r with base := r.base + 1, retired := r.retired >>> 1 }
      simp only [BitVec.getLsbD_ushiftRight] at hset hclear
      refine ⟨k + 1, by omega, fun j hj => ?_, fun hn => ?_, ?_⟩
      · cases j with
        | zero => exact h
        | succ j => rw [Nat.add_comm]; exact hset j (by omega)
      · rw [Nat.add_comm]
        exact hclear (by omega)
      · rw [advanceBase, if_pos h, he, Nat.add_comm k 1, BitVec.shiftRight_add, Nat.add_assoc]
    · exact ⟨0, Nat.zero_le _, fun j hj => by omega, fun _ => Bool.eq_false_iff.2 h, by rw [advanceBase, if_neg h]; simp⟩

/-- A frame is freed once its exits have fired and BASE has passed the iteration that exits. -/
theorem keepFrame_eq (r : Frame) [Decidable (∃ x, r.exitn = some x ∧ r.e ≤ r.exits ∧ x < r.base)] :
    keepFrame r = if ∃ x, r.exitn = some x ∧ r.e ≤ r.exits ∧ x < r.base then none else some r := by
  unfold keepFrame
  split
  next n h => simp only [h, Option.some_inj, exists_eq_left', Bool.and_eq_true, decide_eq_true_eq]
  next h => simp [h]

/-! ### The lanes (R91 to R96) -/

/-- The step of one latched firing is its lane's, ended. -/
theorem exec_of_lane {i : Instr} {s t : State} {F : Ready} {lane : Ready → State → State} (hF : s.firing = [F])
    (he : exec i s = runLanes lane s) (h : lane F s = t) : exec i s = .next (close s t) :=
  he.trans ((runLanes_one lane s F hF).trans (by rw [h]))

section
variable {f : Fields} {s : State} {F : Ready} {r : Frame} {k : Nat}

theorem laneIterEnter_null (h : F.l.kind = 1) : laneIterEnter f F s = emitBoth f F kNull 0 s := if_pos (isNull_iff.2 h)

/-- ITER.ENTER opens a frame with the window and exits that its word gives, and emits iteration 0. -/
theorem laneIterEnter_opens (h : F.l.kind ≠ 1) :
    laneIterEnter f F s = emitIter f F 0 { s with fab := { s.fab with frames := s.fab.frames ++
        [{ u := F.u, stn := F.stn, col := F.l.col.toNat, outer := F.l.itr.toNat, w := f.imm.toNat % 512,
           e := f.imm.toNat / 512 % 8 + 1, base := 0, head := 0, retired := 0, exitn := none, exits := 0 }] } } := by
  have hw : fld f 0 9 = f.imm.toNat % 512 := by simp [fld, nbits]
  refine (if_neg (isNull_iff.not.2 h)).trans ?_
  rw [hw]
  rfl

theorem liveIter_none (h : frameOf s F.u (fld f 0 7) (fcol F) = none) : liveIter f F s = none := by
  simp [liveIter, namedFrame, h]

theorem laneIterNextStep_faults (h : liveIter f F s = none) : laneIterNextStep f F s = raise F { kind := 0x0E } s := by
  simp only [laneIterNextStep, h]
  rfl

theorem laneIterNextDone_faults (h : liveIter f F s = none) : laneIterNextDone f F s = raise F { kind := 0x0E } s := by
  simp only [laneIterNextDone, h]
  rfl

theorem laneIterExit_null (h : F.l.kind = 1) : laneIterExit f F s = s := if_pos (isNull_iff.2 h)

/-- A frame that a firing finds, with the iteration that its tag names. The lemmas below need of that iteration only that it is found: each
takes some function for `fullIter`, so that no check of a match evaluates the window's arithmetic. -/
def FindsFrame (f : Fields) (s : State) (F : Ready) (r : Frame) (k : Nat) : Prop :=
  frameOf s F.u (fld f 0 7) (fcol F) = some r ∧ fullIter r (fitr F) = some k

theorem liveIter_some (h : FindsFrame f s F r k) (hb : r.base ≤ k) : liveIter f F s = some (r, k) := by
  obtain ⟨hr, hk⟩ := h
  obtain ⟨hh, -, -⟩ := (iterationResolvedWithinTheWindow r (fitr F) k).1 hk
  unfold liveIter namedFrame
  obtain ⟨fi, hfi⟩ := exists_eq' (a' := fullIter)
  rw [hfi] at hk ⊢
  simp [hr, hk, Nat.not_lt.2 hb, hh]

theorem liveIter_below (h : FindsFrame f s F r k) (hb : k < r.base) : liveIter f F s = none := by
  obtain ⟨hr, hk⟩ := h
  unfold liveIter namedFrame
  obtain ⟨fi, hfi⟩ := exists_eq' (a' := fullIter)
  rw [hfi] at hk ⊢
  simp [hr, hk, hb]

theorem laneIterNextStep_null (h : liveIter f F s = some (r, k)) (hl : F.l.kind = 1) : laneIterNextStep f F s = s := by
  simp [laneIterNextStep, h, isNull_iff.2 hl]

theorem laneIterNextStep_steps (h : liveIter f F s = some (r, k)) (hl : F.l.kind ≠ 1) : laneIterNextStep f F s =
    emitIter f F ((k + 1) % 2 ^ 16) (setFrame s r (some { r with head := max r.head (k + 1) })) := by
  simp [laneIterNextStep, h, isNull_iff.not.2 hl]

theorem laneIterNextDone_again (h : liveIter f F s = some (r, k)) (ht : r.retired.getLsbD (k - r.base) = true) :
    laneIterNextDone f F s = raise F { kind := 0x0E } s := by
  simp [laneIterNextDone, h, ht, raiseK]

/-- ITER.NEXT.DONE retires its iteration, and BASE moves on to the first that is not retired. -/
theorem laneIterNextDone_retires (h : liveIter f F s = some (r, k)) (ht : r.retired.getLsbD (k - r.base) = false) : ∃ n,
    let m := r.retired ||| (1#256 <<< (k - r.base))
    (∀ j < n, m.getLsbD j = true) ∧ (n < 256 → m.getLsbD n = false) ∧
    ∀ [Decidable (∃ x, r.exitn = some x ∧ r.e ≤ r.exits ∧ x < r.base + n)], laneIterNextDone f F s = setFrame s r
      (if ∃ x, r.exitn = some x ∧ r.e ≤ r.exits ∧ x < r.base + n then none else some { r with base := r.base + n, retired := m >>> n }) := by
  obtain ⟨n, -, hset, hclear, he⟩ := advanceBase_eq 256 { r with retired := r.retired ||| (1#256 <<< (k - r.base)) }
  refine ⟨n, hset, hclear, ?_⟩
  intro _
  simp only [laneIterNextDone, h, ht, he]
  exact congrArg (setFrame s r) (keepFrame_eq _)

/-- ITER.EXIT leaves the loop for the outer iteration while its frame has exits to come, all from one iteration. -/
theorem laneIterExit_leaves (h : FindsFrame f s F r k) (hl : F.l.kind ≠ 1) (hx : r.exitn = none ∨ r.exitn = some k) (he : r.exits < r.e) :
    laneIterExit f F s = emitIter f F r.outer (setFrame s r
      (if r.e ≤ r.exits + 1 ∧ k < r.base then none else some { r with exitn := some k, exits := r.exits + 1 })) := by
  obtain ⟨hr, hk⟩ := h
  have hn : (r.exitn.any fun n => n != k) = false := by rcases hx with hx | hx <;> simp [hx]
  unfold laneIterExit namedFrame
  obtain ⟨fi, hfi⟩ := exists_eq' (a' := fullIter)
  rw [hfi] at hk ⊢
  simp [isNull_iff.not.2 hl, hr, hk, hn, Nat.not_lt.2 he, keepFrame]

theorem laneIterExit_faults (h : FindsFrame f s F r k) (hl : F.l.kind ≠ 1) (hx : (∃ x, r.exitn = some x ∧ x ≠ k) ∨ r.e ≤ r.exits) :
    laneIterExit f F s = raise F { kind := 0x0E } s := by
  obtain ⟨hr, hk⟩ := h
  have hbad : ((r.exitn.any fun n => n != k) || r.exits + 1 > r.e) = true := by
    rw [Bool.or_eq_true, Option.any_eq_true, decide_eq_true_eq]
    exact hx.imp (fun ⟨x, hx, hk⟩ => ⟨x, hx, bne_iff_ne.2 hk⟩) Nat.lt_succ_of_le
  have hnull : isNull F.l = false := Bool.eq_false_iff.2 (isNull_iff.not.2 hl)
  unfold laneIterExit namedFrame
  obtain ⟨fi, hfi⟩ := exists_eq' (a' := fullIter)
  rw [hfi] at hk ⊢
  simp only [hnull, hr, hk, hbad]
  rfl

theorem laneIterExit_no_frame (h : frameOf s F.u (fld f 0 7) (fcol F) = none) (hl : F.l.kind ≠ 1) :
    laneIterExit f F s = raise F { kind := 0x0E } s := by
  simp [laneIterExit, isNull_iff.not.2 hl, namedFrame, h, raiseK]

theorem laneIterIdx_index (h : FindsFrame f s F r k) (hs : settle true F = .go) :
    laneIterIdx f F s = emitBoth f F kValue (BitVec.ofNat 64 k) s := by
  obtain ⟨hr, hk⟩ := h
  rw [laneIterIdx, laneBoth, lane_go hs]
  unfold namedFrame
  obtain ⟨fi, hfi⟩ := exists_eq' (a' := fullIter)
  rw [hfi] at hk ⊢
  simp [hr, hk]

theorem laneIterIdx_no_frame (h : frameOf s F.u (fld f 0 7) (fcol F) = none) (hs : settle true F = .go) :
    laneIterIdx f F s = raise F { kind := 0x0E } s := by
  simp [laneIterIdx, laneBoth, lane_go hs, namedFrame, h, raiseK]

/-- A shifted number, cut to a word. -/
theorem ofNat_shiftLeft (n k : Nat) : BitVec.ofNat 64 (n <<< k) = BitVec.ofNat 64 n <<< k :=
  BitVec.eq_of_toNat_eq (by simp [Nat.shiftLeft_eq])

/-- The tag's fields do not overlap, so that its number is also their union. -/
theorem ofNat_tagNumber (F : Ready) : BitVec.ofNat 64 (tagNumber F) =
    BitVec.ofNat 64 F.l.itr.toNat ||| BitVec.ofNat 64 F.l.col.toNat <<< 16 ||| BitVec.ofNat 64 F.u.ctx <<< 28 := by
  have hi : F.l.itr.toNat < 2 ^ 16 := F.l.itr.isLt
  have hc : F.l.col.toNat < 2 ^ 12 := F.l.col.isLt
  have hlow : F.l.col.toNat <<< 16 + F.l.itr.toNat < 2 ^ 28 := by
    rw [Nat.shiftLeft_eq]
    omega
  have hn : tagNumber F = F.u.ctx <<< 28 ||| (F.l.col.toNat <<< 16 ||| F.l.itr.toNat) := by
    rw [← Nat.shiftLeft_add_eq_or_of_lt hi, ← Nat.shiftLeft_add_eq_or_of_lt hlow, Nat.shiftLeft_eq, Nat.shiftLeft_eq]
    simp only [tagNumber, fitr, fcol]
    omega
  rw [hn, BitVec.ofNat_or, BitVec.ofNat_or, ofNat_shiftLeft, ofNat_shiftLeft, BitVec.or_comm,
    BitVec.or_comm (BitVec.ofNat 64 F.l.col.toNat <<< 16)]

theorem laneTagGet_tag (hs : settle true F = .go) : laneTagGet f F s = emitBoth f F kValue (BitVec.ofNat 64 (tagNumber F)) s := by
  rw [laneTagGet, laneBoth, lane_go hs]
  rfl

/-- TAG.SET emits L under the iteration that its source gives, the immediate in its own 16 bits. -/
theorem laneTagSet_immediate (hs : settleOver (F.r.toList ++ F.p.toList) (falseP F) = .go) (hf : f.src = .immd) :
    laneTagSet f F s = emitIter f F (f.imm.toNat % 2 ^ 16) s := by
  simp [laneTagSet, laneOf, hs, newItr, hf, fld, nbits]

theorem laneTagSet_operand (hs : settleOver (F.r.toList ++ F.p.toList) (falseP F) = .go) (hf : f.src ≠ .immd) :
    laneTagSet f F s = emitIter f F ((rightOp f F s).toNat % 2 ^ 16) s := by
  have hn : newItr f F s = (rightOp f F s).toNat % 2 ^ 16 := by
    unfold newItr
    split
    · exact absurd ‹_› hf
    · rfl
  simp only [laneTagSet, laneOf, hs, hn]

end

theorem loopAndTagInstructionEffects : Claims.LoopAndTagInstructionEffects := by
  intro f s F hF
  have run {i : Instr} {lane : Ready → State → State} {t : State} (he : exec i s = runLanes lane s) (h : lane F s = t) :
      exec i s = .next (close s t) := exec_of_lane hF he h
  refine ⟨fun hl => run rfl (laneIterEnter_null hl), fun hl => run rfl (laneIterEnter_opens hl), fun r k hr hk => ?_,
    fun hl => run rfl (laneIterExit_null hl), fun hn => ?_, fun hs => ?_, fun hs => ⟨fun hf => ?_, fun hf => ?_⟩⟩
  · have h : FindsFrame f s F r k := ⟨hr, hk⟩
    refine ⟨fun hb hl => ?_, fun hb hl => ?_, fun hb ht => ?_, fun hb ht => ?_, fun hb => ⟨?_, ?_⟩, fun hl hx he => ?_, fun hl hx => ?_, fun hs => ?_⟩
    · exact run rfl (laneIterNextStep_null (liveIter_some h hb) hl)
    · exact run rfl (laneIterNextStep_steps (liveIter_some h hb) hl)
    · obtain ⟨n, hset, hclear, he⟩ := laneIterNextDone_retires (liveIter_some h hb) ht
      exact ⟨n, hset, hclear, run rfl he⟩
    · exact run rfl (laneIterNextDone_again (liveIter_some h hb) ht)
    · exact run rfl (laneIterNextStep_faults (liveIter_below h hb))
    · exact run rfl (laneIterNextDone_faults (liveIter_below h hb))
    · exact run rfl (laneIterExit_leaves h hl hx he)
    · exact run rfl (laneIterExit_faults h hl hx)
    · exact run rfl (laneIterIdx_index h hs)
  · exact ⟨run rfl (laneIterNextStep_faults (liveIter_none hn)), run rfl (laneIterNextDone_faults (liveIter_none hn)),
      fun hl => run rfl (laneIterExit_no_frame hn hl), fun hs => run rfl (laneIterIdx_no_frame hn hs)⟩
  · exact run rfl ((laneTagGet_tag hs).trans (by rw [ofNat_tagNumber]))
  · exact run rfl (laneTagSet_immediate hs hf)
  · exact run rfl (laneTagSet_operand hs hf)

/-- Settles O43: the window names at most one iteration, and each lane has one lemma per outcome. -/
theorem loopFramesAndTags : Obligations.LoopFramesAndTags := ⟨iterationResolvedWithinTheWindow, loopAndTagInstructionEffects⟩

end Sys2Proof.Machine

/-!
The colour unit (O44): the write of a call record, and what the four colour instructions do where the unit's read of the record that
they name has gone well.
-/

namespace Sys2Proof.Machine

open Sys2Proof

/-! ### Contexts and messages -/

/-- What the members of an outing are told changes the links alone. -/
theorem tellMembers_frame (s : State) (c : Nat) (m : LinkMsg) : ∃ k, tellMembers s c m = { s with lk := k } :=
  List.foldlRecOn _ _ (motive := fun t : State => ∃ k, t = { s with lk := k }) ⟨_, rfl⟩ fun t ht j _ => by
    obtain ⟨k, rfl⟩ := ht
    obtain ⟨k', h⟩ := sendOne_frame { s with lk := k } (memberMid (ctxOf s c) j, s.clock, .msg m)
    exact ⟨k', h⟩

/-- The context of an id after a change that keeps ids. -/
theorem ctxOf_updCtx {s : State} {c : Nat} {g : Ctx → Ctx} {x : Ctx} (hx : s.ctxs.find? (fun x => x.id == c) = some x)
    (hg : ∀ y, (g y).id = y.id) : ctxOf (updCtx s c g) c = g x := by
  have hid : ((fun y => y.id == c) ∘ fun y : Ctx => if y.id == c then g y else y) = fun y => y.id == c := by
    funext y
    rw [Function.comp_apply]
    split
    · rw [hg]
    · rfl
  have hc : (x.id == c) = true := List.find?_some (p := fun x : Ctx => x.id == c) hx
  rw [ctxOf, updCtx, List.find?_map, hid, hx, Option.map_some, Option.getD_some, if_pos hc]

/-! ### Call records (R73, R74) -/

theorem recOf_putRec {x : Ctx} {r : CallRec} (hr : r.state ≠ .free) : recOf (putRec x r) r.copy r.col = some r := by
  have hrest : (x.recs.filter fun q => !(q.copy == r.copy && q.col == r.col)).find? (fun q => q.copy == r.copy && q.col == r.col) = none :=
    List.find?_eq_none.2 fun q hq h => by
      have hq := (List.mem_filter.1 hq).2
      rw [h] at hq
      cases hq
  have hf : ¬(r.state == .free) = true := mt beq_iff_eq.1 hr
  rw [recOf, putRec, if_neg hf, List.find?_append, hrest]
  simp

/-- The primary copy's colour unit writes a record to its place in the call-record area, and keeps it. -/
theorem storeRec_mapped {s : State} {u : UId} {r : CallRec} {p : XAddr} (hx : hubHere (ctxOf s u.ctx) = true) (hr : r.copy = 0)
    (hp : translateNow s (ctxOf s u.ctx) .write ((ctxOf s u.ctx).crb + 128 * r.col) = .ok p) : storeRec s u r =
      tellMembers (updCtx (wrBytes s p.phys (recBytes r)) u.ctx fun x => putRec x r) u.ctx (.record u.ctx r) := by
  simp [storeRec, hx, hr, hp]

theorem callRecordIsStored : Claims.CallRecordIsStored := by
  intro s u r x hx hub hcopy hfree p hp
  have hc : ctxOf s u.ctx = x := by simp [ctxOf, hx]
  subst hc
  have hstore := storeRec_mapped hub hcopy hp
  obtain ⟨k, hk⟩ := tellMembers_frame (updCtx (wrBytes s p.phys (recBytes r)) u.ctx fun x => putRec x r) u.ctx (.record u.ctx r)
  have hctx : ctxOf (storeRec s u r) u.ctx = putRec (ctxOf s u.ctx) r := by
    rw [hstore, hk]
    exact ctxOf_updCtx (s := wrBytes s p.phys (recBytes r)) hx fun _ => rfl
  refine ⟨?_, ?_⟩
  · rw [hctx, ← hcopy]
    exact recOf_putRec hfree
  · rw [hstore, hk]
    rfl

/-! ### The four instructions at the colour unit (R97 to R100) -/

section
variable {f : Fields} {s : State} {F : Ready} {i : Instr} {ks : List Word} {body : Ready → State → State}

theorem atHub_here (h : hubHere (ctxOf s F.u.ctx) = true) : atHub i ks body F s = body F s := if_pos h

/-- The lowest free colour: the first of 1 to 4,095 without a record. -/
theorem lowestFree_eq_some {x : Ctx} {k c : Nat} (h1 : 1 ≤ c) (hc : c ≤ 4095) (hfree : recOf x k c = none)
    (hused : ∀ d, 1 ≤ d → d < c → recOf x k d ≠ none) : lowestFree x k = some c := by
  obtain ⟨d, rfl⟩ := Nat.exists_eq_add_of_le' h1
  have hd : (List.range 4095).find? ((fun c => (recOf x k c).isNone) ∘ (· + 1)) = some d :=
    List.find?_range_eq_some.2 ⟨Option.isNone_iff_eq_none.2 hfree, List.mem_range.2 hc, fun j hj => by
      simpa [Option.isSome_iff_ne_none] using hused (j + 1) (by omega) (by omega)⟩
  rw [lowestFree, List.find?_map, hd]
  rfl

theorem lowestFree_eq_none {x : Ctx} {k : Nat} (h : ∀ c, 1 ≤ c → c ≤ 4095 → recOf x k c ≠ none) : lowestFree x k = none := by
  refine List.find?_eq_none.2 fun c hc => ?_
  simp only [List.mem_map, List.mem_range] at hc
  obtain ⟨d, hd, rfl⟩ := hc
  simpa using h (d + 1) (by omega) (by omega)

theorem bodyColourNew_opens {c : Nat} (h : lowestFree (ctxOf s F.u.ctx) F.u.copy = some c) : bodyColourNew f F s =
    emitBoth f F kValue (BitVec.ofNat 64 c) (storeRec s F.u
      { copy := F.u.copy, col := c, pcol := fcol F, pitr := fitr F, sx := F.u.x, sy := F.u.y, ss := F.stn, narg := f.imm.toNat % 8,
        nrec := 0, state := .opened, cm := false, tries := 0, site := f.imm.toNat / 8 % 2 ^ 16, fwd := 0,
        args := List.replicate 7 none }) := by
  have hn : fld f 0 3 = f.imm.toNat % 8 := by simp [fld, nbits]
  unfold bodyColourNew
  rw [h, ← hn]
  rfl

theorem bodyColourNew_exhausted (h : lowestFree (ctxOf s F.u.ctx) F.u.copy = none) :
    bodyColourNew f F s = raise F { kind := 0x0F } s := by
  unfold bodyColourNew
  rw [h]
  rfl

theorem laneColourArg_here {R : Flit} (hub : hubHere (ctxOf s F.u.ctx) = true) (hR : F.r = some R) (h1 : R.kind ≠ 1) (h2 : R.kind ≠ 2) :
    laneColourArg f F s = bodyColourArg f F s := by
  have hn : isNull R = false := beq_eq_false_iff_ne.2 h1
  have he : isEof R = false := beq_eq_false_iff_ne.2 h2
  simp [laneColourArg, hR, hn, he, atHub_here hub]

/-- A colour in use that is no FORWARD names its own record. -/
theorem argRec_own {x : Ctx} {k : Nat} {v : Word} {r : CallRec} (h1 : 1 ≤ v.toNat) (h2 : v.toNat ≤ 4095)
    (hr : usedRec x k v.toNat = some r) (hf : r.state ≠ .forward) : argRec x k v = some r := by
  have hv : ¬(v == 0 || decide (v.toNat > 4095)) = true := by
    rw [Bool.or_eq_true, beq_iff_eq, decide_eq_true_eq]
    rintro (rfl | h)
    · exact absurd h1 (by decide)
    · omega
  have hs : ¬(r.state == .forward) = true := mt beq_iff_eq.1 hf
  rw [argRec, if_neg hv, hr]
  exact if_neg hs

section
variable {r : CallRec} {w : State} (hw : w = touchArg s F.u.ctx F.u.copy (rVal F).toNat) (hl : isLive (ctxOf w F.u.ctx) = true)
  (hr : argRec (ctxOf w F.u.ctx) F.u.copy (rVal F) = some r)
include hw hl hr

theorem bodyColourArg_records (hcol : r.col = (rVal F).toNat) (hn : r.args.getD (f.imm.toNat % 8) none = none)
    (ha : f.imm.toNat % 8 < r.narg) : bodyColourArg f F s =
    emitFrom (storeRec w F.u
      { r with args := r.args.set (f.imm.toNat % 8) (some { val := F.l.val, ax := F.u.x, ay := F.u.y, as := F.stn, ak := F.l.kind }),
               nrec := r.nrec + 1,
               state := if r.nrec + 1 = r.narg ∧ r.state = .opened then .live else r.state })
      F.u F.u (rVal F).toNat 0 f.ta F.l.kind F.l.val false := by
  have hfld : fld f 0 3 = f.imm.toNat % 8 := by simp [fld, nbits]
  have hgood : (decide (f.imm.toNat % 8 ≥ r.narg) || (r.args.getD (f.imm.toNat % 8) none).isSome) = false := by
    rw [hn, Bool.or_eq_false_iff, decide_eq_false_iff_not]
    exact ⟨Nat.not_le.2 ha, rfl⟩
  subst hw
  simp only [bodyColourArg, hl, hr, hfld, hgood, hcol]
  simp

theorem bodyColourArg_faults (hn : r.narg ≤ f.imm.toNat % 8 ∨ (r.args.getD (f.imm.toNat % 8) none).isSome) :
    bodyColourArg f F s = raise F { kind := 0x0E } w := by
  have hfld : fld f 0 3 = f.imm.toNat % 8 := by simp [fld, nbits]
  have hbad : (decide (f.imm.toNat % 8 ≥ r.narg) || (r.args.getD (f.imm.toNat % 8) none).isSome) = true := by
    rw [Bool.or_eq_true, decide_eq_true_eq]
    exact hn
  subst hw
  simp only [bodyColourArg, hl, hr, hfld, hbad]
  simp [raiseK]

end

/-- An operation on a record that the unit's read leaves in use, where that read has not ended the context. -/
theorem withRec_used {c k col : Nat} {no : State → State} {op : CallRec → State → State} {r : CallRec}
    (hl : isLive (ctxOf s c) = false ∨ isLive (ctxOf (touchRec s c k col) c) = true) (hr : usedRec (ctxOf (touchRec s c k col) c) k col = some r) :
    withRec s c k col no op = op r (touchRec s c k col) := by
  rcases hl with hl | hl <;> simp [withRec, hl, hr]

section
variable {r : CallRec} {w : State} (hw : w = touchRec s F.u.ctx F.u.copy (fcol F)) (hl : isLive (ctxOf w F.u.ctx) = true)
  (hr : usedRec (ctxOf w F.u.ctx) F.u.copy (fcol F) = some r) (hf : r.state ≠ .forward)
include hw hl hr hf

theorem bodyColourRet_returns : bodyColourRet f F s =
    let v := if r.state = .ended then w else storeRec w F.u { r with state := .returned }
    emitFrom (emitFrom v F.u F.u r.pcol r.pitr f.ta F.l.kind F.l.val false)
      F.u F.u r.pcol r.pitr f.tb kValue (BitVec.ofNat 64 r.site) false := by
  subst hw
  rw [bodyColourRet, withRec_used (.inr hl) hr]
  simp [hf]

theorem bodyColourEnd_ends : bodyColourEnd F s = if r.state = .ended then w else storeRec w F.u { r with state := .ended } := by
  subst hw
  rw [bodyColourEnd, withRec_used (.inr hl) hr]
  simp [hf]

end
end

theorem colourFirings : Claims.ColourFirings := by
  intro f s F hF hub x k
  have run {i : Instr} {body : Ready → State → State} {t : State} (hs : settle true F = .go)
      (he : exec i s = runLanes (laneBoth f (atHub i [] body)) s) (h : body F s = t) : exec i s = .next (close s t) :=
    exec_of_lane hF he ((lane_go hs).trans ((atHub_here hub).trans h))
  refine ⟨fun hs c h1 hc hfree hused => ?_, fun hs h => ?_, fun R r hR hk1 hk2 h1 h2 => ?_, ?_⟩
  · exact run hs rfl (bodyColourNew_opens (lowestFree_eq_some h1 hc hfree hused))
  · exact run hs rfl (bodyColourNew_exhausted (lowestFree_eq_none h))
  · have hv : R.val = rVal F := by simp [rVal, hR]
    have hlane := laneColourArg_here (f := f) hub hR hk1 hk2
    rw [hv] at h1 h2 ⊢
    intro w hl hr hf hcol n
    have harg := argRec_own h1 h2 hr hf
    exact ⟨fun hn ha => exec_of_lane hF rfl (hlane.trans (bodyColourArg_records rfl hl harg hcol hn ha)),
      fun hn => exec_of_lane hF rfl (hlane.trans (bodyColourArg_faults rfl hl harg hn))⟩
  · intro w hl r hr hf
    exact ⟨fun hs => run hs rfl (bodyColourRet_returns rfl hl hr hf),
      exec_of_lane hF rfl ((atHub_here hub).trans (bodyColourEnd_ends rfl hl hr hf))⟩

/-- Settles O44: each unit operation has one lemma per outcome, given what the unit's read of the record has left. -/
theorem colourInstructionEffects : Obligations.ColourInstructionEffects := ⟨colourFirings, callRecordIsStored⟩

end Sys2Proof.Machine

/-!
What ends a wait for translation, and what the colour unit does on its own (O54): page walks, invalidations and the transfers of host regions;
phase boundaries, the release of a colour, and errors that surface. One lemma per outcome of each event's body.
-/

namespace Sys2Proof.Machine

open Sys2Proof

/-! ### Page walks (R417) -/

/-- The state in which a returned walk finds the tables: a root that nothing backs has raised a machine check, and an entry with an error has
been noted. -/
def walkNoted (w : Walk) (s : State) : State :=
  let t := if rootUnbacked s w.as = true then setCause s (dieOf s w.mu) 3 else s
  noteRead t w.mu (fcol w.req.c) (walkUpset t w.as w.va)

section
variable {s : State} {w : Walk}

theorem bodyWalkComplete_returns {n : Nat} (h : s.tr.walks[n]? = some w) :
    bodyWalkComplete n s = walkReturn w { s with tr := { s.tr with walks := s.tr.walks.eraseIdx n } } := by
  unfold bodyWalkComplete
  rw [h]

theorem walkReturn_leaf {l : Leaf} {k : Nat} (h : walkPage (walkNoted w s) w.as w.va = .leaf l k) : walkReturn w s =
    performReq { w.req with walked := some (w.va, k) } (l1Put (l2Put (walkNoted w s) (dieOf (walkNoted w s) w.mu) l) w.mu l) := by
  simp only [walkNoted] at h
  simp only [walkReturn, walkNoted, h]

theorem isPfch_iff {i : Instr} : isPfch i = true ↔ ∃ f, i = .pfch f := by
  constructor
  · intro h
    unfold isPfch at h
    split at h
    · exact ⟨_, rfl⟩
    · cases h
  · rintro ⟨f, rfl⟩
    rfl

theorem walkReturn_absent {lvl : Nat} (h : walkPage (walkNoted w s) w.as w.va = .absent lvl) : walkReturn w s =
    if isPfch w.req.i = true then reply w.req 1 (walkNoted w s)
    else raise w.req.c { kind := 0x01, lvl := lvl, va := BitVec.ofNat 64 w.va } (walkNoted w s) := by
  simp only [walkNoted] at h
  simp only [walkReturn, walkNoted, h]

end

/-! ### Invalidations (R420) -/

theorem bodyInvalidate_idle {s : State} (h : s.tr.invBusy = false) : bodyInvalidateComplete s = s := by
  simp [bodyInvalidateComplete, h]

/-- A scope of one address concerns no address space: it drops leaves alone. -/
theorem bodyInvalidate_page {s : State} (h : s.tr.invBusy = true) (h0 : s.tr.invRun.2.1 = 0) : bodyInvalidateComplete s =
    { s with tr := { dropLeaves s.tr with invBusy := false, invHeld := min 65535 (heldEntries s) } } := by
  simp [bodyInvalidateComplete, h, h0, scopeSpaces]

/-! ### Host regions (R183, R423) -/

section
variable {s : State} {n : Nat} {r : Region} (hr : findRegion s n = some r)

/-- The region is the device's, and the accesses held for it have gone on. -/
def regionFlushed (s : State) (n : Nat) : State :=
  freeHeld n (updRegion s n fun r => { r with own := .device, since := s.clock, snoop := false })

include hr

theorem bodyHostFlush_toDevice (ho : r.own = .toDevice) : bodyHostFlush n s =
    if !r.snoop then regionFlushed s n
    else if regionHeld (regionFlushed s n) n then updRegion (regionFlushed s n) n fun r => { r with snoop := true }
    else snoopRegion n (regionFlushed s n) := by
  unfold bodyHostFlush
  rw [hr]
  exact if_pos (by simp [ho])

theorem bodyHostFlush_host (ho : r.own = .host) : bodyHostFlush n s = s := by
  simp [bodyHostFlush, hr, ho]

theorem bodyHostSnoop_eq : bodyHostSnoop n s = match r.own with
    | .device => snoopRegion n s
    | .toDevice => updRegion s n fun r => { r with snoop := true }
    | _ => s := by
  simp only [bodyHostSnoop, hr]
  cases r.own <;> rfl

theorem bodyRegionCommit_completes (ho : r.own = .toHost) : bodyRegionCommit n s =
    updRegion s n fun r => { r with own := if regionHeld s n then .toDevice else .host, since := s.clock } := by
  simp [bodyRegionCommit, hr, ho]

theorem bodyRegionCommit_idle (ho : r.own ≠ .toHost) : bodyRegionCommit n s = s := by
  simp [bodyRegionCommit, hr, ho]

theorem bodyOwnershipTimeout_early (ht : s.clock < r.since + 2 ^ 22) : bodyOwnershipTimeout n s = s := by
  unfold bodyOwnershipTimeout
  rw [hr]
  exact if_pos (Bool.or_eq_true _ _ ▸ .inr (decide_eq_true ht))

/-- The region is the host's again, and no access is held for it. -/
theorem bodyOwnershipTimeout_late (ho : r.own = .toDevice) (ht : r.since + 2 ^ 22 ≤ s.clock) : bodyOwnershipTimeout n s =
    (s.tr.heldHost.filter fun h => h.region == n).foldl timeoutHeld
      (updRegion { s with tr := { s.tr with heldHost := s.tr.heldHost.filter fun h => h.region != n } } n
        fun r => { r with own := .host, since := s.clock, snoop := false }) := by
  unfold bodyOwnershipTimeout
  rw [hr]
  refine if_neg ?_
  rw [Bool.or_eq_true, bne_iff_ne, decide_eq_true_eq]
  exact not_or.2 ⟨not_not.2 ho, Nat.not_lt.2 ht⟩

end

/-- The fault of an access that has waited too long for its region. -/
def timeoutFault (n : Nat) (h : HeldHost) : FaultInfo := { kind := 0x15, fks := n, va := heldVa h.req }

theorem timeoutHeld_firing {h : HeldHost} (he : h.eng = none) (t : State) : timeoutHeld t h = raise h.req.c (timeoutFault h.region h) t := by
  simp [timeoutHeld, he, timeoutFault]

theorem timeoutHeld_copy {h : HeldHost} {id : Nat} {p : Copy} {t : State} (he : h.eng = some id) (hp : copyOf t h.req.mu id = some p)
    (hc : p.c = h.req.c) : timeoutHeld t h = copyFault p (timeoutFault h.region h) t := by
  have hown : (some p).filter (fun q => q.c == h.req.c) = some p := by simp [hc]
  simp only [timeoutHeld, he, hp, hown, timeoutFault]

theorem region_of_mem_filter {n : Nat} {h : HeldHost} {l : List HeldHost} (hh : h ∈ l.filter fun h => h.region == n) : h.region = n :=
  beq_iff_eq.1 (List.mem_filter.1 hh).2

theorem translationEvents : Claims.TranslationEvents := by
  refine ⟨fun s n w hw => ?_, fun s => ?_, fun s n r hr => ?_⟩
  · have hb := bodyWalkComplete_returns hw
    refine ⟨fun l k h => ends_of_body (hb.trans (walkReturn_leaf h)) rfl, fun lvl h => ⟨fun f hf => ?_, fun hf => ?_⟩⟩
    · exact ends_of_body (hb.trans ((walkReturn_absent h).trans (if_pos (isPfch_iff.2 ⟨f, hf⟩)))) rfl
    · exact ends_of_body (hb.trans ((walkReturn_absent h).trans (if_neg fun hp => (isPfch_iff.1 hp).elim hf))) rfl
  · exact ⟨fun h => ends_of_body (bodyInvalidate_idle h) rfl, fun h h0 => ends_of_body (bodyInvalidate_page h h0) rfl⟩
  · have snoop := bodyHostSnoop_eq hr
    refine ⟨fun ho => ⟨fun hs => ?_, fun hs hh => ?_, fun hs hh => ?_⟩, fun ho => ⟨?_, ?_, ?_⟩, fun ho => ?_, fun ho => ?_, fun ho => ?_,
      fun ho ht => ?_, fun ho ht => ⟨fun hf => ?_, fun h id p hs he hp hc => ?_⟩⟩
    · exact ends_of_body ((bodyHostFlush_toDevice hr ho).trans (if_pos (by simp [hs]))) rfl
    · exact ends_of_body ((bodyHostFlush_toDevice hr ho).trans ((if_neg (by simp [hs])).trans (if_neg (ne_true_of_eq_false hh)))) rfl
    · exact ends_of_body ((bodyHostFlush_toDevice hr ho).trans ((if_neg (by simp [hs])).trans (if_pos hh))) rfl
    · exact ends_of_body (bodyHostFlush_host hr ho) rfl
    · exact ends_of_body (snoop.trans (by rw [ho])) rfl
    · exact ends_of_body (bodyRegionCommit_idle hr (by simp [ho])) rfl
    · exact ends_of_body (snoop.trans (by rw [ho])) rfl
    · exact ends_of_body (snoop.trans (by rw [ho])) rfl
    · exact ends_of_body (bodyRegionCommit_completes hr ho) rfl
    · exact ends_of_body (bodyOwnershipTimeout_early hr ht) rfl
    · refine ends_of_body ((bodyOwnershipTimeout_late hr ho ht).trans (List.foldl_ext _ _ _ fun t h hh => ?_)) rfl
      have hn := region_of_mem_filter hh
      rw [timeoutHeld_firing (hf h hh), hn]
      rfl
    · refine ends_of_body ((bodyOwnershipTimeout_late hr ho ht).trans ?_) rfl
      have hn := region_of_mem_filter (hs ▸ List.mem_singleton_self h : h ∈ s.tr.heldHost.filter fun h => h.region == n)
      rw [hs, List.foldl_cons, List.foldl_nil, timeoutHeld_copy he hp hc, hn]
      rfl

/-! ### Phase boundaries (R172, R178, R202, R472) -/

section
variable {s : State} {c lvl gx gy : Nat}

theorem bodyPhaseBoundary_idle (h : (ctxOf s c).cst ≠ .running ∨ (ctxOf s c).freezing = true ∨ mismatched s c = true) :
    bodyPhaseBoundary c lvl gx gy s = s := by
  refine if_pos ?_
  simpa [isRunning, or_assoc] using h

theorem bodyPhaseBoundary_incomplete (hp : (ctxOf s c).phases = [])
    (hn : (phaseParked s (ctxOf s c) lvl gx gy).length ≠ (phaseCus (ctxOf s c) lvl gx gy).length) : bodyPhaseBoundary c lvl gx gy s = s := by
  simp [bodyPhaseBoundary, hp, hn]

/-- Every CU of the set has arrived: the boundary waits for host regions, or records what does not match, or commits and lets its parties go. -/
theorem bodyPhaseBoundary_complete (hr : (ctxOf s c).cst = .running) (hf : (ctxOf s c).freezing = false) (hm : mismatched s c = false)
    (hp : (ctxOf s c).phases = []) (h1 : (ctxOf s c).members.length ≤ 1) (h0 : (phaseCus (ctxOf s c) lvl gx gy).length ≠ 0)
    (hn : (phaseParked s (ctxOf s c) lvl gx gy).length = (phaseCus (ctxOf s c) lvl gx gy).length) :
    bodyPhaseBoundary c lvl gx gy s =
      let cov := phaseCovers (ctxOf s c) lvl gx gy
      if hostBlocks s c cov ≠ [] then wantBlocks s c cov
      else if badGroups s c cov ≠ [] then boundary s c cov
      else phaseEmit (phaseCommit s c lvl gx gy) c lvl gx gy := by
  simp [bodyPhaseBoundary, isRunning, hr, hf, hm, hp, h1, h0, hn]

theorem boundary_mismatch {cov : PbEntry → Bool} (h : badGroups s c cov ≠ []) :
    boundary s c cov = recordBad (ctxOf s c) (covered s c cov) s := by
  simp [boundary, h]

end

/-! ### The release of a colour (R76) -/

section
variable {s : State} {c k col : Nat}

/-- The unit's read of the record has ended the context. -/
theorem withRec_dead {no : State → State} {op : CallRec → State → State} (hs : isLive (ctxOf s c) = true)
    (ht : isLive (ctxOf (touchRec s c k col) c) = false) : withRec s c k col no op = touchRec s c k col := by
  simp [withRec, hs, ht]

section
variable {r : CallRec} (hl : isLive (ctxOf s c) = false ∨ isLive (ctxOf (touchRec s c k col) c) = true)
  (hr : usedRec (ctxOf (touchRec s c k col) c) k col = some r)
include hl hr

theorem bodyActivationRelease_waits (h : r.state ≠ .ended ∨ buffered (touchRec s c k col) c k col = true) :
    bodyActivationRelease c k col s = touchRec s c k col := by
  rw [bodyActivationRelease, withRec_used hl hr]
  refine if_pos ?_
  rcases h with h | h <;> simp [h]

/-- An ENDED colour without buffered stores and children: the members of an outing that have not swept it are asked, and else it is swept here
and FREE. -/
theorem bodyActivationRelease_releases (he : r.state = .ended) (hm : (ctxOf (touchRec s c k col) c).member = 0)
    (hb : buffered (touchRec s c k col) c k col = false)
    (hch : ∀ q ∈ (ctxOf (touchRec s c k col) c).recs, q.copy = k → q.pcol = col → q.col = col) :
    bodyActivationRelease c k col s =
      let t := touchRec s c k col
      let x := ctxOf t c
      if unswept x k col ≠ [] then (unswept x k col).foldl (fun s m => sendOut s x m (.msg (.sweep c k col))) t
      else storeRec (updCtx (sweepOrphans t c k [col]) c fun x => { x with syncs := x.syncs.filter fun e => e.1 != sweptKind k col })
        { ctx := c, copy := k, x := 3, y := 0 } { r with state := .free } := by
  have hchild : ((ctxOf (touchRec s c k col) c).recs.any fun q => q.copy == k && q.pcol == col && q.col != col) = false := by
    rw [List.any_eq_false]
    intro q hq
    simpa using hch q hq
  rw [bodyActivationRelease, withRec_used hl hr]
  simp [hubHere, hm, he, hb, hchild]

end

end

/-! ### Errors at the colour unit (R467, R468) -/

section
variable {s : State} {c n : Nat} {e : ErrMsg} (hn : (s.un.errs.filter fun e => e.u.ctx == c)[n]? = some e)
include hn

theorem bodyErrorSurface_here (hm : (ctxOf s c).member = 0) :
    bodyErrorSurface c n s = surface (errorDone s e) c e.u.copy e.col e.kind := by
  simp [bodyErrorSurface, hn, hubHere, hm]

theorem bodyErrorSurface_sent (hm : (ctxOf s c).member ≠ 0) (hs : e.sent = true) : bodyErrorSurface c n s = s := by
  simp [bodyErrorSurface, hn, hubHere, hm, hs]

/-- The unit stands on the first member of an outing, to which the message is sent once. -/
theorem bodyErrorSurface_sends (hm : (ctxOf s c).member ≠ 0) (hs : e.sent = false) : bodyErrorSurface c n s = sendOut
    { s with un := { s.un with errs := s.un.errs.map fun q => if q = e then { q with sent := true } else q } } (ctxOf s c) 0
    (.msg (.error e.u e.col e.kind)) := by
  simp [bodyErrorSurface, hn, hubHere, hm, hs]

end

theorem surface_draining {s : State} {c k col kind : Nat} (h : (ctxOf s c).cst = .draining) : surface s c k col kind = killCtx s c kind := by
  simp [surface, h]

theorem colourEvents : Claims.ColourEvents := by
  refine ⟨fun s c lvl gx gy => ⟨fun h => ?_, fun hp hn => ?_, fun hr hf hm hp h1 h0 hn => ?_⟩,
    fun s c k col => ⟨fun hs ht => ?_, fun hl r hr => ⟨fun h => ?_, fun he hm hb hch => ?_⟩⟩,
    fun s c n e hn => ⟨fun hm => ?_, fun hm hd => ?_, fun hm hs => ?_, fun hm hs => ?_⟩⟩
  · exact ends_of_body (bodyPhaseBoundary_idle h) rfl
  · exact ends_of_body (bodyPhaseBoundary_incomplete hp hn) rfl
  · have hb := bodyPhaseBoundary_complete hr hf hm hp h1 h0 hn
    refine ⟨fun hw => ?_, fun hw hg => ?_, fun hw hg => ?_⟩
    · exact ends_of_body (hb.trans (if_pos hw)) rfl
    · exact ends_of_body (hb.trans ((if_neg (not_not.2 hw)).trans ((if_pos hg).trans (boundary_mismatch hg)))) rfl
    · exact ends_of_body (hb.trans ((if_neg (not_not.2 hw)).trans (if_neg (not_not.2 hg)))) rfl
  · exact ends_of_body (withRec_dead hs ht) rfl
  · exact ends_of_body (bodyActivationRelease_waits hl hr h) rfl
  · have hb := bodyActivationRelease_releases hl hr he hm hb hch
    exact ⟨fun hu => ends_of_body (hb.trans (if_pos hu)) rfl, fun hu => ends_of_body (hb.trans (if_neg (not_not.2 hu))) rfl⟩
  · exact ends_of_body (bodyErrorSurface_here hn hm) rfl
  · exact ends_of_body ((bodyErrorSurface_here hn hm).trans (surface_draining hd)) rfl
  · exact ends_of_body (bodyErrorSurface_sent hn hm hs) rfl
  · exact ends_of_body (bodyErrorSurface_sends hn hm hs) rfl

/-- Settles O54: each event's body has one lemma per outcome, and its step ends with what the body gives. -/
theorem colourAndTranslationEvents : Obligations.ColourAndTranslationEvents := ⟨colourEvents, translationEvents⟩

end Sys2Proof.Machine

/-!
What reset leaves (O31). Every map of the reset state is empty, so each accessor answers its own reset value: one lemma per accessor.
-/

namespace Sys2Proof.Machine

open Sys2Proof

/-! ### Accesses to live slots and headers (R226, R258) -/

theorem liveFault_eq_none {s : State} {a n : Nat} (hs : ∀ x, inSlot s x = false) (hr : ∀ x, inRing s x = false) : liveFault s a n = none := by
  simp [liveFault, hs, hr]

/-! ### The accessors at reset (R487) -/

@[simp] theorem ctxOf_reset (c : Nat) : ctxOf State.reset c = ctxReset := rfl

@[simp] theorem queueOf_reset (q : Nat) : queueOf State.reset q = queueReset := rfl

@[simp] theorem rxOf_reset (p : Nat) : rxOf State.reset p = rxReset := rfl

@[simp] theorem ethOf_reset (p : Nat) : ethOf State.reset p = ethReset := rfl

@[simp] theorem stationWord_reset (u : UId) (n : Nat) : stationWord State.reset u n = 0 := rfl

@[simp] theorem kreg_reset (u : UId) (k : Nat) : kreg State.reset u k = 0 := rfl

@[simp] theorem lineTag_reset (loc : Nat) : lineTag State.reset loc = 0x7F00 := rfl

@[simp] theorem isState_reset (loc : Nat) : isState State.reset loc = 0 := rfl

@[simp] theorem inSlot_reset (loc : Nat) : inSlot State.reset loc = false := rfl

@[simp] theorem inRing_reset (loc : Nat) : inRing State.reset loc = false := rfl

@[simp] theorem asOf_reset (n : Nat) : asOf State.reset n = asReset := rfl

/-- R406: no weight is written, so each is its reset value. -/
@[simp] theorem ewOf_reset (d k : Nat) : ewOf State.reset d k = ewReset k := rfl

@[simp] theorem dieReg_reset (d : Nat) : dieReg State.reset d = dieRegReset := rfl

@[simp] theorem lifeOf_reset (p : Nat) : lifeOf State.reset p = lifeReset := rfl

theorem settled_reset : Safety.Settled State.reset := ⟨memory_wf_reset, rfl, rfl⟩

end Sys2Proof.Machine

namespace Sys2Proof

open Machine

/-- Settles O31: each accessor answers its reset value, whose fields are those stated; without a live slot or header nothing faults. -/
theorem resetState : Obligations.ResetState := by
  refine ⟨settled_reset, rfl, rfl, rfl, fun c => ?ctx, fun q => ?queue, fun p => ?ryenxon, fun p => ?ethernet, fun u n => ?stations,
    fun loc => ?memory, fun a n => ?live, fun n => ?spaces, fun d => ?weights, fun d => ?service, fun p => ?life⟩
  case ctx => simp [ctxReset]
  case queue => simp [queueReset]
  case ryenxon => simp [rxReset]
  case ethernet => simp [ethReset]
  case stations => exact ⟨stationWord_reset u n, kreg_reset u n⟩
  case memory => exact ⟨lineTag_reset loc, isState_reset loc⟩
  case live => exact liveFault_eq_none inSlot_reset inRing_reset
  case spaces => simp [asReset]
  case weights => simp [ewReset]
  case service => simp [dieRegReset]
  case life => simp [lifeReset]

end Sys2Proof

/-!
What the value instructions leave alone (O34). Each of them runs one lane per latched firing, and every lane only emits; so one frame of
emissions, closed under composition, carries the whole statement.
-/

namespace Sys2Proof.Machine

open Sys2Proof

/-! ### The frame of emissions (R59, R129) -/

/-- From `s` to `t` nothing changed but tokens in flight, tokens that arrive at their own CU, and what leaves the module. -/
def OnlyTokens (s t : State) : Prop :=
  ∃ fl ar lk, t = { s with fab := { s.fab with flights := fl, arrivals := ar }, lk := lk }

theorem OnlyTokens.refl (s : State) : OnlyTokens s s := ⟨_, _, _, rfl⟩

theorem OnlyTokens.trans {s t u : State} (h : OnlyTokens s t) (k : OnlyTokens t u) : OnlyTokens s u := by
  obtain ⟨_, _, _, rfl⟩ := h
  obtain ⟨_, _, _, rfl⟩ := k
  exact ⟨_, _, _, rfl⟩

theorem OnlyTokens.foldl {g : Ready → State → State} (h : ∀ F t, OnlyTokens t (g F t)) (l : List Ready) (s : State) :
    OnlyTokens s (l.foldl (fun t F => g F t) s) := by
  induction l generalizing s with
  | nil => exact .refl s
  | cons F l ih => exact (h F s).trans (ih (g F s))

section
variable (f : Fields) (F : Ready) (s : State)

theorem onlyTokens_emit (t : BitVec 12) (k : BitVec 3) (v : Word) : OnlyTokens s (emit F t k v s) := emitFrom_frame ..

theorem onlyTokens_emitBoth (k : BitVec 3) (v : Word) : OnlyTokens s (emitBoth f F k v s) := emitBoth_frame ..

theorem onlyTokens_emitIter (n : Nat) : OnlyTokens s (emitIter f F n s) :=
  OnlyTokens.trans (emitFrom_frame ..) (emitFrom_frame ..)

theorem onlyTokens_emitCarry (lo hi : Word) : OnlyTokens s (emitCarry f F lo hi s) :=
  (onlyTokens_emit F s f.ta kValue lo).trans (emitFrom_frame ..)

variable {f F s}

/-- A lane over both targets only emits where its body does: what R62 settles is sent to the targets. -/
theorem onlyTokens_laneOf {d : Settled} {body : Ready → State → State} (h : OnlyTokens s (body F s)) :
    OnlyTokens s (laneOf true true f d body F s) := by
  cases d with
  | eof v => exact onlyTokens_emitBoth f F s kEof v
  | null => exact onlyTokens_emitBoth f F s kNull 0
  | go => exact h

variable (f F s)

/-! ### The lanes of the token instructions (R81 to R90) -/

theorem onlyTokens_laneSteer : OnlyTokens s (laneSteer f F s) := by
  rw [laneSteer_eq]
  split_ifs
  · exact onlyTokens_emitBoth ..
  · exact onlyTokens_emitBoth ..
  · exact (onlyTokens_emit ..).trans (onlyTokens_emit ..)
  · exact onlyTokens_emit ..
  · exact (onlyTokens_emit ..).trans (onlyTokens_emit ..)
  · exact onlyTokens_emit ..

theorem onlyTokens_laneMerge : OnlyTokens s (laneMerge f F s) := by
  unfold laneMerge
  split
  · exact onlyTokens_emitBoth ..
  · exact onlyTokens_emitBoth ..

theorem onlyTokens_laneSelect : OnlyTokens s (laneSelect f F s) := by
  rw [laneSelect_eq]
  cases F.p with
  | none => exact .refl s
  | some p =>
    dsimp only
    split_ifs
    · exact onlyTokens_emitBoth ..
    · exact onlyTokens_emitBoth ..
    · exact onlyTokens_emitBoth ..

theorem onlyTokens_laneNulls : OnlyTokens s (laneNulls f F s) := by
  unfold laneNulls
  split
  · exact onlyTokens_emitBoth ..
  · exact (onlyTokens_emit ..).trans (onlyTokens_emit ..)

end

/-! ### The steps -/

/-- The step of `i` runs a lane that only emits. -/
def OnlyEmits (i : Instr) : Prop := ∃ g : Ready → State → State, (∀ s, exec i s = runLanes g s) ∧ ∀ F s, OnlyTokens s (g F s)

/-- The usual form: R62, then one value to both targets. `pred` says of a firing whether its P is a predicate. -/
theorem onlyEmits_of_lane {i : Instr} {f : Fields} {pred : Ready → Bool} {kind : Ready → BitVec 3} {v : Ready → State → Word}
    (h : ∀ s, exec i s = runLanes (fun F => lane true true (pred F) f (fun F s => emitBoth f F (kind F) (v F s) s) F) s) :
    OnlyEmits i :=
  ⟨_, h, fun F s => onlyTokens_laneOf (onlyTokens_emitBoth f F s _ _)⟩

/-- The carry chains, whose TB carries the carry (R140, R141). -/
theorem onlyEmits_of_carryLane {i : Instr} {f : Fields} {pred : Ready → Bool} {lo hi : Ready → State → Word}
    (h : ∀ s, exec i s = runLanes (fun F => lane true true (pred F) f (fun F s => emitCarry f F (lo F s) (hi F s) s) F) s) :
    OnlyEmits i :=
  ⟨_, h, fun F s => onlyTokens_laneOf (onlyTokens_emitCarry f F s _ _)⟩

/-- The end of a step that only emitted: writes that were pending reach memory, and the latch is empty. -/
theorem OnlyEmits.step {i : Instr} (h : OnlyEmits i) (s : State) : ∃ fl ar lk, exec i s = .next
    { s with mem := memCommit s.mem s.wlog, wlog := [], fab := { s.fab with flights := fl, arrivals := ar }, lk := lk, firing := [] } := by
  obtain ⟨g, he, hg⟩ := h
  obtain ⟨fl, ar, lk, ht⟩ := OnlyTokens.foldl hg s.firing s
  refine ⟨fl, ar, lk, ?_⟩
  rw [he, runLanes, ht]
  rfl

/-- Settles O34: every lane of the list only emits, and so does the run over the latched firings. -/
theorem valueInstructionsChangeOnlyTokens : Obligations.ValueInstructionsChangeOnlyTokens := by
  intro mk hmk f s
  refine OnlyEmits.step ?_ s
  revert mk
  refine List.forall_mem_cons.2 ⟨⟨_, fun _ => rfl, fun _ => .refl⟩, ?_⟩
  refine List.forall_mem_cons.2 ⟨⟨laneMove f, fun _ => rfl, fun F s => onlyTokens_laneOf (onlyTokens_emitBoth f F s _ _)⟩, ?_⟩
  refine List.forall_mem_cons.2 ⟨onlyEmits_of_lane fun _ => rfl, ?_⟩
  refine List.forall_mem_cons.2 ⟨⟨_, fun _ => rfl, onlyTokens_laneSteer f⟩, ?_⟩
  refine List.forall_mem_cons.2 ⟨⟨_, fun _ => rfl, onlyTokens_laneMerge f⟩, ?_⟩
  refine List.forall_mem_cons.2 ⟨⟨_, fun _ => rfl, onlyTokens_laneSelect f⟩, ?_⟩
  refine List.forall_mem_cons.2 ⟨onlyEmits_of_lane fun _ => rfl, ?_⟩
  refine List.forall_mem_cons.2 ⟨⟨laneJoin f, fun _ => rfl, fun F s => onlyTokens_emitBoth f F s _ _⟩, ?_⟩
  refine List.forall_mem_cons.2 ⟨⟨_, fun _ => rfl, onlyTokens_laneNulls f⟩, ?_⟩
  refine List.forall_mem_cons.2 ⟨⟨_, fun _ => rfl, fun _ => .refl⟩, ?_⟩
  refine List.forall_mem_cons.2 ⟨onlyEmits_of_lane fun _ => rfl, ?_⟩
  refine List.forall_mem_cons.2 ⟨⟨laneTagSet f, fun _ => rfl, fun F s => onlyTokens_laneOf (onlyTokens_emitIter f F s _)⟩, ?_⟩
  iterate 6 refine List.forall_mem_cons.2 ⟨onlyEmits_of_lane fun _ => rfl, ?_⟩
  refine List.forall_mem_cons.2 ⟨onlyEmits_of_carryLane fun _ => rfl, ?_⟩
  refine List.forall_mem_cons.2 ⟨onlyEmits_of_carryLane fun _ => rfl, ?_⟩
  refine List.forall_mem_cons.2 ⟨onlyEmits_of_lane fun _ => rfl, ?_⟩
  refine List.forall_mem_cons.2 ⟨onlyEmits_of_carryLane fun _ => rfl, ?_⟩
  repeat refine List.forall_mem_cons.2 ⟨onlyEmits_of_lane fun _ => rfl, ?_⟩
  exact List.forall_mem_nil _

end Sys2Proof.Machine


/-!
The results of the integer instructions (O40 to O42). A value lane sends one word to both targets, so each clause is an equation between
that word and the one stated; what the words mean bit by bit is said of patterns, apart from any firing.
-/

namespace Sys2Proof.Machine

open Sys2Proof

/-- A value instruction, where R62 lets every firing compute and the word of its lane is the one stated. -/
theorem values_of_lane {i : Instr} {f : Fields} {s : State} {g v : Ready → State → Word} (hs : Claims.Computes true s)
    (he : exec i s = runLanes (valueLane f g) s) (h : ∀ F ∈ s.firing, ∀ t, g F t = v F t) : Claims.Values i f s v :=
  endsWith_of_body hs he fun F hF t => by rw [h F hF t]

section
variable {f : Fields} {F : Ready} {t : State}

/-! ### Types and patterns (R101, R108, R127) -/

theorem tyW_pos (y : Ty) : 0 < tyW y := by cases y <;> decide

theorem tyW_le (y : Ty) : tyW y ≤ 64 := by cases y <;> decide

theorem lowBits_lt (y : Ty) (v : Word) : lowBits y v < 2 ^ tyW y := Nat.mod_lt _ (Nat.two_pow_pos _)

theorem leftPat_lt (f : Fields) (F : Ready) : leftPat f F < 2 ^ tyW f.ty := lowBits_lt ..

theorem testBit_lowBits (y : Ty) (v : Word) (k : Nat) : (lowBits y v).testBit k = (decide (k < tyW y) && v.getLsbD k) := by
  rw [lowBits, Nat.testBit_mod_two_pow, BitVec.testBit_toNat]

/-- Only the low w bits of a number count where it is placed in a value. -/
theorem extendTy_mod (y : Ty) (n : Nat) : extendTy y (n % 2 ^ tyW y) = extendTy y n := by
  simp [extendTy]

theorem extendTy_zero (y : Ty) : extendTy y 0 = 0 := by
  simp [extendTy]

theorem tyMin_of_signed {y : Ty} (h : tySgn y = true) : tyMin y = -2 ^ (tyW y - 1) := if_pos h

/-! ### Two operands (R133, R140, R141) -/

theorem valMul_lo (h : f.fn = 0) : valMul f F t = wrapTy f.ty (Claims.a f F * Claims.b f F t) :=
  congrArg (wrapTy f.ty) (if_pos (beq_iff_eq.2 h))

theorem valMul_hi (h : f.fn = 1) : valMul f F t = wrapTy f.ty (Claims.a f F * Claims.b f F t / 2 ^ tyW f.ty) :=
  congrArg (wrapTy f.ty) (if_neg (by simp [h]))

theorem valMin_eq : valMin f F t =
    wrapTy f.ty (if Claims.a f F ≤ Claims.b f F t then Claims.a f F else Claims.b f F t) :=
  congrArg (wrapTy f.ty) (min_def ..)

theorem valMax_eq : valMax f F t =
    wrapTy f.ty (if Claims.b f F t ≤ Claims.a f F then Claims.a f F else Claims.b f F t) :=
  congrArg (wrapTy f.ty) ((max_comm ..).trans (max_def ..))

theorem twoOperandIntegerResults : Claims.TwoOperandIntegerResults := fun _ _ hs =>
  ⟨values_of_lane hs rfl fun _ _ _ => rfl, values_of_lane hs rfl fun _ _ _ => rfl,
    fun h => values_of_lane hs rfl fun _ _ _ => valMul_lo h, fun h => values_of_lane hs rfl fun _ _ _ => valMul_hi h,
    values_of_lane hs rfl fun _ _ _ => valMin_eq, values_of_lane hs rfl fun _ _ _ => valMax_eq⟩

/-- The carry into ADDC and SUBB, in the words of R140. -/
theorem carryBit_eq (y : Ty) (F : Ready) : carryBit y F = if isCarry F ∧ lowBits y (pVal F) ≠ 0 then 1 else 0 := by
  simp [carryBit]

/-- A carry or borrow out is a token of 1 or 0. -/
theorem ofNat_ite_one_zero (p : Prop) [Decidable p] : BitVec.ofNat 64 (if p then 1 else 0) = if p then 1 else 0 := by
  split <;> rfl

theorem carryOut_word (w a b cin : Nat) : BitVec.ofNat 64 (carryOut w a b cin) = if 2 ^ w ≤ a + b + cin then 1 else 0 :=
  ofNat_ite_one_zero _

/-- A borrow leaves where the exact difference is negative. -/
theorem borrowOut_word (a b cin : Nat) : BitVec.ofNat 64 (borrowOut a b cin) = if (a : Int) - b - cin < 0 then 1 else 0 := by
  have h : a < b + cin ↔ (a : Int) - b - cin < 0 := by omega
  rw [borrowOut, ofNat_ite_one_zero]
  exact if_congr h rfl rfl

theorem carryChainResults : Claims.CarryChainResults := by
  intro f s hs
  refine ⟨?addc, ?subb, ?mulc⟩
  all_goals refine endsWith_of_lane rfl fun F hF t => (lane_go (hs F hF)).trans ?_
  case addc =>
    dsimp only
    rw [carryOut_word, carryBit_eq, extendTy_mod]
    rfl
  case subb =>
    dsimp only
    rw [borrowOut_word, carryBit_eq]
    push_cast
    rfl
  case mulc =>
    dsimp only
    rw [extendTy_mod]
    rfl

/-- Settles O41: each word is the one stated, the carries and borrows among them. -/
theorem arithmeticAndCarryResults : Obligations.ArithmeticAndCarryResults := ⟨twoOperandIntegerResults, carryChainResults⟩

/-! ### Logical operators, division, saturation, one operand, comparison (R133 to R136, R138) -/

/-- The complement of a w-bit pattern, bit by bit. -/
theorem testBit_notPat (y : Ty) (n k : Nat) : (notPat y n).testBit k = (decide (k < tyW y) && !n.testBit k) := by
  rw [notPat, Nat.sub_sub, Nat.add_comm 1, Nat.testBit_two_pow_sub_succ (Nat.mod_lt _ (Nat.two_pow_pos _)), Nat.testBit_mod_two_pow]
  by_cases hk : k < tyW y <;> simp [hk]

theorem testBit_leftPat_of_le {k : Nat} (h : tyW f.ty ≤ k) : (leftPat f F).testBit k = false := by
  rw [leftPat, testBit_lowBits, decide_eq_false (Nat.not_lt.2 h), Bool.false_and]

/-- ANDN keeps the bits of a that b does not have. -/
theorem testBit_andnPat (k : Nat) : (leftPat f F &&& notPat f.ty (rightPat f F t)).testBit k =
    ((Claims.pa f F).testBit k && !(Claims.pb f F t).testBit k) := by
  rw [Nat.testBit_and, testBit_notPat]
  by_cases hk : k < tyW f.ty
  · simp only [hk, decide_true, Bool.true_and]
    rfl
  · have ha : (Claims.pa f F).testBit k = false := testBit_leftPat_of_le (Nat.not_lt.1 hk)
    simp [hk, ha]

theorem logicalResultsBitByBit : Claims.LogicalResultsBitByBit := fun f _ hs =>
  ⟨values_of_lane hs rfl fun _ _ _ => rfl, values_of_lane hs rfl fun _ _ _ => rfl, values_of_lane hs rfl fun _ _ _ => rfl,
    ⟨fun F t => leftPat f F &&& notPat f.ty (rightPat f F t), fun _ _ => testBit_andnPat, values_of_lane hs rfl fun _ _ _ => rfl⟩,
    ⟨fun F => notPat f.ty (leftPat f F), fun _ => testBit_notPat _ _, values_of_lane hs rfl fun _ _ _ => rfl⟩⟩

/-- Quotient and remainder in the words of R134. -/
theorem divRem_eq (y : Ty) (a b : Int) : divRem y a b =
    if b = 0 then (if tySgn y then -1 else 2 ^ tyW y - 1, a)
    else if tySgn y ∧ a = -2 ^ (tyW y - 1) ∧ b = -1 then (a, 0)
    else (a.tdiv b, a - b * a.tdiv b) := by
  cases hy : tySgn y with
  | false => simp [divRem, hy]
  | true => simp [divRem, hy, tyMin_of_signed]

theorem divisionResults : Claims.DivisionResults := by
  intro f s hs
  constructor
  · refine values_of_lane hs rfl fun F _ t => ?_
    rw [valDiv, divRem_eq, apply_ite Prod.fst, apply_ite Prod.fst]
    rfl
  · refine values_of_lane hs rfl fun F _ t => ?_
    rw [valRem, divRem_eq, apply_ite Prod.snd, apply_ite Prod.snd]
    rfl

/-- The magnitude of an integer, as the station forms it. -/
theorem ite_nonneg_eq_abs (a : Int) : (if a ≥ 0 then a else -a) = |a| := by
  split
  next h => exact (abs_of_nonneg h).symm
  next h => exact (abs_of_neg (not_le.1 h)).symm

theorem valAbs_plain (h : f.fn = 0) : valAbs f F t = wrapTy f.ty |Claims.a f F| := by
  rw [← ite_nonneg_eq_abs]
  simp [valAbs, h]
  rfl

/-- .SAT moves the one value whose magnitude the type does not hold. -/
theorem valAbs_sat (h : f.fn = 1) : valAbs f F t =
    wrapTy f.ty (if Claims.a f F = tyMin f.ty ∧ Claims.a f F < 0 then tyMax f.ty else |Claims.a f F|) := by
  change wrapTy f.ty (if Claims.a f F ≥ 0 then Claims.a f F
    else if f.fn == 1 && Claims.a f F == tyMin f.ty then tyMax f.ty else -Claims.a f F) = _
  by_cases hn : 0 ≤ Claims.a f F
  · simp [hn, Int.not_lt.2 hn, abs_of_nonneg]
  · simp [hn, h, Int.not_le.1 hn, abs_of_neg]

theorem valAddsat_add (h : f.fn = 0) : valAddsat f F t =
    wrapTy f.ty (max (tyMin f.ty) (min (tyMax f.ty) (Claims.a f F + Claims.b f F t))) :=
  congrArg (fun x => wrapTy f.ty (max (tyMin f.ty) (min (tyMax f.ty) x))) (if_pos (beq_iff_eq.2 h))

theorem valAddsat_sub (h : f.fn = 1) : valAddsat f F t =
    wrapTy f.ty (max (tyMin f.ty) (min (tyMax f.ty) (Claims.a f F - Claims.b f F t))) :=
  congrArg (fun x => wrapTy f.ty (max (tyMin f.ty) (min (tyMax f.ty) x))) (if_neg (by simp [h]))

/-- The six relations of R138, of integers. -/
theorem relation_compare (a b : Int) (n : Nat) : relation n (compare a b) =
    match n with
    | 0 => decide (a = b) | 1 => decide (a ≠ b) | 2 => decide (a < b)
    | 3 => decide (a ≤ b) | 4 => decide (b < a) | _ => decide (b ≤ a) := by
  rcases lt_trichotomy a b with hl | rfl | hg
  · rw [compare_lt_iff_lt.2 hl]
    rcases n with _ | _ | _ | _ | _ | _ <;> simp [relation, hl, hl.ne, hl.le, hl.not_gt]
  · rw [compare_eq_iff_eq.2 rfl]
    rcases n with _ | _ | _ | _ | _ | _ <;> simp [relation]
  · rw [compare_gt_iff_gt.2 hg]
    rcases n with _ | _ | _ | _ | _ | _ <;> simp [relation, hg, hg.ne', hg.le, hg.not_gt]

theorem fn_toNat_eq {n : Nat} (h : f.fn = BitVec.ofNat 4 n) (hn : n < 16) : f.fn.toNat = n := by
  rw [h, BitVec.toNat_ofNat, Nat.mod_eq_of_lt hn]

theorem oneOperandAndSaturatingResults : Claims.OneOperandAndSaturatingResults := by
  intro f s hs
  refine ⟨fun h => ?_, fun h => ?_, fun h => ?_, fun h => ?_, ?_, ?_, fun n hf hn => ?_⟩
  · exact values_of_lane hs rfl fun _ _ _ => valAddsat_add h
  · exact values_of_lane hs rfl fun _ _ _ => valAddsat_sub h
  · exact values_of_lane hs rfl fun _ _ _ => valAbs_plain h
  · exact values_of_lane hs rfl fun _ _ _ => valAbs_sat h
  · exact values_of_lane hs rfl fun _ _ _ => rfl
  · exact values_of_lane hs rfl fun _ _ _ => rfl
  · refine values_of_lane hs rfl fun F _ t => ?_
    rw [valCmp, fn_toNat_eq hf (by omega), relation_compare]
    rfl

/-- Settles O40: the complement bit by bit, and the cases of division, magnitude and comparison one by one. -/
theorem logicalDivisionAndOneOperandResults : Obligations.LogicalDivisionAndOneOperandResults :=
  ⟨logicalResultsBitByBit, divisionResults, oneOperandAndSaturatingResults⟩

/-! ### Shifts and rotations (R137) -/

theorem valShl_eq : valShl f F t = extendTy f.ty (Claims.pa f F * 2 ^ (rightOp f F t).toNat % 2 ^ tyW f.ty) := by
  have he : valShl f F t = if tyW f.ty ≤ (rightOp f F t).toNat then 0 else
      extendTy f.ty (Claims.pa f F * 2 ^ (rightOp f F t).toNat) := rfl
  rw [he, extendTy_mod]
  split
  next h => rw [← extendTy_mod, Nat.mod_eq_zero_of_dvd ((pow_dvd_pow 2 h).mul_left _), extendTy_zero]
  next => rfl

theorem valShr_eq : valShr f F t = extendTy f.ty (Claims.pa f F / 2 ^ (rightOp f F t).toNat) := by
  have he : valShr f F t = if tyW f.ty ≤ (rightOp f F t).toNat then 0 else
      extendTy f.ty (Claims.pa f F / 2 ^ (rightOp f F t).toNat) := rfl
  rw [he]
  split
  next h =>
    have hz : Claims.pa f F / 2 ^ (rightOp f F t).toNat = 0 :=
      Nat.div_eq_of_lt ((leftPat_lt f F).trans_le (Nat.pow_le_pow_right two_pos h))
    rw [hz, extendTy_zero]
  next => rfl

/-- The signed reading of a pattern lies in its range. -/
theorem sgnPat_bounds {w n : Nat} (hn : n < 2 ^ w) : -2 ^ w ≤ sgnPat w n ∧ sgnPat w n < 2 ^ w := by
  have hn' : (n : Int) < 2 ^ w := by exact_mod_cast hn
  unfold sgnPat
  split <;> constructor <;> omega

/-- Beyond the width of a number a shift to the right leaves its sign alone. -/
theorem div_two_pow_min {w : Nat} {x : Int} (hl : -2 ^ w ≤ x) (hu : x < 2 ^ w) (n : Nat) : x / 2 ^ min n w = x / 2 ^ n := by
  rcases le_total n w with h | h
  · rw [min_eq_left h]
  · have hp : (2 : Int) ^ w ≤ 2 ^ n := pow_le_pow_right₀ (by norm_num) h
    have hw : (0 : Int) < 2 ^ w := by positivity
    rw [min_eq_right h]
    rcases le_or_gt 0 x with hx | hx
    · rw [Int.ediv_eq_zero_of_lt hx hu, Int.ediv_eq_zero_of_lt hx (hu.trans_le hp)]
    · have neg_one {m : Int} (hm : 0 < m) (hlm : -m ≤ x) : x / m = -1 := by
        rw [Int.ediv_eq_iff_of_pos hm]
        constructor <;> omega
      rw [neg_one hw hl, neg_one (hw.trans_le hp) (by omega)]

/-- The signed reading looks at bit w − 1. -/
theorem sgnPat_eq (w n : Nat) : sgnPat w n = if n.testBit (w - 1) then (n : Int) - 2 ^ w else n := by
  rw [Nat.testBit_eq_decide_div_mod_eq]
  simp [sgnPat]

theorem valSar_eq : valSar f F t = wrapTy f.ty
    ((if (Claims.pa f F).testBit (tyW f.ty - 1) then (Claims.pa f F : Int) - 2 ^ tyW f.ty else Claims.pa f F)
      / 2 ^ (rightOp f F t).toNat) := by
  obtain ⟨hl, hu⟩ := sgnPat_bounds (leftPat_lt f F)
  rw [valSar, div_two_pow_min hl hu, sgnPat_eq]
  rfl

theorem rotPat_eq_or {w a n : Nat} (ha : a < 2 ^ w) (hn : n ≤ w) : rotPat w a n = (a * 2 ^ n % 2 ^ w) ||| (a / 2 ^ (w - n)) := by
  have h : a / 2 ^ (w - n) < 2 ^ n := by
    rw [Nat.div_lt_iff_lt_mul (Nat.two_pow_pos _), ← pow_add]
    rwa [Nat.add_sub_cancel' hn]
  have hm : a * 2 ^ n % 2 ^ w = 2 ^ n * (a % 2 ^ (w - n)) := by
    obtain ⟨m, rfl⟩ := Nat.exists_eq_add_of_le hn
    rw [mul_comm, pow_add, Nat.mul_mod_mul_left, Nat.add_sub_cancel_left]
  rw [rotPat, hm, Nat.two_pow_add_eq_or_of_lt h]

/-- A rotation by n moves bit k to bit k + n, around the width. -/
theorem testBit_rotPat {w a n k : Nat} (ha : a < 2 ^ w) (hn : n < w) (hk : k < w) :
    (rotPat w a n).testBit ((k + n) % w) = a.testBit k := by
  rw [rotPat_eq_or ha hn.le, Nat.testBit_or, Nat.testBit_mod_two_pow, Nat.testBit_mul_two_pow, Nat.testBit_div_two_pow]
  rcases lt_or_ge (k + n) w with h | h
  · have hz : a.testBit (w - n + (k + n)) = false := Nat.testBit_lt_two_pow (ha.trans_le (Nat.pow_le_pow_right two_pos (by omega)))
    rw [Nat.mod_eq_of_lt h, add_comm (k + n), hz]
    simp [h]
  · have hm : (k + n) % w = k + n - w := by rw [Nat.mod_eq_sub_mod h, Nat.mod_eq_of_lt (by omega)]
    rw [hm, show k + n - w + (w - n) = k by omega]
    simp [show ¬n ≤ k + n - w by omega]

theorem rotPat_lt {w a n : Nat} (ha : a < 2 ^ w) (hn : n ≤ w) : rotPat w a n < 2 ^ w := by
  rw [rotPat_eq_or ha hn]
  exact Nat.or_lt_two_pow (Nat.mod_lt _ (Nat.two_pow_pos _)) ((Nat.div_le_self ..).trans_lt ha)

/-- The rotated pattern of a firing. -/
def rotated (f : Fields) (F : Ready) (t : State) : Nat :=
  let w := tyW f.ty
  let n := shiftAmt f F t % w
  rotPat w (leftPat f F) (if f.fn == 0 then n else (w - n) % w)

theorem rotated_lt : rotated f F t < 2 ^ tyW f.ty := by
  have hw := tyW_pos f.ty
  refine rotPat_lt (leftPat_lt f F) ?_
  split
  · exact (Nat.mod_lt _ hw).le
  · exact (Nat.mod_lt _ hw).le

theorem testBit_rotated_left (h : f.fn = 0) {k : Nat} (hk : k < tyW f.ty) :
    (rotated f F t).testBit ((k + (rightOp f F t).toNat) % tyW f.ty) = (Claims.pa f F).testBit k := by
  have hr : rotated f F t = rotPat (tyW f.ty) (leftPat f F) ((rightOp f F t).toNat % tyW f.ty) := by
    simp [rotated, h, shiftAmt]
  rw [hr, Nat.add_mod, Nat.mod_eq_of_lt hk]
  exact testBit_rotPat (leftPat_lt f F) (Nat.mod_lt _ (tyW_pos _)) hk

/-- Around the width, w − n takes k + n back to k. -/
theorem add_mod_sub_mod {w k : Nat} (hk : k < w) (n : Nat) : ((k + n) % w + (w - n % w) % w) % w = k := by
  have hn : n % w < w := Nat.mod_lt _ (by omega)
  have hd : w * (n / w) + n % w = n := Nat.div_add_mod n w
  have hs : k + n + (w - n % w) = k + w * (n / w + 1) := by
    rw [Nat.mul_succ]
    omega
  rw [Nat.add_mod_mod, Nat.mod_add_mod, hs, Nat.add_mul_mod_self_left, Nat.mod_eq_of_lt hk]

/-- A rotation to the right by n is one to the left by w − n, which takes bit k + n back to bit k. -/
theorem testBit_rotated_right (h : f.fn = 1) {k : Nat} (hk : k < tyW f.ty) :
    (rotated f F t).testBit k = (Claims.pa f F).testBit ((k + (rightOp f F t).toNat) % tyW f.ty) := by
  have hw := tyW_pos f.ty
  have hn := Nat.mod_lt (rightOp f F t).toNat hw
  have hr : rotated f F t = rotPat (tyW f.ty) (leftPat f F) ((tyW f.ty - (rightOp f F t).toNat % tyW f.ty) % tyW f.ty) := by
    simp [rotated, h, shiftAmt]
  rw [hr]
  conv_lhs => rw [← add_mod_sub_mod hk (rightOp f F t).toNat]
  exact testBit_rotPat (leftPat_lt f F) (Nat.mod_lt _ hw) (Nat.mod_lt _ hw)

theorem shiftAndRotateResults : Claims.ShiftAndRotateResults := fun f _ hs =>
  ⟨values_of_lane hs rfl fun _ _ _ => valShl_eq, values_of_lane hs rfl fun _ _ _ => valShr_eq,
    values_of_lane hs rfl fun _ _ _ => valSar_eq,
    ⟨rotated f, fun _ _ => ⟨rotated_lt, fun _ hk => ⟨fun h => testBit_rotated_left h hk, fun h => testBit_rotated_right h hk⟩⟩,
      values_of_lane hs rfl fun _ _ _ => rfl⟩⟩

/-! ### Counts, reversal and bit fields (R136, R139) -/

theorem popCount_eq_countP (n k : Nat) : popCount n k = (List.range k).countP fun j => n.testBit j := by
  induction k with
  | zero => rfl
  | succ k ih =>
    rw [popCount, ih, List.range_succ, List.countP_append, List.countP_singleton, Nat.testBit_eq_decide_div_mod_eq]
    rcases Nat.mod_two_eq_zero_or_one (n / 2 ^ k) with h | h <;> simp [h]

/-- The bits above a pattern's width add nothing to its count. -/
theorem popCount_of_lt {n w k : Nat} (hn : n < 2 ^ w) (hk : w ≤ k) : popCount n k = popCount n w := by
  induction k, hk using Nat.le_induction with
  | base => rfl
  | succ k hk ih => rw [popCount, ih, Nat.div_eq_of_lt (hn.trans_le (Nat.pow_le_pow_right two_pos hk)), Nat.zero_mod, Nat.add_zero]

theorem valPopc_eq : valPopc f F t = BitVec.ofNat 64 ((List.range (tyW f.ty)).countP fun k => (Claims.pa f F).testBit k) := by
  rw [valPopc, popCount_of_lt (leftPat_lt f F) (tyW_le f.ty), popCount_eq_countP]
  rfl

theorem lt_two_pow_bitLen (n : Nat) : n < 2 ^ bitLen n := by
  unfold bitLen
  split
  next h => simp_all
  next => exact Nat.lt_log2_self

theorem bitLen_le {n w : Nat} (h : n < 2 ^ w) : bitLen n ≤ w := by
  unfold bitLen
  split
  next => exact Nat.zero_le _
  next hn => exact (Nat.log2_lt (by simpa using hn)).2 h

theorem testBit_bitLen_sub_one {n : Nat} (h : 0 < bitLen n) : n.testBit (bitLen n - 1) = true := by
  unfold bitLen at h ⊢
  split
  next hn => simp [hn] at h
  next hn => exact Nat.testBit_log2 (by simpa using hn)

/-- The leading zeros of a pattern stand above its highest one bit. -/
theorem leadingZeros_spec {n w : Nat} (h : n < 2 ^ w) :
    w - bitLen n ≤ w ∧ n < 2 ^ (w - (w - bitLen n)) ∧ (w - bitLen n < w → n.testBit (w - 1 - (w - bitLen n)) = true) := by
  have hle := bitLen_le h
  refine ⟨Nat.sub_le .., ?_, fun hlt => ?_⟩
  · rw [Nat.sub_sub_self hle]
    exact lt_two_pow_bitLen n
  · rw [show w - 1 - (w - bitLen n) = bitLen n - 1 by omega]
    exact testBit_bitLen_sub_one (by omega)

/-- After k bits the top k bits are those bits, the first of them highest. -/
theorem bitRev_top (n : Nat) {w k : Nat} (hk : k ≤ w) :
    ∃ q, bitRev n w k = 2 ^ (w - k) * q ∧ q < 2 ^ k ∧ ∀ j < k, q.testBit (k - 1 - j) = n.testBit j := by
  induction k with
  | zero => exact ⟨0, rfl, Nat.one_pos, fun j hj => absurd hj (Nat.not_lt_zero j)⟩
  | succ k ih =>
    obtain ⟨q, he, hq, hbit⟩ := ih (Nat.le_of_succ_le hk)
    have hb : n / 2 ^ k % 2 < 2 := Nat.mod_lt _ two_pos
    refine ⟨2 * q + n / 2 ^ k % 2, ?_, ?_, fun j hj => ?_⟩
    · rw [bitRev, he, show w - k = w - (k + 1) + 1 by omega, pow_succ, Nat.sub_sub, Nat.add_comm 1 k]
      ring
    · rw [pow_succ]
      omega
    · rcases Nat.lt_succ_iff_lt_or_eq.1 hj with hlt | rfl
      · rw [show k + 1 - 1 - j = k - 1 - j + 1 by omega, Nat.testBit_succ, ← hbit j hlt,
          show (2 * q + n / 2 ^ k % 2) / 2 = q by omega]
      · rw [show j + 1 - 1 - j = 0 by omega, Nat.testBit_zero, Nat.testBit_eq_decide_div_mod_eq,
          show (2 * q + n / 2 ^ j % 2) % 2 = n / 2 ^ j % 2 by omega]

/-- BREV moves bit k to bit w − 1 − k. -/
theorem bitRev_spec (n w : Nat) : bitRev n w w < 2 ^ w ∧ ∀ k < w, (bitRev n w w).testBit (w - 1 - k) = n.testBit k := by
  obtain ⟨q, he, hq, hbit⟩ := bitRev_top n (le_refl w)
  rw [Nat.sub_self, pow_zero, Nat.one_mul] at he
  rw [he]
  exact ⟨hq, hbit⟩

theorem fld_lt (f : Fields) (lo n : Nat) : fld f lo n < 2 ^ n := Nat.mod_lt _ (Nat.two_pow_pos n)

/-- The lowest n bits of a word, cut out by a mask. -/
theorem ofNat_nbits (v : Word) (lo : Nat) {n : Nat} (hn : n ≤ 64) :
    BitVec.ofNat 64 (nbits v.toNat lo n) = v >>> lo &&& BitVec.ofNat 64 (2 ^ n - 1) := by
  have hp : 2 ^ n ≤ 2 ^ 64 := Nat.pow_le_pow_right two_pos hn
  have hpos := Nat.two_pow_pos n
  apply BitVec.eq_of_toNat_eq
  rw [BitVec.toNat_and, BitVec.toNat_ushiftRight, BitVec.toNat_ofNat, BitVec.toNat_ofNat, Nat.mod_eq_of_lt (a := 2 ^ n - 1) (by omega),
    Nat.and_two_pow_sub_one_eq_mod, Nat.shiftRight_eq_div_pow, nbits, Nat.mod_eq_of_lt ((Nat.mod_lt _ hpos).trans_le hp)]

theorem toNat_extractLsb' (v : Word) (lo n : Nat) : (v.extractLsb' lo n).toNat = nbits v.toNat lo n := by
  rw [BitVec.extractLsb'_toNat, Nat.shiftRight_eq_div_pow, nbits]

/-- The signed reading of a field is its two's complement. -/
theorem ofInt_sgnPat (v : Word) (lo n : Nat) :
    BitVec.ofInt 64 (sgnPat n (nbits v.toNat lo n)) = (v.extractLsb' lo n).signExtend 64 := by
  rw [BitVec.signExtend, BitVec.toInt_eq_msb_cond, BitVec.msb_eq_getLsbD_last, ← BitVec.testBit_toNat, toNat_extractLsb', sgnPat_eq]
  push_cast
  rfl

theorem valBfx_unsigned (h : tySgn f.ty = false) :
    valBfx f F t = F.l.val >>> fld f 0 6 &&& BitVec.ofNat 64 (2 ^ (fld f 6 6 + 1) - 1) := by
  rw [← ofNat_nbits _ _ (fld_lt f 6 6)]
  simp [valBfx, h]

theorem valBfx_signed (h : tySgn f.ty = true) :
    valBfx f F t = (F.l.val.extractLsb' (fld f 0 6) (fld f 6 6 + 1)).signExtend 64 := by
  rw [← ofInt_sgnPat]
  simp [valBfx, h]

/-- A number whose bits from lo on, n of them, are replaced by those of r. -/
theorem testBit_insert (a r lo n k : Nat) : (a - nbits a lo n * 2 ^ lo + r % 2 ^ n * 2 ^ lo).testBit k =
    if lo ≤ k ∧ k < lo + n then r.testBit (k - lo) else a.testBit k := by
  have hsplit : a - nbits a lo n * 2 ^ lo + r % 2 ^ n * 2 ^ lo =
      2 ^ lo * (2 ^ n * (a / 2 ^ lo / 2 ^ n) + r % 2 ^ n) + a % 2 ^ lo := by
    have hlo := Nat.div_add_mod a (2 ^ lo)
    have hn := Nat.div_add_mod (a / 2 ^ lo) (2 ^ n)
    have ha : 2 ^ lo * (2 ^ n * (a / 2 ^ lo / 2 ^ n)) + nbits a lo n * 2 ^ lo + a % 2 ^ lo = a := by
      rw [nbits, mul_comm _ (2 ^ lo), ← mul_add, hn, hlo]
    rw [mul_add, mul_comm (2 ^ lo) (r % 2 ^ n)]
    omega
  rw [hsplit, Nat.testBit_two_pow_mul_add _ (Nat.mod_lt _ (Nat.two_pow_pos _)),
    Nat.testBit_two_pow_mul_add _ (Nat.mod_lt _ (Nat.two_pow_pos _)), Nat.testBit_mod_two_pow, Nat.testBit_mod_two_pow,
    Nat.testBit_div_two_pow, Nat.testBit_div_two_pow]
  by_cases h1 : k < lo
  · simp [h1, Nat.not_le.2 h1]
  · by_cases h2 : k < lo + n
    · simp [h1, h2, Nat.not_lt.1 h1, show k - lo < n by omega]
    · simp [h1, h2, show ¬k - lo < n by omega, show k - lo - n + n + lo = k by omega]

theorem getLsbD_valBfi (h : fld f 0 6 + fld f 6 6 + 1 ≤ 64) (k : Nat) : (valBfi f F t).getLsbD k =
    if fld f 0 6 ≤ k ∧ k ≤ fld f 0 6 + fld f 6 6 then (rightOp f F t).getLsbD (k - fld f 0 6) else F.l.val.getLsbD k := by
  have hv : valBfi f F t = BitVec.ofNat 64 (F.l.val.toNat - nbits F.l.val.toNat (fld f 0 6) (fld f 6 6 + 1) * 2 ^ fld f 0 6 +
      (rightOp f F t).toNat % 2 ^ (fld f 6 6 + 1) * 2 ^ fld f 0 6) := rfl
  rw [hv, BitVec.getLsbD_ofNat, testBit_insert, BitVec.testBit_toNat, BitVec.testBit_toNat, ← Nat.add_assoc]
  simp only [Nat.lt_succ_iff (n := fld f 0 6 + fld f 6 6)]
  rcases lt_or_ge k 64 with hk | hk
  · simp only [hk, decide_true, Bool.true_and]
  · simp [show ¬k ≤ fld f 0 6 + fld f 6 6 by omega, BitVec.getLsbD_of_ge _ _ hk]

theorem bitCountAndFieldResults : Claims.BitCountAndFieldResults := fun f _ hs =>
  ⟨values_of_lane hs rfl fun _ _ _ => valPopc_eq,
    ⟨fun F => tyW f.ty - bitLen (leftPat f F), fun F => leadingZeros_spec (leftPat_lt f F), values_of_lane hs rfl fun _ _ _ => rfl⟩,
    ⟨fun F => bitRev (leftPat f F) (tyW f.ty) (tyW f.ty), fun F => bitRev_spec (leftPat f F) (tyW f.ty),
      values_of_lane hs rfl fun _ _ _ => rfl⟩,
    fun h => values_of_lane hs rfl fun _ _ _ => valBfx_unsigned h, fun h => values_of_lane hs rfl fun _ _ _ => valBfx_signed h,
    fun h => ⟨valBfi f, fun _ _ => getLsbD_valBfi h, values_of_lane hs rfl fun _ _ _ => rfl⟩⟩

end

/-! ### Addresses and hashes (R142, R143) -/

/-- AIDX's pointer, in the words of R142: moved within its offset field, or refused. -/
theorem movePtr_cases (p : Word) (d : Int) :
    let c := offWidth p
    let n : Int := ((p.toNat % 2 ^ c.1 : Nat) : Int) + d
    let moves := c.2 = true ∧ 0 ≤ n ∧ n < 2 ^ c.1
    (moves ∧ movePtr p d = some (BitVec.ofNat 64 (p.toNat / 2 ^ c.1 * 2 ^ c.1 + n.toNat))) ∨ (¬moves ∧ movePtr p d = none) := by
  intro c n moves
  have hd : p.toNat / 2 ^ c.1 * 2 ^ c.1 = p.toNat - p.toNat % 2 ^ c.1 := by
    have := Nat.div_add_mod' p.toNat (2 ^ c.1)
    omega
  have hm : movePtr p d = if moves then some (BitVec.ofNat 64 (p.toNat - p.toNat % 2 ^ c.1 + n.toNat)) else none := by
    simp only [movePtr, Bool.and_eq_true, decide_eq_true_eq, and_assoc, moves, n, c]
  rw [hm, hd]
  by_cases h : moves
  · exact .inl ⟨h, if_pos h⟩
  · exact .inr ⟨h, if_neg h⟩

theorem addressIndexAndHashResults : Claims.AddressIndexAndHashResults := by
  intro f s hs
  refine ⟨endsWith_of_body hs rfl fun F _ t => ?_, values_of_lane hs rfl fun _ _ _ => rfl⟩
  obtain ⟨h, hm⟩ | ⟨h, hm⟩ := movePtr_cases F.l.val (rightInt f F t * 2 ^ f.fn.toNat)
  · rw [hm]
    exact (if_pos h).symm
  · rw [hm]
    exact (if_neg h).symm

/-- Settles O42: rotations, counts and fields by their bits, and AIDX by the one test of R142. -/
theorem bitAndIndexResults : Obligations.BitAndIndexResults :=
  ⟨shiftAndRotateResults, bitCountAndFieldResults, addressIndexAndHashResults⟩

end Sys2Proof.Machine


/-!
The results of the floating-point instructions (O3 to O5, O39): arithmetic and conversions are the stated exact values, rounded once;
selection, comparison and class follow the sign of the exact difference.
-/

namespace Sys2Proof.Machine

open Sys2Proof

section
variable {f : Fields} {F : Ready} {t : State}

/-! ### Signs (R152) -/

theorem getLsbD_valFabs {k : Nat} (hk : k < 64) :
    (valFabs f F t).getLsbD k = if k < tyW f.ty - 1 then F.l.val.getLsbD k else false := by
  rw [valFabs, BitVec.getLsbD_ofNat, Nat.testBit_mod_two_pow, leftPat, testBit_lowBits]
  by_cases h : k < tyW f.ty - 1
  · simp [hk, h, show k < tyW f.ty by omega]
  · simp [h]

theorem getLsbD_valFneg {k : Nat} (hk : k < 64) : (valFneg f F t).getLsbD k =
    if k < tyW f.ty - 1 then F.l.val.getLsbD k else if k = tyW f.ty - 1 then !F.l.val.getLsbD k else false := by
  have hw := tyW_pos f.ty
  rw [valFneg, BitVec.getLsbD_ofNat, Nat.testBit_xor, leftPat, testBit_lowBits, Nat.testBit_two_pow]
  rcases lt_trichotomy k (tyW f.ty - 1) with h | h | h
  · simp [hk, h, h.ne', show k < tyW f.ty by omega]
  · simp [hk, ← h, show k < tyW f.ty by omega]
  · simp [h.ne, h.ne', h.not_gt, show ¬k < tyW f.ty by omega]

/-- Settles O39, bit by bit. -/
theorem signOperationsTouchTheSignBitAlone : Obligations.SignOperationsTouchTheSignBitAlone := fun f s hs =>
  ⟨fun F => valFabs f F s, fun F => valFneg f F s, fun _ _ _ hk => ⟨getLsbD_valFabs hk, getLsbD_valFneg hk⟩,
    values_of_lane hs rfl fun _ _ _ => rfl, values_of_lane hs rfl fun _ _ _ => rfl⟩

/-! ### Rounding (R144, R145) -/

theorem modeOf_eq_rdn_iff (n : Nat) : modeOf n = .rdn ↔ n = 2 := by
  unfold modeOf
  split <;> simp_all

theorem isRdn_eq (f : Fields) : isRdn f = decide (f.fn.toNat % 8 = 2) := by
  rw [isRdn, Bool.eq_iff_iff, beq_iff_eq, decide_eq_true_iff]
  exact modeOf_eq_rdn_iff _

theorem fnSat_eq (f : Fields) : fnSat f = decide (f.fn.toNat < 8) := by
  rw [fnSat, Bool.eq_iff_iff, beq_iff_eq, decide_eq_true_iff, Nat.div_eq_zero_iff]
  simp

/-- A result of the instruction's mode and policy is rnd of R145. -/
theorem ofNat_rnd_eq_rounded (T : Fmt) (x : Ex) :
    BitVec.ofNat 64 (rnd T (fnMode f) (fnSat f) (srOf t F 0) x) = Claims.rounded T f F t x := by
  rw [fnSat_eq]
  rfl

theorem rndTy_eq (x : Ex) : rndTy f F t x = Claims.rounded (fmtD f.ty) f F t x := ofNat_rnd_eq_rounded _ x

theorem fnTy_eq (g : Fmt → RMode → Bool → Nat → Ex → Nat) : fnTy f g F t =
    BitVec.ofNat 64 (g (fmtD f.ty) (modeOf (f.fn.toNat % 8)) (decide (f.fn.toNat < 8)) (srOf t F 0) (Claims.xa f F)) := by
  rw [fnTy, fnSat_eq]
  rfl

/-! ### Arithmetic (R148 to R150) -/

/-- The lanes whose P is an operand (R128). -/
theorem values_of_laneP {i : Instr} {f : Fields} {s : State} {g v : Ready → State → Word}
    (hs : ∀ F ∈ s.firing, settle false F = .go)
    (he : exec i s = runLanes (lane true true false f fun F s => emitBoth f F kValue (g F s) s) s)
    (h : ∀ F ∈ s.firing, ∀ t, g F t = v F t) : Claims.Values i f s v :=
  endsWith_of_lane he fun F hF t => (lane_go (hs F hF)).trans (by rw [h F hF t])

theorem valFadd_eq : valFadd f F t =
    Claims.rounded (fmtD f.ty) f F t (Ex.add (decide (f.fn.toNat % 8 = 2)) (Claims.xa f F) (rightEx f F t)) := by
  rw [valFadd, rndTy_eq, isRdn_eq]
  rfl

theorem valFsub_eq : valFsub f F t =
    Claims.rounded (fmtD f.ty) f F t (Ex.add (decide (f.fn.toNat % 8 = 2)) (Claims.xa f F) (rightEx f F t).negate) := by
  rw [valFsub, rndTy_eq, isRdn_eq]
  rfl

theorem valFfma_eq : valFfma f F t = Claims.rounded (fmtD f.ty) f F t (Ex.add (decide (f.fn.toNat % 8 = 2))
    (Ex.mul (Claims.xa f F) (rightEx f F t)) (decodeF (fmtD f.ty) (lowBits f.ty (pVal F)))) := by
  rw [valFfma, rndTy_eq, isRdn_eq]
  rfl

theorem valFdot2_eq : valFdot2 f F t = Claims.rounded .f32 f F t (Ex.sum (decide (f.fn.toNat % 8 = 2))
    ([Ex.mul (packedEx f.ty F.l.val 0) (packedEx f.ty (rightOp f F t) 0),
      Ex.mul (packedEx f.ty F.l.val 1) (packedEx f.ty (rightOp f F t) 1)] ++
     match F.p with | none => [] | some p => [decodeF .f32 (p.val.toNat % 2 ^ 32)])) := by
  rw [valFdot2, ofNat_rnd_eq_rounded, isRdn_eq]
  cases F.p <;> rfl

theorem valFmul_eq : valFmul f F t = Claims.rounded (fmtD f.ty) f F t (Ex.mul (Claims.xa f F) (rightEx f F t)) := rndTy_eq _

theorem valFdiv_eq : valFdiv f F t = Claims.rounded (fmtD f.ty) f F t (Ex.div (Claims.xa f F) (rightEx f F t)) := rndTy_eq _

theorem valFscale_eq : valFscale f F t = Claims.rounded (fmtD f.ty) f F t
    (Ex.scale (Claims.xa f F) (max (-8192) (min 8192 (rightOp f F t).toInt))) := rndTy_eq _

theorem fnTy_nan {g : Fmt → RMode → Bool → Nat → Ex → Nat} (hg : ∀ T m sat r, g T m sat r .nan = T.qnan)
    (hx : Claims.xa f F = .nan) :
    fnTy f g F t = BitVec.ofNat 64 (fmtD f.ty).qnan := by
  rw [fnTy_eq, hx, hg]

theorem nanOperandGivesTheCanonicalNan {f : Fields} {s : State} (hs : Claims.Computes true s)
    (hx : ∀ F ∈ s.firing, Claims.xa f F = .nan) :
    ∀ mk ∈ [Instr.fadd, .fsub, .fmul, .fdiv, .fsqrt, .frcp, .frsq, .fexp2, .flog2, .fsin, .fcos, .ftanh, .fscale],
      Claims.Values (mk f) f s fun _ _ => BitVec.ofNat 64 (fmtD f.ty).qnan := by
  refine List.forall_mem_cons.2 ⟨values_of_lane hs rfl fun F hF _ => by rw [valFadd_eq, hx F hF]; rfl, ?_⟩
  refine List.forall_mem_cons.2 ⟨values_of_lane hs rfl fun F hF _ => by rw [valFsub_eq, hx F hF]; rfl, ?_⟩
  refine List.forall_mem_cons.2 ⟨values_of_lane hs rfl fun F hF _ => by rw [valFmul_eq, hx F hF]; rfl, ?_⟩
  refine List.forall_mem_cons.2 ⟨values_of_lane hs rfl fun F hF _ => by rw [valFdiv_eq, hx F hF]; rfl, ?_⟩
  iterate 8 refine List.forall_mem_cons.2 ⟨values_of_lane hs rfl fun F hF _ => fnTy_nan (fun _ _ _ _ => rfl) (hx F hF), ?_⟩
  exact List.forall_mem_singleton.2 (values_of_lane hs rfl fun F hF _ => by rw [valFscale_eq, hx F hF]; rfl)

/-- Settles O3: every result is rnd of the stated exact value, which is NaN where the left operand is. -/
theorem floatArithmeticRoundsTheExactValueOnce : Obligations.FloatArithmeticRoundsTheExactValueOnce := fun _ _ =>
  ⟨fun hs => ⟨values_of_lane hs rfl fun _ _ _ => valFadd_eq, values_of_lane hs rfl fun _ _ _ => valFsub_eq,
      values_of_lane hs rfl fun _ _ _ => valFmul_eq, nanOperandGivesTheCanonicalNan hs⟩,
    fun hs => ⟨values_of_laneP hs rfl fun _ _ _ => valFfma_eq, values_of_laneP hs rfl fun _ _ _ => valFdot2_eq⟩⟩

/-! ### Minimum and maximum (R151) -/

theorem rightBits_operand (h : f.src ≠ .immd) : rightBits f F t = Claims.pb f F t := by
  unfold rightBits
  split
  next hi => exact absurd hi h
  next => rfl

theorem rightBits_immediate (h : f.src = .immd) : rightBits f F t = rnd (fmtD f.ty) .rne true 0 (Ex.ofInt f.imm.toInt) := by
  simp [rightBits, rightEx, h]

theorem isNan_iff {x : Ex} : x.isNan = true ↔ x = .nan := by
  cases x <;> simp [Ex.isNan]

/-- The signed numerator of the difference of two finite values over their common scale. -/
def diffNum (s : Bool) (a d : Nat) (e : Int) (t : Bool) (b c : Nat) (k : Int) : Int :=
  let g := min e k
  (if s then -1 else 1) * ((a * c * 2 ^ (e - g).toNat : Nat) : Int) + (if !t then -1 else 1) * ((b * d * 2 ^ (k - g).toNat : Nat) : Int)

theorem addFin_eq (z s : Bool) (a d : Nat) (e : Int) (t : Bool) (b c : Nat) (k : Int) : addFin z s a d e (!t) b c k =
    if diffNum s a d e t b c k = 0 then .fin z 0 1 0
    else .fin (decide (diffNum s a d e t b c k < 0)) (diffNum s a d e t b c k).natAbs (d * c) (min e k) :=
  if_congr beq_iff_eq rfl rfl

theorem diffNum_swap (s : Bool) (a d : Nat) (e : Int) (t : Bool) (b c : Nat) (k : Int) :
    diffNum t b c k s a d e = -diffNum s a d e t b c k := by
  cases s <;> cases t <;> simp [diffNum, min_comm k e, add_comm]

/-- Two finite values compare as the numerator of their difference does with 0. -/
theorem cmp_fin (s : Bool) (a d : Nat) (e : Int) (t : Bool) (b c : Nat) (k : Int) :
    Ex.cmp (.fin s a d e) (.fin t b c k) = compare (diffNum s a d e t b c k) 0 := by
  simp only [Ex.cmp, Ex.negate, Ex.add, addFin_eq]
  rcases lt_trichotomy (diffNum s a d e t b c k) 0 with h | h | h
  · obtain ⟨n, hn⟩ := Nat.exists_eq_succ_of_ne_zero (Int.natAbs_ne_zero.2 h.ne)
    rw [if_neg h.ne, hn, compare_lt_iff_lt.2 h]
    simp [h]
  · rw [if_pos h, h]
    rfl
  · obtain ⟨n, hn⟩ := Nat.exists_eq_succ_of_ne_zero (Int.natAbs_ne_zero.2 h.ne')
    rw [if_neg h.ne', hn, compare_gt_iff_gt.2 h]
    simp [h.not_gt]

theorem compare_neg_zero (i : Int) : compare (-i) 0 = (compare i 0).swap := by
  rcases lt_trichotomy i 0 with h | rfl | h
  · rw [compare_lt_iff_lt.2 h, compare_gt_iff_gt.2 (Int.neg_pos.2 h)]
    rfl
  · rfl
  · rw [compare_gt_iff_gt.2 h, compare_lt_iff_lt.2 (Int.neg_neg_of_pos h)]
    rfl

/-- Comparing the other way round gives the opposite order. -/
theorem cmp_swap (x y : Ex) : Ex.cmp y x = (Ex.cmp x y).swap := by
  cases x with
  | nan => cases y with
    | nan => rfl
    | inf t => cases t <;> rfl
    | fin => rfl
  | inf s => cases y with
    | nan => cases s <;> rfl
    | inf t => cases s <;> cases t <;> rfl
    | fin => cases s <;> rfl
  | fin s a d e => cases y with
    | nan => rfl
    | inf t => cases t <;> rfl
    | fin t b c k => rw [cmp_fin, cmp_fin, diffNum_swap, compare_neg_zero]

theorem fBelow_of_lt {x y : Ex} (h : Ex.cmp x y = .lt) : fBelow x y = true := by simp [fBelow, h]

theorem fBelow_of_gt {x y : Ex} (h : Ex.cmp x y = .gt) : fBelow x y = false := by simp [fBelow, h]

/-- The order of R151 tells equal values apart by the sign of a zero alone. -/
theorem fBelow_of_eq {x y : Ex} (h : Ex.cmp x y = .eq) : fBelow x y = true ↔ x.isZero = true ∧ x.neg = true ∧ y.neg = false := by
  simp [fBelow, h, and_assoc]

section
variable {y : Ty} {mx nan : Bool} {p q : Nat}

theorem fMinMax_both_nan (hp : decodeF (fmtD y) p = .nan) (hq : decodeF (fmtD y) q = .nan) : fMinMax y mx nan p q = (fmtD y).qnan := by
  simp [fMinMax, hp, hq, Ex.isNan]

/-- The .NAN form gives the canonical NaN for any NaN operand. -/
theorem fMinMax_strict (h : decodeF (fmtD y) p = .nan ∨ decodeF (fmtD y) q = .nan) : fMinMax y mx true p q = (fmtD y).qnan := by
  simp [fMinMax, isNan_iff, h]

/-- The plain form takes the operand that is not NaN. -/
theorem fMinMax_left_nan (hp : decodeF (fmtD y) p = .nan) (hq : decodeF (fmtD y) q ≠ .nan) : fMinMax y mx false p q = q := by
  simp [fMinMax, isNan_iff, hp, hq]

theorem fMinMax_right_nan (hp : decodeF (fmtD y) p ≠ .nan) (hq : decodeF (fmtD y) q = .nan) : fMinMax y mx false p q = p := by
  simp [fMinMax, isNan_iff, hp, hq]

theorem fMinMax_min (hp : decodeF (fmtD y) p ≠ .nan) (hq : decodeF (fmtD y) q ≠ .nan) :
    fMinMax y false nan p q = if fBelow (decodeF (fmtD y) q) (decodeF (fmtD y) p) then q else p := by
  simp [fMinMax, isNan_iff, hp, hq]

theorem fMinMax_max (hp : decodeF (fmtD y) p ≠ .nan) (hq : decodeF (fmtD y) q ≠ .nan) :
    fMinMax y true nan p q = if fBelow (decodeF (fmtD y) p) (decodeF (fmtD y) q) then q else p := by
  simp [fMinMax, isNan_iff, hp, hq]

end

/-- What R151 asks of the pattern `v` that stands for one of the patterns `p` and `q` of two values: `p` where they compare as `first`, `q`
where they compare the other way round or are equal and `zero` tells them apart, and what the form gives for NaN operands. -/
def Selects (T : Fmt) (fn : BitVec 4) (first : Ordering) (zero : Prop) [Decidable zero] (p q v : Nat) : Prop :=
  let x := decodeF T p
  let y := decodeF T q
  (x = .nan → y = .nan → v = T.qnan) ∧
  (fn = 1 → x = .nan ∨ y = .nan → v = T.qnan) ∧
  (fn = 0 → x = .nan → y ≠ .nan → v = q) ∧ (fn = 0 → x ≠ .nan → y = .nan → v = p) ∧
  (x ≠ .nan → y ≠ .nan → Ex.cmp x y = first → v = p) ∧
  (x ≠ .nan → y ≠ .nan → Ex.cmp x y = first.swap → v = q) ∧
  (x ≠ .nan → y ≠ .nan → Ex.cmp x y = .eq → v = if zero then q else p)

/-- The NaN rules of FMIN and FMAX are the same; between two numbers `below` tells whether `q` is taken. -/
theorem fMinMax_selects {y : Ty} {mx : Bool} {fn : BitVec 4} {p q : Nat} {first : Ordering} {zero : Prop} [Decidable zero] {below : Bool}
    (hb : decodeF (fmtD y) p ≠ .nan → decodeF (fmtD y) q ≠ .nan → fMinMax y mx (fn == 1) p q = if below then q else p)
    (hfirst : Ex.cmp (decodeF (fmtD y) p) (decodeF (fmtD y) q) = first → below = false)
    (hsecond : Ex.cmp (decodeF (fmtD y) p) (decodeF (fmtD y) q) = first.swap → below = true)
    (hzero : Ex.cmp (decodeF (fmtD y) p) (decodeF (fmtD y) q) = .eq → (below = true ↔ zero)) :
    Selects (fmtD y) fn first zero p q (fMinMax y mx (fn == 1) p q) := by
  refine ⟨fMinMax_both_nan, fun hf h => ?_, fun hf hx hy => ?_, fun hf hx hy => ?_, fun hx hy h => ?_, fun hx hy h => ?_,
    fun hx hy h => ?_⟩
  · subst hf
    exact fMinMax_strict h
  · subst hf
    exact fMinMax_left_nan hx hy
  · subst hf
    exact fMinMax_right_nan hx hy
  · exact (hb hx hy).trans (if_neg (Bool.eq_false_iff.1 (hfirst h)))
  · exact (hb hx hy).trans (if_pos (hsecond h))
  · exact (hb hx hy).trans (if_congr (hzero h) rfl rfl)

theorem fmin_selects (y : Ty) (fn : BitVec 4) (p q : Nat) :
    Selects (fmtD y) fn .lt
      ((decodeF (fmtD y) q).isZero = true ∧ (decodeF (fmtD y) q).neg = true ∧ (decodeF (fmtD y) p).neg = false)
      p q (fMinMax y false (fn == 1) p q) := by
  have hswap := cmp_swap (decodeF (fmtD y) p) (decodeF (fmtD y) q)
  exact fMinMax_selects fMinMax_min (fun h => fBelow_of_gt (by rw [hswap, h]; rfl)) (fun h => fBelow_of_lt (by rw [hswap, h]; rfl))
    fun h => fBelow_of_eq (by rw [hswap, h]; rfl)

theorem fmax_selects (y : Ty) (fn : BitVec 4) (p q : Nat) :
    Selects (fmtD y) fn .gt
      ((decodeF (fmtD y) p).isZero = true ∧ (decodeF (fmtD y) p).neg = true ∧ (decodeF (fmtD y) q).neg = false)
      p q (fMinMax y true (fn == 1) p q) :=
  fMinMax_selects fMinMax_max fBelow_of_gt fBelow_of_lt fBelow_of_eq

/-! ### Sign, comparison and class (R152 to R154) -/

theorem testBit_fnegPat (k : Nat) : (leftPat f F ^^^ 2 ^ (tyW f.ty - 1)).testBit k =
    if k = tyW f.ty - 1 then !(Claims.pa f F).testBit k else (Claims.pa f F).testBit k := by
  have hx : (leftPat f F ^^^ 2 ^ (tyW f.ty - 1)).testBit k = ((Claims.pa f F).testBit k ^^ decide (tyW f.ty - 1 = k)) := by
    rw [Nat.testBit_xor, Nat.testBit_two_pow]
    rfl
  rw [hx]
  by_cases h : k = tyW f.ty - 1
  · simp [h]
  · simp [h, Ne.symm h]

/-- A NaN operand makes NE and UN true and every other relation false. -/
theorem fRelation_nan {n : Nat} {x y : Ex} (h : x = .nan ∨ y = .nan) : fRelation n x y = true ↔ n = 1 ∨ n = 6 := by
  have hu : (x.isNan || y.isNan) = true := by simpa [isNan_iff] using h
  unfold fRelation
  simp only [hu]
  split <;> simp_all

/-- The relations of R153 between two numbers. -/
theorem fRelation_numbers {n : Nat} {x y : Ex} (hn : n ≤ 7) (hx : x ≠ .nan) (hy : y ≠ .nan) : fRelation n x y = true ↔
    (n = 0 ∧ Ex.cmp x y = .eq) ∨ (n = 1 ∧ Ex.cmp x y ≠ .eq) ∨ (n = 2 ∧ Ex.cmp x y = .lt) ∨
      (n = 3 ∧ Ex.cmp x y ≠ .gt) ∨ (n = 4 ∧ Ex.cmp x y = .gt) ∨ (n = 5 ∧ Ex.cmp x y ≠ .lt) ∨ n = 7 := by
  have hu : (x.isNan || y.isNan) = false := by simp [Bool.eq_false_iff, isNan_iff, hx, hy]
  interval_cases n <;> simp [fRelation, relation, hu]

theorem classBit_spec (T : Fmt) (b : Nat) :
    (decodeF T b = .nan → classBit T b = 8) ∧ (∀ n, decodeF T b = .inf n → classBit T b = if n then 0 else 7) ∧
    (∀ n m d e, decodeF T b = .fin n m d e →
      let low := b % 2 ^ (T.width - 1) < 2 ^ T.mant
      (m = 0 → classBit T b = if n then 3 else 4) ∧ (m ≠ 0 → low → classBit T b = if n then 2 else 5) ∧
      (m ≠ 0 → ¬low → classBit T b = if n then 1 else 6)) := by
  refine ⟨fun h => ?_, fun n h => ?_, fun n m d e h => ⟨fun hm => ?_, fun hm hl => ?_, fun hm hl => ?_⟩⟩
  · simp [classBit, h]
  · simp [classBit, h]
  · simp [classBit, h, hm]
  · simp [classBit, h, hm, magOf, hl]
  · simp [classBit, h, hm, magOf, hl]

/-- Settles O4: FMIN and FMAX have the same rules but for their order, which comparing the other way round inverts. -/
theorem floatSelectionSignAndComparisonResults : Obligations.FloatSelectionSignAndComparisonResults := by
  intro f s hs
  refine ⟨fun h _ _ => rightBits_operand h, fun h _ _ => rightBits_immediate h, ?fmin, ?fmax, ?fabs, ?fneg,
    fun n hf hn => ?fcmp, ?fclass⟩
  case fmin => exact ⟨_, values_of_lane hs rfl fun _ _ _ => rfl, fun F t => fmin_selects f.ty f.fn (leftPat f F) (rightBits f F t)⟩
  case fmax => exact ⟨_, values_of_lane hs rfl fun _ _ _ => rfl, fun F t => fmax_selects f.ty f.fn (leftPat f F) (rightBits f F t)⟩
  case fabs => exact values_of_lane hs rfl fun _ _ _ => rfl
  case fneg => exact ⟨_, values_of_lane hs rfl fun _ _ _ => rfl, fun _ _ => testBit_fnegPat _⟩
  case fcmp =>
    refine ⟨fun F t => fRelation n (leftEx f F) (rightEx f F t), values_of_lane hs rfl fun F _ t => ?_,
      fun F t => ⟨fRelation_nan, fRelation_numbers hn⟩⟩
    rw [valFcmp, fn_toNat_eq hf (by omega)]
    rfl
  case fclass => exact ⟨_, values_of_lane hs rfl fun _ _ _ => rfl, fun F => classBit_spec _ (leftPat f F)⟩

/-! ### Conversions, scaling and quantisation (R155 to R158, R160 to R162) -/

/-- `IMM` names the result type, the mode and the policy of a conversion (R144, R147). -/
theorem immTy_eq (f : Fields) : immTy f = tyOf (BitVec.ofNat 4 (f.imm.toNat % 16)) := by
  simp [immTy, fld, nbits]

theorem immMode_eq (f : Fields) : immMode f = modeOf (f.imm.toNat / 16 % 8) := by
  simp [immMode, fld, nbits]

theorem immSat_eq (f : Fields) : immSat f = decide (f.imm.toNat / 128 % 2 = 0) := by
  simp [immSat, fld, nbits]
  rfl

theorem valFcvt_eq : valFcvt f F t = BitVec.ofNat 64 (rnd (fmtD (tyOf (BitVec.ofNat 4 (f.imm.toNat % 16))))
    (modeOf (f.imm.toNat / 16 % 8)) (decide (f.imm.toNat / 128 % 2 = 0)) (srOf t F 0) (Claims.xa f F)) := by
  rw [valFcvt, immTy_eq, immMode_eq, immSat_eq]
  rfl

theorem valFtoi_eq : valFtoi f F t = wrapTy (tyOf (BitVec.ofNat 4 (f.imm.toNat % 16)))
    (rndClamp (modeOf (f.imm.toNat / 16 % 8)) (srOf t F 0) (tyMin (tyOf (BitVec.ofNat 4 (f.imm.toNat % 16))))
      (tyMax (tyOf (BitVec.ofNat 4 (f.imm.toNat % 16)))) (Claims.xa f F)) := by
  rw [valFtoi, immTy_eq, immMode_eq]
  rfl

theorem valItof_eq : valItof f F t = BitVec.ofNat 64 (rnd (fmtD (tyOf (BitVec.ofNat 4 (f.imm.toNat % 16))))
    (modeOf (f.imm.toNat / 16 % 8)) (decide (f.imm.toNat / 128 % 2 = 0)) (srOf t F 0) (Ex.ofInt (Claims.a f F))) := by
  rw [valItof, immTy_eq, immMode_eq, immSat_eq]
  rfl

/-- FRND, case by case (R158): what is integral already keeps its pattern, and a zero result keeps the sign. -/
theorem frndBits_eq (T : Fmt) (m : RMode) (r b : Nat) : frndBits T m r b =
    match decodeF T b with
    | .nan => T.qnan
    | .inf _ => b
    | .fin n u d e =>
      if u = 0 then b else if rndInt m r n u d e = 0 then signed T n 0 else rnd T .rne true 0 (Ex.ofInt (rndInt m r n u d e)) := by
  unfold frndBits
  cases decodeF T b with
  | nan => rfl
  | inf n => rfl
  | fin n u d e => simp

theorem valQuant_float (h : f.ty ≠ .i8) : valQuant f F t = Claims.rounded (fmtD f.ty) f F t
    (Ex.mul (decodeF .f32 (F.l.val.toNat % 2 ^ 32)) (decodeF .f32 ((rightOp f F t).toNat % 2 ^ 32))) := by
  rw [← rndTy_eq]
  exact if_neg (by simpa using h)

theorem valQuant_i8 (h : f.ty = .i8) : valQuant f F t = wrapTy .i8 (rndClamp (modeOf (f.fn.toNat % 8)) (srOf t F 0) (-128) 127
    (Ex.mul (decodeF .f32 (F.l.val.toNat % 2 ^ 32)) (decodeF .f32 ((rightOp f F t).toNat % 2 ^ 32)))) :=
  if_pos (by simp [h])

theorem valDeq_float (h : f.ty ≠ .i8) : valDeq f F t = Claims.rounded .f32 f F t
    (Ex.mul (Claims.xa f F) (decodeF .f32 ((rightOp f F t).toNat % 2 ^ 32))) := by
  rw [valDeq, if_neg (by simpa using h), ofNat_rnd_eq_rounded]
  rfl

theorem valDeq_i8 (h : f.ty = .i8) : valDeq f F t = Claims.rounded .f32 f F t
    (Ex.mul (Ex.ofInt (Claims.a f F)) (decodeF .f32 ((rightOp f F t).toNat % 2 ^ 32))) := by
  rw [valDeq, if_pos (by simp [h]), ofNat_rnd_eq_rounded]
  rfl

/-- Settles O5: one equation per conversion, between its word and the stated one. -/
theorem floatConversionResults : Obligations.FloatConversionResults := by
  intro f s hs
  refine ⟨?fcvt, ?ftoi, ?itof, ?frnd, ?fscale, fun h => ?quant, fun h => ?quantI8, fun h => ?deq, fun h => ?deqI8⟩
  case fcvt => exact values_of_lane hs rfl fun _ _ _ => valFcvt_eq
  case ftoi => exact values_of_lane hs rfl fun _ _ _ => valFtoi_eq
  case itof => exact values_of_lane hs rfl fun _ _ _ => valItof_eq
  case frnd => exact values_of_lane hs rfl fun _ _ _ => congrArg (BitVec.ofNat 64) (frndBits_eq ..)
  case fscale => exact values_of_lane hs rfl fun _ _ _ => valFscale_eq
  case quant => exact values_of_lane hs rfl fun _ _ _ => valQuant_float h
  case quantI8 => exact values_of_lane hs rfl fun _ _ _ => valQuant_i8 h
  case deq => exact values_of_lane hs rfl fun _ _ _ => valDeq_float h
  case deqI8 => exact values_of_lane hs rfl fun _ _ _ => valDeq_i8 h

end

end Sys2Proof.Machine


/-!
The functions of R159 (O6): the special operands of its table, the exact results of FEXP2 and FLOG2, and the square roots, which round
once the root itself or a value that agrees with it in 1,100 binary digits.
-/

namespace Sys2Proof.Machine

open Sys2Proof

section
variable {T : Fmt} {m : RMode} {sat : Bool} {r : Nat}

/-! ### Exact results of FEXP2 and FLOG2 -/

/-- The highest bit of a dyadic value below 2^k stands below k. -/
theorem log2_add_lt {a k : Nat} {e : Int} (ha : a ≠ 0) (h : a * 2 ^ e.toNat < 2 ^ k * 2 ^ (-e).toNat) : (a.log2 : Int) + e < k := by
  have hl : 2 ^ a.log2 ≤ a := Nat.log2_self_le ha
  have hlt : 2 ^ (a.log2 + e.toNat) < 2 ^ (k + (-e).toNat) := by
    rw [pow_add, pow_add]
    exact (Nat.mul_le_mul_right _ hl).trans_lt h
  have := (Nat.pow_lt_pow_iff_right one_lt_two).1 hlt
  omega

/-- FEXP2 of ± j, a natural number below 2^15, in whatever form the operand has. -/
theorem fExp2_of_mul_eq {n : Bool} {a j : Nat} {e : Int} (ha : a ≠ 0) (hj : j < 2 ^ 15) (h : j * 2 ^ (-e).toNat = a * 2 ^ e.toNat) :
    fExp2 T m sat r (.fin n a 1 e) = rnd T m sat r (.fin false 1 1 (if n then -(j : Int) else j)) := by
  have hsmall : ¬(a.log2 : Int) + e ≥ 15 :=
    not_le.2 (log2_add_lt (k := 15) ha (h ▸ Nat.mul_lt_mul_of_pos_right hj (Nat.two_pow_pos _)))
  rcases le_or_gt 0 e with he | he
  · have hz : (-e).toNat = 0 := by omega
    rw [hz, pow_zero, mul_one] at h
    simp [fExp2, ha, hsmall, he, h]
  · have hz : e.toNat = 0 := by omega
    rw [hz, pow_zero, mul_one] at h
    subst h
    simp [fExp2, ha, hsmall, not_le.2 he]

theorem fExp2_integer {n : Bool} {a : Nat} {e i : Int} (ha : a ≠ 0) (hl : -32768 < i) (hu : i < 32768)
    (hi : i * 2 ^ (-e).toNat = (if n then -(a : Int) else a) * 2 ^ e.toNat) :
    fExp2 T m sat r (.fin n a 1 e) = rnd T m sat r (.fin false 1 1 i) := by
  have habs : i.natAbs * 2 ^ (-e).toNat = a * 2 ^ e.toNat := by
    have := congrArg Int.natAbs hi
    cases n <;> simpa [Int.natAbs_mul, Int.natAbs_pow] using this
  have hpos : (0 : Int) < 2 ^ (-e).toNat := by positivity
  have hsign : (if n then -(i.natAbs : Int) else i.natAbs) = i := by
    cases n with
    | true =>
      have : i ≤ 0 := nonpos_of_mul_nonpos_left (by rw [hi]; simp) hpos
      rw [if_pos rfl]
      omega
    | false =>
      have : 0 ≤ i := nonneg_of_mul_nonneg_left (by rw [hi]; simp) hpos
      rw [if_neg Bool.false_ne_true]
      omega
  rw [fExp2_of_mul_eq ha (by omega) habs, hsign]

/-- FLOG2 of a power of two is its exponent. -/
theorem fLog2_two_pow (k : Nat) (e : Int) : fLog2 T m sat r (.fin false (2 ^ k) 1 e) = rnd T m sat r (Ex.ofInt (k + e)) := by
  simp [fLog2, Nat.log2_two_pow]

/-! ### Square roots -/

/-- The value that FSQRT rounds: the root itself where it is rational, else what its enclosure gives at 1,200 bits. FRSQ rounds that of
the reciprocal. -/
def rootEx (a d : Nat) (e : Int) : Ex := (sqrtExact a d e).getD (encSqrt 1200 a d e).1

theorem fSqrt_eq {a d : Nat} {e : Int} (ha : a ≠ 0) : fSqrt T m sat r (.fin false a d e) = rnd T m sat r (rootEx a d e) := by
  simp only [fSqrt, rootEx]
  cases sqrtExact a d e <;> simp [ha, rndEnclosed]

theorem fRsq_eq {a d : Nat} {e : Int} (ha : a ≠ 0) : fRsq T m sat r (.fin false a d e) = rnd T m sat r (rootEx d a (-e)) := by
  simp only [fRsq, rootEx]
  cases sqrtExact d a (-e) <;> simp [ha, rndEnclosed]

/-- `v` is a floor of the square root of a / d × 2^e, in units of 2^k / c: exact, or of at least `bits` binary digits. -/
def FloorOfRoot (a d : Nat) (e : Int) (bits : Nat) (v : Ex) : Prop :=
  ∃ n c k, v = .fin false n c k ∧ c ≠ 0 ∧ (d = 1 → c = 1) ∧ 2 * k ≤ e ∧
    let x := a * c ^ 2 * 2 ^ (e - 2 * k).toNat
    d * n ^ 2 ≤ x ∧ x < d * (n + 1) ^ 2 ∧ (2 ^ bits ≤ n ∨ d * n ^ 2 = x)

section
variable (a d : Nat) (h : Int) {b : Nat} (hb : b < 2)
include hb

/-- The exponent made even, which both square root operations begin with. -/
theorem evenExponent :
    (if (2 * h + b) % 2 = 0 then a else 2 * a) = a * 2 ^ b ∧ (if (2 * h + b) % 2 = 0 then 2 * h + b else 2 * h + b - 1) = 2 * h := by
  interval_cases b
  · simp
  · simp [Int.add_emod, mul_comm]

theorem sqrtExact_eq : sqrtExact a d (2 * h + b) =
    if (a * 2 ^ b).sqrt * (a * 2 ^ b).sqrt = a * 2 ^ b ∧ d.sqrt * d.sqrt = d then some (.fin false (a * 2 ^ b).sqrt d.sqrt h)
    else none := by
  obtain ⟨ha, he⟩ := evenExponent a h hb
  simp only [sqrtExact, ha, he, Bool.and_eq_true, beq_iff_eq, Int.mul_ediv_cancel_left h two_ne_zero]

theorem encSqrt_eq (p : Nat) : (encSqrt p a d (2 * h + b)).1 = .fin false (a * 2 ^ b * 2 ^ (2 * p) / d).sqrt 1 (h - p) := by
  obtain ⟨ha, he⟩ := evenExponent a h hb
  simp only [encSqrt, beq_iff_eq, ha, he, Int.mul_ediv_cancel_left h two_ne_zero]

end

/-- The floor of a quotient's root is the root's floor. -/
theorem sqrt_div_bounds (x : Nat) {d : Nat} (hd : 0 < d) : d * (x / d).sqrt ^ 2 ≤ x ∧ x < d * ((x / d).sqrt + 1) ^ 2 := by
  constructor
  · exact (Nat.mul_le_mul_left d (Nat.sqrt_le' _)).trans (Nat.mul_div_le x d)
  · exact (Nat.lt_mul_div_succ x hd).trans_le (Nat.mul_le_mul_left d (Nat.lt_succ_sqrt' _))

/-- A long dividend leaves a long root. -/
theorem two_pow_le_sqrt_div {x d p q l : Nat} (hd : 0 < d) (hl : d < 2 ^ l) (hx : 2 ^ q ≤ x) (hq : p + p + l ≤ q) :
    2 ^ p ≤ (x / d).sqrt := by
  refine Nat.le_sqrt.2 ((Nat.le_div_iff_mul_le hd).2 ?_)
  calc 2 ^ p * 2 ^ p * d ≤ 2 ^ p * 2 ^ p * 2 ^ l := Nat.mul_le_mul_left _ hl.le
    _ = 2 ^ (p + p + l) := by rw [pow_add, pow_add]
    _ ≤ 2 ^ q := Nat.pow_le_pow_right two_pos hq
    _ ≤ x := hx

theorem rootEx_floor {a d : Nat} (ha : 0 < a) (hd : 0 < d) (hlt : d < 2 ^ 64) (e : Int) : FloorOfRoot a d e 1100 (rootEx a d e) := by
  obtain ⟨h, b, hb, rfl⟩ : ∃ (h : Int) (b : Nat), b < 2 ∧ e = 2 * h + b := ⟨e / 2, (e % 2).toNat, by omega, by omega⟩
  rw [rootEx, sqrtExact_eq a d h hb]
  split
  next hx =>
    obtain ⟨hn, hc⟩ := hx
    have hk : (2 * h + b - 2 * h).toNat = b := by omega
    refine ⟨_, _, h, rfl, ?_, ?_, by omega, ?_⟩
    · rintro h0
      rw [h0] at hc
      omega
    · rintro rfl
      exact Nat.sqrt_one
    · have hxn : d * (a * 2 ^ b).sqrt ^ 2 = a * d.sqrt ^ 2 * 2 ^ b := by
        rw [pow_two, pow_two, hn, hc]
        ring
      rw [hk]
      refine ⟨hxn.le, hxn.ge.trans_lt ?_, .inr hxn⟩
      exact Nat.mul_lt_mul_of_pos_left (Nat.pow_lt_pow_left (Nat.lt_succ_self _) two_ne_zero) hd
  next =>
    have hk : (2 * h + b - 2 * (h - (1200 : Nat))).toNat = b + 2 * 1200 := by omega
    have hx : a * 1 ^ 2 * 2 ^ (b + 2 * 1200) = a * 2 ^ b * 2 ^ (2 * 1200) := by
      rw [one_pow, mul_one, pow_add, mul_assoc]
    refine ⟨_, 1, _, encSqrt_eq a d h hb 1200, one_ne_zero, fun _ => rfl, by omega, ?_⟩
    rw [hk, hx]
    obtain ⟨hl, hu⟩ := sqrt_div_bounds (a * 2 ^ b * 2 ^ (2 * 1200)) hd
    refine ⟨hl, hu, .inl (two_pow_le_sqrt_div hd hlt ?_ (by norm_num : 1100 + 1100 + 64 ≤ 2 * 1200))⟩
    exact Nat.le_mul_of_pos_left _ (Nat.mul_pos ha (Nat.two_pow_pos b))

/-! ### Special operands -/

theorem rnd_fin_zero (n : Bool) (d : Nat) (e : Int) : rnd T m sat r (.fin n 0 d e) = signed T n 0 := by
  simp [rnd]

/-- A row of R159's table: the values that a function rounds for −∞, −0, +0 and +∞. -/
def TableRow (g : Fmt → RMode → Bool → Nat → Ex → Nat) (ni zn zp pi : Ex) : Prop := ∀ T m sat r,
  g T m sat r (.inf true) = rnd T m sat r ni ∧ (∀ d e, g T m sat r (.fin true 0 d e) = rnd T m sat r zn) ∧
  (∀ d e, g T m sat r (.fin false 0 d e) = rnd T m sat r zp) ∧ g T m sat r (.inf false) = rnd T m sat r pi

theorem fSqrt_row : TableRow fSqrt .nan (.dy true 0 0) (.dy false 0 0) (.inf false) := fun _ _ _ _ => by
  simp [fSqrt, Ex.dy, rnd_fin_zero]

theorem fRcp_row : TableRow fRcp (.dy true 0 0) (.inf true) (.inf false) (.dy false 0 0) := fun _ _ _ _ => by
  simp [fRcp, Ex.div, Ex.one, Ex.dy]

theorem fRsq_row : TableRow fRsq .nan (.inf true) (.inf false) (.dy false 0 0) := fun _ _ _ _ => by
  simp [fRsq, Ex.zero, Ex.dy]

theorem fExp2_row : TableRow fExp2 (.dy false 0 0) .one .one (.inf false) := fun _ _ _ _ => by
  simp [fExp2, Ex.zero, Ex.dy]

theorem fLog2_row : TableRow fLog2 .nan (.inf true) (.inf true) (.inf false) := fun _ _ _ _ => by
  simp [fLog2]

theorem fSin_row : TableRow (fTrig false) .nan (.dy true 0 0) (.dy false 0 0) .nan := fun _ _ _ _ => by
  simp [fTrig, Ex.dy, rnd_fin_zero]

theorem fCos_row : TableRow (fTrig true) .nan .one .one .nan := fun _ _ _ _ => by
  simp [fTrig]

theorem fTanh_row : TableRow fTanh (.dy true 1 0) (.dy true 0 0) (.dy false 0 0) (.dy false 1 0) := fun _ _ _ _ => by
  simp [fTanh, Ex.dy, rnd_fin_zero]

section
variable {n : Nat} (d : Nat) (e : Int) (hn : n ≠ 0)
include hn

theorem fSqrt_negative : fSqrt T m sat r (.fin true n d e) = T.qnan := by simp [fSqrt, hn, rnd]

theorem fRsq_negative : fRsq T m sat r (.fin true n d e) = T.qnan := by simp [fRsq, hn, rnd]

theorem fLog2_negative : fLog2 T m sat r (.fin true n d e) = T.qnan := by simp [fLog2, hn, rnd]

end

end

/-! ### The steps -/

section
variable {f : Fields} {s : State} {i : Instr} {g : Fmt → RMode → Bool → Nat → Ex → Nat}

/-- A function's step, where the function rounds the stated value of each operand. -/
theorem values_of_fn (hs : Claims.Computes true s) (he : exec i s = runLanes (valueLane f (fnTy f g)) s) {v : Ready → Ex}
    (h : ∀ F ∈ s.firing, ∀ m sat r, g (fmtD f.ty) m sat r (Claims.xa f F) = rnd (fmtD f.ty) m sat r (v F)) :
    Claims.Values i f s fun F t => Claims.rounded (fmtD f.ty) f F t (v F) :=
  values_of_lane hs he fun F hF _ => by rw [fnTy_eq, h F hF]; rfl

/-- What one instruction sends for −∞, −0, +0 and +∞. -/
def SpecialOperands (f : Fields) (s : State) (i : Instr) (ni zn zp pi : Ex) : Prop :=
  ((∀ F ∈ s.firing, Claims.xa f F = .inf true) → Claims.Values i f s fun F t => Claims.rounded (fmtD f.ty) f F t ni) ∧
  ((∀ F ∈ s.firing, ∃ d e, d ≠ 0 ∧ Claims.xa f F = .fin true 0 d e) →
    Claims.Values i f s fun F t => Claims.rounded (fmtD f.ty) f F t zn) ∧
  ((∀ F ∈ s.firing, ∃ d e, d ≠ 0 ∧ Claims.xa f F = .fin false 0 d e) →
    Claims.Values i f s fun F t => Claims.rounded (fmtD f.ty) f F t zp) ∧
  ((∀ F ∈ s.firing, Claims.xa f F = .inf false) → Claims.Values i f s fun F t => Claims.rounded (fmtD f.ty) f F t pi)

theorem TableRow.specialOperands {ni zn zp pi : Ex} (hg : TableRow g ni zn zp pi) (hs : Claims.Computes true s)
    (he : exec i s = runLanes (valueLane f (fnTy f g)) s) : SpecialOperands f s i ni zn zp pi := by
  refine ⟨fun h => ?_, fun h => ?_, fun h => ?_, fun h => ?_⟩
  all_goals refine values_of_fn hs he fun F hF m sat r => ?_
  all_goals obtain ⟨hni, hzn, hzp, hpi⟩ := hg (fmtD f.ty) m sat r
  · rw [h F hF, hni]
  · obtain ⟨d, e, -, hx⟩ := h F hF
    rw [hx, hzn]
  · obtain ⟨d, e, -, hx⟩ := h F hF
    rw [hx, hzp]
  · rw [h F hF, hpi]

theorem specialOperands_table (hs : Claims.Computes true s) : ∀ mk ni zn zp pi, (mk, ni, zn, zp, pi) ∈
        [(Instr.fsqrt, Ex.nan, Ex.dy true 0 0, Ex.dy false 0 0, Ex.inf false),
         (.frcp, .dy true 0 0, .inf true, .inf false, .dy false 0 0), (.frsq, .nan, .inf true, .inf false, .dy false 0 0),
         (.fexp2, .dy false 0 0, .one, .one, .inf false), (.flog2, .nan, .inf true, .inf true, .inf false),
         (.fsin, .nan, .dy true 0 0, .dy false 0 0, .nan), (.fcos, .nan, .one, .one, .nan),
         (.ftanh, .dy true 1 0, .dy true 0 0, .dy false 0 0, .dy false 1 0)] →
      SpecialOperands f s (mk f) ni zn zp pi := by
  intro mk ni zn zp pi h
  simp only [List.mem_cons, List.not_mem_nil, or_false, Prod.mk.injEq] at h
  obtain ⟨rfl, rfl, rfl, rfl, rfl⟩ | ⟨rfl, rfl, rfl, rfl, rfl⟩ | ⟨rfl, rfl, rfl, rfl, rfl⟩ | ⟨rfl, rfl, rfl, rfl, rfl⟩ |
    ⟨rfl, rfl, rfl, rfl, rfl⟩ | ⟨rfl, rfl, rfl, rfl, rfl⟩ | ⟨rfl, rfl, rfl, rfl, rfl⟩ | ⟨rfl, rfl, rfl, rfl, rfl⟩ := h
  · exact fSqrt_row.specialOperands hs rfl
  · exact fRcp_row.specialOperands hs rfl
  · exact fRsq_row.specialOperands hs rfl
  · exact fExp2_row.specialOperands hs rfl
  · exact fLog2_row.specialOperands hs rfl
  · exact fSin_row.specialOperands hs rfl
  · exact fCos_row.specialOperands hs rfl
  · exact fTanh_row.specialOperands hs rfl

/-- Each function's result is one function of its operand. -/
theorem functions_values (hs : Claims.Computes true s) : ∀ mk g, (mk, g) ∈
        [(Instr.fsqrt, fSqrt), (.frsq, fRsq), (.fexp2, fExp2), (.flog2, fLog2), (.fsin, fTrig false), (.fcos, fTrig true),
         (.ftanh, fTanh)] →
      Claims.Values (mk f) f s fun F t =>
        BitVec.ofNat 64 (g (fmtD f.ty) (modeOf (f.fn.toNat % 8)) (decide (f.fn.toNat < 8)) (srOf t F 0) (Claims.xa f F)) := by
  intro mk g h
  simp only [List.mem_cons, List.not_mem_nil, or_false, Prod.mk.injEq] at h
  obtain ⟨rfl, rfl⟩ | ⟨rfl, rfl⟩ | ⟨rfl, rfl⟩ | ⟨rfl, rfl⟩ | ⟨rfl, rfl⟩ | ⟨rfl, rfl⟩ | ⟨rfl, rfl⟩ := h
  all_goals exact values_of_lane hs rfl fun _ _ _ => fnTy_eq _

/-- A function that has no value at a negative number gives the canonical NaN there. -/
theorem values_negative (hs : Claims.Computes true s) (he : exec i s = runLanes (valueLane f (fnTy f g)) s)
    (hg : ∀ T m sat r n d e, n ≠ 0 → g T m sat r (.fin true n d e) = Fmt.qnan T)
    (h : ∀ F ∈ s.firing, ∃ m d e, m ≠ 0 ∧ Claims.xa f F = .fin true m d e) :
    Claims.Values i f s fun _ _ => BitVec.ofNat 64 (fmtD f.ty).qnan :=
  values_of_lane hs he fun F hF _ => by
    obtain ⟨m, d, e, hm, hx⟩ := h F hF
    rw [fnTy_eq, hx, hg _ _ _ _ _ _ _ hm]

theorem negativeOperands_nan (hs : Claims.Computes true s)
    (h : ∀ F ∈ s.firing, ∃ m d e, m ≠ 0 ∧ Claims.xa f F = .fin true m d e) :
    ∀ mk ∈ [Instr.fsqrt, .frsq, .flog2], Claims.Values (mk f) f s fun _ _ => BitVec.ofNat 64 (fmtD f.ty).qnan := by
  refine List.forall_mem_cons.2 ⟨values_negative hs rfl (fun _ _ _ _ _ => fSqrt_negative) h, ?_⟩
  refine List.forall_mem_cons.2 ⟨values_negative hs rfl (fun _ _ _ _ _ => fRsq_negative) h, ?_⟩
  exact List.forall_mem_singleton.2 (values_negative hs rfl (fun _ _ _ _ _ => fLog2_negative) h)

theorem fexp2_integer (hs : Claims.Computes true s) {i : Int} (hl : -32768 < i) (hu : i < 32768)
    (h : ∀ F ∈ s.firing, ∃ n m e, m ≠ 0 ∧ Claims.xa f F = .fin n m 1 e ∧
      i * 2 ^ (-e).toNat = (if n then -(m : Int) else m) * 2 ^ e.toNat) :
    Claims.Values (.fexp2 f) f s fun F t => Claims.rounded (fmtD f.ty) f F t (.fin false 1 1 i) :=
  values_of_fn (v := fun _ => .fin false 1 1 i) hs rfl fun F hF _ _ _ => by
    obtain ⟨n, m, e, hm, hx, hi⟩ := h F hF
    rw [hx, fExp2_integer hm hl hu hi]

theorem flog2_two_pow (hs : Claims.Computes true s) {k : Nat} {e : Int} (h : ∀ F ∈ s.firing, Claims.xa f F = .fin false (2 ^ k) 1 e) :
    Claims.Values (.flog2 f) f s fun F t => Claims.rounded (fmtD f.ty) f F t (Ex.ofInt (k + e)) :=
  values_of_fn (v := fun _ => Ex.ofInt (k + e)) hs rfl fun F hF _ _ _ => by rw [h F hF, fLog2_two_pow]

/-- The value that FSQRT rounds for an exact operand. -/
def fsqrtEx : Ex → Ex
  | .fin _ a d e => rootEx a d e
  | x => x

/-- The value that FRSQ rounds for an exact operand. -/
def frsqEx : Ex → Ex
  | .fin _ a d e => rootEx d a (-e)
  | x => x

theorem squareRoots (hs : Claims.Computes true s)
    (h : ∀ F ∈ s.firing, ∃ m e, Claims.xa f F = .fin false m 1 e ∧ m ≠ 0 ∧ m < 2 ^ 64) :
    Claims.Values (.fsqrt f) f s (fun F t => Claims.rounded (fmtD f.ty) f F t (fsqrtEx (Claims.xa f F))) ∧
    Claims.Values (.frsq f) f s (fun F t => Claims.rounded (fmtD f.ty) f F t (frsqEx (Claims.xa f F))) := by
  constructor
  · refine values_of_fn (v := fun F => fsqrtEx (Claims.xa f F)) hs rfl fun F hF _ _ _ => ?_
    obtain ⟨m, e, hx, hm, -⟩ := h F hF
    rw [hx, fSqrt_eq hm, fsqrtEx]
  · refine values_of_fn (v := fun F => frsqEx (Claims.xa f F)) hs rfl fun F hF _ _ _ => ?_
    obtain ⟨m, e, hx, hm, -⟩ := h F hF
    rw [hx, fRsq_eq hm, frsqEx]

theorem fsqrtEx_floor {m : Nat} {e : Int} (hm : m ≠ 0) : ∃ n k, fsqrtEx (.fin false m 1 e) = .fin false n 1 k ∧ 2 * k ≤ e ∧
    let x := m * 2 ^ (e - 2 * k).toNat
    n ^ 2 ≤ x ∧ x < (n + 1) ^ 2 ∧ (2 ^ 1100 ≤ n ∨ n ^ 2 = x) := by
  obtain ⟨n, c, k, hv, -, hc, hk, hx⟩ := rootEx_floor (Nat.pos_of_ne_zero hm) Nat.one_pos (by norm_num) e
  rw [hc rfl] at hv hx
  exact ⟨n, k, hv, hk, by simpa only [one_pow, mul_one, one_mul] using hx⟩

theorem frsqEx_floor {m : Nat} {e : Int} (hm : m ≠ 0) (hlt : m < 2 ^ 64) : ∃ n c k, c ≠ 0 ∧
    frsqEx (.fin false m 1 e) = .fin false n c k ∧ 2 * k ≤ -e ∧
    let x := c ^ 2 * 2 ^ (-e - 2 * k).toNat
    m * n ^ 2 ≤ x ∧ x < m * (n + 1) ^ 2 ∧ (2 ^ 1100 ≤ n ∨ m * n ^ 2 = x) := by
  obtain ⟨n, c, k, hv, hc, -, hk, hx⟩ := rootEx_floor Nat.one_pos (Nat.pos_of_ne_zero hm) hlt (-e)
  rw [one_mul] at hx
  exact ⟨n, c, k, hc, hv, hk, hx⟩

/-- Settles O6: one row of the table per function, FEXP2 and FLOG2 of the operands whose results are exact, and the floor of the root that
FSQRT and FRSQ round. -/
theorem functionResultsAndSpecialOperands : Obligations.FunctionResultsAndSpecialOperands := by
  intro f s hs
  refine ⟨values_of_lane hs rfl fun _ _ _ => valFdiv_eq, values_of_lane hs rfl fun _ _ _ => rndTy_eq _, functions_values hs,
    specialOperands_table hs, negativeOperands_nan hs, fun i hl hu h => fexp2_integer hs hl hu h,
    fun k e h => ⟨flog2_two_pow hs h, fun h0 => ?one⟩, fun h => ?roots⟩
  case one =>
    have hz := flog2_two_pow hs h
    rwa [h0] at hz
  case roots =>
    obtain ⟨hsqrt, hrsq⟩ := squareRoots hs h
    refine ⟨_, _, hsqrt, hrsq, fun F hF m e hx => ?_⟩
    obtain ⟨m', e', hx', hm, hlt⟩ := h F hF
    obtain ⟨-, rfl, -, rfl⟩ := Ex.fin.inj (hx.symm.trans hx')
    rw [hx]
    exact ⟨fsqrtEx_floor hm, frsqEx_floor hm hlt⟩

end

end Sys2Proof.Machine

/-!
The window checks of an access (O9): the model's Boolean check against R163's conditions on a pointer.
-/

namespace Sys2Proof.Machine

open Sys2Proof

/-- A pointer is valid in its window (R163), where window 10 reaches `loc` bytes. -/
def PtrValid (x : Ctx) (loc : Nat) (p : Word) : Prop :=
  match (p.extractLsb' 62 2).toNat with
  | 0 => p.extractLsb' 57 5 = 0
  | 1 => p.extractLsb' 20 28 = 0 ∧ 4 * (p.extractLsb' 55 7).toNat < padW x ∧ (p.extractLsb' 48 7).toNat < x.ph
  | 2 => p.extractLsb' 20 42 = 0 ∧ (p.extractLsb' 0 20).toNat < loc
  | _ => True

theorem ptrValid_iff (x : Ctx) (loc : Nat) (p : Word) : ptrValid x loc p = true ↔ PtrValid x loc p := by
  simp only [ptrValid, PtrValid, winOf, toNat_extractLsb' p 55, toNat_extractLsb' p 48, toNat_extractLsb' p 0]
  match (p.extractLsb' 62 2).toNat with
  | 0 => exact beq_iff_eq
  | 1 => simp only [Bool.and_eq_true, beq_iff_eq, decide_eq_true_eq, and_assoc]
  | 2 => simp only [Bool.and_eq_true, beq_iff_eq, decide_eq_true_eq]
  | _ + 3 => exact iff_of_true rfl trivial

section
variable {x : Ctx} {loc : Nat} {wins : List Nat} {p : Word} {n : Nat}

/-- First and last byte in different windows (R164). -/
theorem windowFault_cross (h : p.toNat / 2 ^ 62 ≠ (p.toNat + (n - 1)) / 2 ^ 62) : windowFault x loc wins p n = some 0x06 :=
  if_pos (bne_iff_ne.2 h.symm)

/-- Within one window, the window and the two ends of the access decide. -/
theorem windowFault_within (h : p.toNat / 2 ^ 62 = (p.toNat + (n - 1)) / 2 ^ 62) : windowFault x loc wins p n =
    if !wins.contains (winOf p) || !ptrValid x loc p || !ptrValid x loc (p + BitVec.ofNat 64 (n - 1)) then some 0x07 else none :=
  if_neg (by rw [h, bne_self_eq_false]; exact Bool.false_ne_true)

theorem last_pointer : p + BitVec.ofNat 64 (n - 1) = BitVec.ofNat 64 (p.toNat + (n - 1)) := by
  rw [BitVec.ofNat_add, BitVec.ofNat_toNat, BitVec.setWidth_eq]

theorem windowFault_invalid (hw : p.toNat / 2 ^ 62 = (p.toNat + (n - 1)) / 2 ^ 62)
    (h : ¬(winOf p ∈ wins ∧ PtrValid x loc p ∧ PtrValid x loc (BitVec.ofNat 64 (p.toNat + (n - 1))))) :
    windowFault x loc wins p n = some 0x07 := by
  rw [windowFault_within hw, last_pointer]
  simp only [← ptrValid_iff] at h
  refine if_pos ?_
  by_contra hn
  exact h (by simpa [and_assoc] using hn)

theorem windowFault_none (hw : p.toNat / 2 ^ 62 = (p.toNat + (n - 1)) / 2 ^ 62) (h : winOf p ∈ wins) (hp : PtrValid x loc p)
    (hq : PtrValid x loc (BitVec.ofNat 64 (p.toNat + (n - 1)))) : windowFault x loc wins p n = none := by
  rw [windowFault_within hw, last_pointer]
  simp [h, (ptrValid_iff ..).2 hp, (ptrValid_iff ..).2 hq]

end

/-- Settles O9: the two faults and the passing case are the branches of the check. -/
theorem pointerWindowChecks : Obligations.PointerWindowChecks := fun _ _ _ _ _ =>
  ⟨windowFault_cross, fun hw => ⟨windowFault_invalid hw, windowFault_none hw⟩⟩

end Sys2Proof.Machine

/-!
Loads and stores of a scratchpad at their MU (O10): what an MU does with its oldest request where that is a memory access, and the outcomes
of a scratchpad load and of a scratchpad store.
-/

namespace Sys2Proof.Machine

open Sys2Proof

/-! ### A memory request leaves its port (R188, R204) -/

theorem winOf_eq (p : Word) : winOf p = p.toNat / 2 ^ 62 := by
  rw [winOf, toNat_extractLsb', nbits]
  have := p.isLt
  omega

/-- An access through no capability leaves the checker as it was. -/
theorem capTouch_of_window {s : State} {m : UId} {col : Nat} {p : Word} (h : winOf p ≠ 3) : capTouch s m col p = s := by
  have hb : (p.toNat / 2 ^ 62 != 3) = true := bne_iff_ne.2 (winOf_eq p ▸ h)
  exact if_pos (by rw [hb, Bool.true_or])

/-- A memory request is neither a command nor a service call. -/
theorem performMemory_kind {q : Req} {s t : State} (h : performMemory q s = some t) :
    isCommand q.i = false ∧ (∀ f, q.i ≠ .svcCall f) ∧ ∀ f, q.i ≠ .svcArg f := by
  unfold performMemory at h
  split at h
  case h_25 => cases h
  all_goals
    rename_i hi
    rw [hi]
    exact ⟨rfl, fun _ => nofun, fun _ => nofun⟩

/-- The oldest request of a port that does not stand still is performed, where it is a memory request through no capability. -/
theorem exec_muRequest_memory {s t : State} {q : Req} (h : Claims.Oldest s q) (hw : winOf q.c.l.val ≠ 3)
    (hm : performMemory q (Claims.taken s q) = some t) : exec (.muRequest q.mu) s = .next (close s t) := by
  obtain ⟨hq, hb⟩ := h
  obtain ⟨hc, hcall, harg⟩ := performMemory_kind hm
  have hp : performReq q (Claims.taken s q) = t := by rw [performReq, capTouch_of_window hw, hm]
  have hbody : bodyMuRequest q.mu s = performReq q (Claims.taken s q) := by
    unfold bodyMuRequest
    rw [hq]
    dsimp only
    rw [hb, hc, if_neg Bool.false_ne_true, if_neg Bool.false_ne_true]
    split
    · exact absurd ‹_› (hcall _)
    · exact absurd ‹_› (harg _)
    · rfl
  change done s (bodyMuRequest q.mu s) = _
  rw [hbody, hp, done]

/-! ### The pointer of a scratchpad access (R163, R184, R192) -/

theorem offWidth_cases (p : Word) : (offWidth p).1 = 57 ∨ (offWidth p).1 = 20 ∨ (offWidth p).1 = 44 := by
  unfold offWidth
  split
  · exact .inl rfl
  · exact .inr (.inl rfl)
  · exact .inr (.inl rfl)
  · exact .inr (.inr rfl)

/-- A displacement stays below the window field. -/
theorem winOf_shiftPtr {p r : Word} {d : Int} (h : shiftPtr p d = some r) : winOf r = winOf p := by
  have hp := p.isLt
  unfold shiftPtr at h
  dsimp only at h
  split at h
  next hn =>
    simp only [Bool.and_eq_true, decide_eq_true_eq] at hn
    cases h
    rw [winOf_eq, winOf_eq, BitVec.toNat_ofNat]
    rcases offWidth_cases p with hw | hw | hw <;> rw [hw] at hn ⊢ <;> omega
  · cases h

theorem winOf_of_homePtr {f : Fields} {F : Ready} {p : Word} (h : homePtr f F = some p) : winOf F.l.val = 0 := by
  unfold homePtr at h
  dsimp only at h
  split at h
  next hc =>
    simp only [Bool.and_eq_true, beq_iff_eq] at hc
    have h0 : nbits F.l.val.toNat 20 44 = 0 := by rw [← toNat_extractLsb', hc.1.1]; rfl
    rw [nbits] at h0
    rw [winOf_eq]
    have := F.l.val.isLt
    omega
  · cases h

/-- A displaced access `i` names a scratchpad word by its pointer, an offset access `j` one of its home MU: the pointer is `p`, the MU `m`. -/
def ScratchAccess (i j : Instr) (q : Req) (f : Fields) (p : Word) (m : UId) : Prop :=
  (q.i = i ∧ shiftPtr q.c.l.val (dispOf f) = some p ∧ winOf p = 1 ∧ m = muNamed q.c.u p) ∨
    (q.i = j ∧ homePtr f q.c = some p ∧ m = q.mu)

theorem ScratchAccess.window {i j : Instr} {q : Req} {f : Fields} {p : Word} {m : UId} (h : ScratchAccess i j q f p m) :
    winOf q.c.l.val ≠ 3 := by
  rcases h with ⟨-, hp, hw, -⟩ | ⟨-, hp, -⟩
  · rw [← winOf_shiftPtr hp, hw]
    decide
  · rw [winOf_of_homePtr hp]
    decide

/-- Where both instructions carry the fields, so does the request. -/
theorem ScratchAccess.reqFields_eq {i j : Instr} {q : Req} {f : Fields} {p : Word} {m : UId} (h : ScratchAccess i j q f p m)
    (hi : fieldsOf i = some f) (hj : fieldsOf j = some f) : reqFields q = f := by
  rcases h with ⟨h, -⟩ | ⟨h, -⟩
  · rw [reqFields, h, hi, Option.getD_some]
  · rw [reqFields, h, hj, Option.getD_some]

section
variable {s : State} {q : Req} {f : Fields} {p : Word} {m : UId}

theorem exec_scratchLoad (h : Claims.Oldest s q) (ha : ScratchAccess (.ld f) (.lds f) q f p m) : exec (.muRequest q.mu) s =
      .next (close s (loadScratch q m (offOf p) (tyBytes f.ty) p (Claims.taken s q))) ∧
    reqFields q = f := by
  have hf := ha.reqFields_eq rfl rfl
  refine ⟨exec_muRequest_memory h ha.window ?_, hf⟩
  rcases ha with ⟨hi, hp, hp1, rfl⟩ | ⟨hi, hp, rfl⟩
  · simp [performMemory, hi, performLd, reqPtr, dispPtr, hf, hp, hp1]
  · simp [performMemory, hi, performLds, hf, hp]

theorem exec_scratchStore (h : Claims.Oldest s q) (ha : ScratchAccess (.st f) (.sts f) q f p m) : exec (.muRequest q.mu) s =
      .next (close s (storeScratch q m (offOf p) (leBytes (q.k.getD 0 0).toNat (tyBytes f.ty)) p (Claims.taken s q))) ∧
    reqFields q = f := by
  have hf := ha.reqFields_eq rfl rfl
  refine ⟨exec_muRequest_memory h ha.window ?_, hf⟩
  rcases ha with ⟨hi, hp, hp1, rfl⟩ | ⟨hi, hp, rfl⟩
  · simp [performMemory, hi, performSt, storeData, reqK, reqPtr, dispPtr, hf, hp, hp1]
  · simp [performMemory, hi, performSts, storeData, reqK, hf, hp]

/-! ### A scratchpad load (R173, R186, R198) -/

section
variable {off n : Nat} {va : Word}

theorem loadScratch_misaligned (h : off % n ≠ 0) : loadScratch q m off n va s = raise q.c { kind := 0x08, va := va } s :=
  if_pos (bne_iff_ne.2 h)

theorem loadScratch_live {e : Nat} (ha : off % n = 0) (hl : liveFault s (locUnit m off) n = some e) :
    loadScratch q m off n va s = raise q.c { kind := e, va := va } s := by
  rw [loadScratch, if_neg (by simp [ha]), hl]
  rfl

theorem scratchByte_eq (s : State) (loc : Nat) : scratchByte s loc = if isState s loc = 0 then rd8 s loc else 0 := by
  simp only [scratchByte, beq_iff_eq]

/-- Byte `k` of a scratchpad line as a firing's request sees it: the latest own buffered byte, else that of memory. -/
def scratchByteSeen (s : State) (q : Req) (m : UId) (off k : Nat) : Byte :=
  match ownByte s q.mu q.c (muPtr m (off / 64 * 64)) (off % 64 + k) with
  | some b => b
  | none => if isState s (locUnit m (off / 64 * 64) + off % 64 + k) = 0 then rd8 s (locUnit m (off / 64 * 64) + off % 64 + k) else 0

theorem loadScratch_answers (ha : off % n = 0) (hl : liveFault s (locUnit m off) n = none) (hr : readFails s (locUnit m off) = false) :
    loadScratch q m off n va s = reply q (loadVal (reqFields q).ty ((List.range n).map (scratchByteSeen s q m off))) s := by
  have hb : seenBytes s q (muPtr m (off / 64 * 64)) (locUnit m (off / 64 * 64)) (off % 64) n true =
      (List.range n).map (scratchByteSeen s q m off) := by
    refine List.map_congr_left fun k _ => ?_
    unfold scratchByteSeen
    cases ownByte s q.mu q.c (muPtr m (off / 64 * 64)) (off % 64 + k) with
    | some b => rfl
    | none => exact scratchByte_eq s _
  rw [loadScratch, if_neg (by simp [ha]), hl]
  dsimp only
  rw [hb, readReply, hr]
  rfl

end

/-! ### A scratchpad store (R176, R192) -/

theorem length_leBytes (v n : Nat) : (leBytes v n).length = n := by
  induction n generalizing v with
  | zero => rfl
  | succ n ih => rw [leBytes, List.length_cons, ih]

section
variable {off : Nat} {bs : List Byte} {va : Word} {o : StoreOp}

theorem storeScratch_misaligned (h : off % bs.length ≠ 0) : storeScratch q m off bs va s = raise q.c { kind := 0x08, va := va } s :=
  if_pos (bne_iff_ne.2 h)

/-- A store that does not meet a live slot or header at its own MU goes to the phase buffer. -/
theorem storeScratch_aligned (ha : off % bs.length = 0) (hl : m = q.mu → liveFault s (locUnit m off) bs.length = none) :
    storeScratch q m off bs va s = storeReq q (scratchOp m off bs none) va s := by
  have hn : (if m == q.mu then liveFault s (locUnit m off) bs.length else none) = none := by
    split
    next hm => exact hl (beq_iff_eq.1 hm)
    · rfl
  rw [storeScratch, if_neg (by simp [ha]), hn]

theorem storeReq_accepted {t : State} (h : acceptStore s q o = some t) : storeReq q o va s = reply q 0 t := by rw [storeReq, h]

theorem storeReq_overflow (h : acceptStore s q o = none) : storeReq q o va s = raise q.c { kind := 0x0C, va := va } s := by
  rw [storeReq, h]
  rfl

end

/-! ### The statement -/

/-- An MU serves its oldest request with what the request's step has come to. -/
theorem serves_of_exec {t : State} {g : State → State} (he : exec (.muRequest q.mu) s = .next (close s t))
    (ht : t = g (Claims.taken s q)) : Claims.Serves s q g := by rw [Claims.Serves, he, ht]

end

/-- Settles O10: a load and a store have one lemma per outcome. -/
theorem scratchpadLoadsAndStoresServed : Obligations.ScratchpadLoadsAndStoresServed := by
  intro s q f h
  refine ⟨fun p m ha => ?_, fun p m ha => ?_⟩
  · obtain ⟨he, rfl⟩ := exec_scratchLoad h ha
    exact ⟨fun hoff => serves_of_exec he (loadScratch_misaligned hoff), fun hoff e hl => serves_of_exec he (loadScratch_live hoff hl),
      fun hoff hl hr => serves_of_exec he (loadScratch_answers hoff hl hr)⟩
  · obtain ⟨he, rfl⟩ := exec_scratchStore h ha
    have hlen := length_leBytes (q.k.getD 0 0).toNat (tyBytes (reqFields q).ty)
    refine ⟨fun hoff => serves_of_exec he (storeScratch_misaligned (by rwa [hlen])), fun hoff hl => ?_⟩
    have hst := storeScratch_aligned (s := Claims.taken s q) (va := p) (by rwa [hlen]) (by rwa [hlen])
    exact ⟨fun t' ht => serves_of_exec he (hst.trans (storeReq_accepted ht)),
      fun ht => serves_of_exec he (hst.trans (storeReq_overflow ht))⟩

end Sys2Proof.Machine

/-!
Stores and their bytes (O58): a pool store logs the bytes of its type and otherwise only emits; a store that the phase buffer takes joins an
entry, whose bytes are followed through the merge.
-/

namespace Sys2Proof.Machine

open Sys2Proof

/-! ### Little-endian words in memory (R4) -/

theorem getD_leBytes (v : Nat) {n k : Nat} (h : k < n) : (leBytes v n).getD k 0 = BitVec.ofNat 8 (v / 2 ^ (8 * k)) := by
  induction n generalizing v k with
  | zero => omega
  | succ n ih =>
    cases k with
    | zero => simp [leBytes]
    | succ k =>
      rw [leBytes, List.getD_cons_succ, ih _ (by omega), Nat.div_div_eq_div_mul, show 8 * (k + 1) = 8 + 8 * k by omega, Nat.pow_add]

/-- The bytes of a word are its fields of eight bits, the lowest first. -/
theorem getD_leBytes_word (v : Word) {n k : Nat} (h : k < n) : (leBytes v.toNat n).getD k 0 = v.extractLsb' (8 * k) 8 := by
  rw [getD_leBytes _ h, BitVec.extractLsb', Nat.shiftRight_eq_div_pow]

section
variable {m : List Host.Cell} (hm : Memory.wf m = true) (a : Nat) (v : Word) (n : Nat)
include hm

/-- A step that logs one word writes its bytes. -/
theorem memByte_memCommit_word {k : Nat} (h : k < n) :
    memByte (memCommit m [.bytes a (leBytes v.toNat n)]) (a + k) = v.extractLsb' (8 * k) 8 := by
  rw [memByte_memCommit hm, ← getD_leBytes_word v h]
  simp [logByte, length_leBytes, h]

/-- Beside the word it writes nothing. -/
theorem memByte_memCommit_beside {x : Nat} (h : x < a ∨ a + n ≤ x) :
    memByte (memCommit m [.bytes a (leBytes v.toNat n)]) x = memByte m x := by
  have hx : ¬(a ≤ x ∧ x < a + n) := by omega
  rw [memByte_memCommit hm]
  simp [logByte, length_leBytes, hx]

end

/-! ### A store into the pool (R168, R192) -/

/-- A unit's reply to both targets has the frame of its two emissions. -/
theorem onlyTokens_replyBoth (u : UId) (f : Fields) (F : Ready) (v w : Word) (s : State) : OnlyTokens s (replyBoth u f F v w s) :=
  OnlyTokens.trans (emitFrom_frame ..) (emitFrom_frame ..)

/-- A pool store writes when it issues. -/
theorem exec_st_pool {s : State} {f : Fields} {F : Ready} {p : Word} (hF : s.firing = [F]) (hs : settle true F = .go)
    (hp : shiftPtr F.l.val (dispOf f) = some p) (hw : winOf p = 2)
    (hf : windowFault (ctxOf s F.u.ctx) (poolSize (ctxOf s F.u.ctx)) [2] p (tyBytes f.ty) = none) (ha : offOf p % tyBytes f.ty = 0) :
    exec (.st f) s = .next (close s (replyBoth F.u f F 0 0
      (wrBytes s (locUnit F.u (offOf p)) (leBytes (rightOp f F s).toNat (tyBytes f.ty))))) := by
  refine (runLanes_laneBoth_go hF hs).trans ?_
  simp [dispPtr, hp, hw, hf, ha, storeData]

theorem poolStoreWritesItsBytes : Claims.PoolStoreWritesItsBytes := by
  intro s f F p hm hlog hF hs hp hw n loc hf ha
  obtain ⟨fl, ar, lk, ht⟩ := onlyTokens_replyBoth F.u f F 0 0 (wrBytes s loc (leBytes (rightOp f F s).toNat n))
  refine ⟨memCommit s.mem [.bytes loc (leBytes (rightOp f F s).toNat n)], fl, ar, lk, ?_, fun k hk => ?_, fun x hx => ?_⟩
  · rw [exec_st_pool hF hs hp hw hf ha, ht, close, wrBytes, hlog]
  · exact memByte_memCommit_word hm loc _ n hk
  · exact memByte_memCommit_beside hm loc _ n hx

/-! ### A map's later keys -/

theorem fget_finsert_of_lt {α : Type} {d v : α} {m : FMap α} {k j : Nat} (h : k < j) : fget d (finsert k v m) j = fget d m j := by
  induction m with
  | nil => simp [finsert, fget, h.ne', h.not_gt]
  | cons e m ih =>
    obtain ⟨k', w⟩ := e
    unfold finsert
    split
    · rw [fget, if_neg h.ne', if_neg h.not_gt]
    · split
      · next hk =>
        subst hk
        simp only [fget, if_neg h.ne', if_neg h.not_gt]
      · simp only [fget, ih]

theorem fget_ferase_of_lt {α : Type} {d : α} {m : FMap α} {k j : Nat} (h : k < j) : fget d (ferase m k) j = fget d m j := by
  induction m with
  | nil => rfl
  | cons e m ih =>
    obtain ⟨k', w⟩ := e
    unfold ferase
    split
    · next hk =>
      subst hk
      rw [fget, if_neg h.ne', if_neg h.not_gt]
    · split
      · rfl
      · simp only [fget, ih]

/-- Setting a key leaves the later ones, whatever the map's form. -/
theorem fget_fset_of_lt {α : Type} [DecidableEq α] {d v : α} {m : FMap α} {k j : Nat} (h : k < j) :
    fget d (fset d m k v) j = fget d m j := by
  unfold fset
  split
  · exact fget_ferase_of_lt h
  · exact fget_finsert_of_lt h

/-! ### One byte joins an entry (R177) -/

theorem getLsbD_maskBits_one {b : Nat} (hb : b < 64) (j : Nat) : (maskBits b 1).getLsbD j = decide (j = b) := by
  rw [maskBits, BitVec.getLsbD_ofNat, show (2 ^ 1 - 1) * 2 ^ b = 2 ^ b from one_mul _, Nat.testBit_two_pow, ← Bool.decide_and,
    decide_eq_decide]
  omega

theorem extractLsb'_placeBytes_one (d : BitVec 512) (v : Byte) {b j : Nat} (hj : j < 64) :
    (placeBytes d b [v]).extractLsb' (8 * j) 8 = if j = b then v else d.extractLsb' (8 * j) 8 := by
  apply BitVec.eq_of_getLsbD_eq
  intro i hi
  have hff : ∀ n, (0xFF#512).getLsbD n = decide (n < 8) := fun n => by
    rw [BitVec.getLsbD_ofNat, show 0xFF = 2 ^ 8 - 1 from rfl, Nat.testBit_two_pow_sub_one, ← Bool.decide_and, decide_eq_decide]
    omega
  have hn : 8 * j + i < 512 := by omega
  simp only [placeBytes, BitVec.getLsbD_extractLsb', BitVec.getLsbD_or, BitVec.getLsbD_and, BitVec.getLsbD_not, BitVec.getLsbD_shiftLeft,
    BitVec.getLsbD_setWidth, hff]
  rcases lt_trichotomy j b with h | rfl | h
  · simp [hi, hn, h.ne, show 8 * j + i < 8 * b by omega]
  · simp [hi, hn, show 8 * j + i - 8 * j = i by omega, show i < 512 by omega]
  · have hout : 8 ≤ 8 * j + i - 8 * b := by omega
    simp [hi, hn, h.ne', show ¬8 * j + i < 8 * b by omega, hout.not_gt, BitVec.getLsbD_of_ge v _ hout]

section
variable {iseq now b : Nat} {e : PbEntry} {v : Byte}

theorem mergeByte_mask {j : Nat} (hb : b < 64) : (mergeByte iseq now e (b, v)).mask.getLsbD j = (e.mask.getLsbD j || decide (j = b)) := by
  unfold mergeByte
  split
  next h =>
    by_cases hj : j = b
    · simp [hj, (Bool.and_eq_true_iff.1 h).1]
    · simp [hj]
  · rw [BitVec.getLsbD_or, getLsbD_maskBits_one hb]

theorem mergeByte_data_ne {j : Nat} (hj : j < 64) (h : j ≠ b) :
    (mergeByte iseq now e (b, v)).data.extractLsb' (8 * j) 8 = e.data.extractLsb' (8 * j) 8 := by
  unfold mergeByte
  split
  · rfl
  · exact (extractLsb'_placeBytes_one _ _ hj).trans (if_neg h)

theorem mergeByte_data_same (hb : b < 64) (h : e.mask.getLsbD b = true → olderSeq iseq (fget 0 e.bseqs b) = false) :
    (mergeByte iseq now e (b, v)).data.extractLsb' (8 * b) 8 = v := by
  have hnew : ¬(e.mask.getLsbD b && olderSeq iseq (fget 0 e.bseqs b)) = true := by
    simp only [Bool.and_eq_true, not_and, Bool.not_eq_true]
    exact h
  unfold mergeByte
  rw [if_neg hnew]
  exact (extractLsb'_placeBytes_one _ _ hb).trans (if_pos rfl)

theorem mergeByte_bseqs {j : Nat} (h : b < j) : fget 0 (mergeByte iseq now e (b, v)).bseqs j = fget 0 e.bseqs j := by
  unfold mergeByte
  split
  · rfl
  · exact fget_fset_of_lt h

theorem joins_mergeByte (q : Req) (o : StoreOp) : joins q o (mergeByte iseq now e (b, v)) = joins q o e := by
  unfold mergeByte
  split <;> rfl

end

/-! ### All bytes of a store join it (R176) -/

/-- An entry after bytes at rising offsets of its line have joined it. -/
def mergeBytes (iseq now : Nat) (e : PbEntry) (off : Nat) (bs : List Byte) : PbEntry :=
  (bs.mapIdx fun k b => (off + k, b)).foldl (mergeByte iseq now) e

section
variable {iseq now : Nat} {e : PbEntry} {off : Nat} {bs : List Byte}

theorem mergeBytes_cons (b : Byte) :
    mergeBytes iseq now e off (b :: bs) = mergeBytes iseq now (mergeByte iseq now e (off, b)) (off + 1) bs := by
  simp only [mergeBytes, List.mapIdx_cons, List.foldl_cons, Nat.add_zero, Nat.add_assoc, Nat.add_comm 1]

theorem joins_mergeBytes (q : Req) (o : StoreOp) : joins q o (mergeBytes iseq now e off bs) = joins q o e := by
  induction bs generalizing e off with
  | nil => rfl
  | cons b bs ih => rw [mergeBytes_cons, ih, joins_mergeByte]

/-- Bytes below the store keep what they were. -/
theorem mergeBytes_below {j : Nat} (hl : off + bs.length ≤ 64) (hj : j < off) :
    (mergeBytes iseq now e off bs).mask.getLsbD j = e.mask.getLsbD j ∧
      (mergeBytes iseq now e off bs).data.extractLsb' (8 * j) 8 = e.data.extractLsb' (8 * j) 8 := by
  induction bs generalizing e off with
  | nil => exact ⟨rfl, rfl⟩
  | cons b bs ih =>
    rw [List.length_cons] at hl
    obtain ⟨hm, hd⟩ := ih (e := mergeByte iseq now e (off, b)) (off := off + 1) (by omega) (by omega)
    rw [mergeBytes_cons, hm, hd, mergeByte_mask (by omega), mergeByte_data_ne (by omega) hj.ne]
    simp [hj.ne]

/-- Each byte of the store is in the entry's mask, and holds the store's value unless a byte of a later issue stood there (R177). -/
theorem mergeBytes_byte {k : Nat} (hl : off + bs.length ≤ 64) (hk : k < bs.length) :
    (mergeBytes iseq now e off bs).mask.getLsbD (off + k) = true ∧
      ((e.mask.getLsbD (off + k) = true → olderSeq iseq (fget 0 e.bseqs (off + k)) = false) →
        (mergeBytes iseq now e off bs).data.extractLsb' (8 * (off + k)) 8 = bs.getD k 0) := by
  induction bs generalizing e off k with
  | nil => exact absurd hk (Nat.not_lt_zero _)
  | cons b bs ih =>
    rw [List.length_cons] at hl hk
    rw [mergeBytes_cons]
    cases k with
    | zero =>
      obtain ⟨hm, hd⟩ := mergeBytes_below (iseq := iseq) (now := now) (e := mergeByte iseq now e (off, b)) (j := off)
        (show off + 1 + bs.length ≤ 64 by omega) (Nat.lt_succ_self _)
      simp only [Nat.add_zero]
      rw [hm, hd, mergeByte_mask (by omega)]
      exact ⟨by simp, mergeByte_data_same (by omega)⟩
    | succ k =>
      have he : off + (k + 1) = off + 1 + k := by omega
      obtain ⟨hm, hd⟩ := ih (e := mergeByte iseq now e (off, b)) (off := off + 1) (k := k) (by omega) (by omega)
      rw [mergeByte_mask (by omega), mergeByte_bseqs (by omega), decide_eq_false (by omega), Bool.or_false] at hd
      rw [he]
      exact ⟨hm, hd⟩

end

/-! ### The phase buffer takes a store (R173, R176) -/

section
variable {q : Req} {o : StoreOp}

theorem joins_iff {e : PbEntry} : joins q o e = true ↔
    e.mu = q.mu ∧ e.la = o.la ∧ e.loc = o.loc ∧ e.col = fcol q.c ∧ e.itr = fitr q.c ∧ e.sx = q.c.u.x ∧ e.sy = q.c.u.y ∧
      e.ss = q.c.stn := by
  simp only [joins, Bool.and_eq_true, beq_iff_eq, and_assoc]

theorem joins_newEntry (sh : Bool) : joins q o (newEntry q o sh) = true :=
  joins_iff.2 ⟨rfl, rfl, rfl, rfl, rfl, rfl, rfl, rfl⟩

theorem joins_mergeStore (e : PbEntry) (now : Nat) : joins q o (mergeStore e o q.iseq now) = joins q o e :=
  joins_mergeBytes (bs := o.bytes) q o

/-- The bytes of a store in the entry that it has joined. -/
theorem mergeStore_byte {e : PbEntry} {iseq now k : Nat} (hl : o.off + o.bytes.length ≤ 64) (hk : k < o.bytes.length) :
    (mergeStore e o iseq now).mask.getLsbD (o.off + k) = true ∧
      ((e.mask.getLsbD (o.off + k) = true → olderSeq iseq (fget 0 e.bseqs (o.off + k)) = false) →
        (mergeStore e o iseq now).data.extractLsb' (8 * (o.off + k)) 8 = o.bytes.getD k 0) :=
  mergeBytes_byte hl hk

/-- What the phase buffer of a live context does with a store that it takes: an entry of its own, old or new, has the store merged into it,
and nothing but the buffer changes. -/
theorem acceptStore_takes {s t : State} (hl : isLive (reqCtx s q) = true) (h : acceptStore s q o = some t) : ∃ es n e,
    t = { s with mu := { s.mu with pbuf := es, accepts := n } } ∧ mergeStore e o q.iseq n ∈ es ∧ joins q o e = true ∧
      (e ∈ s.mu.pbuf ∨ e.mask = 0) := by
  have new (sh : Bool) (es : List PbEntry) : mergeStore (newEntry q o sh) o q.iseq (s.mu.accepts + 1) ∈
      es ++ [mergeStore (newEntry q o sh) o q.iseq (s.mu.accepts + 1)] := List.mem_append_right _ (List.mem_singleton_self _)
  unfold acceptStore at h
  rw [hl] at h
  dsimp only at h
  rw [if_neg (by decide)] at h
  split at h
  next hj =>
    obtain ⟨e, he, hje⟩ := List.any_eq_true.1 hj
    cases h
    exact ⟨_, _, e, rfl, List.mem_map.2 ⟨e, he, if_pos hje⟩, hje, .inl he⟩
  · split at h
    · split at h
      · cases h
        exact ⟨_, _, newEntry q o true, rfl, new true _, joins_newEntry true, .inr rfl⟩
      · cases h
    · split at h
      · cases h
        exact ⟨_, _, newEntry q o false, rfl, new false _, joins_newEntry false, .inr rfl⟩
      · split at h
        · cases h
          exact ⟨_, _, newEntry q o false, rfl, new false _, joins_newEntry false, .inr rfl⟩
        · cases h

end

/-! ### The statement -/

theorem tyBytes_cases (y : Ty) : tyBytes y = 0 ∨ tyBytes y = 1 ∨ tyBytes y = 2 ∨ tyBytes y = 4 ∨ tyBytes y = 8 := by
  cases y <;> decide

/-- An aligned access of a type lies in one line. -/
theorem aligned_within_line {y : Ty} {off : Nat} (h : off % tyBytes y = 0) : off % 64 + tyBytes y ≤ 64 := by
  rcases tyBytes_cases y with e | e | e | e | e <;> rw [e] at h ⊢ <;> omega

theorem bufferedStoresLeaveMemory : Claims.BufferedStoresLeaveMemory := by
  intro s q f hm hlog hold hlive p m ha hoff hl o hacc
  obtain ⟨t, ht⟩ := Option.isSome_iff_exists.1 hacc
  obtain ⟨he, rfl⟩ := exec_scratchStore hold ha
  have hlen : o.bytes.length = tyBytes (reqFields q).ty := length_leBytes ..
  have hst := storeScratch_aligned (s := Claims.taken s q) (va := p) (hlen.symm ▸ hoff) (hlen.symm ▸ hl)
  obtain ⟨es, n, e, rfl, hmem, hj, horigin⟩ := acceptStore_takes (s := Claims.taken s q) hlive ht
  obtain ⟨fl, ar, lk, hrep⟩ := onlyTokens_replyBoth q.mu (reqFields q) q.c 0 0
    { Claims.taken s q with mu := { (Claims.taken s q).mu with pbuf := es, accepts := n } }
  rw [hst.trans (storeReq_accepted ht), reply, hrep] at he
  obtain ⟨hmu, hla, -, hcol, hitr, hsx, hsy, hss⟩ := joins_iff.1 ((joins_mergeStore e n).trans hj)
  refine ⟨_, he, fun x => ?_, rfl, rfl, rfl, rfl, rfl, mergeStore e o q.iseq n, hmem, hmu, hla, hcol, hitr, hsx, hsy, hss,
    fun k hk => ?_⟩
  · change memByte (memCommit s.mem s.wlog) x = memByte s.mem x
    rw [hlog]
    rfl
  · obtain ⟨hmask, hdata⟩ := mergeStore_byte (e := e) (iseq := q.iseq) (now := n) (hlen.symm ▸ aligned_within_line hoff)
      (hlen.symm ▸ hk)
    refine ⟨hmask, fun hlater => ?_⟩
    rw [← getD_leBytes_word _ hk]
    refine hdata fun hbit => ?_
    rcases horigin with hold | hnew
    · exact hlater e hold hj hbit
    · simp [hnew] at hbit

/-- Settles O58: a pool store logs its bytes alone, and a buffered store merges its own into an entry. -/
theorem storesAndTheirBytes : Obligations.StoresAndTheirBytes := ⟨poolStoreWritesItsBytes, bufferedStoresLeaveMemory⟩

end Sys2Proof.Machine

/-!
The writes of an atomic and of a write-once store (O35): the statement admits call records of more than the seven arguments that R74 gives a
record, and such a record, committed first, overwrites memory behind its place.
-/

namespace Sys2Proof.Machine

open Sys2Proof

/-! ### A call record of eight arguments -/

/-- A call record, not yet committed, that holds eight arguments; R74 gives a record seven places. -/
def eightArgRecord : CallRec :=
  { copy := 0, col := 1, pcol := 0, pitr := 0, sx := 0, sy := 0, ss := 0, narg := 7, nrec := 7, state := .opened, cm := false, tries := 0,
    site := 0, fwd := 0, args := List.replicate 7 none ++ [some { val := 1, ax := 0, ay := 0, as := 0, ak := 0 }] }

/-- The write of a write-once word by a firing of colour 1. -/
def colouredWrite : Req :=
  let F := homeFiring 0
  { mu := hubOf homeCu, i := .isWr (unpack 0), c := { F with l := { F.l with col := 1, val := 0x4000000000000000 } }, k := [0],
    iseq := 0 }

/-- One resident context whose one record is that of eight arguments, in an address space that maps every address to itself, with the
request at its MU and its word EMPTY. -/
def eightArgState : State :=
  let r : RangeEnt := { vbase := 0, vlim := 2 ^ 44, pbase := 0, v := true, rd := true, wr := true, ws := false }
  { State.reset with
      ctxs := [{ homeCtx with recs := [eightArgRecord], rcache := [(0, 1)] }]
      tr := { State.reset.tr with spaces := [(0, { asReset with v := true, nrng := 1, ranges := some [r] })] }
      mu := { State.reset.mu with reqs := [colouredWrite], isst := [(locUnit (hubOf homeCu) 0 / 8, 1)] } }

/-- Colour 1's place in the call-record area, which begins at 0, is at physical address 128. -/
theorem eightArgState_translates (v : Nat) (acc : Access) : let w := wrN eightArgState (locUnit colouredWrite.mu 0) 8 v
    translateNow w (ctxOf w colouredWrite.c.u.ctx) acc 128 = .ok ⟨128, none, false⟩ := by
  cases acc <;> rfl

theorem eightArgState_recordMapped (v : Nat) : Claims.RecordMapped (wrN eightArgState (locUnit colouredWrite.mu 0) 8 v) colouredWrite.c :=
  .inr ⟨⟨_, eightArgState_translates v .read⟩, _, eightArgState_translates v .write, by decide⟩

/-- The byte of memory behind the record's 128, where the eighth argument lands. -/
theorem eighthArgument_written {t : State} (h : exec (.muRequest colouredWrite.mu) eightArgState = .next t) : memByte t.mem 256 = 1 := by
  cases h
  decide +kernel

/-- Refutes O35: nothing in the statement bounds the arguments of a state's records, and a record of eight is longer than the 128 bytes that
`OffRecord` sets aside for it. The commit point of the write changes the byte behind them. -/
theorem not_bankWritesTouchTheirWord : ¬ Obligations.BankWritesTouchTheirWord := by
  intro h
  have hold : Claims.Oldest eightArgState colouredWrite := ⟨by decide, by decide⟩
  obtain ⟨-, write⟩ := h eightArgState colouredWrite (unpack 0) (by decide) rfl hold
  obtain ⟨t, ht, -, frame, -⟩ := write 0x4000000000000000 rfl (by decide) (by decide) (by decide) (by decide)
    (eightArgState_recordMapped _)
  have hoff : Claims.OffRecord (wrN eightArgState (locUnit colouredWrite.mu 0) 8 0) colouredWrite.c 256 := by
    rintro a - ha
    cases ha
    exact .inr (by decide)
  have same := frame 256 (.inl (by decide)) hoff
  rw [eighthArgument_written ht] at same
  exact absurd same (by decide)

end Sys2Proof.Machine

/-!
The memory instructions at issue (O47): the request that each kind of access sends once its pointer has passed the window check, and the
accesses that a CU makes to its own pool.
-/

namespace Sys2Proof.Machine

open Sys2Proof

/-! ### Where a request is sent (R165, R180, R184, R192) -/

theorem fld_low (f : Fields) (n : Nat) : fld f 0 n = f.imm.toNat % 2 ^ n := by rw [fld, nbits, pow_zero, Nat.div_one]

section
variable {i : Instr} {f : Fields} {wins : List Nat} {n e : Nat} {k : List Word} {F : Ready} {s : State} {p : Word}

theorem sendHome_sends (hp : shiftPtr F.l.val (dispOf f) = some p)
    (hf : windowFault (ctxOf s F.u.ctx) (poolSize (ctxOf s F.u.ctx)) wins p n = none) :
    sendHome i f wins n k F s = sendReq (accessMu s F p) i F k s := by simp [sendHome, dispPtr, hp, hf]

theorem sendHome_faults (hp : shiftPtr F.l.val (dispOf f) = some p)
    (hf : windowFault (ctxOf s F.u.ctx) (poolSize (ctxOf s F.u.ctx)) wins p n = some e) :
    sendHome i f wins n k F s = raise F { kind := e, va := p } s := by simp [sendHome, dispPtr, hp, hf, raiseA]

theorem sendOwner_sends (hp : shiftPtr F.l.val (dispOf f) = some p)
    (hf : windowFault (ctxOf s F.u.ctx) (poolSize (ctxOf s F.u.ctx)) [1] p n = none) :
    sendOwner i f n k F s = sendReq (muNamed F.u p) i F k s := by simp [sendOwner, dispPtr, hp, hf]

theorem sendOwner_faults (hp : shiftPtr F.l.val (dispOf f) = some p)
    (hf : windowFault (ctxOf s F.u.ctx) (poolSize (ctxOf s F.u.ctx)) [1] p n = some e) :
    sendOwner i f n k F s = raise F { kind := e, va := p } s := by simp [sendOwner, dispPtr, hp, hf, raiseA]

/-- A displacement that leaves the offset field faults WINDOW_INVALID. -/
theorem sendOwner_displaced (hp : shiftPtr F.l.val (dispOf f) = none) :
    sendOwner i f n k F s = raise F { kind := 0x07, va := F.l.val + BitVec.ofInt 64 (dispOf f) } s := by
  simp [sendOwner, dispPtr, hp, raiseA, presented]

theorem sendOffset_sends (hp : homePtr f F = some p)
    (hf : windowFault (ctxOf s F.u.ctx) (poolSize (ctxOf s F.u.ctx)) [1] p n = none) :
    sendOffset i f n k F s = sendReq (muOf F.u) i F k s := by simp [sendOffset, hp, hf]

theorem sendOffset_displaced (hp : homePtr f F = none) :
    sendOffset i f n k F s = raise F { kind := 0x07, va := F.l.val + BitVec.ofInt 64 (dispOf f) } s := by
  simp [sendOffset, hp, raiseA, presented]

theorem sendLine_sends (hf : windowFault (ctxOf s F.u.ctx) (poolSize (ctxOf s F.u.ctx)) [0, 1, 3] F.l.val 1 = none) :
    sendLine i k F s = sendReq (accessMu s F F.l.val) i F k s := by simp [sendLine, wins0113, hf]

theorem sendAtomic_faults (hf : windowFault (ctxOf s F.u.ctx) (poolSize (ctxOf s F.u.ctx)) wins F.l.val (tyBytes f.ty) = some e) :
    sendAtomic i f wins k F s = raise F { kind := e, va := F.l.val } s := by simp [sendAtomic, hf, raiseA]

section
variable (hf : windowFault (ctxOf s F.u.ctx) (poolSize (ctxOf s F.u.ctx)) wins F.l.val (tyBytes f.ty) = none)
include hf

theorem sendAtomic_bank (hw : winOf F.l.val = 1) : sendAtomic i f wins k F s = sendReq (muNamed F.u F.l.val) i F k s := by
  simp [sendAtomic, hf, hw]

theorem sendAtomic_primary (hw : winOf F.l.val ≠ 1) (hc : F.u.copy = 0) : sendAtomic i f wins k F s = sendReq (muOf F.u) i F k s := by
  simp [sendAtomic, hf, hw, once, hc]

/-- The twin of a REDUNDANT context has no effect outside its paddock (R471). -/
theorem sendAtomic_twin (hw : winOf F.l.val ≠ 1) (hc : F.u.copy ≠ 0) : sendAtomic i f wins k F s = s := by
  simp [sendAtomic, hf, hw, once, hc]

end

end

/-! ### The CU's own pool (R168, R467) -/

/-- Tokens do not change what a read of memory meets. -/
theorem OnlyTokens.readFails_eq {s t : State} (h : OnlyTokens s t) (a : Nat) : readFails t a = readFails s a := by
  obtain ⟨_, _, _, rfl⟩ := h
  rfl

section
variable {f : Fields} {s : State} {F : Ready} (hF : s.firing = [F]) (hs : settle true F = .go)
include hF hs

section
variable {p : Word} (hp : shiftPtr F.l.val (dispOf f) = some p)
include hp

section
variable (hw : winOf p = 2) (hf : windowFault (ctxOf s F.u.ctx) (poolSize (ctxOf s F.u.ctx)) [2] p (tyBytes f.ty) = none)
include hw hf

section
variable (ha : offOf p % tyBytes f.ty = 0) {w : Word} (hv : extendTy f.ty (leNat (rdBytes s (locUnit F.u (offOf p)) (tyBytes f.ty))) = w)
include ha hv

/-- A pool load answers when it issues. -/
theorem exec_ld_pool (hr : readFails s (locUnit F.u (offOf p)) = false) :
    exec (.ld f) s = .next (close s (replyBoth F.u f F w w s)) := by
  refine (runLanes_laneBoth_go hF hs).trans ?_
  simp [dispPtr, hp, hw, hf, ha, poolError, loadVal, hv, (onlyTokens_replyBoth F.u f F w w s).readFails_eq, hr]

theorem exec_ld_pool_uncorrectable (hr : readFails s (locUnit F.u (offOf p)) = true) :
    exec (.ld f) s = .next (close s (trapErr (replyBoth F.u f F w w s) F.u (fcol F) 0x12)) := by
  refine (runLanes_laneBoth_go hF hs).trans ?_
  simp [dispPtr, hp, hw, hf, ha, poolError, loadVal, hv, (onlyTokens_replyBoth F.u f F w w s).readFails_eq, hr]

end

/-- A misaligned access of the pool faults when it issues. -/
theorem exec_pool_misaligned (ha : offOf p % tyBytes f.ty ≠ 0) : ∀ mk ∈ [Instr.ld, .st],
    exec (mk f) s = .next (close s (raise F { kind := 0x08, va := p } s)) := by
  rintro mk (_ | ⟨_, _ | ⟨_, ⟨⟩⟩⟩) <;> refine (runLanes_laneBoth_go hF hs).trans ?_ <;> simp [dispPtr, hp, hw, hf, ha, raiseA]

end

/-- A plain access beside the pool ends as its request to the home MU does. -/
theorem exec_ld_beside_pool {t : State} (hw : winOf p ≠ 2) (h : sendHome (.ld f) f [0, 1, 3] (tyBytes f.ty) [] F s = t) :
    exec (.ld f) s = .next (close s t) := by
  rw [← h]
  refine (runLanes_laneBoth_go hF hs).trans ?_
  simp [dispPtr, hp, hw, wins0113]

theorem exec_st_beside_pool {t : State} (hw : winOf p ≠ 2) (h : sendHome (.st f) f [0, 1, 3] (tyBytes f.ty) [rightOp f F s] F s = t) :
    exec (.st f) s = .next (close s t) := by
  rw [← h]
  refine (runLanes_laneBoth_go hF hs).trans ?_
  simp [dispPtr, hp, hw, wins0113]

end

theorem exec_plain_displaced (hp : shiftPtr F.l.val (dispOf f) = none) : ∀ mk ∈ [Instr.ld, .st],
    exec (mk f) s = .next (close s (raise F { kind := 0x07, va := F.l.val + BitVec.ofInt 64 (dispOf f) } s)) := by
  rintro mk (_ | ⟨_, _ | ⟨_, ⟨⟩⟩⟩) <;> refine (runLanes_laneBoth_go hF hs).trans ?_ <;> simp [dispPtr, hp, raiseA, presented]

end

/-! ### The statement -/

/-- The step of one firing that R62 lets compute, where its body comes to `t`. -/
theorem exec_of_body {i : Instr} {f : Fields} {s t : State} {F : Ready} {body : Ready → State → State} (hF : s.firing = [F])
    (hs : settle true F = .go) (he : exec i s = runLanes (laneBoth f body) s) (h : body F s = t) : exec i s = .next (close s t) :=
  he.trans ((runLanes_laneBoth_go hF hs).trans (by rw [h]))

theorem memoryInstructionsAtIssue : Claims.MemoryInstructionsAtIssue := by
  intro f s F hF hs x n l v
  have run {i : Instr} {body : Ready → State → State} {t : State} (he : exec i s = runLanes (laneBoth f body) s)
      (h : body F s = t) : exec i s = .next (close s t) := exec_of_body hF hs he h
  refine ⟨fun p hp => ⟨fun hw hf ha => ?pool, fun hw hf ha => exec_pool_misaligned hF hs hp hw hf ha, fun hw hf => ?sends,
      fun hw e hf => ?faults, fun hf => ⟨run rfl (sendOwner_sends hp hf), run rfl (sendOwner_sends hp hf), run rfl (sendOwner_sends hp hf)⟩,
      fun e hf => ?once⟩,
    fun hp => ?displaced, fun p hp hf => ⟨run rfl (sendOffset_sends hp hf), run rfl (sendOffset_sends hp hf)⟩, fun hp => ?offset,
    fun hf => ⟨run rfl (sendLine_sends hf), run rfl (sendLine_sends hf), run rfl (sendLine_sends hf)⟩, fun hw => run rfl ?gather,
    fun hw => run rfl ?beside, run rfl rfl⟩
  case pool =>
    exact ⟨exec_ld_pool hF hs hp hw hf ha rfl, exec_ld_pool_uncorrectable hF hs hp hw hf ha rfl, exec_st_pool hF hs hp hw hf ha⟩
  case sends =>
    exact ⟨exec_ld_beside_pool hF hs hp hw (sendHome_sends hp hf), exec_st_beside_pool hF hs hp hw (sendHome_sends hp hf)⟩
  case faults =>
    simp only [List.forall_mem_cons]
    exact ⟨exec_ld_beside_pool hF hs hp hw (sendHome_faults hp hf), exec_st_beside_pool hF hs hp hw (sendHome_faults hp hf), nofun⟩
  case once =>
    simp only [List.forall_mem_cons]
    exact ⟨run rfl (sendOwner_faults hp hf), run rfl (sendOwner_faults hp hf), run rfl (sendOwner_faults hp hf), nofun⟩
  case displaced =>
    have plain := exec_plain_displaced hF hs hp
    simp only [List.forall_mem_cons] at plain ⊢
    obtain ⟨hld, hst, -⟩ := plain
    exact ⟨hld, hst, run rfl (sendOwner_displaced hp), run rfl (sendOwner_displaced hp), run rfl (sendOwner_displaced hp), nofun⟩
  case offset =>
    simp only [List.forall_mem_cons]
    exact ⟨run rfl (sendOffset_displaced hp), run rfl (sendOffset_displaced hp), nofun⟩
  case gather =>
    rw [if_neg (ne_true_of_eq_false (bne_eq_false_iff_eq.2 hw)), fld_low]
    rfl
  case beside => exact if_pos (bne_iff_ne.2 hw)

theorem exec_atomic {f : Fields} {s : State} {F : Ready} (hF : s.firing = [F]) : ∀ mk ∈
      [Instr.aadd, .amin, .amax, .aand, .aor, .axor, .axchg, .afadd, .acas],
    (mk f ≠ .acas f → settle true F = .go) → (mk f = .acas f → settle false F = .go) →
      exec (mk f) s = .next (close s (sendAtomic (mk f) f [0, 1, 3] [rightOp f F s] F s)) := by
  have plain {i : Instr} (hi : i ≠ .acas f) (he : exec i s = runLanes (laneAtomic i f) s) (h : i ≠ .acas f → settle true F = .go) :
      exec i s = .next (close s (sendAtomic i f [0, 1, 3] [rightOp f F s] F s)) := exec_of_body hF (h hi) he rfl
  simp only [List.forall_mem_cons]
  refine ⟨fun h _ => plain nofun rfl h, fun h _ => plain nofun rfl h, fun h _ => plain nofun rfl h, fun h _ => plain nofun rfl h,
    fun h _ => plain nofun rfl h, fun h _ => plain nofun rfl h, fun h _ => plain nofun rfl h, fun h _ => plain nofun rfl h,
    fun _ h => exec_of_lane hF rfl (lane_go (h trivial)), nofun⟩

theorem stlAndAtomicsAtIssue : Claims.StlAndAtomicsAtIssue := by
  intro f s F hF x n l v
  refine ⟨fun hs hf => exec_of_lane hF rfl ((lane_go hs).trans (sendLine_sends hf)), fun mk hmk ht hfalse => ⟨fun hf => ?_, fun e hf => ?_⟩,
    fun hs hf hw => ⟨exec_of_body hF hs rfl ?_, exec_of_body hF hs rfl (sendAtomic_bank hf hw)⟩⟩
  · have he := exec_atomic hF mk hmk ht hfalse
    exact ⟨fun hw => he.trans (by rw [sendAtomic_bank hf hw]), fun hw hc => he.trans (by rw [sendAtomic_primary hf hw hc]),
      fun hw hc => he.trans (by rw [sendAtomic_twin hf hw hc])⟩
  · exact (exec_atomic hF mk hmk ht hfalse).trans (by rw [sendAtomic_faults hf])
  · rw [fld_low]
    exact sendAtomic_bank hf hw

theorem phaseFenceAndPoolAtIssue : Claims.PhaseFenceAndPoolAtIssue := by
  intro f s F hF
  refine ⟨fun hs => exec_of_body hF hs rfl ?_, exec_of_lane hF rfl rfl, fun hs => exec_of_body hF hs rfl rfl⟩
  simp [fld, nbits]

/-- Settles O47: each kind of access has one lemma for the request that it sends and one for each fault of its pointer. -/
theorem memoryFamilyAtIssue : Obligations.MemoryFamilyAtIssue :=
  ⟨memoryInstructionsAtIssue, stlAndAtomicsAtIssue, phaseFenceAndPoolAtIssue⟩

end Sys2Proof.Machine

/-!
Global accesses (O46): a request that reaches its port, a global load or store at its MU, which translates its address first, and a load whose
data are read.
-/

namespace Sys2Proof.Machine

open Sys2Proof

/-! ### A memory request leaves its port (R188, R204) -/

section
variable {s t w : State} {q : Req} {f : Fields}

/-- The MU serves its oldest request, a memory request, from the state in which its checker holds what the request used. -/
theorem serves_of_touched (h : Claims.Oldest s q) (hm : performMemory q (Claims.touched s q) = some t) : Claims.Serves s q fun _ => t := by
  obtain ⟨hq, hb⟩ := h
  obtain ⟨hc, hcall, harg⟩ := performMemory_kind hm
  have hm' : performMemory q (capTouch (Claims.taken s q) q.mu (fcol q.c) q.c.l.val) = some t := hm
  have hbody : bodyMuRequest q.mu s = performReq q (Claims.taken s q) := by
    unfold bodyMuRequest
    rw [hq]
    dsimp only
    rw [hb, hc, if_neg Bool.false_ne_true, if_neg Bool.false_ne_true]
    split
    · exact absurd ‹_› (hcall _)
    · exact absurd ‹_› (harg _)
    · rfl
  change done s (bodyMuRequest q.mu s) = _
  rw [hbody, performReq, hm', done]

theorem reqFields_of_fieldsOf (h : fieldsOf q.i = some f) : reqFields q = f := by rw [reqFields, h, Option.getD_some]

theorem reqPtr_eq {p : Word} (hf : reqFields q = f) (hp : shiftPtr q.c.l.val (dispOf f) = some p) : reqPtr q = p := by
  rw [reqPtr, dispPtr, hf, hp, Option.getD_some]

/-! ### A translated access (R187, R417, R418) -/

section
variable {acc : Access} {va : Nat} {k : XAddr → State → State}

theorem withPhys_faults {e : XFault} (h : translate w q acc va = .fault e) : withPhys w q acc va k = raise q.c (xInfo e) w := by
  rw [withPhys, h]

theorem withPhys_waits (h : translate w q acc va = .waits t) : withPhys w q acc va k = t := by rw [withPhys, h]

theorem withPhys_goes {a : XAddr} (h : translate w q acc va = .ok a t) : withPhys w q acc va k = k a t := by rw [withPhys, h]

end

/-- Own buffered stores do not hold every byte: the load waits for its data. -/
theorem loadGlobal_waits {va n : Nat} {rep : State → State} {a : XAddr} (h : allOwn t q (lineVa va) (va % 64) n = false) :
    loadGlobal q va n rep a t = { t with mu := { t.mu with loads := t.mu.loads ++ [{ req := q, va := va, phys := a.phys }] } } :=
  if_neg (by simp [h])

theorem loadGlobal_own {va n : Nat} {rep : State → State} {a : XAddr} (h : allOwn t q (lineVa va) (va % 64) n = true) (hn : 0 < n) :
    loadGlobal q va n rep a t = rep t :=
  if_pos (by simp [h, hn.ne'])

/-! ### LD, ST and GLD at their MU (R192, R193, R205) -/

section
variable {p : Word} (hf : reqFields q = f) (hp : shiftPtr q.c.l.val (dispOf f) = some p) (hw : winOf p ≠ 1)
include hf hp hw

theorem performLd_faults {e : FaultInfo} (hr : resolveVa w q.mu p (tyBytes f.ty) (tyBytes f.ty) false = .error e) :
    performLd q w = raise q.c e w := by
  simp [performLd, hf, reqPtr_eq hf hp, hw, hr]

theorem performLd_translates {va : Nat} (hr : resolveVa w q.mu p (tyBytes f.ty) (tyBytes f.ty) false = .ok va) :
    performLd q w = withPhys w q .read va fun a s =>
      loadGlobal q va (tyBytes f.ty) (reply q (loadVal f.ty (seenGlobal s q va a.phys (tyBytes f.ty)))) a s := by
  simp [performLd, hf, reqPtr_eq hf hp, hw, hr]

theorem performSt_faults {e : FaultInfo} (hr : resolveVa w q.mu p (tyBytes f.ty) (tyBytes f.ty) true = .error e) :
    performSt q w = raise q.c e w := by
  simp [performSt, storeData, length_leBytes, hf, reqPtr_eq hf hp, hw, hr]

theorem performSt_translates {va : Nat} (hr : resolveVa w q.mu p (tyBytes f.ty) (tyBytes f.ty) true = .ok va) :
    performSt q w = withPhys w q .write va fun a s =>
      storeReq q (globalOp (ctxOf s q.c.u.ctx) va a (leBytes (q.k.getD 0 0).toNat (tyBytes f.ty)) none) (BitVec.ofNat 64 va) s := by
  simp [performSt, storeData, length_leBytes, hf, reqPtr_eq hf hp, hw, hr, reqK, reqCtx]

end

theorem performGld_refused {e : FaultInfo} (hc : capLive w q.mu q.c.l.val = .error e) : performGld q w = raise q.c e w := by
  simp [performGld, hc]

section
variable {e : CapEnt} (hf : reqFields q = f) (hc : capLive w q.mu q.c.l.val = .ok e)
include hf hc

/-- An index below 0 or beyond the capability's length answers the fill value and 1. -/
theorem performGld_fills (h : (q.k.getD 0 0).toInt < 0 ∨ (capOff q.c.l.val : Int) + ((q.k.getD 0 0).toInt + 1) * tyBytes f.ty > e.len) :
    performGld q w = replyBoth q.mu f q.c (extendTy f.ty (q.k.getD 1 0).toNat) 1 w := by
  simp only [performGld, hc, hf, reqK, reply2]
  exact if_pos (by simpa using h)

section
variable {va : Nat} (h0 : 0 ≤ (q.k.getD 0 0).toInt)
  (hl : (capOff q.c.l.val : Int) + ((q.k.getD 0 0).toInt + 1) * tyBytes f.ty ≤ e.len)
  (hva : va = e.base + capOff q.c.l.val + (q.k.getD 0 0).toInt.toNat * tyBytes f.ty)
include h0 hl hva

theorem performGld_misaligned (ha : va % tyBytes f.ty ≠ 0) : performGld q w = raise q.c { kind := 0x08, va := q.c.l.val } w := by
  subst hva
  simp only [performGld, hc, hf, reqK]
  rw [if_neg (by simpa using ⟨h0, hl⟩)]
  exact if_pos (bne_iff_ne.2 ha)

theorem performGld_translates (ha : va % tyBytes f.ty = 0) : performGld q w = withPhys w q .read va fun a s =>
    loadGlobal q va (tyBytes f.ty) (reply2 q (loadVal f.ty (seenGlobal s q va a.phys (tyBytes f.ty))) 0) a s := by
  subst hva
  simp only [performGld, hc, hf, reqK]
  rw [if_neg (by simpa using ⟨h0, hl⟩)]
  exact if_neg (by simpa using ha)

end

end

/-! ### The statement -/

theorem performMemory_of_ld (hi : q.i = .ld f) : performMemory q w = some (performLd q w) ∧ reqFields q = f :=
  ⟨by rw [performMemory, hi], reqFields_of_fieldsOf (by rw [hi]; rfl)⟩

theorem performMemory_of_st (hi : q.i = .st f) : performMemory q w = some (performSt q w) ∧ reqFields q = f :=
  ⟨by rw [performMemory, hi], reqFields_of_fieldsOf (by rw [hi]; rfl)⟩

theorem performMemory_of_gld (hi : q.i = .gld f) : performMemory q w = some (performGld q w) ∧ reqFields q = f :=
  ⟨by rw [performMemory, hi], reqFields_of_fieldsOf (by rw [hi]; rfl)⟩

end

theorem globalLoadsAndStoresServed : Claims.GlobalLoadsAndStoresServed := by
  intro s q f p h n w
  refine ⟨fun hi hp hw => ?ld, fun hi hp hw => ?st, fun hi e hc => ?gldRefused, fun hi e hc => ?gld⟩
  case ld =>
    obtain ⟨hm, rfl⟩ := performMemory_of_ld (w := w) hi
    have ends {t : State} (ht : performLd q w = t) : Claims.Serves s q fun _ => t := serves_of_touched h (hm.trans (by rw [ht]))
    refine ⟨fun e hr => ends (performLd_faults rfl hp hw hr), fun va hr => ?_⟩
    have hx := performLd_translates rfl hp hw hr
    exact ⟨fun e ht => ends (hx.trans (withPhys_faults ht)), fun t ht => ends (hx.trans (withPhys_waits ht)), fun a t ht =>
      ⟨fun ho => ends (hx.trans ((withPhys_goes ht).trans (loadGlobal_waits ho))),
        fun ho hn => ends (hx.trans ((withPhys_goes ht).trans (loadGlobal_own ho hn)))⟩⟩
  case st =>
    obtain ⟨hm, rfl⟩ := performMemory_of_st (w := w) hi
    have ends {t : State} (ht : performSt q w = t) : Claims.Serves s q fun _ => t := serves_of_touched h (hm.trans (by rw [ht]))
    refine ⟨fun e hr => ends (performSt_faults rfl hp hw hr), fun va hr => ?_⟩
    have hx := performSt_translates rfl hp hw hr
    exact ⟨fun e ht => ends (hx.trans (withPhys_faults ht)), fun t ht => ends (hx.trans (withPhys_waits ht)),
      fun a t t' ht ho => ends (hx.trans ((withPhys_goes ht).trans (storeReq_accepted ho))),
      fun a t ht ho => ends (hx.trans ((withPhys_goes ht).trans (storeReq_overflow ho)))⟩
  case gldRefused => exact serves_of_touched h ((performMemory_of_gld hi).1.trans (by rw [performGld_refused hc]))
  case gld =>
    obtain ⟨hm, rfl⟩ := performMemory_of_gld (w := w) hi
    have ends {t : State} (ht : performGld q w = t) : Claims.Serves s q fun _ => t := serves_of_touched h (hm.trans (by rw [ht]))
    exact ⟨fun hx => ends (performGld_fills rfl hc hx), fun h0 hl => ⟨fun ha => ends (performGld_misaligned rfl hc h0 hl rfl ha),
      fun ha a t ht ho => ends ((performGld_translates rfl hc h0 hl rfl ha).trans ((withPhys_goes ht).trans (loadGlobal_waits ho)))⟩⟩

/-! ### The data of a load (R187) -/

/-- The step that reads a load's data, where the read meets no error. -/
theorem exec_globalLoadPerform {s : State} {m : UId} {k : Nat} {g : GAccess}
    (hg : (s.mu.loads.filter fun g => g.req.mu == m)[k]? = some g) (hr : readFails s g.phys = false) :
    exec (.globalLoadPerform m k) s = .next (close s (loadAnswer g { s with mu := { s.mu with loads := s.mu.loads.erase g } })) := by
  have hr' : readFails { s with mu := { s.mu with loads := s.mu.loads.erase g } } g.phys = false := hr
  refine congrArg (done s) ?_
  rw [bodyGlobalLoad, hg]
  dsimp only
  rw [readReply, hr', if_neg Bool.false_ne_true]

theorem globalLoadDataAnswered : Claims.GlobalLoadDataAnswered := by
  intro s q f m k va phys hg hr t n byte v
  have he := exec_globalLoadPerform hg hr
  refine ⟨fun hi => he.trans ?_, fun hi => he.trans ?_⟩
  · have hf : reqFields q = f := reqFields_of_fieldsOf (by rw [hi]; rfl)
    simp only [loadAnswer, hi, hf, reply]
    rfl
  · have hf : reqFields q = f := reqFields_of_fieldsOf (by rw [hi]; rfl)
    simp only [loadAnswer, hi, hf, reply2]
    rfl

/-- Settles O46: a load or store at its MU has one lemma per check, and the translation decides what follows. -/
theorem globalAccessesServed : Obligations.GlobalAccessesServed :=
  ⟨fun _ _ _ _ _ => sendReq_here, globalLoadsAndStoresServed, globalLoadDataAnswered⟩

end Sys2Proof.Machine

/-!
Atomics (O12): the new value of a word, the answer, and the waiters of AWAIT. The commit point of an atomic writes the call record of its
colour, which leaves the MUs as they were.
-/

namespace Sys2Proof.Machine

open Sys2Proof

/-! ### What the write of a call record leaves (R73, R76) -/

/-- A field that a change of contexts keeps, with their ids, is that of every context afterwards. -/
theorem ctxOf_updCtx_field {α : Type} {p : Ctx → α} {s : State} {c : Nat} {g : Ctx → Ctx} (hid : ∀ y, (g y).id = y.id)
    (hp : ∀ y, p (g y) = p y) (d : Nat) : p (ctxOf (updCtx s c g) d) = p (ctxOf s d) := by
  have hfind : ((fun y => y.id == d) ∘ fun y : Ctx => if y.id == c then g y else y) = fun y => y.id == d := by
    funext y
    rw [Function.comp_apply]
    split
    · rw [hid]
    · rfl
  rw [ctxOf, updCtx, List.find?_map, hfind, ctxOf]
  cases s.ctxs.find? fun y => y.id == d with
  | none => rfl
  | some y =>
    rw [Option.map_some, Option.getD_some, Option.getD_some]
    split
    · exact hp y
    · rfl

/-- A context without its call records. -/
def Ctx.bare (x : Ctx) : Ctx := { x with recs := [], rcache := [] }

theorem eq_of_bare {α : Type} {p : Ctx → α} {x y : Ctx} (hp : ∀ z, p z.bare = p z) (h : x.bare = y.bare) : p x = p y := by
  rw [← hp x, h, hp y]

theorem putRec_bare (x : Ctx) (r : CallRec) : (putRec x r).bare = x.bare := rfl

/-- From `s` to `t` nothing changed but call records, in their contexts and in memory, recorded errors, and what leaves the module. -/
def OnlyRecords (s t : State) : Prop :=
  (∃ cs wl un lk, t = { s with ctxs := cs, wlog := wl, un := un, lk := lk }) ∧ ∀ c, (ctxOf t c).bare = (ctxOf s c).bare

theorem OnlyRecords.refl (s : State) : OnlyRecords s s := ⟨⟨_, _, _, _, rfl⟩, fun _ => rfl⟩

theorem OnlyRecords.trans {s t u : State} (h : OnlyRecords s t) (k : OnlyRecords t u) : OnlyRecords s u := by
  obtain ⟨⟨_, _, _, _, rfl⟩, hc⟩ := h
  obtain ⟨⟨_, _, _, _, rfl⟩, kc⟩ := k
  exact ⟨⟨_, _, _, _, rfl⟩, fun c => (kc c).trans (hc c)⟩

theorem onlyRecords_updCtx (s : State) (c : Nat) {g : Ctx → Ctx} (hg : ∀ y, (g y).bare = y.bare) : OnlyRecords s (updCtx s c g) :=
  ⟨⟨_, _, _, _, rfl⟩, ctxOf_updCtx_field (p := Ctx.bare) (fun y => show (g y).bare.id = y.bare.id by rw [hg]) hg⟩

theorem onlyRecords_sendOut (s : State) (x : Ctx) (m : Nat) (c : Cargo) : OnlyRecords s (sendOut s x m c) := by
  obtain ⟨_, h⟩ := sendOne_frame s (memberMid x m, s.clock, c)
  rw [sendOut, h]
  exact ⟨⟨_, _, _, _, rfl⟩, fun _ => rfl⟩

/-- A record goes into its context's list, and the members of an outing are told. -/
theorem onlyRecords_put (s : State) (c : Nat) (r : CallRec) (m : LinkMsg) :
    OnlyRecords s (tellMembers (updCtx s c fun x => putRec x r) c m) := by
  obtain ⟨_, h⟩ := tellMembers_frame (updCtx s c fun x => putRec x r) c m
  refine (onlyRecords_updCtx s c fun y => putRec_bare y r).trans ?_
  rw [h]
  exact ⟨⟨_, _, _, _, rfl⟩, fun _ => rfl⟩

/-- The colour unit's write of a record whose place is mapped. -/
theorem onlyRecords_storeRec {s : State} {u : UId} {r : CallRec}
    (h : ∃ a, translateNow s (ctxOf s u.ctx) .write ((ctxOf s u.ctx).crb + 128 * r.col) = .ok a) : OnlyRecords s (storeRec s u r) := by
  obtain ⟨a, ha⟩ := h
  unfold storeRec
  dsimp only
  split
  · exact onlyRecords_updCtx s _ fun y => putRec_bare y r
  · split
    · exact onlyRecords_put ..
    · rw [ha]
      exact .trans ⟨⟨_, _, _, _, rfl⟩, fun _ => rfl⟩ (onlyRecords_put (wrBytes s a.phys (recBytes r)) ..)

theorem noteRead_errors (s : State) (u : UId) (col : Nat) (bad : Bool) : ∃ un, noteRead s u col bad = { s with un := un } := by
  cases bad
  · exact ⟨_, rfl⟩
  · exact ⟨_, rfl⟩

/-- The colour unit's read of a record whose place is mapped: no write, and no context but for its records. -/
theorem touchRec_records {s : State} {c k col : Nat} (h : ∃ a, translateNow s (ctxOf s c) .read ((ctxOf s c).crb + 128 * col) = .ok a) :
    (∃ cs un, touchRec s c k col = { s with ctxs := cs, un := un }) ∧ ∀ d, (ctxOf (touchRec s c k col) d).bare = (ctxOf s d).bare := by
  obtain ⟨a, ha⟩ := h
  unfold touchRec
  dsimp only
  split
  · exact ⟨⟨_, _, rfl⟩, fun _ => rfl⟩
  · split
    · exact ⟨⟨_, _, rfl⟩, fun _ => rfl⟩
    · split
      · exact ⟨⟨_, _, rfl⟩, ctxOf_updCtx_field (p := Ctx.bare) (fun _ => rfl) fun _ => rfl⟩
      · rw [ha]
        dsimp only
        obtain ⟨un, hn⟩ := noteRead_errors s (hubOf ⟨c, k, 0, 0⟩) col (upsetIn s a.phys 128)
        rw [hn]
        exact ⟨⟨_, _, rfl⟩, ctxOf_updCtx_field (p := Ctx.bare) (s := { s with un := un }) (fun _ => rfl) fun _ => rfl⟩

/-- A translation sees neither the records of a context nor the errors recorded. -/
theorem translateNow_congr {s : State} {cs : List Ctx} {un : UnitState} {x y : Ctx} (h : x.bare = y.bare) (acc : Access) (va : Nat) :
    translateNow { s with ctxs := cs, un := un } x acc va = translateNow s y acc va := by
  calc translateNow { s with ctxs := cs, un := un } x acc va = translateNow s x.bare acc va := rfl
    _ = translateNow s y.bare acc va := by rw [h]
    _ = translateNow s y acc va := rfl

theorem usedRec_col {x : Ctx} {k c : Nat} {r : CallRec} (h : usedRec x k c = some r) : r.col = c := by
  have hr : (r.copy == k && r.col == c) = true :=
    List.find?_some (p := fun r : CallRec => r.copy == k && r.col == c) (Option.filter_eq_some_iff.1 h).1
  exact beq_iff_eq.1 (Bool.and_eq_true_iff.1 hr).2

/-- The first commit point of a firing whose call record is mapped changes nothing but records. -/
theorem onlyRecords_commitPt {s : State} {F : Ready} (h : Claims.RecordMapped s F) :
    OnlyRecords s (commitPt s F.u.ctx F.u.copy (fcol F)) := by
  unfold commitPt withRec
  rcases h with h0 | ⟨hread, a, ha, -⟩
  · rw [if_pos (beq_iff_eq.2 h0)]
    exact .refl s
  obtain ⟨⟨cs, un, ht⟩, hctx⟩ := touchRec_records hread
  generalize touchRec s F.u.ctx F.u.copy (fcol F) = t at ht hctx ⊢
  have htouch : OnlyRecords s t := ⟨⟨cs, s.wlog, un, s.lk, ht⟩, hctx⟩
  have hbare := hctx F.u.ctx
  have hplace : (ctxOf t F.u.ctx).crb = (ctxOf s F.u.ctx).crb := eq_of_bare (p := Ctx.crb) (fun _ => rfl) hbare
  have hwrite : translateNow t (ctxOf t F.u.ctx) .write ((ctxOf t F.u.ctx).crb + 128 * fcol F) = .ok a := by
    rw [hplace, ← ha]
    subst ht
    exact translateNow_congr hbare ..
  dsimp only
  split
  · exact .refl s
  split
  · exact htouch
  split
  · exact htouch
  next r hr =>
    have hstore : OnlyRecords t (storeRec t (hubOf ⟨F.u.ctx, F.u.copy, 0, 0⟩) { r with cm := true }) :=
      onlyRecords_storeRec ⟨a, by rw [← hwrite, ← usedRec_col hr]; rfl⟩
    split
    · exact htouch
    split
    · exact htouch.trans hstore
    · exact (htouch.trans hstore).trans (onlyRecords_sendOut ..)

/-! ### Waiters (R199) -/

theorem freeWaiter_congr {s t : State} {m : UId} (hw : t.mu.waiters = s.mu.waiters) (hu : sliceUsed t m = sliceUsed s m)
    (hs : sliceSize (ctxOf t m.ctx) = sliceSize (ctxOf s m.ctx)) : freeWaiter t m = freeWaiter s m := by
  unfold freeWaiter
  rw [hw, hu, hs]

/-- The free waiter of an MU depends on nothing that a call record's write changes. -/
theorem OnlyRecords.freeWaiter_eq {s t : State} (h : OnlyRecords s t) (m : UId) : freeWaiter t m = freeWaiter s m := by
  obtain ⟨⟨cs, wl, un, lk, rfl⟩, hctx⟩ := h
  exact freeWaiter_congr rfl rfl (eq_of_bare (p := sliceSize) (fun _ => rfl) (hctx m.ctx))

/-- A request that parks takes the free waiter's place. -/
theorem parkCommit_waiters {s : State} {q : Req} {wk off arg i : Nat} {va : Word} (hr : Claims.RecordMapped s q.c)
    (hi : freeWaiter s q.mu = some i) : (parkCommit q wk off arg va s).mu.waiters = s.mu.waiters ++
      [{ mu := q.mu, idx := i, wk := wk, off := off, u := q.c.u, col := fcol q.c, itr := fitr q.c, ss := q.c.stn,
         ta := (reqFields q).ta, tb := (reqFields q).tb, wty := (reqFields q).ty, arg := arg }] := by
  have hrec : OnlyRecords s (reqCommit q s) := onlyRecords_commitPt hr
  have hmu : (reqCommit q s).mu = s.mu := by
    obtain ⟨⟨_, _, _, _, ht⟩, -⟩ := hrec
    rw [ht]
  unfold parkCommit
  rw [hi]
  dsimp only
  unfold parkWaiter
  rw [hrec.freeWaiter_eq, hi]
  dsimp only
  rw [hmu]

/-! ### The word's new value and the answer (R211, R212) -/

section
variable {q : Req} {f : Fields} {s : State}

/-- Every atomic but ACAS answers the old value to both targets. -/
theorem atomicReply_old {i : Instr} (h : ∀ g, i ≠ .acas g) (t : Ty) (old : Nat) (b : Bool) :
    atomicReply i t old b = (extendTy t old, extendTy t old) := by
  unfold atomicReply
  split
  · exact absurd rfl (h _)
  · rfl

theorem atomicReply_acas {i : Instr} (h : i = .acas f) (t : Ty) (old : Nat) (b : Bool) :
    atomicReply i t old b = (extendTy t old, if b then 1 else 0) := by rw [h]; rfl

/-- What an atomic makes of the word at a location of the request's MU or of a memory controller. -/
def atomicResult (q : Req) (s : State) (loc : Nat) : Nat × Bool :=
  let f := reqFields q
  atomicNew q.i f.ty (rdN s loc (tyBytes f.ty)) (lowBits f.ty (q.k.getD 0 0)) (lowBits f.ty (pVal q.c))

/-! ### At the bank (R198, R213, R214) -/

theorem atomicFault_none {m : UId} {off n : Nat} (ha : off % n = 0) (hl : liveFault s (locUnit m off) n = none)
    (hfull : isState s (locUnit m off) = 0) : atomicFault s m off n = none := by
  simp [atomicFault, bankFault, ha, hl, hfull]

section
variable {n loc : Nat} (hf : reqFields q = f) (hn : n = tyBytes f.ty) (hloc : loc = locUnit q.mu (offOf q.c.l.val))
  (hb : atomicFault s q.mu (offOf q.c.l.val) n = none)
include hf hn hloc hb

section
variable {r : Nat × Bool} (hres : r = atomicResult q s loc) (hr : readFails (reqCommit q (wrN s loc n r.1)) loc = false)
include hres hr

/-- An atomic on a FULL word stores, is a commit point and answers. -/
theorem performAtomicBank_answers (hi : ∀ g, q.i ≠ .aaddth g) : performAtomicBank q s =
    reply2 q (atomicReply q.i f.ty (rdN s loc n) r.2).1 (atomicReply q.i f.ty (rdN s loc n) r.2).2 (reqCommit q (wrN s loc n r.1)) := by
  subst hf hn hloc hres
  unfold performAtomicBank
  dsimp only
  rw [hb]
  dsimp only
  split
  · exact absurd ‹_› (hi _)
  · exact if_neg (ne_true_of_eq_false hr)

/-- AADDTH moreover lets the waiters of AWAIT go where it crosses its threshold. -/
theorem performAtomicBank_aaddth (hi : q.i = .aaddth f) : performAtomicBank q s =
    let t := reply2 q (extendTy f.ty (rdN s loc n)) (extendTy f.ty (rdN s loc n)) (reqCommit q (wrN s loc n r.1))
    if crosses f.ty (rdN s loc n) r.1 (lowBits f.ty (q.k.getD 1 0)) then releaseAwait q.mu (offOf q.c.l.val) r.1 t else t := by
  have hread : readReply q q.mu loc (reply2 q (atomicReply q.i f.ty (rdN s loc n) r.2).1 (atomicReply q.i f.ty (rdN s loc n) r.2).2)
      (reqCommit q (wrN s loc n r.1)) = reply2 q (extendTy f.ty (rdN s loc n)) (extendTy f.ty (rdN s loc n)) (reqCommit q (wrN s loc n r.1)) := by
    rw [atomicReply_old (by rw [hi]; nofun)]
    exact if_neg (ne_true_of_eq_false hr)
  dsimp only
  rw [← hread]
  subst hf hn hloc hres
  unfold performAtomicBank
  dsimp only
  rw [hb]
  dsimp only
  split
  · rfl
  · exact absurd hi (‹∀ g, q.i = .aaddth g → False› _)

end

theorem performAwait_answers (hge : intOf f.ty (q.k.getD 0 0) ≤ intOf f.ty (BitVec.ofNat 64 (rdN s loc n)))
    (hr : readFails (reqCommit q s) loc = false) : performAwait q s = reply q (extendTy f.ty (rdN s loc n)) (reqCommit q s) := by
  subst hf hn hloc
  unfold performAwait
  dsimp only
  rw [hb]
  dsimp only
  rw [reqK, if_pos hge]
  exact if_neg (ne_true_of_eq_false hr)

theorem performAwait_parks (hlt : intOf f.ty (BitVec.ofNat 64 (rdN s loc n)) < intOf f.ty (q.k.getD 0 0)) :
    performAwait q s = parkCommit q 1 (offOf q.c.l.val) 0 q.c.l.val s := by
  subst hf hn hloc
  unfold performAwait
  dsimp only
  rw [hb]
  exact if_neg (not_le.2 hlt)

end

/-- A request whose MU performs it as an atomic of the bank. -/
theorem exec_atomicBank (h : Claims.Oldest s q) (hw : winOf q.c.l.val = 1)
    (hm : ∀ t, performMemory q t = some (performAtomic q t)) :
    exec (.muRequest q.mu) s = .next (close s (performAtomicBank q (Claims.taken s q))) :=
  exec_muRequest_memory h (by rw [hw]; decide) ((hm _).trans (congrArg some (if_pos (beq_iff_eq.2 hw))))

theorem exec_await (h : Claims.Oldest s q) (hw : winOf q.c.l.val = 1) (hi : q.i = .await f) :
    exec (.muRequest q.mu) s = .next (close s (performAwait q (Claims.taken s q))) :=
  exec_muRequest_memory h (by rw [hw]; decide) (by rw [performMemory, hi])

/-! ### At the memory controller (R187, R211) -/

/-- A global atomic of a context that has no twin. -/
theorem exec_globalAtomicPerform {m : UId} {k : Nat} {g : GAccess}
    (hg : (s.mu.atomics.filter fun g => g.req.mu == m)[k]? = some g) (hpair : g.req.c.pair = none) (hr : readFails s g.phys = false) :
    exec (.globalAtomicPerform m k) s = .next (close s (
      let r := atomicResult g.req s g.phys
      let w := atomicReply g.req.i (reqFields g.req).ty (rdN s g.phys (tyBytes (reqFields g.req).ty)) r.2
      reqCommit g.req (reply2 g.req w.1 w.2 (wrN { s with mu := { s.mu with atomics := s.mu.atomics.erase g } } g.phys
        (tyBytes (reqFields g.req).ty) r.1)))) := by
  have htwin : twinOf g.req.c = none := by rw [twinOf, hpair]; rfl
  have hr' (v : Nat) : readFails (wrN { s with mu := { s.mu with atomics := s.mu.atomics.erase g } } g.phys
      (tyBytes (reqFields g.req).ty) v) g.phys = false := hr
  refine congrArg (done s) ?_
  rw [bodyGlobalAtomic, hg]
  dsimp only
  unfold doGlobalAtomic commitPair readReply replyPair
  dsimp only
  rw [hr', htwin]
  rfl

end

/-! ### The statement -/

/-- The table of R211 to R213: the new value that each atomic stores. -/
theorem atomicNew_table (i : Instr) (f : Fields) (b p : Nat) :
    let int (v : Nat) : Int := intOf f.ty (BitVec.ofNat 64 v)
    let upd (mk : Fields → Instr) (new : Nat → Nat) : Prop := ∀ a, i = mk f → atomicNew i f.ty a b p = (new a, true)
    upd .aadd (fun a => (a + b) % 2 ^ tyW f.ty) ∧ upd .aaddth (fun a => (a + b) % 2 ^ tyW f.ty) ∧ upd .aand (fun a => a &&& b) ∧
      upd .aor (fun a => a ||| b) ∧ upd .axor (fun a => a ^^^ b) ∧ upd .axchg (fun _ => b) ∧
      upd .amin (fun a => if int b < int a then b else a) ∧ upd .amax (fun a => if int a < int b then b else a) ∧
      upd .afadd (fun a => rnd (fmtD f.ty) .rne false 0 (Ex.add false (decodeF (fmtD f.ty) a) (decodeF (fmtD f.ty) b))) ∧
      (i = .acas f → ∀ a, atomicNew i f.ty a b p = if a = b then (p, true) else (a, false)) := by
  refine ⟨?_, ?_, ?_, ?_, ?_, ?_, ?_, ?_, ?_, fun h a => ?acas⟩
  case acas =>
    subst h
    simp only [atomicNew, beq_iff_eq]
  all_goals
    rintro a rfl
    rfl

/-- The eight atomics that answer the old value and do nothing else are performed at the bank. -/
theorem performMemory_plainAtomic {q : Req} {f : Fields} : ∀ mk ∈ [Instr.aadd, .amin, .amax, .aand, .aor, .axor, .axchg, .afadd], q.i = mk f →
    (∀ t, performMemory q t = some (performAtomic q t)) ∧ (∀ g, q.i ≠ .aaddth g) ∧ (∀ g, q.i ≠ .acas g) ∧ fieldsOf q.i = some f := by
  simp only [List.forall_mem_cons]
  refine ⟨?_, ?_, ?_, ?_, ?_, ?_, ?_, ?_, nofun⟩
  all_goals
    intro hi
    refine ⟨fun t => by rw [performMemory, hi], ?_⟩
    rw [hi]
    exact ⟨fun _ => nofun, fun _ => nofun, rfl⟩

/-- Settles O12: the table of new values, the outcomes at the bank, and the memory controller's step. -/
theorem atomicsPerformed : Obligations.AtomicsPerformed := by
  intro s q f w n arg int upd
  refine ⟨atomicNew_table .., ?bank, fun m k va phys hg hi hpair hr => ?global⟩
  case bank =>
    intro h hw ha off loc hl hfull old r o w v
    have hb : atomicFault (Claims.taken s q) q.mu (offOf q.c.l.val) n = none := atomicFault_none ha hl hfull
    refine ⟨fun hr => ⟨fun mk hmk hi => ?plain, fun hi => ?acas, fun hi => ?aaddth⟩,
      fun hi hge hr => ?answers, fun hi hlt i hfree hrec => ?parks⟩
    case plain =>
      obtain ⟨hm, hth, hcas, hfi⟩ := performMemory_plainAtomic mk hmk hi
      obtain rfl := reqFields_of_fieldsOf hfi
      refine serves_of_exec (exec_atomicBank h hw hm) ((performAtomicBank_answers rfl rfl rfl hb rfl hr hth).trans ?_)
      rw [atomicReply_old hcas]
      rfl
    case acas =>
      obtain rfl := reqFields_of_fieldsOf (q := q) (f := f) (by rw [hi]; rfl)
      refine serves_of_exec (exec_atomicBank h hw fun t => by rw [performMemory, hi])
        ((performAtomicBank_answers rfl rfl rfl hb rfl hr (by rw [hi]; nofun)).trans ?_)
      rw [atomicReply_acas hi]
      rfl
    case aaddth =>
      obtain rfl := reqFields_of_fieldsOf (q := q) (f := f) (by rw [hi]; rfl)
      refine serves_of_exec (exec_atomicBank h hw fun t => by rw [performMemory, hi])
        ((performAtomicBank_aaddth rfl rfl rfl hb rfl hr hi).trans ?_)
      simp only [crosses, Bool.and_eq_true, decide_eq_true_eq]
      rfl
    case answers =>
      obtain rfl := reqFields_of_fieldsOf (q := q) (f := f) (by rw [hi]; rfl)
      exact serves_of_exec (exec_await h hw hi) (performAwait_answers rfl rfl rfl hb hge hr)
    case parks =>
      obtain rfl := reqFields_of_fieldsOf (q := q) (f := f) (by rw [hi]; rfl)
      refine ⟨_, exec_await h hw hi, ?_⟩
      rw [close_mu, performAwait_parks rfl rfl rfl hb hlt]
      have hfree' : freeWaiter (Claims.taken s q) q.mu = some i :=
        (freeWaiter_congr (s := s) (t := Claims.taken s q) rfl rfl rfl).trans hfree
      exact parkCommit_waiters hrec hfree'
  case global =>
    obtain rfl := reqFields_of_fieldsOf hi
    refine (exec_globalAtomicPerform hg hpair hr).trans ?_
    dsimp only
    split
    next hcas =>
      rw [atomicReply_acas hcas]
      rfl
    next hcas =>
      rw [atomicReply_old fun g hg => hcas (by rw [hg] at hi ⊢; exact congrArg Instr.acas (Option.some.inj hi))]
      rfl

end Sys2Proof.Machine

/-!
The capability unit (O13): one lemma per outcome of CAP.ALLOC, CAP.FREE, CAP.NARROW and CAP.INFO, for a firing that has no twin.
-/

namespace Sys2Proof.Machine

open Sys2Proof

/-! ### Shared by the four instructions (R204, R206, R207) -/

section
variable {f : Fields} {F : Ready} {s : State}

theorem capReply_alone (h : F.pair = none) (v w : Word) : capReply f F v w s = replyBoth (hubOf F.u) f F v w s := by
  rw [capReply, replyPair, twinOf, h]
  rfl

/-- A length that no capability has: 0, or 2^44 and more. -/
theorem badLength_iff {n : Nat} : (n == 0 || decide (n ≥ 2 ^ 44)) = true ↔ n = 0 ∨ 2 ^ 44 ≤ n := by
  simp only [Bool.or_eq_true, beq_iff_eq, decide_eq_true_eq, ge_iff_le]

/-- The next index is taken: its checkers drop what stood there, and it is passed on. -/
def indexTaken (F : Ready) (i : Nat) (s : State) : State :=
  updCtx (dropTab s F.u.ctx i) F.u.ctx fun x => { x with nextidx := x.nextidx + 1 }

/-- The index that a context takes next has been passed on, whatever tokens then leave. -/
theorem nextidx_indexTaken {i : Nat} {t : State} {x : Ctx} (hx : s.ctxs.find? (fun y => y.id == F.u.ctx) = some x)
    (h : OnlyTokens (indexTaken F i s) t) : (ctxOf t F.u.ctx).nextidx = x.nextidx + 1 := by
  obtain ⟨_, _, _, rfl⟩ := h
  exact congrArg Ctx.nextidx (ctxOf_updCtx (s := dropTab s F.u.ctx i) (g := fun x => { x with nextidx := x.nextidx + 1 }) hx fun _ => rfl)

theorem takeIndex_writes {e : CapEnt} {a : XAddr} (hpair : F.pair = none)
    (ha : translateNow s (ctxOf s F.u.ctx) .write ((ctxOf s F.u.ctx).ctb + 16 * (ctxOf s F.u.ctx).nextidx) = .ok a) :
    takeIndex f F e s = replyBoth (hubOf F.u) f F (capPtr (ctxOf s F.u.ctx).nextidx) 0
      (indexTaken F (ctxOf s F.u.ctx).nextidx (wrBytes s a.phys (capBytes e))) := by
  rw [takeIndex]
  dsimp only
  rw [ha]
  exact capReply_alone hpair ..

end

/-! ### A dereference leaves the contexts (R204) -/

@[simp] theorem trapErr_ctxs (s : State) (u : UId) (col kind : Nat) : (trapErr s u col kind).ctxs = s.ctxs := by
  unfold trapErr
  dsimp only
  split <;> rfl

@[simp] theorem noteRead_ctxs (s : State) (u : UId) (col : Nat) (bad : Bool) : (noteRead s u col bad).ctxs = s.ctxs := by
  unfold noteRead
  split
  · exact trapErr_ctxs ..
  · rfl

@[simp] theorem touchTab_ctxs (s : State) (m : UId) (i : Nat) : (touchTab s m i).ctxs = s.ctxs := by
  unfold touchTab
  dsimp only
  split
  · rfl
  · split <;> rfl

@[simp] theorem touchBits_ctxs (s : State) (m : UId) (i : Nat) : (touchBits s m i).ctxs = s.ctxs := by
  unfold touchBits
  dsimp only
  split
  · rfl
  · split <;> rfl

@[simp] theorem capTouch_ctxs (s : State) (m : UId) (col : Nat) (p : Word) : (capTouch s m col p).ctxs = s.ctxs := by
  unfold capTouch
  split
  · rfl
  · dsimp only
    split <;> simp

/-! ### The four instructions at the unit -/

section
variable {f : Fields} {F : Ready} {s : State}

theorem bodyCapAlloc_badLength (hpair : F.pair = none) (h : F.l.val.toNat = 0 ∨ 2 ^ 44 ≤ F.l.val.toNat) :
    bodyCapAlloc f F s = replyBoth (hubOf F.u) f F 0 3 s := by
  rw [← capReply_alone hpair]
  exact if_pos (badLength_iff.2 h)

/-- The heap's top, rounded up to the alignment that the instruction asks for. -/
def allocBase (f : Fields) (F : Ready) (s : State) : Nat :=
  let al := 2 ^ (6 + f.imm.toNat % 16)
  ((ctxOf s F.u.ctx).htop + al - 1) / al * al

theorem roundUpTo_heap (f : Fields) (F : Ready) (s : State) : roundUpTo (ctxOf s F.u.ctx).htop (2 ^ (6 + fld f 0 4)) = allocBase f F s := by
  rw [fld_low]
  rfl

section
variable (hpair : F.pair = none) (hn : ¬(F.l.val.toNat = 0 ∨ 2 ^ 44 ≤ F.l.val.toNat))
include hpair hn

theorem bodyCapAlloc_indices (hi : 2 ^ 18 ≤ (ctxOf s F.u.ctx).nextidx) : bodyCapAlloc f F s = replyBoth (hubOf F.u) f F 0 2 s := by
  rw [← capReply_alone hpair]
  exact (if_neg (mt badLength_iff.1 hn)).trans (if_pos hi)

section
variable (hi : (ctxOf s F.u.ctx).nextidx < 2 ^ 18)
include hi

theorem bodyCapAlloc_heap (hh : (ctxOf s F.u.ctx).hbase + (ctxOf s F.u.ctx).hsize < allocBase f F s + F.l.val.toNat) :
    bodyCapAlloc f F s = replyBoth (hubOf F.u) f F 0 1 s := by
  rw [← roundUpTo_heap] at hh
  rw [← capReply_alone hpair]
  exact (if_neg (mt badLength_iff.1 hn)).trans ((if_neg (not_le.2 hi)).trans (if_pos hh))

theorem bodyCapAlloc_allocates {a : XAddr} (hh : allocBase f F s + F.l.val.toNat ≤ (ctxOf s F.u.ctx).hbase + (ctxOf s F.u.ctx).hsize)
    (hx : s.ctxs.find? (fun y => y.id == F.u.ctx) = some (ctxOf s F.u.ctx))
    (ha : translateNow s (ctxOf s F.u.ctx) .write ((ctxOf s F.u.ctx).ctb + 16 * (ctxOf s F.u.ctx).nextidx) = .ok a) :
    bodyCapAlloc f F s =
      updCtx (replyBoth (hubOf F.u) f F (capPtr (ctxOf s F.u.ctx).nextidx) 0 (indexTaken F (ctxOf s F.u.ctx).nextidx
          (wrBytes s a.phys (capBytes
            { base := allocBase f F s, len := F.l.val.toNat, root := (ctxOf s F.u.ctx).nextidx,
              w := decide (f.imm.toNat / 16 % 2 = 0), v := true }))))
        F.u.ctx fun x => { x with htop := allocBase f F s + F.l.val.toNat, htopw := true } := by
  have hw : (fld f 4 1 == 0) = decide (f.imm.toNat / 16 % 2 = 0) := rfl
  unfold bodyCapAlloc
  dsimp only
  rw [if_neg (mt badLength_iff.1 hn), if_neg (not_le.2 hi), roundUpTo_heap, hw, if_neg (not_lt.2 hh), takeIndex_writes hpair ha]
  refine if_neg fun hsame => ?_
  exact absurd ((beq_iff_eq.1 hsame).symm.trans (nextidx_indexTaken (s := wrBytes s a.phys _) hx (onlyTokens_replyBoth ..)))
    (Nat.ne_of_lt (Nat.lt_succ_self _))

end

end

/-- The status of CAP.FREE (R208): 2 for the null index, 0 where a live index is revoked, else 1. -/
def freeStatus (F : Ready) (s : State) : Word :=
  let live : Bool := match capLive s (hubOf F.u) F.l.val with | .ok _ => true | .error _ => false
  if capIdx F.l.val = 0 then 2 else if capIdx F.l.val < (ctxOf s F.u.ctx).nextidx ∧ live then 0 else 1

theorem bodyCapFree_window (hw : winOf F.l.val ≠ 3) : bodyCapFree f F s = raise F { kind := 0x07, va := F.l.val } s :=
  if_pos (bne_iff_ne.2 hw)

theorem bodyCapFree_revokes {a : XAddr} (hpair : F.pair = none) (hw : winOf F.l.val = 3)
    (ha : translateNow s (ctxOf s F.u.ctx) .write ((ctxOf s F.u.ctx).rvb + capIdx F.l.val / 8) = .ok a) : bodyCapFree f F s =
      replyBoth (hubOf F.u) f F (freeStatus F s) (freeStatus F s)
        (dropBits (wrBytes s a.phys [rd8 s a.phys ||| BitVec.ofNat 8 (2 ^ (capIdx F.l.val % 8))]) F.u.ctx (capIdx F.l.val)) := by
  unfold bodyCapFree freeStatus
  dsimp only
  rw [if_neg (by simp [hw]), ha]
  dsimp only
  rw [capReply_alone hpair]
  exact congrArg (fun v => replyBoth (hubOf F.u) f F v v _)
    (if_congr beq_iff_eq rfl (if_congr (Bool.and_eq_true_iff.trans (and_congr_left' decide_eq_true_iff)) rfl rfl))

/-! ### CAP.NARROW (R207) -/

section
variable {v : Word}

theorem bodyCapNarrow_window (hw : winOf F.l.val ≠ 3) : bodyCapNarrow f v F s = raise F { kind := 0x07, va := F.l.val } s :=
  if_pos (bne_iff_ne.2 hw)

section
variable (hw : winOf F.l.val = 3)
include hw

theorem bodyCapNarrow_badLength (hpair : F.pair = none) (h : v.toNat = 0 ∨ 2 ^ 44 ≤ v.toNat) :
    bodyCapNarrow f v F s = replyBoth (hubOf F.u) f F 0 3 s := by
  rw [← capReply_alone hpair]
  exact (if_neg (by simp [hw])).trans (if_pos (badLength_iff.2 h))

section
variable (hn : ¬(v.toNat = 0 ∨ 2 ^ 44 ≤ v.toNat))
include hn

theorem bodyCapNarrow_faults {e : FaultInfo} (hd : capDeref s (hubOf F.u) F.l.val v.toNat false = .error e) :
    bodyCapNarrow f v F s = raise F e s := by
  unfold bodyCapNarrow
  dsimp only
  rw [if_neg (by simp [hw]), if_neg (mt badLength_iff.1 hn), hd]

section
variable {va : Nat} {e : CapEnt} (hpair : F.pair = none) (hd : capDeref s (hubOf F.u) F.l.val v.toNat false = .ok va)
  (hl : capLive s (hubOf F.u) F.l.val = .ok e)
include hpair hd hl

theorem bodyCapNarrow_indices (hi : 2 ^ 18 ≤ (ctxOf s F.u.ctx).nextidx) : bodyCapNarrow f v F s = replyBoth (hubOf F.u) f F 0 2 s := by
  unfold bodyCapNarrow
  dsimp only
  rw [if_neg (by simp [hw]), if_neg (mt badLength_iff.1 hn), hd, hl, ← capReply_alone hpair]
  exact if_pos hi

theorem bodyCapNarrow_derives {a : XAddr} (hi : (ctxOf s F.u.ctx).nextidx < 2 ^ 18)
    (ha : translateNow (capTouch s (hubOf F.u) (fcol F) F.l.val) (ctxOf s F.u.ctx) .write
      ((ctxOf s F.u.ctx).ctb + 16 * (ctxOf s F.u.ctx).nextidx) = .ok a) :
    bodyCapNarrow f v F s = replyBoth (hubOf F.u) f F (capPtr (ctxOf s F.u.ctx).nextidx) 0 (indexTaken F (ctxOf s F.u.ctx).nextidx
      (wrBytes (capTouch s (hubOf F.u) (fcol F) F.l.val) a.phys (capBytes
        { base := va, len := v.toNat, root := e.root, w := e.w && decide (f.imm.toNat / 64 % 2 = 0), v := true }))) := by
  have hctx : ctxOf (capTouch s (hubOf F.u) (fcol F) F.l.val) F.u.ctx = ctxOf s F.u.ctx := ctxOf_of_ctxs (capTouch_ctxs ..) _
  have hfld : (fld f 6 1 == 0) = decide (f.imm.toNat / 64 % 2 = 0) := rfl
  unfold bodyCapNarrow
  dsimp only
  rw [if_neg (by simp [hw]), if_neg (mt badLength_iff.1 hn), hd, hl]
  dsimp only
  rw [if_neg (not_le.2 hi), takeIndex_writes hpair (by rw [hctx]; exact ha), hctx, hfld]

end

end

end

end

/-! ### CAP.INFO (R209) -/

theorem capState_eq (s : State) (F : Ready) : capState s (hubOf F.u) F.l.val =
    if winOf F.l.val ≠ 3 then 4 else if capIdx F.l.val = 0 then 2 else if (ctxOf s F.u.ctx).nextidx ≤ capIdx F.l.val then 3
    else match capLive s (hubOf F.u) F.l.val with | .ok _ => 0 | .error _ => 1 :=
  if_congr bne_iff_ne rfl (if_congr beq_iff_eq rfl (if_congr Iff.rfl rfl rfl))

section
variable {m : UId} {p : Word}

theorem capInfoVal_state (h : f.fn = 3) : capInfoVal f m p s = BitVec.ofNat 64 (capState s m p) := if_pos (beq_iff_eq.2 h)

theorem capInfoVal_none (h : f.fn ≠ 3) (hst : capState s m p ≠ 0) : capInfoVal f m p s = 0 :=
  (if_neg (mt beq_iff_eq.1 h)).trans (if_pos (bne_iff_ne.2 hst))

theorem capInfoVal_entry {e : CapEnt} (hst : capState s m p = 0) (he : capEntry s m (capIdx p) = .ok e) (h : f.fn ≠ 3) :
    capInfoVal f m p s = if f.fn = 0 then BitVec.ofNat 64 e.len else if f.fn = 1 then BitVec.ofNat 64 (capOff p)
      else if f.fn = 2 then BitVec.ofNat 64 e.base else truth e.w := by
  unfold capInfoVal
  dsimp only
  rw [if_neg (mt beq_iff_eq.1 h), hst, if_neg (by decide), he]
  simp only [beq_iff_eq]

end

end

/-! ### The statement -/

/-- Settles O13: each instruction has one lemma per outcome at the unit. -/
theorem capabilityInstructionEffects : Obligations.CapabilityInstructionEffects := by
  intro f s F hF hs hub hcopy hpair x p ans al base bad hubU w next
  have unit {i j : Instr} {k : List Word} {body : Ready → State → State} {t : State}
      (he : exec i s = runLanes (laneBoth f (atHub j k body)) s) (h : body F s = t) : exec i s = .next (close s t) :=
    exec_of_body hF hs he ((atHub_here hub).trans h)
  have primary {i j : Instr} {k : List Word} {g body : Ready → State → State} {t : State}
      (he : exec i s = runLanes (laneBoth f (once g)) s) (hg : g F s = atHub j k body F s) (h : body F s = t) :
      exec i s = .next (close s t) :=
    exec_of_body hF hs he ((if_pos (beq_iff_eq.2 hcopy)).trans (hg.trans ((atHub_here hub).trans h)))
  refine ⟨fun hn => primary rfl rfl (bodyCapAlloc_badLength hpair hn), fun hn hi => primary rfl rfl (bodyCapAlloc_indices hpair hn hi),
    fun hn hi hh => primary rfl rfl (bodyCapAlloc_heap hpair hn hi hh),
    fun hn hi hh hx a ha => primary rfl rfl (bodyCapAlloc_allocates hpair hn hi hh hx ha), ?window,
    fun hw a ha => primary rfl rfl (bodyCapFree_revokes hpair hw ha), fun hw hn => primary rfl rfl (bodyCapNarrow_badLength hw hpair hn),
    fun hw hn va e hd hl => ⟨fun hi => primary rfl rfl (bodyCapNarrow_indices hw hn hpair hd hl hi),
      fun hi a ha => primary rfl rfl (bodyCapNarrow_derives hw hn hpair hd hl hi ha)⟩,
    fun hw hn e hd => primary rfl rfl (bodyCapNarrow_faults hw hn hd), ?info⟩
  case window =>
    simp only [List.forall_mem_cons]
    exact ⟨fun hw => primary rfl rfl (bodyCapFree_window hw), fun hw => primary rfl rfl (bodyCapNarrow_window hw), nofun⟩
  case info =>
    intro st
    have hst : capState s hubU p = st := capState_eq s F
    have info {v : Word} (h : capInfoVal f hubU p s = v) : exec (.capInfo f) s = .next (close s (ans v v w)) :=
      unit rfl (by rw [← h]; rfl)
    refine ⟨fun h => info ((capInfoVal_state h).trans (by rw [hst])), fun h h0 => info (capInfoVal_none h (hst ▸ h0)), fun h0 e he =>
      ⟨fun h => info ?_, fun h => info ?_, fun h => info ?_, fun h => info ?_⟩⟩
    all_goals
      rw [capInfoVal_entry (hst.trans h0) he (by rw [h]; decide), h]
      rfl

end Sys2Proof.Machine

/-!
Write-once words and line accesses (O11, O45): both statements leave a case open in which the model does more than they say. A request whose
pointer is a capability's makes the checker of its MU hold what it used; a store of a four-bit element reads the byte that it merges into, and
an uncorrectable error there is recorded.
-/

namespace Sys2Proof.Machine

open Sys2Proof

/-- One resident context in an address space that maps every address to itself. -/
def identityMapped : State :=
  let r : RangeEnt := { vbase := 0, vlim := 2 ^ 44, pbase := 0, v := true, rd := true, wr := true, ws := false }
  { State.reset with
      ctxs := [homeCtx]
      tr := { State.reset.tr with spaces := [(0, { asReset with v := true, nrng := 1, ranges := some [r] })] } }

/-- The firing of CU (0, 0) with a pointer as its left operand, as its request stands at its home MU. -/
def homeRequest (i : Instr) (p : Word) : Req :=
  let F := homeFiring 0
  { mu := hubOf homeCu, i := i, c := { F with l := { F.l with val := p } }, k := [0], iseq := 0 }

/-- The state in which a request stands alone at its MU. -/
def requested (q : Req) : State := { identityMapped with mu := { identityMapped.mu with reqs := [q] } }

/-! ### A write-once read through a capability (R198, R204) -/

/-- IS.RD by a misaligned pointer of capability 1. -/
def capabilityRead : Req := homeRequest (.isRd (unpack 0)) 0xC000100000000001

/-- The MU's checker holds an entry after it has performed the request. -/
theorem capabilityRead_checked {t : State} (h : exec (.muRequest capabilityRead.mu) (requested capabilityRead) = .next t) :
    t.mu.capTab ≠ [] := by
  cases h
  decide +kernel

/-- Refutes O11: the statement does not confine the pointer to window 01. For IS.RD by a misaligned pointer of window 11 it has the checker of the
MU stay as it was, where the performed request has left its entry there. -/
theorem not_writeOnceWordsServed : ¬ Obligations.WriteOnceWordsServed := by
  intro h
  have hold : Claims.Oldest (requested capabilityRead) capabilityRead := ⟨by decide, by decide⟩
  obtain ⟨misaligned, -⟩ := h (requested capabilityRead) capabilityRead (unpack 0) 0xC000100000000001 hold (by decide)
  have served := misaligned .isRd (List.mem_cons_self ..) rfl (by decide)
  exact capabilityRead_checked served (by decide +kernel)

/-! ### A store of a four-bit element (R196, R469) -/

/-- STL of element 0, with the tag of an E2M1 line in its immediate. -/
def nibbleFields : Fields := { unpack 0 with imm := 0x10006 }

def nibbleStore : Req := homeRequest (.stl nibbleFields) 0x4000000000000000

/-- The line that the store names holds an uncorrectable error. -/
def nibbleState : State :=
  { requested nibbleStore with un := { identityMapped.un with upsets := [.line (locUnit nibbleStore.mu 0 / 64)] } }

theorem nibbleStore_recordsError {t : State} (h : exec (.muRequest nibbleStore.mu) nibbleState = .next t) : t.un.errs ≠ [] := by
  cases h
  decide +kernel

/-- Refutes O45: of the line stores the statement says no more than the reply, and it does not ask that the byte into which a four-bit element
is merged be read without an error. The read of one that is uncorrectable records it. -/
theorem not_lineAccessesAndPrefetchServed : ¬ Obligations.LineAccessesAndPrefetchServed := by
  rintro ⟨h, -⟩
  have hold : Claims.Oldest nibbleState nibbleStore := ⟨by decide, by decide⟩
  obtain ⟨-, -, -, -, -, stl⟩ := h nibbleState nibbleStore nibbleFields hold (by decide)
  obtain ⟨-, within⟩ := stl rfl (by decide)
  obtain ⟨-, -, accepted⟩ := within 128 4 .e2m1 (by decide)
  have served := accepted (by decide) (fun _ => by decide) _ (Option.some_get (by decide +kernel)).symm
  exact nibbleStore_recordsError served (by decide +kernel)

end Sys2Proof.Machine

/-!
The barrier and ring instructions at issue (O14): all but RING.BIND send one request to the MU that holds the slot or header, and RING.BIND
one to its own.
-/

namespace Sys2Proof.Machine

open Sys2Proof

section
variable {f : Fields} {s : State} {F : Ready}

/-! ### The request of a slot or header (R184, R215, R256) -/

section
variable {i : Instr} {n : Nat} {k : List Word} (hF : s.firing = [F]) (hs : settle true F = .go)
  {g : Ready → State → List Word} (he : exec i s = runLanes (laneBoth f fun F s => sendOwner i f n (g F s) F s) s)
include hF hs he

theorem requests_of_owner {p : Word} (hk : g F s = k) (hp : shiftPtr F.l.val (dispOf f) = some p)
    (hf : windowFault (ctxOf s F.u.ctx) (poolSize (ctxOf s F.u.ctx)) [1] p n = none) : Claims.Requests i s F (muNamed F.u p) k :=
  exec_of_body hF hs he (hk ▸ sendOwner_sends hp hf)

theorem exec_owner_faults {p : Word} {e : Nat} (hp : shiftPtr F.l.val (dispOf f) = some p)
    (hf : windowFault (ctxOf s F.u.ctx) (poolSize (ctxOf s F.u.ctx)) [1] p n = some e) :
    exec i s = .next (close s (raise F { kind := e, va := p } s)) :=
  exec_of_body hF hs he (sendOwner_faults hp hf)

theorem exec_owner_displaced (hp : shiftPtr F.l.val (dispOf f) = none) :
    exec i s = .next (close s (raise F { kind := 0x07, va := F.l.val + BitVec.ofInt 64 (dispOf f) } s)) :=
  exec_of_body hF hs he (sendOwner_displaced hp)

end

/-! ### RING.BIND (R267, R273) -/

section
variable (hF : s.firing = [F]) (hs : settle true F = .go) {p : Word} (hp : shiftPtr (rightOp f F s) (dispOf f) = some p)
  (hf : windowFault (ctxOf s F.u.ctx) (poolSize (ctxOf s F.u.ctx)) [1] p 32 = none)
include hF hs hp hf

theorem requests_ringBind (ha : offOf p % 32 = 0) : Claims.Requests (.ringBind f) s F (muOf F.u) [p] :=
  exec_of_body hF hs rfl (by simp [bindPtr, hp, hf, ha])

theorem exec_ringBind_misaligned (ha : offOf p % 32 ≠ 0) :
    exec (.ringBind f) s = .next (close s (raise F { kind := 0x08, va := p } s)) :=
  exec_of_body hF hs rfl (by simp [bindPtr, hp, hf, ha, raiseA])

end

end

/-- Settles O14: each instruction's body is the request to the owner of its slot or header, with what it took; its pointer decides. -/
theorem barrierAndRingInstructionsAtIssue : Obligations.BarrierAndRingInstructionsAtIssue := by
  intro f s F hF hs x v
  have count : (if (f.src == .unary) = true then 1 else rightOp f F s) = if f.src = .unary then 1 else rightOp f F s :=
    if_congr beq_iff_eq rfl rfl
  refine ⟨fun p hp => ⟨fun hf => ?slot, fun hf => ?header, fun e hf => ?slotFaults, fun e hf => ?headerFaults⟩, fun hp => ?displaced,
    fun p hp hf => ⟨requests_ringBind hF hs hp hf, exec_ringBind_misaligned hF hs hp hf⟩⟩
  case slot =>
    exact ⟨requests_of_owner hF hs rfl rfl hp hf, requests_of_owner hF hs rfl (congrArg (fun w => [w]) count) hp hf,
      requests_of_owner hF hs rfl rfl hp hf, requests_of_owner hF hs rfl rfl hp hf, requests_of_owner hF hs rfl rfl hp hf,
      requests_of_owner hF hs rfl rfl hp hf, requests_of_owner hF hs rfl rfl hp hf⟩
  case header =>
    exact ⟨requests_of_owner hF hs rfl rfl hp hf, requests_of_owner hF hs rfl rfl hp hf, requests_of_owner hF hs rfl rfl hp hf,
      requests_of_owner hF hs rfl rfl hp hf, requests_of_owner hF hs rfl rfl hp hf⟩
  case slotFaults =>
    simp only [List.forall_mem_cons]
    iterate 7 refine ⟨exec_owner_faults hF hs rfl hp hf, ?_⟩
    nofun
  case headerFaults =>
    simp only [List.forall_mem_cons]
    iterate 5 refine ⟨exec_owner_faults hF hs rfl hp hf, ?_⟩
    nofun
  case displaced =>
    simp only [List.forall_mem_cons]
    iterate 12 refine ⟨exec_owner_displaced hF hs rfl hp, ?_⟩
    nofun

end Sys2Proof.Machine

/-!
Barrier slots at their MU (O48): the checks that every barrier request passes first, then one lemma per outcome of each instruction on a slot
that is live.
-/

namespace Sys2Proof.Machine

open Sys2Proof

section
variable {s t : State} {q : Req} {f : Fields} {p : Word} {b : Bar}

/-! ### A barrier or ring request leaves its port (R188) -/

/-- A request of a barrier, a ring or a copy unit is none of memory, no command and no service call. -/
theorem performSync_kind (h : performSync q s = some t) :
    isCommand q.i = false ∧ (∀ f, q.i ≠ .svcCall f) ∧ (∀ f, q.i ≠ .svcArg f) ∧ ∀ u, performMemory q u = none := by
  unfold performSync at h
  split at h
  case h_16 => cases h
  all_goals
    rename_i hi
    refine ⟨?_, ?_, ?_, fun u => ?_⟩
    · rw [hi]; rfl
    · rw [hi]; exact fun _ => nofun
    · rw [hi]; exact fun _ => nofun
    · rw [performMemory, hi]

/-- The oldest request of a port that does not stand still is performed, where it is one of a barrier, a ring or a copy unit. -/
theorem exec_muRequest_sync (h : Claims.Oldest s q) (hm : performSync q (Claims.taken s q) = some t) :
    exec (.muRequest q.mu) s = .next (close s t) := by
  obtain ⟨hq, hb⟩ := h
  obtain ⟨hc, hcall, harg, hmem⟩ := performSync_kind hm
  have hbody : bodyMuRequest q.mu s = performReq q (Claims.taken s q) := by
    unfold bodyMuRequest
    rw [hq]
    dsimp only
    rw [hb, hc, if_neg Bool.false_ne_true, if_neg Bool.false_ne_true]
    split
    · exact absurd ‹_› (hcall _)
    · exact absurd ‹_› (harg _)
    · rfl
  change done s (bodyMuRequest q.mu s) = _
  rw [hbody, performReq, hmem, hm, done]
  rfl

theorem serves_of_sync {g : State → State} (h : Claims.Oldest s q) (hm : performSync q (Claims.taken s q) = some t)
    (ht : t = g (Claims.taken s q)) : Claims.Serves s q g :=
  serves_of_exec (exec_muRequest_sync h hm) ht

/-- The fields and the pointer of a request whose displacement stays in its offset field (R184). -/
theorem slot_request (hf : fieldsOf q.i = some f) (hp : shiftPtr q.c.l.val (dispOf f) = some p) : reqFields q = f ∧ reqPtr q = p :=
  ⟨reqFields_of_fieldsOf hf, reqPtr_eq (reqFields_of_fieldsOf hf) hp⟩

/-! ### The checks before a slot is looked at (R220, R226, R258) -/

/-- A live ring header holds a byte of the request's slot. -/
def MeetsRing (s : State) (q : Req) : Prop := ∃ k < 16, inRing s (slotLoc q + k) = true

theorem meetsRing_iff : ((List.range 16).any fun k => inRing s (slotLoc q + k)) = true ↔ MeetsRing s q := by
  simp [MeetsRing]

/-- The request finds its slot live and its context's own, once a completion that is due has been evaluated. -/
structure FindsSlot (s : State) (q : Req) (b : Bar) : Prop where
  aligned : slotOff q % 16 = 0
  noRing : ¬MeetsRing s q
  live : barAt (evalBar q.mu (slotOff q) s) (slotLoc q) = some b
  own : b.own = q.c.u.ctx

section
variable {plain : State → State} {k : Bar → State → State}

theorem withBar_misaligned (h : slotOff q % 16 ≠ 0) : withBar q plain k s = raise q.c { kind := 0x08, va := reqPtr q } s :=
  if_pos (bne_iff_ne.2 h)

section
variable (ha : slotOff q % 16 = 0)
include ha

theorem withBar_ring (hr : MeetsRing s q) : withBar q plain k s = raise q.c { kind := 0x1D, va := reqPtr q } s :=
  (if_neg (by simp [ha])).trans (if_pos (meetsRing_iff.2 hr))

theorem withBar_noRing (hr : ¬MeetsRing s q) : withBar q plain k s =
    match barAt (evalBar q.mu (slotOff q) s) (slotLoc q) with
    | none => plain (evalBar q.mu (slotOff q) s)
    | some b => if b.own != q.c.u.ctx then barFault q (evalBar q.mu (slotOff q) s) else k b (evalBar q.mu (slotOff q) s) :=
  (if_neg (by simp [ha])).trans (if_neg (mt meetsRing_iff.1 hr))

theorem withBar_plain (hr : ¬MeetsRing s q) (hb : barAt (evalBar q.mu (slotOff q) s) (slotLoc q) = none) :
    withBar q plain k s = plain (evalBar q.mu (slotOff q) s) := by rw [withBar_noRing ha hr, hb]

end

theorem FindsSlot.withBar (h : FindsSlot s q b) : withBar q plain k s = k b (evalBar q.mu (slotOff q) s) := by
  rw [withBar_noRing h.aligned h.noRing, h.live]
  exact if_neg (by simp [h.own])

end

/-! ### What each instruction is at its bank -/

theorem performSync_barInit (hi : q.i = .barInit f) : performSync q s = some (performBarInit q s) := by rw [performSync, hi]

theorem performSync_barArrive (hi : q.i = .barArrive f) : performSync q s = some (performBarArrive q s) := by rw [performSync, hi]

theorem performSync_barDrop (hi : q.i = .barDrop f) : performSync q s = some (performBarDrop q s) := by rw [performSync, hi]

theorem performSync_barExpect (hi : q.i = .barExpect f) : performSync q s = some (performBarExpect q s) := by rw [performSync, hi]

theorem performSync_barWait (hi : q.i = .barWait f) : performSync q s = some (performBarWait q s) := by rw [performSync, hi]

theorem performSync_barTest (hi : q.i = .barTest f) : performSync q s = some (performBarTest q s) := by rw [performSync, hi]

theorem performSync_barRetire (hi : q.i = .barRetire f) : performSync q s = some (performBarRetire q s) := by rw [performSync, hi]

theorem fieldsOf_barrier : ∀ mk ∈ [Instr.barInit, .barArrive, .barExpect, .barWait, .barTest, .barDrop, .barRetire], q.i = mk f →
    fieldsOf q.i = some f := by
  simp only [List.forall_mem_cons]
  refine ⟨?_, ?_, ?_, ?_, ?_, ?_, ?_, nofun⟩
  all_goals
    intro hi
    rw [hi]
    rfl

/-- Five of the seven fault BARRIER_SLOT on a PLAIN slot. -/
theorem performSync_needsLive : ∀ mk ∈ [Instr.barArrive, .barExpect, .barDrop, .barWait, .barRetire], q.i = mk f →
    ∃ k, ∀ s, performSync q s = some (withBar q (barFault q) k s) := by
  simp only [List.forall_mem_cons]
  exact ⟨fun hi => ⟨_, fun s => performSync_barArrive hi⟩, fun hi => ⟨_, fun s => performSync_barExpect hi⟩,
    fun hi => ⟨_, fun s => performSync_barDrop hi⟩, fun hi => ⟨_, fun s => performSync_barWait hi⟩,
    fun hi => ⟨_, fun s => performSync_barRetire hi⟩, nofun⟩

/-- BAR.TEST needs a live slot as BAR.WAIT does. -/
theorem performBarTest_parity (hn : (reqFields q).fn = 0) : performBarTest q s = withBar q (barFault q) (fun b s =>
    match waitAct b (waitPar q) with
    | .emit => reply q 1 (reqCommit q s)
    | .park => reply q 0 (reqCommit q s)
    | .hold => holdRetry q s
    | .fault => barFault q s) s :=
  if_pos (by simp [hn])

/-- BAR.TEST.RAW answers on a PLAIN slot too. -/
theorem performBarTest_raw (hn : (reqFields q).fn ≠ 0) : performBarTest q s =
    withBar q (fun s => reply q 0 (reqCommit q s)) (fun b s =>
      reply q (BitVec.ofNat 64 (if (reqFields q).fn.toNat == 1 then barBits s q.mu (slotOff q) b else barBits s q.mu (slotOff q) b / 2 ^ 64))
        (reqCommit q s)) s :=
  if_neg fun h => hn (BitVec.eq_of_toNat_eq (beq_iff_eq.1 h))

theorem performSync_withBar : ∀ mk ∈ [Instr.barArrive, .barExpect, .barWait, .barTest, .barDrop, .barRetire], q.i = mk f →
    ∃ plain k, ∀ s, performSync q s = some (withBar q plain k s) := by
  simp only [List.forall_mem_cons]
  refine ⟨fun hi => ⟨_, _, fun s => performSync_barArrive hi⟩, fun hi => ⟨_, _, fun s => performSync_barExpect hi⟩,
    fun hi => ⟨_, _, fun s => performSync_barWait hi⟩, fun hi => ?_, fun hi => ⟨_, _, fun s => performSync_barDrop hi⟩,
    fun hi => ⟨_, _, fun s => performSync_barRetire hi⟩, nofun⟩
  by_cases hn : (reqFields q).fn = 0
  · exact ⟨_, _, fun s => (performSync_barTest hi).trans (congrArg some (performBarTest_parity hn))⟩
  · exact ⟨_, _, fun s => (performSync_barTest hi).trans (congrArg some (performBarTest_raw hn))⟩

/-- All seven check their pointer first. -/
theorem performSync_misaligned (mk : Fields → Instr)
    (hmk : mk ∈ [Instr.barInit, .barArrive, .barExpect, .barWait, .barTest, .barDrop, .barRetire]) (hi : q.i = mk f)
    (ha : slotOff q % 16 ≠ 0) : performSync q s = some (raise q.c { kind := 0x08, va := reqPtr q } s) := by
  rcases List.mem_cons.1 hmk with rfl | hmk
  · exact (performSync_barInit hi).trans (congrArg some (if_pos (bne_iff_ne.2 ha)))
  · obtain ⟨plain, k, h⟩ := performSync_withBar mk hmk hi
    rw [h, withBar_misaligned ha]

/-- Then all seven look for a live ring header. -/
theorem performSync_ring (mk : Fields → Instr)
    (hmk : mk ∈ [Instr.barInit, .barArrive, .barExpect, .barWait, .barTest, .barDrop, .barRetire]) (hi : q.i = mk f)
    (ha : slotOff q % 16 = 0) (hr : MeetsRing s q) : performSync q s = some (raise q.c { kind := 0x1D, va := reqPtr q } s) := by
  rcases List.mem_cons.1 hmk with rfl | hmk
  · exact (performSync_barInit hi).trans (congrArg some ((if_neg (by simp [ha])).trans (if_pos (meetsRing_iff.2 hr))))
  · obtain ⟨plain, k, h⟩ := performSync_withBar mk hmk hi
    rw [h, withBar_ring ha hr]

/-! ### BAR.INIT (R215, R229) -/

section
variable (ha : slotOff q % 16 = 0)
include ha

theorem performBarInit_arms (hb : barAt s (slotLoc q) = none) (hg : inBarGroup s q.mu (reqFields q).fn.toNat q.c.u = true)
    (h1 : 1 ≤ (reqK q 0).toNat) (hn : (reqK q 0).toNat ≤ 65535) (hl : liveFault s (slotLoc q) 16 = none)
    (h0 : isState s (slotLoc q) = 0) (h8 : isState s (slotLoc q + 8) = 0) : performBarInit q s =
      reply q 0 (reqCommit q (setBar s (slotLoc q) (some (freshBar (reqK q 0).toNat (reqFields q).fn.toNat q.c.u.ctx)))) := by
  have hr : ¬((List.range 16).any fun k => inRing s (slotLoc q + k)) = true := fun h => by
    rw [liveFault, h] at hl
    split at hl <;> cases hl
  refine (if_neg (by simp [ha])).trans ((if_neg hr).trans ((if_neg ?_).trans (if_neg (by simp [h0, h8]))))
  simp [hb, hg]
  omega

theorem performBarInit_refused (hr : ¬MeetsRing s q)
    (h : barAt s (slotLoc q) ≠ none ∨ inBarGroup s q.mu (reqFields q).fn.toNat q.c.u = false ∨ (reqK q 0).toNat = 0 ∨
      65535 < (reqK q 0).toNat) :
    performBarInit q s = barFault q s := by
  refine (if_neg (by simp [ha])).trans ((if_neg (mt meetsRing_iff.1 hr)).trans (if_pos ?_))
  simpa [Option.isSome_iff_ne_none, or_assoc] using h

end

/-! ### Counts (R224, R230) -/

theorem truth_barPar (b : Bar) : truth (barPar b) = if (if b.st = .armed then b.par else !b.par) then 1 else 0 := by
  simp only [truth, barPar, beq_iff_eq]

theorem countRefused_false (hs : b.st ≠ .idle) (hg : inBarGroup s q.mu b.lvl q.c.u = true) : countRefused s q b = false := by
  simp [countRefused, hs, hg]

theorem countRefused_true (h : b.st = .idle ∨ inBarGroup s q.mu b.lvl q.c.u = false) : countRefused s q b = true := by
  simpa [countRefused] using h

section
variable (h : FindsSlot s q b)
include h

section
variable (hc : countRefused (evalBar q.mu (slotOff q) s) q b = false)
include hc

theorem performBarArrive_counts (h1 : 1 ≤ (reqK q 0).toNat) (hn : (reqK q 0).toNat ≤ b.pnd) : performBarArrive q s =
    reply q (truth (barPar b)) (reqCommit q (setBar (evalBar q.mu (slotOff q) s) (slotLoc q)
      (some { b with pnd := b.pnd - (reqK q 0).toNat, units := b.units ++ [q.c.u] }))) :=
  h.withBar.trans (if_neg (by simp [hc]; omega))

theorem performBarArrive_bounded (hn : (reqK q 0).toNat = 0 ∨ b.pnd < (reqK q 0).toNat) :
    performBarArrive q s = barFault q (evalBar q.mu (slotOff q) s) :=
  h.withBar.trans (if_pos (by simpa [hc] using hn))

theorem performBarDrop_counts (hp : 1 ≤ b.pnd) (he : 1 ≤ b.exp) : performBarDrop q s =
    reply q (truth (barPar b)) (reqCommit q (setBar (evalBar q.mu (slotOff q) s) (slotLoc q)
      (some { b with pnd := b.pnd - 1, exp := b.exp - 1, units := b.units ++ [q.c.u] }))) :=
  h.withBar.trans (if_neg (by simp [hc]; omega))

section
variable (h1 : 1 ≤ (reqK q 0).toNat) (hn : b.txb + (reqK q 0).toNat ≤ 2 ^ 31 - 1)
include h1 hn

theorem performBarExpect_adds (hf : (reqFields q).fn = 0) : performBarExpect q s =
    reply q 0 (reqCommit q (setBar (evalBar q.mu (slotOff q) s) (slotLoc q) (some { b with txb := b.txb + (reqK q 0).toNat }))) :=
  h.withBar.trans ((if_neg (by simp [hc, hf]; omega)).trans (if_neg (by simp [hf])))

/-- BAR.EXPECT.ARRIVE arrives too. -/
theorem performBarExpect_arrives (hf : (reqFields q).fn = 1) (hp : 1 ≤ b.pnd) : performBarExpect q s =
    reply q (truth (barPar b)) (reqCommit q (setBar (evalBar q.mu (slotOff q) s) (slotLoc q)
      (some { b with txb := b.txb + (reqK q 0).toNat, pnd := b.pnd - 1, units := b.units ++ [q.c.u] }))) :=
  h.withBar.trans ((if_neg (by simp [hc, hf]; omega)).trans (if_pos (by simp [hf])))

end

theorem performBarExpect_bounded (hn : (reqK q 0).toNat = 0 ∨ 2 ^ 31 - 1 < b.txb + (reqK q 0).toNat) :
    performBarExpect q s = barFault q (evalBar q.mu (slotOff q) s) :=
  h.withBar.trans (if_pos (by simp only [hc, Bool.false_or, Bool.or_eq_true, beq_iff_eq, decide_eq_true_eq]; exact .inl hn))

end

/-- An idle slot, or one of another group, takes no count. -/
theorem performSync_countRefused (hc : countRefused (evalBar q.mu (slotOff q) s) q b = true) :
    ∀ mk ∈ [Instr.barArrive, .barExpect, .barDrop], q.i = mk f → performSync q s = some (barFault q (evalBar q.mu (slotOff q) s)) := by
  simp only [List.forall_mem_cons]
  refine ⟨fun hi => (performSync_barArrive hi).trans ?_, fun hi => (performSync_barExpect hi).trans ?_,
    fun hi => (performSync_barDrop hi).trans ?_, nofun⟩
  all_goals exact congrArg some (h.withBar.trans (if_pos (by simp [hc])))

end

end

theorem barrierCountsServed : Claims.BarrierCountsServed := by
  intro s q f p hold hp off loc n ans point u ring
  have named (mk : Fields → Instr) (hmk : mk ∈ [Instr.barInit, .barArrive, .barExpect, .barWait, .barTest, .barDrop, .barRetire])
      (hi : q.i = mk f) : reqFields q = f ∧ reqPtr q = p := slot_request (fieldsOf_barrier mk hmk hi) hp
  refine ⟨fun ha hr mk hmk hi => ?ring, fun mk hmk hi ha => ?misaligned, fun ha hi => ?init, fun ha hr hb mk hmk hi => ?plain,
    fun ha hr hb hi => ?test, fun ha hr b hb hown => ?live⟩
  case ring =>
    obtain ⟨rfl, rfl⟩ := named mk hmk hi
    exact serves_of_sync hold (performSync_ring mk hmk hi ha hr) rfl
  case misaligned =>
    obtain ⟨rfl, rfl⟩ := named mk hmk hi
    exact serves_of_sync hold (performSync_misaligned mk hmk hi ha) rfl
  case init =>
    obtain ⟨rfl, rfl⟩ := named .barInit (by simp) hi
    have served {g : State → State} (h : performBarInit q (Claims.taken s q) = g (Claims.taken s q)) : Claims.Serves s q g :=
      serves_of_sync hold (performSync_barInit hi) h
    exact ⟨fun hb hg h1 hn hl h0 h8 => served (performBarInit_arms ha hb hg h1 hn hl h0 h8),
      fun hr h => served (performBarInit_refused ha hr h)⟩
  case plain =>
    obtain ⟨k, hk⟩ := performSync_needsLive mk hmk hi
    obtain ⟨rfl, rfl⟩ := named mk (by simp at hmk ⊢; tauto) hi
    exact serves_of_sync hold (hk _) (withBar_plain ha hr hb)
  case test =>
    obtain ⟨rfl, rfl⟩ := named .barTest (by simp) hi
    have served {t : State} (h : performBarTest q (Claims.taken s q) = t) : Claims.Serves s q fun _ => t :=
      serves_of_sync hold (performSync_barTest hi) h
    exact ⟨fun hn => served ((performBarTest_parity hn).trans (withBar_plain ha hr hb)),
      fun hn => served ((performBarTest_raw hn).trans (withBar_plain ha hr hb))⟩
  case live =>
    intro par
    have named' (mk : Fields → Instr) (hmk : mk ∈ [Instr.barArrive, .barExpect, .barDrop]) (hi : q.i = mk f) :
        reqFields q = f ∧ reqPtr q = p := named mk (by simp at hmk ⊢; tauto) hi
    have hpar : truth (barPar b) = par := truth_barPar b
    refine ⟨fun hs hg => ?_, fun hc mk hmk hi => ?_⟩
    · have hc : countRefused u q b = false := countRefused_false hs hg
      refine ⟨fun hi h1 hn => ?arrives, fun hi hn => ?arriveBounded, fun hi h1 h2 => ?drops,
        fun hi h1 hn => ⟨fun hf => ?adds, fun hf h2 => ?addsArrives⟩,
        fun hi hn => ?addBounded⟩
      all_goals obtain ⟨rfl, rfl⟩ := named' _ (by simp) hi
      all_goals have hlive : FindsSlot (Claims.taken s q) q b := ⟨ha, hr, hb, hown⟩
      case arrives => exact serves_of_sync hold (performSync_barArrive hi) ((performBarArrive_counts hlive hc h1 hn).trans (by rw [hpar]; rfl))
      case arriveBounded => exact serves_of_sync hold (performSync_barArrive hi) (performBarArrive_bounded hlive hc hn)
      case drops => exact serves_of_sync hold (performSync_barDrop hi) ((performBarDrop_counts hlive hc h1 h2).trans (by rw [hpar]; rfl))
      case adds => exact serves_of_sync hold (performSync_barExpect hi) (performBarExpect_adds hlive hc h1 hn hf)
      case addsArrives =>
        exact serves_of_sync hold (performSync_barExpect hi) ((performBarExpect_arrives hlive hc h1 hn hf h2).trans (by rw [hpar]; rfl))
      case addBounded => exact serves_of_sync hold (performSync_barExpect hi) (performBarExpect_bounded hlive hc hn)
    · obtain ⟨rfl, rfl⟩ := named' mk hmk hi
      exact serves_of_sync hold (performSync_countRefused ⟨ha, hr, hb, hown⟩ (countRefused_true hc) mk hmk hi) rfl

/-! ### Waits and retirement (R224, R225, R231 to R233) -/

section
variable {s : State} {q : Req} {b : Bar} {p : Bool}

theorem waitAct_emit (h : (b.st = .armed ∧ p ≠ b.par) ∨ (b.st = .idle ∧ p ≠ b.par)) : waitAct b p = .emit := by
  rcases h with ⟨hs, hp⟩ | ⟨hs, hp⟩ <;> simp [waitAct, hs, hp]

theorem waitAct_park (h : (b.st = .armed ∨ b.st = .completing) ∧ p = b.par) : waitAct b p = .park := by
  obtain ⟨hs | hs, hp⟩ := h <;> simp [waitAct, hs, hp]

theorem waitAct_hold (hs : b.st = .completing) (hp : p ≠ b.par) : waitAct b p = .hold := by simp [waitAct, hs, hp]

theorem waitAct_fault (hs : b.st = .idle) (hp : p = b.par) : waitAct b p = .fault := by simp [waitAct, hs, hp]

/-- What BAR.WAIT makes of the state in which it finds its slot. -/
def waitOutcome (q : Req) (s : State) : WaitAct → State
  | .emit => reply q (truth (waitPar q)) (reqCommit q s)
  | .park => parkCommit q 2 (slotOff q) (waitPar q).toNat (reqPtr q) s
  | .hold => holdRetry q s
  | .fault => barFault q s

/-- What BAR.TEST makes of it. -/
def testOutcome (q : Req) (s : State) : WaitAct → State
  | .emit => reply q 1 (reqCommit q s)
  | .park => reply q 0 (reqCommit q s)
  | .hold => holdRetry q s
  | .fault => barFault q s

/-- A request that parks takes the waiter that is free at its commit point. -/
theorem parkCommit_parks {wk off arg i : Nat} {va : Word} (hroom : (freeWaiter s q.mu).isSome) (hi : freeWaiter (reqCommit q s) q.mu = some i) :
    (parkCommit q wk off arg va s).mu.waiters = (reqCommit q s).mu.waiters ++
      [{ mu := q.mu, idx := i, wk := wk, off := off, u := q.c.u, col := fcol q.c, itr := fitr q.c, ss := q.c.stn,
         ta := (reqFields q).ta, tb := (reqFields q).tb, wty := (reqFields q).ty, arg := arg }] := by
  obtain ⟨j, hj⟩ := Option.isSome_iff_exists.1 hroom
  unfold parkCommit
  rw [hj]
  dsimp only
  unfold parkWaiter
  rw [hi]

theorem waitOutcome_parks {i : Nat} (hroom : (freeWaiter s q.mu).isSome) (hi : freeWaiter (reqCommit q s) q.mu = some i) :
    (waitOutcome q s .park).mu.waiters = (reqCommit q s).mu.waiters ++
      [{ mu := q.mu, idx := i, wk := 2, off := slotOff q, u := q.c.u, col := fcol q.c, itr := fitr q.c, ss := q.c.stn,
         ta := (reqFields q).ta, tb := (reqFields q).tb, wty := (reqFields q).ty, arg := if waitPar q then 1 else 0 }] := by
  have harg : ∀ p : Bool, p.toNat = if p then 1 else 0 := by decide
  simp only [waitOutcome, parkCommit_parks hroom hi, harg]

section
variable (h : FindsSlot s q b)
include h

section
variable {a : WaitAct} (hact : waitAct b (waitPar q) = a)
include hact

theorem performBarWait_live : performBarWait q s = waitOutcome q (evalBar q.mu (slotOff q) s) a := by
  rw [← hact]
  exact h.withBar

theorem performBarTest_live (hn : (reqFields q).fn = 0) : performBarTest q s = testOutcome q (evalBar q.mu (slotOff q) s) a := by
  rw [← hact]
  exact (performBarTest_parity hn).trans h.withBar

end

theorem performBarTest_bits (hn : (reqFields q).fn ≠ 0) : performBarTest q s =
    reply q (BitVec.ofNat 64 (if (reqFields q).fn.toNat == 1 then barBits (evalBar q.mu (slotOff q) s) q.mu (slotOff q) b
        else barBits (evalBar q.mu (slotOff q) s) q.mu (slotOff q) b / 2 ^ 64)) (reqCommit q (evalBar q.mu (slotOff q) s)) :=
  (performBarTest_raw hn).trans h.withBar

theorem performBarRetire_frees (hs : b.st ≠ .completing) (hw : waitersOn (evalBar q.mu (slotOff q) s) q.mu 2 (slotOff q) = []) :
    performBarRetire q s = reply q 0 (reqCommit q (wrN (setBar (evalBar q.mu (slotOff q) s) (slotLoc q) none) (slotLoc q) 16 0)) :=
  h.withBar.trans (if_neg (by simp [hs, hw]))

theorem performBarRetire_refused (hw : b.st = .completing ∨ waitersOn (evalBar q.mu (slotOff q) s) q.mu 2 (slotOff q) ≠ []) :
    performBarRetire q s = barFault q (evalBar q.mu (slotOff q) s) :=
  h.withBar.trans (if_pos (by simpa using hw))

end

end

theorem barrierWaitsAndRetirementServed : Claims.BarrierWaitsAndRetirementServed := by
  intro s q f p b hold hp ha off loc ans u pt par held emits parks hr hb hown
  have live (hptr : reqPtr q = p) : FindsSlot (Claims.taken s q) q b := by
    subst hptr
    exact ⟨ha, fun ⟨k, hk, h⟩ => Bool.false_ne_true ((hr k hk).symm.trans h), hb, hown⟩
  refine ⟨fun hi => ?wait, fun hi hf => ?test, fun hi hf => ?low, fun hi hf => ?high, fun hi hs hw => ?retires, fun hi hw => ?refused⟩
  all_goals obtain ⟨rfl, rfl⟩ := slot_request (f := f) (by rw [hi]; rfl) hp
  all_goals have hlive := live rfl
  case wait =>
    refine ⟨fun he => ?emits, fun hpark hroom i hfree => ?parks, fun hs hne => ?held, fun hs heq => ?faults⟩
    case emits => exact serves_of_sync hold (performSync_barWait hi) (performBarWait_live hlive (waitAct_emit he))
    case parks =>
      refine ⟨_, exec_muRequest_sync hold (performSync_barWait hi), ?_⟩
      rw [close_mu, performBarWait_live hlive (waitAct_park hpark)]
      exact waitOutcome_parks hroom hfree
    case held => exact serves_of_sync hold (performSync_barWait hi) (performBarWait_live hlive (waitAct_hold hs hne))
    case faults => exact serves_of_sync hold (performSync_barWait hi) (performBarWait_live hlive (waitAct_fault hs heq))
  case test =>
    exact ⟨fun he => serves_of_sync hold (performSync_barTest hi) (performBarTest_live hlive (waitAct_emit he) hf),
      fun hpark => serves_of_sync hold (performSync_barTest hi) (performBarTest_live hlive (waitAct_park hpark) hf),
      fun hs hne => serves_of_sync hold (performSync_barTest hi) (performBarTest_live hlive (waitAct_hold hs hne) hf),
      fun hs heq => serves_of_sync hold (performSync_barTest hi) (performBarTest_live hlive (waitAct_fault hs heq) hf)⟩
  case low => exact serves_of_sync hold (performSync_barTest hi) ((performBarTest_bits hlive (by simp [hf])).trans (by simp [hf]; rfl))
  case high => exact serves_of_sync hold (performSync_barTest hi) ((performBarTest_bits hlive (by simp [hf])).trans (by simp [hf]; rfl))
  case retires => exact serves_of_sync hold (performSync_barRetire hi) (performBarRetire_frees hlive hs hw)
  case refused => exact serves_of_sync hold (performSync_barRetire hi) (performBarRetire_refused hlive hw)

/-- Settles O48: the checks come first, then the slot's state decides; each outcome has one lemma. -/
theorem barrierSlotsServed : Obligations.BarrierSlotsServed := ⟨barrierCountsServed, barrierWaitsAndRetirementServed⟩

end Sys2Proof.Machine

/-!
What moves a slot and a ring on without an instruction (O49): the completion of a phase and its commit, the release of a slot, a held request
that is tried again, and the binding of a ring.
-/

namespace Sys2Proof.Machine

open Sys2Proof

/-! ### The flags of a context (R381) -/

/-- Every context has the launch flags in `t` that it has in `s`. -/
structure SameFlags (s t : State) : Prop where
  flg : ∀ c, (ctxOf t c).flg = (ctxOf s c).flg

theorem SameFlags.refl (s : State) : SameFlags s s := ⟨fun _ => rfl⟩

/-- What keeps the flags does so after what has kept them. -/
theorem SameFlags.after {s t u : State} (k : SameFlags t u) (h : SameFlags s t) : SameFlags s u := ⟨fun c => (k.flg c).trans (h.flg c)⟩

theorem SameFlags.isRedundant_eq {s t : State} (h : SameFlags s t) (c : Nat) : isRedundant (ctxOf t c) = isRedundant (ctxOf s c) := by
  rw [isRedundant, isRedundant, h.flg c]

theorem sameFlags_of_ctxs {s t : State} (h : t.ctxs = s.ctxs) : SameFlags s t := ⟨fun c => by rw [ctxOf_of_ctxs h]⟩

theorem sameFlags_updCtx (s : State) (c : Nat) {g : Ctx → Ctx} (hid : ∀ y, (g y).id = y.id) (hflg : ∀ y, (g y).flg = y.flg) :
    SameFlags s (updCtx s c g) := ⟨ctxOf_updCtx_field (p := Ctx.flg) hid hflg⟩

theorem SameFlags.foldl {α : Type} {g : State → α → State} (h : ∀ t a, SameFlags t (g t a)) (l : List α) (s : State) :
    SameFlags s (l.foldl g s) := List.foldlRecOn l g (motive := SameFlags s) (.refl s) fun t ht a _ => .after (h t a) ht

section
variable (s : State)

/-! Messages. -/

theorem sameFlags_sendOne (e : Nat × Nat × Cargo) : SameFlags s (sendOne s e) := by
  obtain ⟨k, h⟩ := sendOne_frame s e
  exact sameFlags_of_ctxs (by rw [h])

theorem sameFlags_tellMembers (c : Nat) (m : LinkMsg) : SameFlags s (tellMembers s c m) := by
  obtain ⟨k, h⟩ := tellMembers_frame s c m
  exact sameFlags_of_ctxs (by rw [h])

/-! The end of a context (R369, R398). -/

theorem sameFlags_gatherCharges (c : Nat) : SameFlags s (gatherCharges s c) := by
  unfold gatherCharges
  dsimp only
  split
  · exact sameFlags_of_ctxs rfl
  split
  · exact .after (sameFlags_updCtx _ c (fun _ => rfl) fun _ => rfl) (sameFlags_of_ctxs rfl)
  · exact .after (sameFlags_sendOne ..) (sameFlags_of_ctxs rfl)

theorem sameFlags_sweepSpillPage (x : Ctx) (k : Nat) : SameFlags s (sweepSpillPage x s k) := by
  unfold sweepSpillPage
  split
  · exact .refl s
  · refine .foldl (fun t j => ?_) _ s
    split <;> exact sameFlags_of_ctxs rfl

theorem sameFlags_sweepSpill (c : Nat) : SameFlags s (sweepSpill s c) := by
  unfold sweepSpill
  split
  · exact .refl s
  · exact .foldl (fun t k => sameFlags_sweepSpillPage t _ k) _ s

theorem sameFlags_sweepCtx (c : Nat) : SameFlags s (sweepCtx s c) := ⟨(sameFlags_sweepSpill s c).flg⟩

theorem sameFlags_refuseFar (c : Nat) : SameFlags s (refuseFar s c) := by
  unfold refuseFar
  exact .after (.foldl (fun t _ => sameFlags_sendOne t _) _ _) (sameFlags_of_ctxs rfl)

theorem sameFlags_hamperCount (l : Nat) : SameFlags s (hamperCount s l) := by
  unfold hamperCount
  dsimp only
  split <;> exact sameFlags_of_ctxs rfl

theorem sameFlags_takeSignal (w : Nat) : SameFlags s (takeSignal s w).2 := by
  unfold takeSignal
  dsimp only
  split
  · exact .refl s
  split
  · refine .foldl (fun t l => ?_) _ s
    exact .after (sameFlags_hamperCount _ l) (sameFlags_of_ctxs rfl)
  · exact .refl s

theorem sameFlags_suspendQueue (q : Nat) (st : Word) : SameFlags s (suspendQueue s q st) :=
  sameFlags_of_ctxs (by simp only [suspendQueue, notice, setCause, updQueue_ctxs, updDie_ctxs])

theorem sameFlags_refuseHead (q : Nat) (st : Word) : SameFlags s (refuseHead s q st) :=
  .after (sameFlags_of_ctxs (updQueue_ctxs ..)) (sameFlags_suspendQueue s q st)

theorem sameFlags_signalExit (q w : Nat) : SameFlags s (signalExit s q w) := by
  unfold signalExit
  dsimp only
  split
  · exact .refl s
  split
  · exact sameFlags_sendOne s _
  split
  · exact sameFlags_takeSignal s w
  · exact sameFlags_suspendQueue ..

theorem sameFlags_endCtx (c : Nat) (st : CState) (kind code : Nat) : SameFlags s (endCtx s c st kind code) := by
  unfold endCtx
  extract_lets x n k swept ended refused yard settled
  have hswept : SameFlags s swept := .after (sameFlags_sweepCtx ..) (sameFlags_gatherCharges s c)
  have hended : SameFlags swept ended := by
    unfold ended
    exact sameFlags_updCtx swept c (fun _ => rfl) fun _ => rfl
  have hrefused : SameFlags ended refused := by
    unfold refused
    refine .after (.foldl (fun t e => ?_) _ _) (sameFlags_refuseFar ended c)
    exact sameFlags_refuseHead ..
  have hsettled : SameFlags refused settled := sameFlags_of_ctxs rfl
  exact .after (sameFlags_signalExit settled _ _) (.after hsettled (.after hrefused (.after hended hswept)))

theorem sameFlags_killLocal (c kind : Nat) : SameFlags s (killLocal s c kind) := by
  have stopped : SameFlags s (beginKill s c kind) := by
    unfold beginKill
    exact .after (sameFlags_updCtx _ c (fun _ => rfl) fun _ => rfl) (sameFlags_of_ctxs rfl)
  unfold killLocal
  dsimp only
  split
  · exact .refl s
  split
  · exact sameFlags_endCtx ..
  split
  · exact stopped
  · exact .after (sameFlags_endCtx ..) (.after (sameFlags_updCtx _ c (fun _ => rfl) fun _ => rfl) stopped)

theorem sameFlags_killCtx (c kind : Nat) : SameFlags s (killCtx s c kind) := by
  unfold killCtx
  split
  · exact .after (sameFlags_killLocal ..) (sameFlags_tellMembers ..)
  · exact .refl s

theorem sameFlags_nestedFault (u : UId) (r : FaultRec) : SameFlags s (nestedFault s u r) :=
  ⟨(sameFlags_killCtx (fallback s (dieOf s u) r) u.ctx 0x14).flg⟩

theorem sameFlags_rootCheck (u : UId) (kind lvl : Nat) : SameFlags s (rootCheck s u kind lvl) := by
  unfold rootCheck
  split <;> exact sameFlags_of_ctxs rfl

/-! A commit point (R73, R76). -/

theorem sameFlags_touchRec (c k col : Nat) : SameFlags s (touchRec s c k col) := by
  unfold touchRec
  dsimp only
  split
  · exact .refl s
  split
  · exact .refl s
  split
  · exact sameFlags_updCtx s c (fun _ => rfl) fun _ => rfl
  split
  · exact .after (sameFlags_updCtx _ c (fun _ => rfl) fun _ => rfl) (sameFlags_of_ctxs (noteRead_ctxs ..))
  · exact .after (sameFlags_nestedFault ..) (sameFlags_rootCheck ..)

theorem sameFlags_storeRec (u : UId) (r : CallRec) : SameFlags s (storeRec s u r) := by
  have put (t : State) : SameFlags t (tellMembers (updCtx t u.ctx fun x => putRec x r) u.ctx (.record u.ctx r)) :=
    .after (sameFlags_tellMembers ..) (sameFlags_updCtx t u.ctx (fun _ => rfl) fun _ => rfl)
  unfold storeRec
  dsimp only
  split
  · exact sameFlags_updCtx s u.ctx (fun _ => rfl) fun _ => rfl
  split
  · exact put s
  split
  · exact ⟨(put (wrBytes s _ _)).flg⟩
  · exact sameFlags_nestedFault ..

theorem sameFlags_commitPt (c k col : Nat) : SameFlags s (commitPt s c k col) := by
  have touched := sameFlags_touchRec s c k col
  unfold commitPt withRec
  dsimp only
  split
  · exact .refl s
  split
  · exact touched
  split
  · exact touched
  split
  · exact touched
  split
  · exact .after (sameFlags_storeRec ..) touched
  · exact .after (sameFlags_sendOne ..) (.after (sameFlags_storeRec ..) touched)

/-! The commit of buffered stores (R177, R178). -/

theorem sameFlags_putByte (a : Nat) (b : Byte) : SameFlags s (putByte s a b) := by
  unfold putByte
  split <;> exact sameFlags_of_ctxs rfl

theorem sameFlags_putBytes (ws : List (Nat × Byte)) : SameFlags s (putBytes s ws) := by
  unfold putBytes
  extract_lets locs hit written counted
  have hwritten : SameFlags s written := by
    unfold written
    refine .foldl (fun t w => ?_) ws s
    exact sameFlags_putByte ..
  have hcounted : SameFlags written counted := by
    unfold counted
    generalize hit = h
    cases h <;> exact sameFlags_of_ctxs rfl
  have hdropped : SameFlags counted ((notFullWords s locs).foldl addIsdrop counted) := by
    refine .foldl (fun t l => ?_) _ counted
    exact sameFlags_of_ctxs rfl
  exact .after hdropped (.after hcounted hwritten)

theorem sameFlags_readFire (ls : List Nat) : SameFlags s (readFire s ls) := by
  unfold readFire
  split <;> exact sameFlags_of_ctxs rfl

theorem sameFlags_commitError (e : PbEntry) : SameFlags s (commitError s e) := by
  unfold commitError
  dsimp only
  split
  · exact .refl s
  · refine .after (sameFlags_of_ctxs (trapErr_ctxs ..)) ?_
    split
    · exact sameFlags_readFire s _
    · exact .refl s

theorem sameFlags_commitTag (e : PbEntry) : SameFlags s (commitTag s e) := by
  unfold commitTag
  split
  · exact .refl s
  split
  · exact .refl s
  split <;> exact sameFlags_of_ctxs rfl

theorem sameFlags_commitEntry (e : PbEntry) : SameFlags s (commitEntry s e) := by
  unfold commitEntry
  exact .after (sameFlags_commitPt ..) (.after (sameFlags_commitTag ..) (.after (sameFlags_putBytes ..) (sameFlags_commitError ..)))

/-- A boundary's commit may end a context, but it changes no launch. -/
theorem sameFlags_commitWhere (c : Nat) (cov : PbEntry → Bool) : SameFlags s (commitWhere s c cov) := by
  unfold commitWhere
  extract_lets es mu kept
  have hkept : SameFlags s kept := sameFlags_of_ctxs rfl
  refine .after (.foldl (fun t e => ?_) es kept) hkept
  split
  · exact sameFlags_commitPt ..
  · exact sameFlags_commitEntry t e

end

/-! ### Completion (R219 to R221) -/

theorem barAt_setBar (s : State) (l : Nat) (b : Bar) : barAt (setBar s l (some b)) l = some b :=
  fget_fset_same (Option.some_ne_none b) s.cp.bars l

theorem ringAt_setRing (s : State) (l : Nat) (r : Ring) : ringAt (setRing s l (some r)) l = some r :=
  fget_fset_same (Option.some_ne_none r) s.cp.rings l

/-- A slot whose commit has been made owes nothing more. -/
def barPaid (l : Nat) (s : State) : State :=
  match barAt s l with
  | some b => setBar s l (some { b with owed := false, done := [] })
  | none => s

section
variable {s : State} {m : UId} {off : Nat} {b : Bar}

theorem barPaid_ctxs (l : Nat) (s : State) : (barPaid l s).ctxs = s.ctxs := by
  unfold barPaid
  split <;> rfl

theorem evalBar_completes (hb : barAt s (locUnit m off) = some b) (hr : barsRun (ctxOf s m.ctx) = true) (hs : b.st = .armed)
    (hp : b.pnd = 0) (hx : b.txb = 0) : evalBar m off s = barCommit m off (setBar s (locUnit m off) (some (completed b))) := by
  simp [evalBar, hb, hr, barDue, hs, hp, hx]

/-- Without a twin there is nothing to compare (R470). -/
theorem badGroups_alone {c : Nat} {cov : PbEntry → Bool} (h : isRedundant (ctxOf s c) = false) : badGroups s c cov = [] := by
  simp [badGroups, badOf, h]

theorem barShare_alone {us : List UId} (h : (ctxOf s m.ctx).members.length ≤ 1) : barShare m off us s = s := by
  unfold barShare
  dsimp only
  split
  · rfl
  · exact if_pos h

theorem barCommit_waits (hb : barAt s (locUnit m off) = some b) (hred : isRedundant (ctxOf s m.ctx) = false)
    (hh : hostBlocks s m.ctx (barCovers b.done) ≠ []) : barCommit m off s = wantBlocks s m.ctx (barCovers b.done) := by
  simp [barCommit, hb, hred, hh]

/-- The commit of a context that has no twin and no other member. -/
theorem barCommit_alone (hb : barAt s (locUnit m off) = some b) (hred : isRedundant (ctxOf s m.ctx) = false)
    (hh : hostBlocks s m.ctx (barCovers b.done) = []) (hm : (ctxOf (commitWhere s m.ctx (barCovers b.done)) m.ctx).members.length ≤ 1) :
    barCommit m off s = barPaid (locUnit m off) (commitWhere s m.ctx (barCovers b.done)) := by
  have hg : badGroups s m.ctx (barCovers b.done) = [] := badGroups_alone hred
  have hctx := ctxOf_of_ctxs (barPaid_ctxs (locUnit m off) (commitWhere s m.ctx (barCovers b.done))) m.ctx
  have hred' : isRedundant (ctxOf (barPaid (locUnit m off) (commitWhere s m.ctx (barCovers b.done))) m.ctx) = false := by
    rw [hctx, (sameFlags_commitWhere s m.ctx _).isRedundant_eq, hred]
  have hshare : barShare m off b.done (barPaid (locUnit m off) (commitWhere s m.ctx (barCovers b.done))) = _ :=
    barShare_alone (by rw [hctx]; exact hm)
  unfold barCommit
  dsimp only
  rw [hb]
  dsimp only
  rw [hred, hh, hg, boundary, hg]
  change barShare m off b.done (if isRedundant (ctxOf (barPaid (locUnit m off) (commitWhere s m.ctx (barCovers b.done))) m.ctx) = true then _ else
    barPaid (locUnit m off) (commitWhere s m.ctx (barCovers b.done))) = _
  rw [hred', if_neg Bool.false_ne_true, hshare]

theorem barCovers_eq (us : List UId) : barCovers us = fun e => decide (∃ u ∈ us, u.copy = e.mu.copy ∧ u.x = e.sx ∧ u.y = e.sy) := by
  funext e
  rw [Bool.eq_iff_iff]
  simp [barCovers, and_assoc]

end

/-! ### Release (R221, R225) -/

/-- No bank has moved since `s`, and a waiter at the slot of `b` is one that the yard left there for the phase after the release (R382). -/
structure Released (m : UId) (off : Nat) (b : Bar) (s t : State) : Prop where
  cp : t.cp = s.cp
  waits : ∀ w ∈ t.mu.waiters, w.mu = m → w.wk = 2 → w.off = off → w.u = m ∧ w.arg = if b.par then 0 else 1

section
variable {m : UId} {off : Nat} {b : Bar} {s t u : State}

theorem Released.of_eq (h : Released m off b s t) (hcp : u.cp = t.cp) (hw : u.mu.waiters = t.mu.waiters) : Released m off b s u :=
  ⟨hcp.trans h.cp, fun w hm => h.waits w (hw ▸ hm)⟩

theorem Released.foldl {α : Type} {g : State → α → State} {l : List α}
    (hg : ∀ t, ∀ a ∈ l, Released m off b s t → Released m off b s (g t a))
    (h : Released m off b s t) : Released m off b s (l.foldl g t) :=
  List.foldlRecOn l g (motive := Released m off b s) h fun t ht a ha => hg t a ha ht

theorem Released.sendOne (h : Released m off b s t) (e : Nat × Nat × Cargo) : Released m off b s (sendOne t e) := by
  obtain ⟨k, hk⟩ := sendOne_frame t e
  rw [hk]
  exact h.of_eq rfl rfl

theorem onlyTokens_wake (v w' : Word) (s : State) (w : Waiter) : OnlyTokens s (wake v w' s w) :=
  OnlyTokens.trans (emitFrom_frame ..) (emitFrom_frame ..)

theorem released_releaseAll (v : Word) : Released m off b s (releaseAll s m 2 off v) := by
  refine Released.foldl (fun t w _ ht => ?_) ⟨rfl, fun w hm h1 h2 h3 => ?_⟩
  · obtain ⟨fl, ar, lk, e⟩ := onlyTokens_wake v v t w
    rw [e]
    exact ht.of_eq rfl rfl
  · simp [waitersOn, h1, h2, h3] at hm

theorem Released.releaseHeads (h : Released m off b s t) (loc : Nat) (par : Bool) : Released m off b s (releaseHeads loc par t) := by
  unfold Machine.releaseHeads releaseFar
  exact Released.foldl (fun t e _ ht => ht.sendOne _) (h.of_eq rfl rfl)

theorem hamperWaiters_cp (m : UId) (off : Nat) (s : State) : (hamperWaiters m off s).cp = s.cp := by
  unfold hamperWaiters
  dsimp only
  split
  · exact List.foldlRecOn _ _ (motive := fun t : State => t.cp = s.cp) rfl fun t ht w _ => ht
  · rfl

theorem hamperWaiters_mu (m : UId) (off : Nat) (s : State) : (hamperWaiters m off s).mu = s.mu := by
  unfold hamperWaiters
  dsimp only
  split
  · exact List.foldlRecOn _ _ (motive := fun t : State => t.mu = s.mu) rfl fun t ht w _ => ht
  · rfl

/-- The yard waits for itself: its waiter belongs to the MU of the slot and carries the parity of the dependence word. -/
theorem Released.parkYard {w : Nat} (h : Released m off b s t) (hw : nbits w 47 1 = if b.par then 0 else 1) (hp : parkYard t w = some u) :
    Released m off b s u := by
  unfold Machine.parkYard at hp
  obtain ⟨i, _, rfl⟩ := Option.map_eq_some_iff.1 hp
  refine ⟨(hamperWaiters_cp ..).trans h.cp, fun y hy hm hk ho => ?_⟩
  rw [hamperWaiters_mu] at hy
  rcases List.mem_append.1 hy with hy | hy
  · exact h.waits y hy hm hk ho
  · obtain rfl := List.mem_singleton.1 hy
    exact ⟨hm, hw⟩

theorem depIs_parity {loc w : Nat} {par : Bool} (h : depIs s loc (!par) w = true) : nbits w 47 1 = if par then 0 else 1 := by
  have hlt : nbits w 47 1 < 2 := Nat.mod_lt _ (by decide)
  cases par <;> simp [depIs] at h <;> simp <;> omega

theorem Released.refuseHead (h : Released m off b s t) (q : Nat) (st : Word) : Released m off b s (refuseHead t q st) :=
  h.of_eq (by simp only [Machine.refuseHead, suspendQueue, notice, setCause, updQueue_cp, updDie_cp])
    (by simp only [Machine.refuseHead, suspendQueue, notice, setCause, updQueue_mu, updDie_mu])

theorem Released.retryHead {w : Nat} (h : Released m off b s t) (hw : nbits w 47 1 = if b.par then 0 else 1) (idle : Bool) (q : Nat) :
    Released m off b s (retryHead w idle t q) := by
  unfold Machine.retryHead
  split
  case h_1 u hu =>
    cases idle
    · exact h.parkYard hw hu
    · cases hu
  case h_2 => exact h.refuseHead ..

theorem Released.retryFar {e : Nat × Nat × Nat} (h : Released m off b s t) (hw : nbits e.1 47 1 = if b.par then 0 else 1) (idle : Bool) :
    Released m off b s (retryFar idle t e) := by
  unfold Machine.retryFar
  split
  case h_1 u hu =>
    cases idle
    · exact h.parkYard hw hu
    · cases hu
  case h_2 => exact (h.of_eq (u := { t with yard := { t.yard with far := t.yard.far.erase e } }) rfl rfl).sendOne _

theorem Released.retryHeads (h : Released m off b s t) (loc : Nat) (idle : Bool) : Released m off b s (retryHeads loc b.par idle t) := by
  unfold Machine.retryHeads
  refine .foldl (fun v e he hv => hv.retryFar (depIs_parity (List.mem_filter.1 he).2) idle) ?_
  refine .foldl (fun v e he hv => ?_) h
  obtain ⟨k, _, hk⟩ := List.mem_flatMap.1 he
  obtain ⟨w, hw, rfl⟩ := List.mem_map.1 hk
  exact hv.retryHead (depIs_parity (List.mem_filter.1 hw).2) idle _

end

section
variable {s : State} {m : UId} {off : Nat} {b : Bar}

theorem bodyBarrierRelease_releases (hb : barAt s (locUnit m off) = some b) (hr : barsRun (ctxOf s m.ctx) = true)
    (hs : b.st = .completing)
    (ho : b.owed = false) (ha : b.away = 0) :
    let flipped := setBar s (locUnit m off) (some { b with par := !b.par, st := if b.exp = 0 then .idle else .armed })
    ∃ t, Released m off b flipped t ∧ bodyBarrierRelease m off s = { t with cp := { t.cp with retry := t.cp.retry.map fun r =>
      if r.req.mu == m && r.off == off then { r with due := true } else r } } := by
  intro flipped
  have h := ((released_releaseAll (m := m) (off := off) (b := b) (s := flipped) (truth b.par)).releaseHeads (locUnit m off) b.par).retryHeads
    (locUnit m off) (b.exp == 0)
  refine ⟨_, h, ?_⟩
  unfold bodyBarrierRelease
  rw [hb]
  dsimp only
  rw [if_neg (by simp [hr, hs, ho, ha])]
  simp only [beq_iff_eq, flipped]

end

/-! ### Retry (R225) -/

section
variable {s : State} {m : UId} {r : Retry}

/-- The oldest due request leaves the buffer and is performed. -/
theorem bodyBarrierRetry_test (hr : barsRun (ctxOf s m.ctx) = true) (hf : s.cp.retry.find? (fun r => r.req.mu == m && r.due) = some r)
    {f : Fields} (hi : r.req.i = .barTest f) :
    bodyBarrierRetry m s = performBarTest r.req { s with cp := { s.cp with retry := s.cp.retry.erase r } } := by
  simp [bodyBarrierRetry, hr, hf, hi]

theorem bodyBarrierRetry_wait (hr : barsRun (ctxOf s m.ctx) = true) (hf : s.cp.retry.find? (fun r => r.req.mu == m && r.due) = some r)
    {f : Fields} (hi : r.req.i = .barWait f) :
    bodyBarrierRetry m s = performBarWait r.req { s with cp := { s.cp with retry := s.cp.retry.erase r } } := by
  simp [bodyBarrierRetry, hr, hf, hi]

end

theorem barrierEvents : Claims.BarrierEvents := by
  intro s m off b hb
  refine ⟨?completes, ?releases, ?retries⟩
  case completes =>
    intro hon hr hred hone hs hp hx cov due t
    have hb' : barAt due (locUnit m off) = some (completed b) := barAt_setBar ..
    have hcov : barCovers (completed b).done = cov := barCovers_eq b.units
    have he : exec (.barrierCompletion m off) s = done s (barCommit m off due) :=
      congrArg (done s) ((if_pos hon).trans (evalBar_completes hb hr hs hp hx))
    have waits := barCommit_waits hb' hred
    have commits := barCommit_alone hb' hred
    rw [hcov] at waits commits
    exact ⟨fun hh hm => ends_of_body (commits hh hm) he, fun hh => ends_of_body (waits hh) he⟩
  case releases =>
    intro hr hs ho ha
    obtain ⟨t, ht, hbody⟩ := bodyBarrierRelease_releases hb hr hs ho ha
    refine ⟨close s (bodyBarrierRelease m off s), rfl, ?_⟩
    rw [hbody]
    refine ⟨?_, ht.waits, fun r hm h1 h2 => ?_⟩
    · exact (congrArg (fun c : CopyState => fget none c.bars (locUnit m off)) ht.cp).trans (barAt_setBar ..)
    · obtain ⟨r', _, rfl⟩ := List.mem_map.1 hm
      by_cases h : r'.req.mu == m && r'.off == off <;> simp_all
  case retries =>
    intro r hr hf t
    exact ⟨fun f hi => congrArg (done s) (bodyBarrierRetry_test hr hf hi), fun f hi => congrArg (done s) (bodyBarrierRetry_wait hr hf hi)⟩

/-! ### The binding of a ring (R264, R265, R273) -/

section
variable {s : State} {q : Req}

theorem performSync_ringBind {f : Fields} (hi : q.i = .ringBind f) : performSync q s = some (performRingBind q s) := by
  rw [performSync, hi]

theorem performRingBind_bound {b : Binding} (hb : bindingOf s q.mu (muNamed q.c.u (reqK q 0)) (offOf (reqK q 0)) = some b) :
    performRingBind q s = if b.pend then updBinding s q.mu (muNamed q.c.u (reqK q 0)) (offOf (reqK q 0))
      fun b => { b with waiting := b.waiting ++ [q] } else bindReply s q := by
  unfold performRingBind
  dsimp only
  rw [hb]

section
variable (hb : bindingOf s q.mu (muNamed q.c.u (reqK q 0)) (offOf (reqK q 0)) = none)
include hb

theorem performRingBind_full (hn : 8 ≤ (s.cp.binds.filter fun b => b.mu == q.mu).length) :
    performRingBind q s = reqFault q 0x1D (reqK q 0) s := by
  unfold performRingBind
  dsimp only
  rw [hb]
  exact if_pos hn

theorem performRingBind_asks (hn : (s.cp.binds.filter fun b => b.mu == q.mu).length < 8)
    (hon : onModule (ctxOf s q.mu.ctx) (muNamed q.c.u (reqK q 0)).x = true) :
    performRingBind q s = askBind q.mu (muNamed q.c.u (reqK q 0)) (offOf (reqK q 0)) { s with cp := { s.cp with
      binds := s.cp.binds ++ [{ mu := q.mu, ring := muNamed q.c.u (reqK q 0), off := offOf (reqK q 0), kd := false, pend := true, sz := 0,
                                cnt := 0, srsv := 0, sfree := 0, maker := some q, waiting := [] }] } } := by
  unfold performRingBind
  dsimp only
  rw [hb]
  exact (if_neg (Nat.not_le.2 hn)).trans (if_pos hon)

end

theorem answerBind_answers {m : BindMsg} (hon : onModule (ctxOf s m.mu.ctx) m.mu.x = true) (hz : m.sz ≠ 0) :
    answerBind m s = { s with cp := { s.cp with bindMsgs := s.cp.bindMsgs ++ [m] } } := by
  simp [answerBind, hon, hz]

/-- A ring that can be bound hands over its free space and notes the copy that holds it. -/
theorem bindAtRing_binds {m : BindMsg} {r : Ring} (hr : ringAt s (locUnit m.ring m.off) = some r) (hb : r.bnd = false) (hn : r.net = none)
    (ho : r.own = m.ring.ctx) (hm : m.ring ≠ m.mu) (hw : r.rsv = r.wp) (hf : fillsRing s m.ring m.ring m.off = false) :
    bindAtRing m s = answerBind { m with reply := true, free := r.free, rsv := r.rsv, kd := r.kd, sz := r.sz, cnt := r.cnt }
      (setRing s (locUnit m.ring m.off) (some { r with bnd := true, free := 0, bpx := m.mu.x / 4 % (ctxOf s m.mu.ctx).pw, bpy := m.mu.y,
                                                       bmod := m.mu.x / (4 * (ctxOf s m.mu.ctx).pw) })) := by
  simp [bindAtRing, hr, hb, hn, ho, hm, hw, hf]

theorem bodyRingBindRequest_takes {n : Nat} {m : BindMsg} (hm : (s.cp.bindMsgs.filter fun m => !m.reply)[n]? = some m) :
    bodyRingBindRequest n s = bindAtRing m { s with cp := { s.cp with bindMsgs := s.cp.bindMsgs.erase m } } := by
  rw [bodyRingBindRequest, hm]

theorem bodyRingBindReply_completes {n : Nat} {m : BindMsg} {b : Binding} (hm : (s.cp.bindMsgs.filter fun m => m.reply)[n]? = some m)
    (hb : bindingOf s m.mu m.ring m.off = some b) :
    bodyRingBindReply n s = (b.maker.toList ++ b.waiting).foldl bindReply
      (updBinding { s with cp := { s.cp with bindMsgs := s.cp.bindMsgs.erase m } } m.mu m.ring m.off fun b =>
        { b with pend := false, kd := m.kd, sz := m.sz, cnt := m.cnt, srsv := m.rsv, sfree := b.sfree + m.free, maker := none,
                 waiting := [] }) := by
  have hb' : bindingOf { s with cp := { s.cp with bindMsgs := s.cp.bindMsgs.erase m } } m.mu m.ring m.off = some b := hb
  unfold bodyRingBindReply
  rw [hm]
  dsimp only
  rw [hb']

theorem bodyRingSlotReturn_adds {m ring : UId} {e : SlotRet} (he : s.cp.slotRets.find? (fun e => e.mu == m && e.ring == ring) = some e) :
    bodyRingSlotReturn m ring s = updBinding { s with cp := { s.cp with slotRets := s.cp.slotRets.erase e } } e.mu e.ring e.off
      fun b => { b with sfree := b.sfree + e.n } := by
  rw [bodyRingSlotReturn, he]

end

theorem ringBindingEvents : Claims.RingBindingEvents := by
  refine ⟨fun s q f hold hi => ?instruction, fun s n m r hm hr hb hn ho hne hw hf hon hz => ?request, fun s n m b hm hb => ?reply,
    fun s m ring e he => ?spaceReturn⟩
  case instruction =>
    intro p ring
    have served {g : State → State} (h : performRingBind q (Claims.taken s q) = g (Claims.taken s q)) : Claims.Serves s q g :=
      serves_of_sync hold (performSync_ringBind hi) h
    have bound {b : Binding} (hb : bindingOf s q.mu ring (offOf p) = some b) := performRingBind_bound (s := Claims.taken s q) hb
    exact ⟨fun b hb hp => served ((bound hb).trans (if_neg (by simp [hp]))), fun b hb hp => served ((bound hb).trans (if_pos hp)),
      fun hb hn => served (performRingBind_full hb hn),
      fun hb hn hon => served (performRingBind_asks hb hn hon)⟩
  case request =>
    refine ⟨close s (bodyRingBindRequest n s), rfl, ?_⟩
    rw [bodyRingBindRequest_takes hm, bindAtRing_binds (s := { s with cp := { s.cp with bindMsgs := s.cp.bindMsgs.erase m } }) hr hb hn ho hne hw hf,
      answerBind_answers ?onModule ?sized]
    case onModule => exact hon
    case sized => exact hz
    exact ⟨rfl, ringAt_setRing ..⟩
  case reply => exact congrArg (done s) (bodyRingBindReply_completes hm hb)
  case spaceReturn => exact congrArg (done s) (bodyRingSlotReturn_adds he)

/-- Settles O49: a completion without a twin pays at once what it owes, and between a release's flip and its end only the yard adds waiters. -/
theorem barrierAndRingEvents : Obligations.BarrierAndRingEvents := ⟨barrierEvents, ringBindingEvents⟩

end Sys2Proof.Machine

/-!
Streams (O50): the statement lets the copy unit open any issued stream. A copy for which an I/O die holds data goes on with those instead, and
nothing in the statement says that there are none.
-/

namespace Sys2Proof.Machine

open Sys2Proof

/-- A STREAM of no elements, accepted but not yet open. -/
def issuedStream : Copy :=
  { mu := hubOf homeCu, id := 0, i := .stream (unpack 0), c := homeFiring 0, k := [], st := .issued, rsn := 0, nch := 0, total := 0, sent := 0,
    cw := 0, src := 0, dst := 0, len := 0, maps := [], timer := none, crfail := false, resv := none, strm := [], pos := 0, n := 0, cnt := 0,
    aux := [], toks := [], toks2 := [], left := false }

/-- The stream is its MU's one copy, and an I/O die holds data under the id that it has. -/
def streamWithData : State :=
  { State.reset with
      ctxs := [homeCtx]
      cp := { State.reset.cp with copies := [issuedStream] }
      lk := { State.reset.lk with ioData := [{ mu := issuedStream.mu, id := issuedStream.id, ok := true, data := [] }] } }

/-- The copy unit sends the data that the I/O die holds, and the stream has taken no AGU stream. -/
theorem streamWithData_takesNoStream {t : State} (h : exec (.copyStart issuedStream.mu issuedStream.id) streamWithData = .next t) :
    t.cp.copies.map (fun p => p.strm) = [[]] := by
  cases h
  decide +kernel

/-- Refutes O50: of an issued STREAM the statement says that it opens with a free AGU stream, and it does not ask that no I/O die hold data under
the copy's id. Where one does, those go on instead, and no AGU stream is taken. -/
theorem not_creditAndStreamEvents : ¬ Obligations.CreditAndStreamEvents := by
  rintro ⟨-, -, -, -, start⟩
  obtain ⟨opens, -⟩ := start streamWithData issuedStream.mu issuedStream.id issuedStream (by decide) rfl (.inl rfl) (by decide) rfl
  have opened := streamWithData_takesNoStream (opens (unpack 0) rfl [0] (by decide))
  exact absurd opened (by decide)

end Sys2Proof.Machine

/-!
Commands of the copy unit at issue and at the request port (O16).
-/

namespace Sys2Proof.Machine

open Sys2Proof

/-! ### A command leaves for its home MU (R235, R247) -/

section
variable {i : Instr} {f : Fields} {s : State} {F : Ready} {pred : Bool} (hF : s.firing = [F]) (hs : settle pred F = .go)
include hF hs

/-- A command's firing that computes sends R, the control word at the place in K that its instruction names, and the word that IMM[11:6] names. -/
theorem requests_of_command (lo : Nat) (he : exec i s = runLanes (lane true true pred f (sendCommand i f (some lo))) s) :
    Claims.Requests i s F (muOf F.u) [rightOp f F s, kreg s F.u (f.imm.toNat / 2 ^ lo % 64), kreg s F.u (f.imm.toNat / 2 ^ 6 % 64)] :=
  exec_of_lane hF he (lane_go hs)

/-- Where the instruction names no control word, 0 goes in its place. -/
theorem requests_of_plain_command (he : exec i s = runLanes (lane true true pred f (sendCommand i f none)) s) :
    Claims.Requests i s F (muOf F.u) [rightOp f F s, 0, kreg s F.u (f.imm.toNat / 2 ^ 6 % 64)] :=
  exec_of_lane hF he (lane_go hs)

end

/-! ### A command at the head of its port (R188, R234) -/

section
variable {s : State} {q : Req}

/-- The oldest request of a port that does not stand still enters the queue, where it is a command. -/
theorem exec_muRequest_command (h : Claims.Oldest s q) (hc : isCommand q.i = true) :
    exec (.muRequest q.mu) s = .next (close s (queueCommand q (Claims.taken s q))) := by
  obtain ⟨hq, hb⟩ := h
  have hbody : bodyMuRequest q.mu s = queueCommand q (Claims.taken s q) := by
    unfold bodyMuRequest
    rw [hq]
    dsimp only
    rw [hb, hc]
    rfl
  exact congrArg (done s) hbody

/-- In a context that runs nothing drops a command. -/
theorem queueCommand_running (h : (ctxOf s q.c.u.ctx).cst = .running) :
    queueCommand q s = { s with cp := { s.cp with queue := s.cp.queue ++ [q] } } := by
  simp [queueCommand, reqCtx, h]

end

/-- Settles O16: one lemma for the request that a command sends, and one for its way into the queue. -/
theorem commandsAtIssueAndAtThePort : Obligations.CommandsAtIssueAndAtThePort := by
  refine ⟨fun f s F hF => ⟨fun hs => ⟨?pushes, ?maps, ?streams, ?streamw, ?gath, ?femit, ?status⟩, fun hs => ?chained⟩,
    fun s q f hold mk hmk hi hr => ?port⟩
  case pushes =>
    simp only [List.forall_mem_cons]
    iterate 7 refine ⟨requests_of_command hF hs 0 rfl, ?_⟩
    nofun
  case maps =>
    simp only [List.forall_mem_cons]
    exact ⟨requests_of_command hF hs 4 rfl, requests_of_command hF hs 4 rfl, nofun⟩
  case streams =>
    simp only [List.forall_mem_cons]
    iterate 4 refine ⟨requests_of_plain_command hF hs rfl, ?_⟩
    nofun
  case streamw => exact requests_of_command hF hs 6 rfl
  case gath => exact requests_of_command hF hs 8 rfl
  case femit => exact requests_of_command hF hs 9 rfl
  case status =>
    simp only [List.forall_mem_cons]
    exact ⟨exec_of_body hF hs rfl rfl, exec_of_body hF hs rfl rfl, nofun⟩
  case chained =>
    simp only [List.forall_mem_cons]
    exact ⟨requests_of_command hF hs 0 rfl, requests_of_command hF hs 0 rfl, nofun⟩
  case port =>
    have commands : ∀ mk ∈ [Instr.send, .sendRing, .sendr, .sendkChain, .sendkLast, .copy, .copyo, .stream, .streamw, .fscan, .fisect,
        .funion, .gath, .femit, .ioread, .ioreadRing, .iowrite, .netsend], isCommand (mk f) = true := by
      simp [isCommand]
    exact serves_of_exec (exec_muRequest_command hold (hi ▸ commands mk hmk)) (queueCommand_running hr)

end Sys2Proof.Machine

/-!
The acceptance of byte copies and streams at their MU, and CSTAT (O17).
-/

namespace Sys2Proof.Machine

open Sys2Proof

/-! ### The head of an MU's queue (R172, R234, R245) -/

section
variable {s : State} {m : UId} {q : Req} (hq : s.cp.queue.find? (fun q => q.mu == m) = some q)
  (hr : isRunning (ctxOf s q.c.u.ctx) = true) (hf : (ctxOf s q.c.u.ctx).freezing = false) (ht : tableFull s m = false)
include hq hr hf ht

/-- The head of the queue waits where its source ranges may not commit yet, and is accepted otherwise. -/
theorem bodyCopyAccept_head : bodyCopyAccept m s = (sourceWaits q.c (sourceRanges q s) s).getD
    (acceptCommand q { s with cp := { s.cp with queue := s.cp.queue.erase q } }) := by
  rw [bodyCopyAccept, hq]
  refine (if_neg (by simp [reqCtx, hr, hf, ht])).trans ?_
  cases sourceWaits q.c (sourceRanges q s) s <;> rfl

theorem copyAccept_waits {t : State} (hw : sourceWaits q.c (sourceRanges q s) s = some t) : Claims.Ends (.copyAccept m) s t :=
  ends_of_body ((bodyCopyAccept_head hq hr hf ht).trans (by rw [hw, Option.getD_some])) rfl

theorem copyAccept_accepts {t : State} (hw : sourceWaits q.c (sourceRanges q s) s = none)
    (h : acceptCommand q { s with cp := { s.cp with queue := s.cp.queue.erase q } } = t) : Claims.Ends (.copyAccept m) s t :=
  ends_of_body ((bodyCopyAccept_head hq hr hf ht).trans (by rw [hw, Option.getD_none, h])) rfl

end

section
variable {s : State} {q : Req} {f : Fields} {p : Copy} {e : FaultInfo}

/-! ### What each command is at its acceptance -/

theorem acceptCommand_push : ∀ mk ∈ [Instr.send, .sendRing, .sendr, .sendkChain, .sendkLast], q.i = mk f →
    acceptCommand q s = acceptCopy q (acceptPush q s) s := by
  simp only [List.forall_mem_cons]
  refine ⟨?_, ?_, ?_, ?_, ?_, nofun⟩
  all_goals
    intro hi
    rw [acceptCommand, hi]

theorem acceptCommand_map : ∀ mk ∈ [Instr.copy, .copyo], q.i = mk f → acceptCommand q s = acceptCopy q (acceptMap q s) s := by
  simp only [List.forall_mem_cons]
  exact ⟨fun hi => by rw [acceptCommand, hi], fun hi => by rw [acceptCommand, hi], nofun⟩

theorem acceptCommand_stream (hi : q.i = .stream f) : acceptCommand q s = acceptStreaming q (acceptStream q s) s := by
  rw [acceptCommand, hi]

theorem acceptCommand_streamw (hi : q.i = .streamw f) : acceptCommand q s = acceptStreaming q (acceptStreamw q s) s := by
  rw [acceptCommand, hi]

theorem acceptStreaming_stream (hi : q.i = .stream f) :
    acceptStreaming q (.ok p) s = acceptReply p (enterCopy p (p.maps.foldl (fun s d => commitMap p.c d s) s)) := by
  rw [acceptStreaming, hi]
  dsimp only
  rw [List.foldl_map]

theorem acceptStreaming_streamw (hi : q.i = .streamw f) : acceptStreaming q (.ok p) s = acceptReply p (enterCopy p s) := by
  rw [acceptStreaming, hi]

/-- A push commits the bytes that it names (R172). -/
theorem commitCopy_push : ∀ mk ∈ [Instr.send, .sendRing, .sendr, .sendkChain, .sendkLast], p.i = mk f →
    commitCopy p s = commitSource p.c p.src p.len s := by
  simp only [List.forall_mem_cons]
  refine ⟨?_, ?_, ?_, ?_, ?_, nofun⟩
  all_goals
    intro hi
    rw [commitCopy, hi]

/-! ### The entry of an accepted command (R234 to R238) -/

/-- Checks that pass leave the command's copy as it is. -/
theorem checked_ok {cs : List (Option FaultInfo)} {p' : Copy} (h : checked cs p = .ok p') : p' = p := by
  unfold checked at h
  split at h
  · cases h
  · exact (Except.ok.inj h).symm

theorem acceptPush_ok (h : acceptPush q s = .ok p) : p = { newCopy s q with
    src := q.c.l.val, dst := reqK q 0, len := cwLen (reqK q 1), total := chunkCount (cwLen (reqK q 1)) } :=
  checked_ok h

/-- LEN of a control word as its bits. -/
theorem cwLen_eq (cw : Word) : cwLen cw = (cw.extractLsb' 32 24).toNat := (toNat_extractLsb' cw 32 24).symm

theorem acceptMap_ok (h : acceptMap q s = .ok p) : p.st = .issued ∧ p.id = nextCopyId s q.mu := by
  unfold acceptMap at h
  dsimp only at h
  split at h
  · cases h
  · rw [checked_ok h]
    exact ⟨rfl, rfl⟩

theorem acceptStream_ok (h : acceptStream q s = .ok p) :
    p.st = .issued ∧ p.pos = q.c.l.val.toNat ∧ p.n = mapCount (p.maps.headD 0) := by
  unfold acceptStream at h
  dsimp only at h
  split at h
  · cases h
  · rw [checked_ok h]
    exact ⟨rfl, rfl, rfl⟩

theorem acceptStreamw_ok (h : acceptStreamw q s = .ok p) : p.st = .issued ∧ p.n = mapCount (p.maps.headD 0) := by
  unfold acceptStreamw at h
  dsimp only at h
  split at h
  · cases h
  · rw [checked_ok h]
    exact ⟨rfl, rfl⟩

/-! ### CSTAT (R237, R255) -/

theorem performSync_cstat (hi : q.i = .cstat f) : performSync q s = some (performCstat q s) := by rw [performSync, hi]

/-- The state in which CSTAT looks at the table: it is charged, and it is a commit point of its colour. -/
def cstatState (q : Req) (s : State) : State := reqCommit q (charge s q.c.u 7 1)

theorem performCstat_gone (h : copyOf (cstatState q s) q.mu q.c.l.val.toNat = none) : performCstat q s = reply q 7 (cstatState q s) := by
  rw [cstatState] at h ⊢
  rw [performCstat, h]

section
variable (h : copyOf (cstatState q s) q.mu q.c.l.val.toNat = some p)
include h

/-- An entry that no final failure has ended stays. -/
theorem performCstat_keeps (hk : p.st ≠ .failed ∨ p.rsn ≤ 2) : performCstat q s = reply q (copyStatus p) (cstatState q s) := by
  rw [cstatState] at h ⊢
  rw [performCstat, h]
  dsimp only
  rw [if_neg (by simpa [imp_iff_not_or] using hk)]

/-- The reading frees an entry that has failed for good. -/
theorem performCstat_frees (hs : p.st = .failed) (hr : 2 < p.rsn) : performCstat q s =
    reply q (copyStatus p) { cstatState q s with cp := { (cstatState q s).cp with copies := (cstatState q s).cp.copies.erase p } } := by
  rw [cstatState] at h ⊢
  rw [performCstat, h]
  dsimp only
  rw [if_pos (by simpa [hs] using hr)]

end

theorem copyStatus_complete (hs : p.st = .complete) (hc : isChunkCopy p.i = true) :
    copyStatus p = BitVec.ofNat 64 (3 + 2 ^ 12 * (p.nch % 2 ^ 13)) := by
  simp [copyStatus, copyCode, hs, hc]

theorem copyStatus_failed (hs : p.st = .failed) (hc : isChunkCopy p.i = true) :
    copyStatus p = BitVec.ofNat 64 (4 + 2 ^ 8 * p.rsn + 2 ^ 12 * (p.nch % 2 ^ 13)) := by
  simp [copyStatus, copyCode, hs, hc]

end

/-- Settles O17: the head of the queue waits or is accepted, each command by its own checks; CSTAT has one lemma per state of its entry. -/
theorem copyAcceptanceAndStatus : Obligations.CopyAcceptanceAndStatus := by
  refine ⟨fun s m q hq hr hf ht => ?head, fun s q f hold hi => ?status⟩
  case head =>
    intro t
    refine ⟨fun w hw => copyAccept_waits hq hr hf ht hw, fun hw => ?_⟩
    obtain rfl : q.mu = m := by simpa using List.find?_some hq
    have ends {v : State} (h : acceptCommand q t = v) : Claims.Ends (.copyAccept q.mu) s v := copyAccept_accepts hq hr hf ht hw h
    refine ⟨fun f mk hmk hi => ?push, fun f mk hmk hi => ?map, fun f hi p hp => ⟨ends ?stream, acceptStream_ok hp⟩,
      fun f hi p hp => ⟨ends ?streamw, acceptStreamw_ok hp⟩, fun f hi e he => ends ?streamFaults, fun f hi e he => ends ?streamwFaults⟩
    case push =>
      have accepts := acceptCommand_push (s := t) mk hmk hi
      refine ⟨fun e he => ends (by rw [accepts, he, acceptCopy]), fun p hp => ?_⟩
      have entry := acceptPush_ok hp
      refine ⟨ends ?_, ?_⟩
      · have hc : p.c = q.c := by rw [entry]; rfl
        rw [accepts, hp, acceptCopy, commitCopy_push mk hmk (by rw [entry]; exact hi), hc]
      · rw [entry]
        exact ⟨rfl, rfl, rfl, cwLen_eq _, rfl⟩
    case map =>
      have accepts := acceptCommand_map (s := t) mk hmk hi
      exact ⟨fun e he => ends (by rw [accepts, he, acceptCopy]), fun p hp => ⟨ends (by rw [accepts, hp, acceptCopy]), acceptMap_ok hp⟩⟩
    case stream => rw [acceptCommand_stream hi, hp, acceptStreaming_stream hi]
    case streamw => rw [acceptCommand_streamw hi, hp, acceptStreaming_streamw hi]
    case streamFaults => rw [acceptCommand_stream hi, he, acceptStreaming]
    case streamwFaults => rw [acceptCommand_streamw hi, he, acceptStreaming]
  case status =>
    intro u
    have served {g : State → State} (h : performCstat q (Claims.taken s q) = g (Claims.taken s q)) : Claims.Serves s q g :=
      serves_of_sync hold (performSync_cstat hi) h
    have hfields : reqFields q = f := reqFields_of_fieldsOf (by rw [hi]; rfl)
    have answers (v : Word) (w : State) : reply q v w = replyBoth q.mu f q.c v v w := by rw [reply, hfields]
    refine ⟨fun h => served ((performCstat_gone h).trans (answers ..)), fun p h hs hc => served ?_, fun p h hs hle hc => served ?_,
      fun p h hs hlt hc => served ?_⟩
    · rw [performCstat_keeps h (.inl (by simp [hs])), copyStatus_complete hs hc]
      exact answers ..
    · rw [performCstat_keeps h (.inr hle), copyStatus_failed hs hc]
      exact answers ..
    · rw [performCstat_frees h hs hlt, copyStatus_failed hs hc]
      exact answers ..

end Sys2Proof.Machine

/-!
A byte copy on its way (O18): what its MU does at its turn and after a failure, what a chunk does at its destination, what an acknowledgement
counts, and what a release frees.
-/

namespace Sys2Proof.Machine

open Sys2Proof

/-! ### The turn of a copy (R238, R239) -/

section
variable {s : State} {p : Copy}

/-- Only a message of a ring waits for another message of its ring. -/
theorem ringBusy_plain (h : isRingSend p.i = false) : ringBusy s p = false := by simp [ringBusy, h]

theorem mayStart_plain (hs : p.st = .issued) (hr : (ctxOf s p.mu.ctx).cst = .running) (hn : servedCount s p.mu < 4)
    (hp : isRingSend p.i = false) (hb : busyWait s p = false) : mayStart s p = true := by
  simp [mayStart, hs, hr, hn, hp, hb, ringBusy_plain hp]

theorem mayPump_plain (hs : p.st = .streaming) (ht : p.sent < p.total) (hw : p.sent < p.nch + 4) (hp : isRingSend p.i = false) :
    mayPump s p = true := by
  have window : p.sent - p.nch < 4 := by omega
  simp [mayPump, isMoving, hs, ht, window, ringBusy_plain hp]

section
variable (hd : holdsData s p = false) (he : engineRuns (ctxOf s p.mu.ctx) = true)
include hd he

theorem startChunks_starts (hs : p.st = .issued) (hm : mayStart s p = true) (ht : takesTurn s p = true) :
    startChunks p s = sendChunk { p with st := .streaming, aux := portOf s p } 0
      (setTurn p (updCopy s p.mu p.id fun q => { q with st := .streaming, aux := portOf s p })) := by
  simp [startChunks, hd, he, hs, hm, ht]

theorem startChunks_pumps (hs : p.st = .streaming) (hm : mayPump s p = true) (ht : takesTurn s p = true) :
    startChunks p s = sendChunk p p.sent (setTurn p s) := by
  simp [startChunks, hd, he, hs, hm, ht]

theorem startChunks_waits (hs : p.st = .issued ∨ p.st = .streaming) (ht : takesTurn s p = false) : startChunks p s = s := by
  rcases hs with hs | hs <;> simp [startChunks, hd, he, hs, ht]

theorem startChunks_sent (hs : p.st = .streaming) (ht : p.sent = p.total) : startChunks p s = s := by
  simp [startChunks, hd, he, hs, mayPump, ht]

theorem startChunks_complete (hs : p.st = .complete) : startChunks p s = s := by
  simp [startChunks, hd, he, hs]

theorem startChunks_replays (hs : p.st = .failed) (hr : (ctxOf s p.mu.ctx).cst = .running) (hn : p.rsn = 2) :
    startChunks p s = updCopy s p.mu p.id fun q => enterReplay s q := by
  simp [startChunks, hd, he, hs, hr, hn]

end

variable {m : UId} {id : Nat} (hp : copyOf s m id = some p)
include hp

theorem copyStart_of_chunks {t : State} (hc : isChunkCopy p.i = true) (h : startChunks p s = t) : Claims.Ends (.copyStart m id) s t := by
  refine ends_of_body (b := bodyCopyStart m id s) ?_ rfl
  rw [bodyCopyStart, hp]
  exact (if_pos (by rw [hc, Bool.true_or])).trans h

/-- A copy with unacknowledged chunks replays once its timer has run to its end (R497). -/
theorem bodyCopyAckTimeout_replays (hc : isChunkCopy p.i = true) (hm : isMoving p = true) (hn : p.nch < p.sent)
    (ht : 4096 ≤ p.timer.getD 0) (he : engineRuns (ctxOf s m.ctx) = true) :
    bodyCopyAckTimeout m id s = updCopy s m id fun q => enterReplay s q := by
  rw [bodyCopyAckTimeout, hp]
  exact if_pos (by simp [hc, hm, hn, ht, he])

/-! ### Busy replies (R240) -/

theorem bodyChunkBusyResend_resends {a : ChunkAck} (ha : s.cp.acks.find? (fun a => a.mu == m && a.id == id && a.busy) = some a)
    (he : engineRuns (ctxOf s m.ctx) = true) (ht : a.since + 64 ≤ s.clock) :
    bodyChunkBusyResend m id s = startChunks p { s with cp := { s.cp with acks := s.cp.acks.erase a } } := by
  have hp' : copyOf { s with cp := { s.cp with acks := s.cp.acks.erase a } } m id = some p := hp
  rw [bodyChunkBusyResend, ha]
  refine (if_neg (by simp [ht, he])).trans ?_
  dsimp only
  rw [hp']

/-- A copy whose chunk 0 was refused is ISSUED again (log entry 95). -/
theorem waitEntry_issues (hm : isMoving p = true) (hn : p.nch = 0) (hr : (ctxOf s m.ctx).cst = .running) :
    waitEntry m id s = updCopy s m id fun p => { p with st := .issued, sent := 0, timer := none } := by
  simp [waitEntry, hp, hm, hn, hr]

end

theorem bodyChunkBusyResend_waits {s : State} {m : UId} {id : Nat} {a : ChunkAck}
    (ha : s.cp.acks.find? (fun a => a.mu == m && a.id == id && a.busy) = some a) (ht : s.clock < a.since + 64) :
    bodyChunkBusyResend m id s = s := by
  rw [bodyChunkBusyResend, ha]
  exact if_pos (by simp [ht])

theorem sendAck_here {s : State} {m : UId} {id idx sum : Nat} {busy : Bool} (h : onModule (ctxOf s m.ctx) m.x = true) :
    sendAck s m id idx busy sum = takeAck s m id idx busy sum := if_pos h

theorem sendAck_busy {s : State} {m : UId} {id sum : Nat} {p : Copy} (hp : copyOf s m id = some p) (hm : isMoving p = true)
    (hn : p.nch = 0) (ho : onModule (ctxOf s m.ctx) m.x = true) (hr : (ctxOf s m.ctx).cst = .running) :
    sendAck s m id 0 true sum = updCopy { s with cp := { s.cp with acks := s.cp.acks ++
      [{ mu := m, id := id, idx := 0, busy := true, since := s.clock, sum := sum }] } } m id
      fun p => { p with st := .issued, sent := 0, timer := none } :=
  (sendAck_here ho).trans (waitEntry_issues (s := { s with cp := { s.cp with acks := s.cp.acks ++
    [{ mu := m, id := id, idx := 0, busy := true, since := s.clock, sum := sum }] } }) hp hm hn hr)

/-! ### A chunk at its destination (R240) -/

section
variable {s : State} {k : Chunk} {e : CommitEnt}

/-- The first chunk of its copy in a staging buffer is applied while its paddock runs or drains. -/
theorem bodyChunkApply_plain {d : UId} {n : Nat} (hk : (stagedAt s d)[n]? = some k)
    (hx : (ctxOf s d.ctx).cst = .running ∨ (ctxOf s d.ctx).cst = .draining) (hf : isFirstOf s k = true) (hop : k.op = .plain) :
    bodyChunkApply d n s = applyChunk k { s with cp := { s.cp with chunks := s.cp.chunks.erase k } } := by
  have noTurn : waitsTurn s k = false := by simp [waitsTurn, hop]
  unfold bodyChunkApply
  rw [hk]
  dsimp only
  rw [noTurn]
  exact (if_neg (by rcases hx with hx | hx <;> simp [isRunning, hx, hf])).trans (if_neg Bool.false_ne_true)

theorem applyChunk_plain (hop : k.op = .plain)
    (he : s.cp.commits.find? (fun e => e.dst == k.dst && e.mu == k.src && e.id == k.id) = some e) : applyChunk k s = meetEntry k e s := by
  rw [applyChunk, hop]
  dsimp only
  rw [he]

theorem meetEntry_repeated (h : k.idx < e.nxt) : meetEntry k e s = sendAck s k.src k.id k.idx false e.sum := if_pos h

theorem meetEntry_early (h : e.nxt < k.idx) : meetEntry k e s = s :=
  (if_neg (Nat.not_lt.2 (Nat.le_of_lt h))).trans (if_pos (by simp [h]))

section
variable (hr : k.ring = none)
include hr

/-- Without a ring a chunk has no turn to wait for. -/
theorem ringTurn_plain : ringTurn k s = true := by rw [ringTurn, hr]

theorem landChunk_plain : landChunk k s = sendCredit (writeChunk k s) k.src k.id k.cw k.bytes.length := by rw [landChunk, hr]

theorem meetEntry_next (h : k.idx = e.nxt) : meetEntry k e s = applyNext k e s :=
  (if_neg (by omega)).trans (if_neg (by simp [h, ringTurn_plain hr]))

/-- A plain chunk is applied, credited and acknowledged, and its entry waits for the next one with the same sum. -/
theorem applyNext_plain (hop : k.op = .plain)
    (h : isRedundant (ctxOf s k.src.ctx) = false ∨ onModule (ctxOf s k.src.ctx) k.src.x = true) :
    applyNext k e s = sendAck (setCommit { e with nxt := e.nxt + 1 }
      (charge (sendCredit (writeChunk k s) k.src k.id k.cw k.bytes.length) k.dst 8 ((k.bytes.length + 63) / 64)))
      k.src k.id k.idx false e.sum := by
  have hsum (t : State) : chunkSum k e.sum t = e.sum := by rw [chunkSum, hop]
  unfold applyNext
  dsimp only
  rw [hsum, landChunk_plain hr]
  exact congrArg (sendAck · k.src k.id k.idx false e.sum) (if_neg (by rcases h with h | h <;> simp [h]))

end

end

/-! ### An acknowledgement (R238, R240) -/

section
variable {s : State} {m : UId} {n : Nat} {a : ChunkAck} {p : Copy}

section
variable (hn : (s.cp.acks.filter fun a => a.mu == m && !a.busy)[n]? = some a)
  (hf : (s.cp.acks.filter fun a => a.mu == m && !a.busy).find? (fun b => b.id == a.id) = some a)
include hn hf

/-- An acknowledgement that finds no entry is taken and has no effect. -/
theorem bodyChunkAck_gone (hp : copyOf { s with cp := { s.cp with acks := s.cp.acks.erase a } } m a.id = none) :
    bodyChunkAck m n s = { s with cp := { s.cp with acks := s.cp.acks.erase a } } := by
  unfold bodyChunkAck
  dsimp only
  rw [hn]
  dsimp only
  rw [hf, if_neg (by simp), hp]

/-- One of a copy within this module counts at its own entry only. -/
theorem bodyChunkAck_counts (hp : copyOf { s with cp := { s.cp with acks := s.cp.acks.erase a } } m a.id = some p)
    (hl : copyLocal { s with cp := { s.cp with acks := s.cp.acks.erase a } } p = true) :
    bodyChunkAck m n s = countAck p a { s with cp := { s.cp with acks := s.cp.acks.erase a } } := by
  unfold bodyChunkAck
  dsimp only
  rw [hn]
  dsimp only
  rw [hf, if_neg (by simp), hp]
  exact if_pos hl

end

theorem countAck_ignores (h : a.idx < p.nch ∨ isMoving p = false) : countAck p a s = s := if_pos (by simpa using h)

/-- What the acknowledgement of chunk `i` makes of a copy. -/
def countedCopy (i : Nat) (q : Copy) : Copy :=
  { q with nch := i + 1, sent := max q.sent (i + 1), timer := if i + 1 < q.sent then some 0 else none, st := .committed }

section
variable (h : p.nch ≤ a.idx) (hm : isMoving p = true)
include h hm

theorem countAck_counts (ht : a.idx + 1 ≠ p.total) : countAck p a s = updCopy s p.mu p.id (countedCopy a.idx) := by
  unfold countAck
  rw [if_neg (by simp [h, hm])]
  exact if_neg (by simpa using ht)

theorem countAck_finishes (ht : a.idx + 1 = p.total) :
    countAck p a s = finishCopy p a.sum (updCopy s p.mu p.id (countedCopy a.idx)) := by
  unfold countAck
  rw [if_neg (by simp [h, hm])]
  exact if_pos (by simpa using ht)

end

/-- A copy whose I/O data, if it has any, have all come well ends by what its credits came to, and its release is sent. -/
theorem finishCopy_eq {sum : Nat} (hi : ∀ f, p.i ≠ .copyo f) (hd : ∀ e ∈ s.lk.ioData, e.mu = p.mu → e.id = p.id → e.ok = true) :
    finishCopy p sum s = if p.crfail then failCopy { p with nch := p.total } 3 (sendRelease s (copyDest s p) p.mu p.id)
      else sumTokens p sum (updCopy (dropData p (sendRelease s (copyDest s p) p.mu p.id)) p.mu p.id fun q =>
        { q with st := .complete, timer := none }) := by
  have well : ¬((s.lk.ioData.any fun e => e.mu == p.mu && e.id == p.id && !e.ok) = true) := by
    simpa [and_imp] using hd
  unfold finishCopy
  split
  · exact absurd ‹_› (hi _)
  · exact if_neg well

end

/-! ### A release (R240, R241) -/

section
variable {s : State} {n : Nat} {r : RelMsg} (hr : s.cp.rels[n]? = some r) (ho : onModule (ctxOf s r.mu.ctx) r.dst.x = true)
include hr ho

theorem bodyCopyRelease_waits (h : ∃ k ∈ s.cp.chunks, k.src = r.mu ∧ k.id = r.id) : bodyCopyRelease n s = s := by
  rw [bodyCopyRelease, hr]
  exact (if_neg (by simp [ho])).trans (if_pos (by simpa using h))

theorem bodyCopyRelease_frees (h : ∀ k ∈ s.cp.chunks, ¬(k.src = r.mu ∧ k.id = r.id)) : bodyCopyRelease n s = { s with
    cp := { s.cp with
      rels := s.cp.rels.erase r, commits := s.cp.commits.filter fun e => !(e.dst == r.dst && e.mu == r.mu && e.id == r.id) },
    lk := { s.lk with arriving := s.lk.arriving.filter fun k => !(k.src == r.mu && k.id == r.id) } } := by
  rw [bodyCopyRelease, hr]
  exact (if_neg (by simp [ho])).trans (if_neg (by simpa using h))

end

/-- Settles O18: each part of a copy's way has one lemma per outcome. -/
theorem byteCopyEvents : Obligations.ByteCopyEvents := by
  refine ⟨fun s m id p hp hc hd he => ?turn, fun s m id p hp hc hm hn ht he => ?timeout, fun s m id p a ha hp he => ?busy,
    fun s m id sum p hp hm hn ho hr => sendAck_busy hp hm hn ho hr, fun s d n k hk hx hf hop hring => ?chunk, fun s m n a p hn hf => ?ack,
    fun s n r hr ho => ?release⟩
  case turn =>
    have ends {t : State} (h : startChunks p s = t) : Claims.Ends (.copyStart m id) s t := copyStart_of_chunks hp hc h
    exact ⟨fun hs hr hn hi hb ht => ends (startChunks_starts hd he hs (mayStart_plain hs hr hn hi hb) ht),
      fun hs ht => ends (startChunks_waits hd he hs ht), fun hs hr hn => ends (startChunks_replays hd he hs hr hn),
      fun hs => ends (startChunks_complete hd he hs), fun hs ht => ends (startChunks_sent hd he hs ht),
      fun hs hn hw hi ht => ends (startChunks_pumps hd he hs (mayPump_plain hs hn hw hi) ht)⟩
  case timeout => exact ends_of_body (bodyCopyAckTimeout_replays hp hc hm hn ht he) rfl
  case busy =>
    exact ⟨fun ht => ends_of_body (bodyChunkBusyResend_resends hp ha he ht) rfl, fun ht => ends_of_body (bodyChunkBusyResend_waits ha ht) rfl⟩
  case chunk =>
    intro t e hfind
    have ends {v : State} (h : meetEntry k e t = v) : Claims.Ends (.chunkApply d n) s v :=
      ends_of_body ((bodyChunkApply_plain hk hx hf hop).trans ((applyChunk_plain hop hfind).trans h)) rfl
    exact ⟨fun h => ends (meetEntry_repeated h), fun h => ends (meetEntry_early h),
      fun h hred => ends ((meetEntry_next hring h).trans (applyNext_plain hring hop hred))⟩
  case ack =>
    intro t
    have ends {v : State} (hp : copyOf t m a.id = some p) (hl : copyLocal t p = true) (h : countAck p a t = v) :
        Claims.Ends (.chunkAck m n) s v := ends_of_body ((bodyChunkAck_counts hn hf hp hl).trans h) rfl
    refine ⟨fun hp => ends_of_body (bodyChunkAck_gone hn hf hp) rfl, fun hp hl h => ends hp hl (countAck_ignores h),
      fun hp hl hle hm hi => ⟨fun ht => ends hp hl (countAck_counts hle hm ht), fun ht hd => ?_⟩⟩
    have finishes := (countAck_finishes (s := t) hle hm ht).trans (finishCopy_eq hi hd)
    exact ⟨fun hcr => ends hp hl (finishes.trans (if_neg (by simp [hcr]))), fun hcr => ends hp hl (finishes.trans (if_pos hcr))⟩
  case release =>
    exact ⟨fun h => ends_of_body (bodyCopyRelease_waits hr ho h) rfl, fun h => ends_of_body (bodyCopyRelease_frees hr ho h) rfl⟩

end Sys2Proof.Machine

/-!
Rings at the MU of their header (O15): what a request finds at its header, the header that RING.INIT makes, then one lemma per outcome of each
instruction. A slot ring's messages take one position each, so there its claim and its release are written out.
-/

namespace Sys2Proof.Machine

open Sys2Proof

/-! ### The message at a position (R256, R262, R269) -/

section
variable {s : State} {m : UId} {r : Ring}

section
variable (hk : r.kd = false)
include hk

theorem payOff_slot (p : Nat) : payOff r p = r.base + p * r.sz := by simp [payOff, posOff, hk]

theorem spaceAt_slot (p : Nat) : spaceAt s m r p = 1 := if_neg (by simp [hk])

theorem afterPos_slot (p : Nat) : afterPos s m r p = if r.cnt ≤ p + 1 then 0 else p + 1 := by
  simp [afterPos, wrapPos, spaceAt_slot hk, hk]

/-- A slot ring holds no pads. -/
theorem pastPad_slot (p : Nat) (more : Bool) : pastPad s m r p more = (p, 0) := if_neg (by simp [hk])

theorem claim_slot : claim s m r =
    ({ r with rp := if r.cnt ≤ r.rp + 1 then 0 else r.rp + 1, fill := r.fill - 1, held := r.held + 1 },
      muPtr m (r.base + r.rp * r.sz), BitVec.ofNat 64 r.rp) := by
  simp [claim, pastPad_slot hk, afterPos_slot hk, payOff_slot hk, hk]

end

/-- In a byte ring the claim answers with the payload after the record's header, and its length. -/
theorem claim_record (hk : r.kd = true) : (claim s m r).2 =
    (muPtr m (r.base + r.rp + 16), BitVec.ofNat 64 (rdN s (locUnit m (r.base + r.rp)) 4 % 2 ^ 24)) := by
  simp [claim, payOff, posOff, recordAt, hk]

theorem freeSpace_unbound (hb : r.bnd = false) (off n : Nat) :
    freeSpace m off n r s = setRing s (locUnit m off) (some { r with free := r.free + n }) := if_neg (by simp [hb])

end

/-! ### What each instruction is at its bank (R267) -/

section
variable {s : State} {q : Req} {f : Fields} {r : Ring}

theorem performSync_ringInit (hi : q.i = .ringInit f) : performSync q s = some (performRingInit q s) := by rw [performSync, hi]

theorem performSync_ringAwait (hi : q.i = .ringAwait f) : performSync q s = some (performRingAwait q s) := by rw [performSync, hi]

theorem performSync_ringRelease (hi : q.i = .ringRelease f) : performSync q s = some (performRingRelease q s) := by rw [performSync, hi]

theorem performSync_ringStat (hi : q.i = .ringStat f) : performSync q s = some (performRingStat q s) := by rw [performSync, hi]

theorem performSync_ringRetire (hi : q.i = .ringRetire f) : performSync q s = some (performRingRetire q s) := by rw [performSync, hi]

/-- The request finds a live header of its own context. -/
structure FindsRing (s : State) (q : Req) (r : Ring) : Prop where
  aligned : slotOff q % 32 = 0
  live : ringAt s (slotLoc q) = some r
  own : r.own = q.c.u.ctx

section
variable {plain : State → State} {k : Ring → State → State}

theorem withRing_plain (ha : slotOff q % 32 = 0) (hr : ringAt s (slotLoc q) = none) : withRing q plain k s = plain s :=
  (if_neg (by simp [ha])).trans (by rw [hr])

theorem FindsRing.withRing (h : FindsRing s q r) : withRing q plain k s = k r s :=
  (if_neg (by simp [h.aligned])).trans (by rw [h.live]; exact if_neg (by simp [h.own]))

end

/-- Three of the five fault RING_STATE where there is no header. -/
theorem performSync_needsRing : ∀ mk ∈ [Instr.ringAwait, .ringRelease, .ringRetire], q.i = mk f →
    fieldsOf q.i = some f ∧ ∃ k, ∀ s, performSync q s = some (withRing q (ringFault q) k s) := by
  simp only [List.forall_mem_cons]
  exact ⟨fun hi => ⟨by rw [hi]; rfl, _, fun s => performSync_ringAwait hi⟩,
    fun hi => ⟨by rw [hi]; rfl, _, fun s => performSync_ringRelease hi⟩,
    fun hi => ⟨by rw [hi]; rfl, _, fun s => performSync_ringRetire hi⟩, nofun⟩

/-! ### RING.INIT (R256, R268) -/

/-- The fields of a fresh header, bit by bit of its descriptor. -/
theorem freshRing_eq (v : Word) (own : Nat) : freshRing v own =
    { base := v.toNat % 2 ^ 20, kd := v.getLsbD 20, bnd := false, own := own, sz := (v.extractLsb' 32 21).toNat,
      cnt := (v.extractLsb' 53 9).toNat, rp := 0, wp := 0, rsv := 0, rl := 0,
      free := if v.getLsbD 20 then (v.extractLsb' 32 21).toNat else (v.extractLsb' 53 9).toNat, fill := 0, bpx := 0, bpy := 0,
      bmod := 0, net := none, held := 0 } := by
  have hbase : nbits v.toNat 0 20 = v.toNat % 2 ^ 20 := by rw [nbits, pow_zero, Nat.div_one]
  simp only [freshRing, hbase, getLsbD_eq_nbits, toNat_extractLsb']

section
variable (ha : slotOff q % 32 = 0)
include ha

theorem performRingInit_makes (hr : ringAt s (slotLoc q) = none) (h0 : barAt s (slotLoc q) = none) (h1 : barAt s (slotLoc q + 16) = none)
    (hw : ∀ k ∈ [0, 8, 16, 24], isState s (slotLoc q + k) = 0) (hd : ringDescOk (reqK q 0) (slotOff q) = true) :
    performRingInit q s = reply q 0 (reqCommit q (setRing s (slotLoc q) (some (freshRing (reqK q 0) q.c.u.ctx)))) := by
  have words : ¬([0, 8, 16, 24].any fun k => isState s (slotLoc q + k) != 0) = true := by simpa using hw
  simp only [performRingInit, ha, hr, h0, h1, hd, if_neg words]
  rfl

theorem performRingInit_onRing (hr : ringAt s (slotLoc q) ≠ none) : performRingInit q s = ringFault q s :=
  (if_neg (by simp [ha])).trans (if_pos (Option.isSome_iff_ne_none.2 hr))

theorem performRingStat_plain (hr : ringAt s (slotLoc q) = none) : performRingStat q s = reply q 0 (reqCommit q s) :=
  withRing_plain ha hr

end

/-! ### RING.AWAIT, RING.RELEASE, RING.STAT and RING.RETIRE on a live header (R269 to R272) -/

section
variable (h : FindsRing s q r)
include h

theorem performRingAwait_parks (h0 : r.fill = 0) : performRingAwait q s = parkCommit q 3 (slotOff q) 0 (reqPtr q) s :=
  h.withRing.trans (if_pos (by simp [h0]))

theorem performRingAwait_claims (h1 : 1 ≤ r.fill) : performRingAwait q s =
    reply2 q (claim s q.mu r).2.1 (claim s q.mu r).2.2 (setRing (reqCommit q s) (slotLoc q) (some (claim s q.mu r).1)) :=
  h.withRing.trans (if_neg (by simp; omega))

theorem performRingRelease_refused (hv : r.held = 0 ∨ reqK q 0 ≠ muPtr q.mu (payOff r r.rl)) : performRingRelease q s = ringFault q s :=
  h.withRing.trans (if_pos (by simpa using hv))

section
variable (h1 : 1 ≤ r.held) (hv : reqK q 0 = muPtr q.mu (payOff r r.rl))
include h1 hv

/-- The oldest claimed message gives back its own space and that of a pad behind it. -/
theorem performRingRelease_frees :
    let g := pastPad s q.mu r (afterPos s q.mu r r.rl) (afterPos s q.mu r r.rl != r.rp)
    let n := spaceAt s q.mu r r.rl + g.2
    performRingRelease q s =
      reply q (BitVec.ofNat 64 n) (reqCommit q (freeSpace q.mu (slotOff q) n { r with rl := g.1, held := r.held - 1 } s)) :=
  h.withRing.trans (if_neg (by simp [hv]; omega))

theorem performRingRelease_slot (hk : r.kd = false) (hb : r.bnd = false) : performRingRelease q s =
    reply q 1 (reqCommit q (setRing s (slotLoc q) (some
      { r with rl := if r.cnt ≤ r.rl + 1 then 0 else r.rl + 1, held := r.held - 1, free := r.free + 1 }))) := by
  rw [performRingRelease_frees h h1 hv, pastPad_slot hk, spaceAt_slot hk, afterPos_slot hk,
    freeSpace_unbound (by exact hb)]
  rfl

end

theorem performRingStat_bits : performRingStat q s =
    reply q (BitVec.ofNat 64 (ringBits s q.mu (slotOff q) r / 2 ^ (64 * (reqFields q).fn.toNat))) (reqCommit q s) := h.withRing

theorem performRingRetire_frees (hb : r.bnd = false) (hn : r.net = none) (hw : waitersOn s q.mu 3 (slotOff q) = []) (hp : r.rsv = r.wp)
    (hf : fillsRing s q.mu q.mu (slotOff q) = false) :
    performRingRetire q s = reply q 0 (reqCommit q (wrN (setRing s (slotLoc q) none) (slotLoc q) 32 0)) :=
  h.withRing.trans (if_neg (by simp [hb, hn, hw, hp, hf]))

theorem performRingRetire_refused (hu : r.bnd = true ∨ r.net ≠ none ∨ waitersOn s q.mu 3 (slotOff q) ≠ [] ∨ r.rsv ≠ r.wp) :
    performRingRetire q s = ringFault q s :=
  h.withRing.trans (if_pos (by rcases hu with hu | hu | hu | hu <;> simp [hu, Option.isSome_iff_ne_none]))

end

end

/-- Settles O15: RING.INIT by its checks, the others by the header that they find; each outcome has one lemma. -/
theorem ringInstructionsServed : Obligations.RingInstructionsServed := by
  intro s q f p hold hp ha off loc v ans point
  refine ⟨fun hi => ?init, fun hr => ⟨fun mk hmk hi => ?noHeader, fun hi => ?statPlain⟩, fun r hr hown => ?live⟩
  case init =>
    obtain ⟨rfl, rfl⟩ := slot_request (f := f) (by rw [hi]; rfl) hp
    refine ⟨fun hr h0 h1 hw hd => serves_of_sync hold (performSync_ringInit hi) ?_,
      fun hr => serves_of_sync hold (performSync_ringInit hi) (performRingInit_onRing ha hr)⟩
    rw [performRingInit_makes (s := Claims.taken s q) ha hr h0 h1 hw hd, freshRing_eq]
    rfl
  case noHeader =>
    obtain ⟨hf, k, hk⟩ := performSync_needsRing mk hmk hi
    obtain ⟨rfl, rfl⟩ := slot_request hf hp
    exact serves_of_sync hold (hk _) (withRing_plain ha hr)
  case statPlain =>
    obtain ⟨rfl, rfl⟩ := slot_request (f := f) (by rw [hi]; rfl) hp
    exact serves_of_sync hold (performSync_ringStat hi) (performRingStat_plain ha hr)
  case live =>
    have live (hptr : reqPtr q = p) : FindsRing (Claims.taken s q) q r := by
      subst hptr
      exact ⟨ha, hr, hown⟩
    refine ⟨fun hi h1 hk => ?claimsSlot, fun hi h1 hk => ?claimsRecord, fun hi h0 i hfree hroom => ?parks, fun hi hv => ?releaseRefused,
      fun hi h1 hv hk hb => ?releasesSlot, fun hi h1 hv _ => ?releasesRecord, fun hi => ?stat, fun hi hb hn hw hrsv hfill => ?retires,
      fun hi hu => ?retireRefused⟩
    all_goals obtain ⟨rfl, rfl⟩ := slot_request (f := f) (by rw [hi]; rfl) hp
    all_goals have hlive := live rfl
    case claimsSlot =>
      exact serves_of_sync hold (performSync_ringAwait hi) ((performRingAwait_claims hlive h1).trans (by rw [claim_slot hk]; rfl))
    case claimsRecord =>
      exact serves_of_sync hold (performSync_ringAwait hi) ((performRingAwait_claims hlive h1).trans (by rw [claim_record hk]; rfl))
    case parks =>
      refine ⟨_, exec_muRequest_sync hold (performSync_ringAwait hi), ?_⟩
      rw [close_mu, performRingAwait_parks hlive h0]
      have room : freeWaiter (Claims.taken s q) q.mu = freeWaiter s q.mu := freeWaiter_congr rfl rfl rfl
      exact parkCommit_parks (by rw [room]; exact hroom) hfree
    case releaseRefused => exact serves_of_sync hold (performSync_ringRelease hi) (performRingRelease_refused hlive hv)
    case releasesSlot => exact serves_of_sync hold (performSync_ringRelease hi) (performRingRelease_slot hlive h1 hv hk hb)
    case releasesRecord => exact serves_of_sync hold (performSync_ringRelease hi) (performRingRelease_frees hlive h1 hv)
    case stat => exact serves_of_sync hold (performSync_ringStat hi) (performRingStat_bits hlive)
    case retires => exact serves_of_sync hold (performSync_ringRetire hi) (performRingRetire_frees hlive hb hn hw hrsv hfill)
    case retireRefused => exact serves_of_sync hold (performSync_ringRetire hi) (performRingRetire_refused hlive hu)

end Sys2Proof.Machine

/-!
Precise faults (O36, O37): the record and the marker that a fault leaves, and what a thaw makes of the marker.
-/

namespace Sys2Proof.Machine

open Sys2Proof

/-! ### Bytes and the numbers that they hold -/

theorem leNat_append (as bs : List Byte) : leNat (as ++ bs) = leNat as + 2 ^ (8 * as.length) * leNat bs := by
  induction as with
  | nil => simp [leNat]
  | cons a as ih =>
    rw [List.cons_append, leNat, leNat, ih, List.length_cons, show 8 * (as.length + 1) = 8 * as.length + 8 from rfl, pow_add]
    ring

theorem leNat_leBytes (v n : Nat) : leNat (leBytes v n) = v % 2 ^ (8 * n) := by
  induction n generalizing v with
  | zero => rw [leBytes, leNat, Nat.mul_zero, pow_zero, Nat.mod_one]
  | succ n ih =>
    rw [leBytes, leNat, ih, BitVec.toNat_ofNat, show 8 * (n + 1) = 8 + 8 * n from by omega, pow_add, Nat.mod_mul]
    rfl

/-! ### The record of a fault (R426) -/

/-- The record's fields in the places that R426 gives them, one number of 64 bytes. -/
theorem leNat_faultBytes {r : FaultRec} (hk : r.kind < 2 ^ 8) (hf : r.flg < 2 ^ 8) (hl : r.lvl < 2 ^ 3) (hs : r.fks < 2 ^ 32) (hx : r.x < 2 ^ 8)
    (hy : r.y < 2 ^ 7) (hn : r.stn < 2 ^ 7) (hm : r.mod < 2 ^ 8) (hc : r.col < 2 ^ 12) (hi : r.cid < 2 ^ 48) (hq : r.seq < 2 ^ 16) :
    leNat (faultBytes r) = r.kind + 2 ^ 8 * r.flg + 2 ^ 16 * r.lvl + 2 ^ 32 * r.fks + 2 ^ 64 * r.va.toNat +
      2 ^ 128 * (r.x + 2 ^ 8 * r.y + 2 ^ 15 * r.stn + 2 ^ 22 * r.mod) + 2 ^ 192 * r.hdr.toNat + 2 ^ 288 * r.col + 2 ^ 304 * r.cid +
      2 ^ 352 * r.seq + 2 ^ 384 * r.rv.toNat + 2 ^ 448 * r.pv.toNat := by
  have hva := r.va.isLt
  have hhdr := r.hdr.isLt
  have hrv := r.rv.isLt
  have hpv := r.pv.isLt
  simp only [faultBytes, leNat_append, leNat_leBytes, length_leBytes, List.length_append]
  omega

/-! ### Raising a fault (R424 to R427) -/

/-- A fault of a missing root may note its cause in a die's registers; nothing else changes (R419). -/
theorem rootCheck_frame (s : State) (u : UId) (kind lvl : Nat) : ∃ v, rootCheck s u kind lvl = { s with svc := v } := by
  unfold rootCheck
  split
  · exact ⟨_, rfl⟩
  · exact ⟨_, rfl⟩

/-- A context that is not in the reset state is listed. -/
theorem find_of_cst {s : State} {c : Nat} (h : (ctxOf s c).cst ≠ .killed) : s.ctxs.find? (fun y => y.id == c) = some (ctxOf s c) := by
  rw [ctxOf] at h ⊢
  cases hf : s.ctxs.find? fun y => y.id == c with
  | none => rw [hf] at h; exact absurd rfl h
  | some y => rfl

/-- What a freeze of this module's part of a context changes (R392). -/
def frozenBy (reason : Frz → Frz) (x : Ctx) : Ctx :=
  match x.cst with
  | .running => { x with frz := reason x.frz, freezing := true }
  | .frozen => { x with frz := reason x.frz }
  | _ => x

theorem frozenBy_id (reason : Frz → Frz) (x : Ctx) : (frozenBy reason x).id = x.id := by
  unfold frozenBy
  split <;> rfl

/-- The request for a freeze changes the context, and what leaves for the other members. -/
theorem requestFreeze_frame (s : State) (c : Nat) (reason : Frz → Frz) :
    ∃ k, requestFreeze s c reason = { updCtx s c (frozenBy reason) with lk := k } := by
  unfold requestFreeze
  dsimp only
  split
  · exact ⟨_, rfl⟩
  · exact tellMembers_frame _ _ _

/-- The fault record that R426 gives a firing's fault. -/
def faultRecord (x : Ctx) (F : Ready) (fi : FaultInfo) : FaultRec :=
  { kind := fi.kind, flg := fi.flg + (if F.r.isSome then 64 else 0) + (if F.p.isSome then 128 else 0), lvl := fi.lvl,
    fks := fi.fks, va := fi.va, x := relCol x F.u.x, y := F.u.y, stn := F.stn, mod := memberOf x F.u.x,
    hdr := (packFlit F.l).extractLsb' 64 96, col := fcol F, cid := 0, seq := x.fseq, rv := rVal F, pv := pVal F }

/-- The context that holds the record and the marker of its first fault. -/
def markedBy (s : State) (F : Ready) (r : FaultRec) (m : Option Marker) (x : Ctx) : Ctx :=
  { x with fseq := (r.seq + 1) % 65536, marker := m, frec := some r, prim := some (s.clock, F) }

section
variable {s : State} {F : Ready} {fi : FaultInfo} {a : XAddr}

/-- A record whose slot can be written goes there; the context is marked and its freeze asked for. -/
theorem recordFault_writes {r : FaultRec} {m : Option Marker}
    (h : translateNow s (ctxOf s F.u.ctx) .write ((ctxOf s F.u.ctx).frp + 64 * (r.seq % 64)) = .ok a) : recordFault s F r m false =
      requestFreeze (updCtx (wrBytes s a.phys (faultBytes r)) F.u.ctx (markedBy s F r m)) F.u.ctx fun f => { f with fault := true } := by
  unfold recordFault
  dsimp only
  rw [if_neg Bool.false_ne_true, h]
  rfl

/-- A running context without a fault yet records the fault of a firing. -/
theorem raise_records (hr : (ctxOf s F.u.ctx).cst = .running) (hf : (ctxOf s F.u.ctx).frz.fault = false) : raise F fi s =
    let t := rootCheck s F.u fi.kind fi.lvl
    recordFault t F (faultRecord (ctxOf s F.u.ctx) F fi) (some { f := F, kind := fi.kind, rearrive := false }) (inNestWindow t F.u fi) := by
  have hd : ((ctxOf s F.u.ctx).cst == .draining) = false := by rw [hr]; rfl
  have he : emitsTokens (ctxOf s F.u.ctx) = true := by rw [emitsTokens, hr]; rfl
  unfold raise raiseWith faultSeq
  dsimp only
  simp only [hd, he, hf, Bool.false_and, Bool.not_true, if_neg Bool.false_ne_true]
  rfl

/-- The first precise fault of a running context writes its record, marks the context and asks for the freeze. -/
theorem raise_first (hr : (ctxOf s F.u.ctx).cst = .running) (hf : (ctxOf s F.u.ctx).frz.fault = false) (hn : inNestWindow s F.u fi = false)
    (ha : translateNow s (ctxOf s F.u.ctx) .write ((ctxOf s F.u.ctx).frp + 64 * ((ctxOf s F.u.ctx).fseq % 64)) = .ok a) :
    ∃ v, raise F fi s =
      let r := faultRecord (ctxOf s F.u.ctx) F fi
      requestFreeze (updCtx (wrBytes { s with svc := v } a.phys (faultBytes r)) F.u.ctx
        (markedBy s F r (some { f := F, kind := fi.kind, rearrive := false }))) F.u.ctx fun f => { f with fault := true } := by
  obtain ⟨v, hv⟩ := rootCheck_frame s F.u fi.kind fi.lvl
  have hn' : inNestWindow { s with svc := v } F.u fi = false := hn
  refine ⟨v, (raise_records hr hf).trans ?_⟩
  dsimp only
  rw [hv, hn']
  exact recordFault_writes (s := { s with svc := v }) ha

end

theorem faultTaken (s : State) (F : Ready) (fi : FaultInfo) (a : XAddr) (hr : (ctxOf s F.u.ctx).cst = .running)
    (hf : (ctxOf s F.u.ctx).frz.fault = false) (hn : inNestWindow s F.u fi = false)
    (ha : translateNow s (ctxOf s F.u.ctx) .write ((ctxOf s F.u.ctx).frp + 64 * ((ctxOf s F.u.ctx).fseq % 64)) = .ok a) :
    let x := ctxOf s F.u.ctx
    let r := faultRecord x F fi
    (raise F fi s).wlog = .bytes a.phys (faultBytes r) :: s.wlog ∧ (raise F fi s).routes = s.routes ∧ (raise F fi s).fab = s.fab ∧
      (raise F fi s).mu = s.mu ∧ (raise F fi s).mtag = s.mtag ∧ ctxOf (raise F fi s) F.u.ctx =
        { x with fseq := (x.fseq + 1) % 65536, frz := { x.frz with fault := true }, freezing := true, frec := some r, prim := some (s.clock, F),
                 marker := some { f := F, kind := fi.kind, rearrive := false } } := by
  intro x r
  let m : Marker := { f := F, kind := fi.kind, rearrive := false }
  obtain ⟨v, hv⟩ := raise_first hr hf hn ha
  obtain ⟨k, hk⟩ := requestFreeze_frame (updCtx (wrBytes { s with svc := v } a.phys (faultBytes r)) F.u.ctx (markedBy s F r (some m)))
    F.u.ctx fun f => { f with fault := true }
  rw [hv, hk]
  refine ⟨rfl, rfl, rfl, rfl, rfl, ?_⟩
  have hx : s.ctxs.find? (fun y => y.id == F.u.ctx) = some x := find_of_cst (by rw [hr]; decide)
  have hmark : ctxOf (updCtx (wrBytes { s with svc := v } a.phys (faultBytes r)) F.u.ctx (markedBy s F r (some m))) F.u.ctx =
    markedBy s F r (some m) x := ctxOf_updCtx hx fun _ => rfl
  have hrun : (markedBy s F r (some m) x).cst = .running := hr
  refine (ctxOf_updCtx (find_of_cst (by rw [hmark, hrun]; decide)) (frozenBy_id _)).trans ?_
  rw [hmark]
  unfold frozenBy
  split
  · rfl
  · rename_i h; rw [hrun] at h; cases h
  · rename_i h _; exact absurd hrun h

/-- Settles O36: the record is `faultRecord`'s, whose bytes are one number with its fields in their places. -/
theorem faultEntry : Obligations.FaultEntry := by
  refine ⟨fun s F fi a => ?_, fun r hk hf hl hs hx hy hn hm hc hi hq => ?_⟩
  · intro x hr hf hn ha
    exact ⟨faultRecord x F fi, rfl, rfl, rfl, rfl, rfl, rfl, rfl, rfl, rfl, rfl, rfl, rfl, rfl, rfl, rfl, faultTaken s F fi a hr hf hn ha⟩
  · have hva := r.va.isLt
    have hhdr := r.hdr.isLt
    have hrv := r.rv.isLt
    have hpv := r.pv.isLt
    refine ⟨by simp [faultBytes, length_leBytes], ?_⟩
    rw [leNat_faultBytes hk hf hl hs hx hy hn hm hc hi hq]
    simp only [nbits]
    omega

/-! ### The return (R430, R392) -/

/-- The context whose reasons a thaw by the supervisor has cleared. -/
def clearedCtx (x : Ctx) : Ctx := { x with frz := { x.frz with fault := false, budget := false, superv := false } }

/-- The context that a thaw lets run again. -/
def resumedCtx (x : Ctx) : Ctx :=
  { x with cst := .running, freezing := false, marker := none, frec := none, prim := none, byYard := false,
           syncs := x.syncs.filter fun e => e.1 != 1 }

/-- The firing of a fault marker as its station forms it again (R430). -/
def reformed (key : BitVec 8) (m : Marker) : Ready :=
  { m.f with l := refresh key m.f.l, r := m.f.r.map (refresh key), p := m.f.p.map (refresh key), again := m.kind == 0x18 || m.kind == 0x19 }

theorem releaseHeld_none {s : State} {c : Nat} (h : s.svc.held = []) : releaseHeld s c = s := by
  have hs : { s with svc := { s.svc with held := [] } } = s := by rw [← h]
  rw [releaseHeld, h]
  exact hs

/-- Without members to tell, the clearing of reasons is this module's own. -/
theorem clearReasons_alone {s : State} {c : Nat} {f : Frz → Frz} (h : (ctxOf (clearLocal s c f) c).members = []) :
    clearReasons s c f = clearLocal s c f := by
  unfold clearReasons
  dsimp only
  split
  · rfl
  · rw [tellMembers, h]
    rfl

section
variable {s : State} {c : Nat} {m : Marker}

/-- A context that runs again without held answers forms the firing of its marker anew. -/
theorem resumeCtx_marker (hm : (ctxOf s c).marker = some m) (hr : m.rearrive = false) (hh : s.svc.held = []) :
    resumeCtx s c = reinject (updCtx s c resumedCtx) (reformed (ctxOf s c).key m) := by
  have hrel : releaseHeld (updCtx s c resumedCtx) c = updCtx s c resumedCtx := releaseHeld_none hh
  rw [resumeCtx, hm]
  change (if m.rearrive then _ else reinject (releaseHeld (updCtx s c resumedCtx) c) _) = _
  rw [hr, hrel]
  rfl

theorem reinject_here {F : Ready} (h : onModule (ctxOf s F.u.ctx) F.u.x = true) :
    reinject s F = addReady (nextSeq s F.u).2 { F with seq := fget 0 s.fab.seqs (uKey F.u) } := by
  rw [reinject, if_pos h]
  rfl

/-- A command that its context's state allows acts. -/
theorem command_acts {sec : Bool} {legal : Ctx → Bool} {act : State → State} (hx : (ctxOf s c).cst ≠ .killed)
    (hw : (ctxOf s c).world = 0 ∨ sec = true) (hl : legal (ctxOf s c) = true) : command c sec legal act s = act s := by
  have hf := find_of_cst hx
  have hany : (s.ctxs.any fun y => y.id == c) = true := List.any_eq_true.2 ⟨_, List.mem_of_find?_eq_some hf,
    List.find?_some (p := fun y : Ctx => y.id == c) hf⟩
  have hsec : (isSecure (ctxOf s c) && !sec) = false := by rcases hw with hw | hw <;> simp [isSecure, hw]
  rw [command, hany, hsec]
  exact if_pos hl

/-- The thaw of a context that has no reason left but those that the supervisor clears. -/
theorem clearLocal_resumes {f : Frz → Frz} {x : Ctx} (h : ctxOf (updCtx s c fun x => { x with frz := f x.frz }) c = x)
    (hc : x.cst = .frozen) (hz : x.frz = noFrz) : clearLocal s c f = resumeCtx (updCtx s c fun x => { x with frz := f x.frz }) c := by
  unfold clearLocal
  dsimp only
  rw [h]
  exact if_pos (by simp [hc, hz])

end

/-- Settles O37: the thaw clears the one reason, so the context runs again and its marker's firing is formed anew. -/
theorem faultReturn : Obligations.FaultReturn := by
  intro s c sec m x hz hfrz hm hr hc hmem hh hon hw
  have hlive : x.cst ≠ .killed := by rw [hz]; decide
  let w := updCtx s c clearedCtx
  have hwx : ctxOf w c = clearedCtx x := ctxOf_updCtx (find_of_cst hlive) fun _ => rfl
  have hnone : (clearedCtx x).frz = noFrz := by rw [clearedCtx, hfrz]; rfl
  have hrun : ctxOf (updCtx w c resumedCtx) c = resumedCtx (clearedCtx x) :=
    (ctxOf_updCtx (g := resumedCtx) (find_of_cst (by rw [hwx]; exact hlive)) fun _ => rfl).trans (by rw [hwx])
  have hclear : clearLocal s c (fun f => { f with fault := false, budget := false, superv := false }) =
      addReady (nextSeq (updCtx w c resumedCtx) m.f.u).2 { reformed x.key m with seq := fget 0 s.fab.seqs (uKey m.f.u) } := by
    refine (clearLocal_resumes (x := clearedCtx x) hwx hz hnone).trans ?_
    refine (resumeCtx_marker (s := w) (m := m) (by rw [hwx]; exact hm) hr hh).trans ?_
    rw [hwx]
    exact reinject_here (by rw [show (reformed (clearedCtx x).key m).u.ctx = c from hc, hrun]; exact hon)
  have hbody : bodyThaw c sec s = clearLocal s c fun f => { f with fault := false, budget := false, superv := false } := by
    refine (command_acts hlive hw (by rw [show (ctxOf s c).cst = .frozen from hz]; rfl)).trans (clearReasons_alone ?_)
    rw [hclear]
    exact (congrArg Ctx.members hrun).trans hmem
  have hthaw : exec (.thaw c sec) s = .next (close s (addReady (nextSeq (updCtx w c resumedCtx) m.f.u).2
      { reformed x.key m with seq := fget 0 s.fab.seqs (uKey m.f.u) })) := by rw [← hclear, ← hbody]; rfl
  refine ⟨_, hthaw, ?_⟩
  have hctx : ctxOf (close s (addReady (nextSeq (updCtx w c resumedCtx) m.f.u).2
      { reformed x.key m with seq := fget 0 s.fab.seqs (uKey m.f.u) })) c = resumedCtx (clearedCtx x) := hrun
  rw [hctx]
  exact ⟨rfl, hnone, rfl, rfl, rfl, rfl, rfl, rfl, rfl, rfl, rfl⟩

end Sys2Proof.Machine

/-!
The tensor maps, tile fills, tags and TDOT at issue (O20). Each lane has one lemma per outcome.
-/

namespace Sys2Proof.Machine

open Sys2Proof

/-! ### The first of several checks that fails (R279) -/

theorem firstFault_nil : firstFault [] = none := rfl

theorem firstFault_pass {c : Option FaultInfo} {cs : List (Option FaultInfo)} (h : c = none) : firstFault (c :: cs) = firstFault cs := by
  rw [h]
  rfl

theorem firstFault_fail {c : Option FaultInfo} {cs : List (Option FaultInfo)} {e : FaultInfo} (h : c = some e) :
    firstFault (c :: cs) = some e := by
  rw [h]
  rfl

theorem tileIf_pass {b : Bool} {n : Nat} (h : b = false) : tileIf b n = none := by rw [h]; rfl

theorem tileIf_fail {b : Bool} {n : Nat} (h : b = true) : tileIf b n = some { kind := 0x1E, fks := n } := by rw [h]; rfl

section
variable {f : Fields} {s : State} {F : Ready} {d : BitVec 512}

/-! ### TMAP (R276, R296) -/

theorem putMap_valid (h : mapValid d = true) : putMap f F d s = emitBoth f F kValue 0
    { s with tn := { s.tn with maps := fset 0 s.tn.maps (uKey F.u * 16 + fld f 0 4) d } } := by
  rw [putMap, if_pos h]

theorem putMap_invalid (h : mapValid d = false) : putMap f F d s = raiseSub F 0x1E 1 s := by simp [putMap, h]

theorem laneTmap_base_void (hs : settle true F = .go) (h1 : f.fn = 1) (hv : mapV (tmapOf s F.u (fld f 0 4)) = false) :
    laneTmap f F s = raiseSub F 0x1E 2 s := by
  simp [laneTmap, laneBoth, lane_go hs, h1, hv]

theorem laneTmap_base (hs : settle true F = .go) (h1 : f.fn = 1) (hv : mapV (tmapOf s F.u (fld f 0 4)) = true) :
    laneTmap f F s = putMap f F ((tmapOf s F.u (fld f 0 4)).extractLsb' 64 448 ++ F.l.val) s := by
  simp [laneTmap, laneBoth, lane_go hs, h1, hv]

section
variable (hs : settle true F = .go) (h0 : f.fn = 0)
  (hf : windowFault (ctxOf s F.u.ctx) (poolSize (ctxOf s F.u.ctx)) [0, 1, 2, 3] F.l.val 64 = none)
include hs h0 hf

theorem laneTmap_pool (hw : winOf F.l.val = 2) (ha : offOf F.l.val % 64 = 0) : laneTmap f F s =
    putMap f F (BitVec.ofNat 512 (leNat (rdBytes s (locUnit F.u (offOf F.l.val)) 64))) (poolError F F.l.val s) := by
  simp [laneTmap, laneBoth, lane_go hs, h0, hf, hw, ha, bits512]

theorem laneTmap_misaligned (hw : winOf F.l.val = 2) (ha : offOf F.l.val % 64 ≠ 0) :
    laneTmap f F s = raise F { kind := 0x08, va := F.l.val } s := by
  simp [laneTmap, laneBoth, lane_go hs, h0, hf, hw, ha, raiseA]

theorem laneTmap_sends (hw : winOf F.l.val ≠ 2) :
    laneTmap f F s = sendReq (readMu (ctxOf s F.u.ctx) F F.l.val) (.tmap f) F [] s := by
  simp [laneTmap, laneBoth, lane_go hs, h0, hf, hw]

end

/-! ### TFILL (R289, R297) -/

/-- The coordinates of a fill do not meet a block of its map (R297). -/
def fillSkewed (F : Ready) (d : BitVec 512) : Prop :=
  F.l.val.toNat % 2 ^ 32 % min (blockSize (mapBn d)) (rowElems (mapTy d)) ≠ 0 ∨ (mapBk d = 2 ∧ F.l.val.toNat / 2 ^ 32 % 2 ^ 32 % 32 ≠ 0)

/-- The base, and the scale base of a map with scales, are pointers that a fill may read. -/
def fillPtrsOk (s : State) (F : Ready) (d : BitVec 512) : Prop :=
  fillPtrOk s F.u (mapBase d) = true ∧ (mapBk d = 0 ∨ fillPtrOk s F.u (mapSbase d) = true)

/-- The checks of a fill in their order (R297). -/
def fillChecks (f : Fields) (F : Ready) (s : State) : List (Option FaultInfo) :=
  let d := tmapOf s F.u (fld f 0 4)
  [tileIf (!mapV d) 2,
   tileIf (fillAt F 0 % min (blockSize (mapBn d)) (rowElems (mapTy d)) != 0 || (mapBk d == 2 && fillAt F 1 % 32 != 0)) 8,
   tileIf (mapBk d != 0 && !(tagOf s F.u (fld f 4 5)).sv) 3,
   if fillPtrOk s F.u (mapBase d) && (mapBk d == 0 || fillPtrOk s F.u (mapSbase d)) then none else some { kind := 0x07, va := mapBase d }]

/-- A fill begins: its tag is FILLING with the map's format (R282). -/
def startFill (f : Fields) (F : Ready) (s : State) : State :=
  let d := tmapOf s F.u (fld f 0 4)
  let t := fld f 4 5
  let u := commitPt (setTag s F.u t { tagOf s F.u t with st := .filling, ef := mapEf d, bk := mapBk d, bn := mapBn d, sf := mapSf d })
    F.u.ctx F.u.copy (fcol F)
  { u with tn := { u.tn with fills := u.tn.fills ++ [{ c := F, i := .tfill f, tag := t, map := d, rows := 0 }] } }

theorem laneTfill_unheld (hs : settle true F = .go) (h : Claims.Unheld s 0xB1 f F) :
    laneTfill f F s = (firstFault (fillChecks f F s)).elim (startFill f F s) fun e => raise F e s := by
  obtain ⟨hf, hr⟩ := h
  rw [laneTfill, laneBoth, lane_go hs]
  dsimp only
  rw [hf, hr]
  change (match firstFault (fillChecks f F s) with | some e => _ | none => startFill f F s) = _
  cases firstFault (fillChecks f F s) <;> rfl

section
variable (hs : settle true F = .go) (h : Claims.Unheld s 0xB1 f F)
include hs h

theorem laneTfill_void (hv : mapV (tmapOf s F.u (fld f 0 4)) = false) : laneTfill f F s = raise F { kind := 0x1E, fks := 2 } s := by
  rw [laneTfill_unheld hs h, fillChecks, firstFault_fail (tileIf_fail (by rw [hv]; rfl))]
  rfl

section
variable (hv : mapV (tmapOf s F.u (fld f 0 4)) = true)
include hv

theorem laneTfill_skewed (hb : fillSkewed F (tmapOf s F.u (fld f 0 4))) : laneTfill f F s = raise F { kind := 0x1E, fks := 8 } s := by
  rw [laneTfill_unheld hs h, fillChecks, firstFault_pass (tileIf_pass (by rw [hv]; rfl)), firstFault_fail (tileIf_fail ?_)]
  · rfl
  · simpa [fillSkewed, fillAt, nbits] using hb

variable (hb : ¬fillSkewed F (tmapOf s F.u (fld f 0 4)))
include hb

theorem laneTfill_square : laneTfill f F s = (firstFault ((fillChecks f F s).drop 2)).elim (startFill f F s) fun e => raise F e s := by
  rw [laneTfill_unheld hs h, fillChecks, firstFault_pass (tileIf_pass (by rw [hv]; rfl)), firstFault_pass (tileIf_pass ?_)]
  · rfl
  · simpa [fillSkewed, fillAt, nbits] using hb

theorem laneTfill_noStrip (hk : mapBk (tmapOf s F.u (fld f 0 4)) ≠ 0) (hg : (tagOf s F.u (fld f 4 5)).sv = false) :
    laneTfill f F s = raise F { kind := 0x1E, fks := 3 } s := by
  rw [laneTfill_square hs h hv hb, fillChecks, List.drop_succ_cons, List.drop_succ_cons, List.drop_zero,
    firstFault_fail (tileIf_fail (by simp [hk, hg]))]
  rfl

variable (hk : mapBk (tmapOf s F.u (fld f 0 4)) = 0 ∨ (tagOf s F.u (fld f 4 5)).sv = true)
include hk

theorem laneTfill_striped : laneTfill f F s = (firstFault ((fillChecks f F s).drop 3)).elim (startFill f F s) fun e => raise F e s := by
  rw [laneTfill_square hs h hv hb, fillChecks, List.drop_succ_cons, List.drop_succ_cons, List.drop_zero, firstFault_pass (tileIf_pass ?_)]
  · rfl
  · rcases hk with hk | hk <;> simp [hk]

theorem laneTfill_pointer (hp : ¬fillPtrsOk s F (tmapOf s F.u (fld f 0 4))) :
    laneTfill f F s = raise F { kind := 0x07, va := mapBase (tmapOf s F.u (fld f 0 4)) } s := by
  rw [laneTfill_striped hs h hv hb hk, fillChecks, List.drop_succ_cons, List.drop_succ_cons, List.drop_succ_cons, List.drop_zero,
    firstFault_fail (if_neg (by simpa [fillPtrsOk] using hp))]
  rfl

theorem laneTfill_starts (hp : fillPtrsOk s F (tmapOf s F.u (fld f 0 4))) : laneTfill f F s = startFill f F s := by
  rw [laneTfill_striped hs h hv hb hk, fillChecks, List.drop_succ_cons, List.drop_succ_cons, List.drop_succ_cons, List.drop_zero,
    firstFault_pass (if_pos (by simpa [fillPtrsOk] using hp))]
  rfl

end
end

/-! ### TTAG (R281, R298) -/

section
variable {ok : TagSt → Bool} {g : Ready → State → Tag} (hs : settle true F = .go)
include hs

theorem laneTtag_sets (hk : ok (tagOf s F.u (fld f 6 5)).st = true) (hp : outsidePool (ctxOf s F.u.ctx) (g F s) = false) :
    laneTtag f ok g F s = emitBoth f F kValue 0 (commitPt (setTag s F.u (fld f 6 5) (g F s)) F.u.ctx F.u.copy (fcol F)) := by
  simp [laneTtag, laneBoth, lane_go hs, ttagOf, hk, hp]

theorem laneTtag_refuses (h : ok (tagOf s F.u (fld f 6 5)).st = false ∨ outsidePool (ctxOf s F.u.ctx) (g F s) = true) :
    laneTtag f ok g F s = raiseSub F 0x1E 3 s := by
  simp only [laneTtag, laneBoth, lane_go hs, ttagOf]
  exact if_pos (by rcases h with h | h <;> simp [h])

end

/-! ### TDOT (R309) -/

section
variable {a b : BitVec 512} (hs : settle true F = .go) (ha : tmapOf s F.u (fld f 0 4) = a) (hb : tmapOf s F.u (fld f 4 4) = b)
include hs ha hb

theorem laneTdot_void (h : mapV a = false ∨ mapV b = false) : laneTdot f F s = raise F { kind := 0x1E, fks := 2 } s := by
  simp only [laneTdot, laneBoth, lane_go hs, ha, hb]
  rw [firstFault_fail (tileIf_fail (by rcases h with h | h <;> simp [h]))]

theorem laneTdot_classless (hva : mapV a = true) (hvb : mapV b = true) (hc : tdotClass a b = none) :
    laneTdot f F s = raise F { kind := 0x1E, fks := 5 } s := by
  simp only [laneTdot, laneBoth, lane_go hs, ha, hb]
  rw [firstFault_pass (tileIf_pass (by simp [hva, hvb])), firstFault_fail (tileIf_fail (by rw [hc]; rfl))]

theorem laneTdot_sends {c : PClass} (hva : mapV a = true) (hvb : mapV b = true) (hc : tdotClass a b = some c) (h1 : 1 ≤ F.l.val.toNat)
    (hna : F.l.val.toNat ≤ mapD a 0) (hnb : F.l.val.toNat ≤ mapD b 0) (hk : mapBk a = 1 ∨ mapBk b = 1 → F.l.val.toNat % c.chunk = 0)
    (ht : c.at_ = f.ty) : laneTdot f F s = sendReq (readMu (ctxOf s F.u.ctx) F (mapBase a)) (.tdot f) F
      ([kreg s F.u (fld f 8 6), kreg s F.u (fld f 14 6)] ++ mapWords a ++ mapWords b) s := by
  have hchunk : mapBk a = 1 ∨ mapBk b = 1 → F.l.val.toNat % max 1 c.chunk = 0 := fun h => by
    rcases Nat.eq_zero_or_pos c.chunk with h0 | h0
    · rw [h0]
      exact Nat.mod_one _
    · rw [max_eq_right h0]
      exact hk h
  simp only [laneTdot, laneBoth, lane_go hs, ha, hb, hc]
  rw [firstFault_pass (tileIf_pass (by simp [hva, hvb])), firstFault_pass (tileIf_pass (b := (some c).isNone) rfl), firstFault_pass (tileIf_pass ?_),
    firstFault_pass (tileIf_pass (by simp [ht])), firstFault_nil]
  simp only [Option.map_some, Option.getD_some, Bool.or_eq_false_iff, Bool.and_eq_false_imp, Bool.or_eq_true, beq_iff_eq, bne_eq_false_iff_eq,
    decide_eq_false_iff_not, not_lt]
  exact ⟨⟨⟨h1, hna⟩, hnb⟩, hchunk⟩

end

end

/-- Settles O20: each lane's outcomes, as its checks come. -/
theorem mapFillTagAndDotAtIssue : Obligations.MapFillTagAndDotAtIssue := by
  intro f s F hF hs
  have hlow : f.imm.toNat % 16 = fld f 0 4 := (fld_low f 4).symm
  rw [hlow]
  intro x p entry d put
  have run {i : Instr} {lane : Ready → State → State} {t : State} (he : exec i s = runLanes lane s) (h : lane F s = t) :
      Claims.Ends i s t := exec_of_lane hF he h
  have puts {d : BitVec 512} {t : State} (h : laneTmap f F s = putMap f F d t) : put (.tmap f) d t :=
    ⟨fun hv => run rfl (h.trans (putMap_valid hv)), fun hv => run rfl (h.trans (putMap_invalid hv))⟩
  refine ⟨fun h1 hv => run rfl (laneTmap_base_void hs h1 hv), fun h1 hv => puts (laneTmap_base hs h1 hv), fun h0 hf =>
    ⟨fun hw ha => puts (laneTmap_pool hs h0 hf hw ha), fun hw ha => run rfl (laneTmap_misaligned hs h0 hf hw ha),
      fun hw => run rfl (laneTmap_sends hs h0 hf hw)⟩, ?fill, ?tag, ?dot⟩
  case fill =>
    intro t g h
    exact ⟨fun hv => run rfl (laneTfill_void hs h hv), fun hv => ⟨fun hb => run rfl (laneTfill_skewed hs h hv hb),
      fun hb hk hg => run rfl (laneTfill_noStrip hs h hv hb hk hg), fun hb hk hp => run rfl (laneTfill_pointer hs h hv hb hk hp),
      fun hb hk hp => run rfl (laneTfill_starts hs h hv hb hk hp)⟩⟩
  case tag =>
    intro t g set
    have sets {i : Instr} {ok : TagSt → Bool} {n : Ready → State → Tag} {P : Prop} (he : exec i s = runLanes (laneTtag f ok n) s)
        (hk : ok g.st = true ↔ P) : set i P (n F s) :=
      ⟨fun h hp => run he (laneTtag_sets hs (hk.2 h) hp), fun h => run he (laneTtag_refuses hs (h.imp_left fun h =>
        Bool.eq_false_iff.2 (mt hk.1 h)))⟩
    exact ⟨sets (n := fun F s => bindTag (rightOp f F s)) rfl (by simp),
      sets (n := fun F s => { tagOf s F.u (ttagOf f) with st := .full }) rfl (by simp),
      sets (n := fun F s => { tagOf s F.u (ttagOf f) with st := .empty }) rfl (by simp), exec_of_body hF hs rfl rfl⟩
  case dot =>
    intro e n
    exact ⟨fun h => run rfl (laneTdot_void hs rfl rfl h), fun hd he hc => run rfl (laneTdot_classless hs rfl rfl hd he hc),
      fun hd he c hc h1 hn hm hk ht => run rfl (laneTdot_sends hs rfl rfl hd he hc h1 hn hm hk ht)⟩

end Sys2Proof.Machine

/-!
The array instructions at issue (O21): the tile faults, the return to wait, and the start of an operation that passes its own checks.
-/

namespace Sys2Proof.Machine

open Sys2Proof

section
variable {i : Instr} {op : Nat} {f : Fields} {s : State} {F : Ready} {check : Ready → State → Except FaultInfo (Nat × List Word)}

/-! ### The lane of an array instruction (R283, R285) -/

section
variable (hop : ((opOf i).getD 0).toNat = op) (hs : settle true F = .go)
include hop hs

theorem laneArray_faults {n : Nat} (h : tileFault s op f F = some n) : laneArray i f check F s = raiseSub F 0x1E n s := by
  rw [laneArray, laneBoth, lane_go hs]
  dsimp only
  rw [hop, h]

theorem laneArray_waits (h : tileFault s op f F = none) (hr : tileReady s op f F = false) : laneArray i f check F s = returnReady s F := by
  rw [laneArray, laneBoth, lane_go hs]
  dsimp only
  rw [hop, h, hr]
  rfl

theorem laneArray_refuses (h : Claims.Unheld s op f F) {e : FaultInfo} (he : check F s = .error e) : laneArray i f check F s = raise F e s := by
  rw [laneArray, laneBoth, lane_go hs]
  dsimp only
  rw [hop, h.1, h.2, he]
  rfl

theorem laneArray_starts (h : Claims.Unheld s op f F) {c : Nat} {k : List Word} (he : check F s = .ok (c, k)) : laneArray i f check F s =
    startOp i (match tileUse s op f F with | some (.ok n) => n.arrays | _ => []) c k F s := by
  rw [laneArray, laneBoth, lane_go hs]
  dsimp only
  rw [hop, h.1, h.2, he]
  rfl

end

/-- An array instruction whose checks answer an operation's cycles and registers takes its arrays. -/
theorem starts_of_check (hF : s.firing = [F]) (hs : settle true F = .go) (h : Claims.Unheld s op f F)
    (hop : ((opOf i).getD 0).toNat = op) (hx : exec i s = runLanes (laneArray i f check) s) {c : Nat} {k : List Word} (he : check F s = .ok (c, k)) :
    Claims.Starts i op f s F c k :=
  (exec_of_lane hF hx (laneArray_starts hop hs h he)).trans <| by rcases tileUse s op f F with _ | _ | _ <;> rfl

/-- An array instruction whose checks fail raises the first that does. -/
theorem refuses_of_check (hF : s.firing = [F]) (hs : settle true F = .go) (h : Claims.Unheld s op f F)
    (hop : ((opOf i).getD 0).toNat = op) (hx : exec i s = runLanes (laneArray i f check) s) {e : FaultInfo} (he : check F s = .error e) :
    Claims.Ends i s (raise F e s) :=
  exec_of_lane hF hx (laneArray_refuses hop hs h he)

end

/-! ### The checks of one instruction -/

theorem checks_pass {cs : List (Option FaultInfo)} {c : Nat} {k : List Word} (h : firstFault cs = none) : checks cs c k = .ok (c, k) := by
  rw [checks, h]

theorem checks_fail {cs : List (Option FaultInfo)} {c : Nat} {k : List Word} {e : FaultInfo} (h : firstFault cs = some e) :
    checks cs c k = .error e := by rw [checks, h]

theorem checks_ok {cs : List (Option FaultInfo)} {c c' : Nat} {k k' : List Word} (h : checks cs c k = .ok (c', k')) : c' = c := by
  rw [checks] at h
  split at h <;> cases h
  rfl

theorem opW_eq (ef : Nat) : opW ef = if efTy ef = .e4m3 ∨ efTy ef = .e5m2 then 2 else 1 := by simp [opW, isFp8]

theorem noStrip_eq_false {g : Tag} (h : g.bk = 0 ∨ g.sv = true) : noStrip g = false := by rcases h with h | h <;> simp [noStrip, h]

/-- Settles O21: the lane's outcomes are the same for every array instruction, and each has its own checks. -/
theorem arrayInstructionsAtIssue : Obligations.ArrayInstructionsAtIssue := by
  intro f s F hF hs imm g t
  have held {i : Instr} {op : Nat} {check : Ready → State → Except FaultInfo (Nat × List Word)} (hop : ((opOf i).getD 0).toNat = op)
      (hx : exec i s = runLanes (laneArray i f check) s) : (∀ n, tileFault s op f F = some n → Claims.Ends i s (raiseSub F 0x1E n s)) ∧
        (tileFault s op f F = none → tileReady s op f F = false → Claims.Ends i s (returnReady s F)) :=
    ⟨fun _ h => exec_of_lane hF hx (laneArray_faults hop hs h), fun h hr => exec_of_lane hF hx (laneArray_waits hop hs h hr)⟩
  have checked {i : Instr} {op : Nat} {check : Ready → State → Except FaultInfo (Nat × List Word)} (hop : ((opOf i).getD 0).toNat = op)
      (hx : exec i s = runLanes (laneArray i f check) s) (h : Claims.Unheld s op f F) :
      (∀ x, check F s = .error x → Claims.Ends i s (raise F x s)) ∧ ∀ r, check F s = .ok r → Claims.Starts i op f s F r.1 r.2 :=
    ⟨fun _ he => refuses_of_check hF hs h hop hx he, fun _ he => starts_of_check hF hs h hop hx he⟩
  refine ⟨?held, ?checked, fun c k h => (checks_ok h).trans (by rw [opW_eq]; rfl), fun h => starts_of_check hF hs h rfl rfl rfl,
    fun h => starts_of_check hF hs h rfl rfl (by simp only [beq_iff_eq]; rfl), fun h hl hn hk => starts_of_check hF hs h rfl rfl (checks_pass ?cvt),
    fun h hn => refuses_of_check hF hs h rfl rfl (checks_fail (firstFault_fail (tileIf_fail ?wide))),
    fun h ht hk => starts_of_check hF hs h rfl rfl (checks_pass ?red),
    fun h ht hk hw => starts_of_check hF hs h rfl rfl (checks_pass ?exp),
    fun h hl h4 h64 h32 hk => starts_of_check hF hs h rfl rfl (checks_pass ?trn)⟩
  case held =>
    simp only [List.forall_mem_cons]
    exact ⟨held rfl rfl, held rfl rfl, held rfl rfl, held rfl rfl, held rfl rfl, held rfl rfl, held rfl rfl, held rfl rfl, held rfl rfl,
      held rfl rfl, held rfl rfl, held rfl rfl, held rfl rfl, held rfl rfl, held rfl rfl, held rfl rfl, fun _ h => absurd h List.not_mem_nil⟩
  case checked =>
    simp only [List.forall_mem_cons]
    exact ⟨checked rfl rfl, checked rfl rfl, checked rfl rfl, checked rfl rfl, checked rfl rfl, fun _ h => absurd h List.not_mem_nil⟩
  case cvt =>
    rw [firstFault_pass (tileIf_pass ?_), firstFault_pass (tileIf_pass (noStrip_eq_false (g := tagOf s F.u (tfSrc f)) hk)), firstFault_nil]
    exact Bool.or_eq_false_iff.2 ⟨beq_eq_false_iff_ne.2 hl, decide_eq_false (not_lt.2 hn)⟩
  case wide => exact Bool.or_eq_true_iff.2 (.inr (decide_eq_true hn))
  case red =>
    rw [firstFault_pass (tileIf_pass ?_), firstFault_pass (tileIf_pass (noStrip_eq_false (g := tagOf s F.u (tfSrc f)) hk)), firstFault_nil]
    have hred : tredTy f.fn.toNat t = true := by
      rw [tredTy]
      split at ht
      · rename_i h1; rw [if_pos h1]; exact List.contains_iff_mem.2 ht
      · rename_i h1; rw [if_neg h1]; exact bne_iff_ne.2 ht
    exact congrArg not hred
  case exp =>
    rw [firstFault_pass (tileIf_pass ?_), firstFault_nil]
    refine Bool.or_eq_false_iff.2 ⟨Bool.or_eq_false_iff.2 ⟨?_, bne_eq_false_iff_eq.2 hk⟩, decide_eq_false (not_lt.2 hw)⟩
    change (!(t == .f32 || t == .bf16 || t == .f16)) = false
    simp only [List.mem_cons, List.not_mem_nil, or_false] at ht
    rcases ht with h | h | h <;> rw [h] <;> rfl
  case trn =>
    rw [firstFault_pass (tileIf_pass ?_), firstFault_nil]
    have hwide : wideTag s F.u (tfSrc f) = false := Bool.and_eq_false_iff.2 (.inr (beq_eq_false_iff_ne.2 h32))
    rw [hwide, Bool.false_and, Bool.or_false]
    exact Bool.or_eq_false_iff.2 ⟨by change ttrnBad t = false; simp [ttrnBad, hl, h4, h64], bne_eq_false_iff_eq.2 hk⟩

end Sys2Proof.Machine

/-!
The ends of the tensor's operations (O22): an array operation, a tile fill, a region pass, and TMAP and TDOT at their MU.
-/

namespace Sys2Proof.Machine

open Sys2Proof

/-! ### An array operation ends (R282, R299 to R308) -/

section
variable {s : State} {u : UId} {o : ArrayOp} {f : Fields}

theorem bodyArrayOpEnd_ends (ho : s.tn.ops.find? (fun o => o.c.u == u) = some o) (hr : occupies (ctxOf s u.ctx) = true)
    (hh : opHeld s o = false) : bodyArrayOpEnd u s = endOf o (leaveArray s o) := by
  unfold bodyArrayOpEnd
  rw [ho]
  dsimp only
  rw [hh, hr]
  rfl

theorem consumeIf_false (es : List (UId × Nat)) : consumeIf false es s = s := rfl

/-- A product that consumes no tag (R299). -/
theorem endMma_keeps {F : Ready} {c : PClass} (hc : tagClass s F.u (mmaA f) (mmaB f) = some c) (h0 : f.fn = 0) : endMma f F s =
    emitBoth f F kValue (BitVec.ofNat 64 (mmaAcc f)) (product F.u (mmaAcc f) c (tagOperand s F.u (mmaA f) c.w)
      (tagOperand s F.u (mmaB f) c.w) (List.range 32) s) := by
  rw [endMma, hc]
  dsimp only
  rw [h0]
  rfl

end

/-! ### A tile fill goes on (R289, R297) -/

section
variable {s : State} {b : Fill}

theorem drop_range {N n : Nat} (h : n < N) : (List.range N).drop n = n :: (List.range N).drop (n + 1) := by
  rw [List.drop_eq_getElem_cons (by rwa [List.length_range]), List.getElem_range]

/-- Lines that are filled one after another leave the fill at the line after them. -/
theorem fillFrom_lines {st : Nat → State} {a n : Nat} (hn : a ≤ n) (hN : n ≤ fillLines b)
    (h : ∀ k, a ≤ k → k < n → fillLine b k (st k) = .ok () (st (k + 1))) :
    fillFrom b ((List.range (fillLines b)).drop a) (st a) = fillFrom b ((List.range (fillLines b)).drop n) (st n) := by
  induction n, hn using Nat.le_induction with
  | base => rfl
  | succ n hn ih =>
    rw [ih (Nat.le_of_succ_le hN) fun k hk hlt => h k hk (Nat.lt_succ_of_lt hlt), drop_range hN, fillFrom, h n hn (Nat.lt_succ_self n)]

theorem endFill_emits {f : Fields} (hf : fieldsOf b.i = some f) : endFill b s =
    let z := setTagSt s b.c.u b.tag .full
    emitBoth f b.c kValue 0 { z with tn := { z.tn with fills := z.tn.fills.erase b } } := by
  rw [endFill, hf]
  rfl

theorem fillFrom_done : fillFrom b ((List.range (fillLines b)).drop (fillLines b)) s = endFill b s := by
  rw [List.drop_of_length_le (by rw [List.length_range]), fillFrom]

theorem fillFrom_waits {n : Nat} {z : State} (hn : n < fillLines b) (h : fillLine b n s = .waits z) :
    fillFrom b ((List.range (fillLines b)).drop n) s = keepRows b n z := by
  rw [drop_range hn, fillFrom, h]

theorem fillFrom_faults {n : Nat} {e : FaultInfo} (hn : n < fillLines b) (h : fillLine b n s = .fault e)
    (hd : (ctxOf s b.c.u.ctx).cst ≠ .draining) :
    fillFrom b ((List.range (fillLines b)).drop n) s = raiseEngine b.c 0 e (keepRows b n s) := by
  rw [drop_range hn, fillFrom, h]
  exact if_neg (by simpa using hd)

theorem fillFrom_drops {n : Nat} {e : FaultInfo} (hn : n < fillLines b) (h : fillLine b n s = .fault e)
    (hd : (ctxOf s b.c.u.ctx).cst = .draining) : fillFrom b ((List.range (fillLines b)).drop n) s = dropFill b s := by
  rw [drop_range hn, fillFrom, h]
  exact if_pos (by simpa using hd)

theorem bodyTfillComplete_goes {u : UId} {t : Nat} (hb : s.tn.fills.find? (fun b => b.c.u == u && b.tag == t) = some b)
    (hr : engineRuns (ctxOf s u.ctx) = true) : bodyTfillComplete u t s = fillFrom b ((List.range (fillLines b)).drop b.rows) s := by
  rw [bodyTfillComplete, hb]
  exact if_pos hr

end

/-! ### A region pass (R293, R294, R301) -/

section
variable {s : State} {u : UId} {o : ArrayOp} {f : Fields}

theorem passUnlike_iff {F : Ready} {reg : Word} {w : Nat} : passUnlike s f F reg w = true ↔
    ¬∀ p < regRows reg, ∀ t < F.l.val.toNat, ∀ q < regCols reg, passClass s F reg (mmarA f + w * t) p q ≠ none := by
  simp only [passUnlike, mmarMt, List.any_eq_true, List.mem_range, Option.isNone_iff_eq_none, not_forall, ne_eq, not_not, exists_prop]

theorem passNoStrip_iff {F : Ready} {reg : Word} {w : Nat} : passNoStrip s f F reg w = true ↔
    ¬∀ p < regRows reg, ∀ t < F.l.val.toNat, noStrip (tagOf s (regionCu F.u p 0) (mmarA f + w * t)) = false := by
  simp only [passNoStrip, mmarMt, List.any_eq_true, List.mem_range, not_forall, Bool.not_eq_false, exists_prop]

/-- The operation of a CU that is a region pass. -/
def isPassOf (u : UId) (o : ArrayOp) : Bool := o.c.u == u && (match o.i with | .mmar _ => true | _ => false)

theorem bodyMmarPass_goes (ho : s.tn.ops.find? (isPassOf u) = some o) (hi : o.i = .mmar f) : bodyMmarPass u s =
    let reg := o.k.headD 0
    let w := opW (tagOf s u (mmarA f)).ef
    let tags := passTags o.c f reg w
    if !tags.all (fun e => (tagOf s e.1 e.2).st == .full) then (if (ctxOf s u.ctx).dying then endOp o s else s)
    else if passUnlike s f o.c reg w then raiseSub o.c 0x1E 6 (endOp o s)
    else if passNoStrip s f o.c reg w then raiseSub o.c 0x1E 3 (endOp o s)
    else emitBoth f o.c kValue o.c.l.val (consumeIf (f.fn == 1) tags (endOp o ((passResults s f o.c reg w).foldl
      (fun s r => writeAcc r.1 r.2.1 f.ty r.2.2 s) (noteArray o.c (passMemory s o.c f reg w) s)))) := by
  change (match s.tn.ops.find? (isPassOf u) with | none => s | some o => _) = _
  rw [ho]
  dsimp only
  rw [show (fieldsOf o.i).getD (unpack 0) = f by rw [hi]; rfl]

end

/-! ### A map, tile, bin or merge-path request leaves its port (R188) -/

section
variable {s : State} {q : Req} {f : Fields}

theorem serves_other {t : State} {g : State → State} (h : Claims.Oldest s q) : ∀ mk ∈ [Instr.tmap, .tdot, .binOpen, .binPut, .binPutMap,
    .binPlay, .binClose, .mpath], q.i = mk f → performOther q (Claims.taken s q) = t → t = g (Claims.taken s q) → Claims.Serves s q g := by
  obtain ⟨hq, hb⟩ := h
  have serve (hbody : bodyMuRequest q.mu s = performOther q (Claims.taken s q)) (ht : performOther q (Claims.taken s q) = t)
      (hg : t = g (Claims.taken s q)) : Claims.Serves s q g := by
    change done s (bodyMuRequest q.mu s) = _
    rw [hbody, ht, hg, done]
  simp only [List.forall_mem_cons]
  refine ⟨?_, ?_, ?_, ?_, ?_, ?_, ?_, ?_, fun _ h => absurd h List.not_mem_nil⟩ <;>
    exact fun hi => serve (by simp [bodyMuRequest, hq, hb, hi, isCommand, performReq, performMemory, performSync, Claims.taken])

end

/-! ### TMAP at its MU (R173, R296) -/

section
variable {s t : State} {q : Req} {f : Fields}

theorem tmapArrives_here {d : BitVec 512} (hf : fieldsOf q.i = some f) (h : onModule (reqCtx s q) q.c.u.x = true) :
    tmapArrives q d s = putMap f q.c d s := by
  rw [tmapArrives, if_pos h, reqFields_of_fieldsOf hf]

theorem readNote_clean {m : UId} {loc : Nat} (h : readFails s loc = false) : readNote q m loc s = s := by
  rw [readNote, h]
  exact if_neg Bool.false_ne_true

section
variable (hk : q.k = [])
include hk

theorem performTmap_misaligned (hw : winOf q.c.l.val = 1) (ha : offOf q.c.l.val % 64 ≠ 0) :
    performTmap q s = raise q.c { kind := 0x08, va := q.c.l.val } s := by
  simp [performTmap, hk, hw, ha, reqFault, raiseA]

theorem performTmap_scratch (hw : winOf q.c.l.val = 1) (ha : offOf q.c.l.val % 64 = 0)
    (hl : liveFault s (locUnit (muNamed q.c.u q.c.l.val) (offOf q.c.l.val)) 64 = none)
    (hr : readFails s (locUnit (muNamed q.c.u q.c.l.val) (offOf q.c.l.val)) = false) : performTmap q s =
      tmapArrives q (BitVec.ofNat 512 (leNat (seenBytes s q (muPtr (muNamed q.c.u q.c.l.val) (offOf q.c.l.val))
        (locUnit (muNamed q.c.u q.c.l.val) (offOf q.c.l.val)) 0 64 true))) s := by
  simp [performTmap, hk, hw, ha, hl, readNote_clean hr, bits512]

theorem performTmap_unresolved {e : FaultInfo} (hw : winOf q.c.l.val ≠ 1) (he : resolveVa s q.mu q.c.l.val 64 64 false = .error e) :
    performTmap q s = raise q.c e (capTouch s q.mu (fcol q.c) q.c.l.val) := by
  simp [performTmap, hk, hw, he]

theorem performTmap_global {va : Nat} (hw : winOf q.c.l.val ≠ 1) (hva : resolveVa s q.mu q.c.l.val 64 64 false = .ok va) :
    performTmap q s = withPhys (capTouch s q.mu (fcol q.c) q.c.l.val) q .read va fun a s =>
      tmapArrives q (bits512 (seenGlobal s q va a.phys 64)) (readNote q q.mu a.phys s) := by
  simp [performTmap, hk, hw, hva]

end

end

/-! ### TDOT at its MU (R309) -/

theorem leNat_lt (bs : List Byte) : leNat bs < 2 ^ (8 * bs.length) := by
  induction bs with
  | nil => simp [leNat]
  | cons b bs ih =>
    have hb := b.isLt
    rw [leNat, List.length_cons, show 8 * (bs.length + 1) = 8 + 8 * bs.length from by omega, pow_add]
    omega

theorem leBytes_leNat (bs : List Byte) (n : Nat) : (leBytes (leNat bs) (bs.length + n)).take bs.length = bs := by
  induction bs with
  | nil => rfl
  | cons b bs ih =>
    have hb := b.isLt
    rw [leNat, List.length_cons, show bs.length + 1 + n = (bs.length + n) + 1 from by omega, leBytes, List.take_succ_cons,
      show (b.toNat + 256 * leNat bs) / 256 = leNat bs by omega, ih, List.cons_eq_cons]
    exact ⟨BitVec.eq_of_toNat_eq (by rw [BitVec.toNat_ofNat]; omega), rfl⟩

theorem length_byteWords (bs : List Byte) : (byteWords bs).length = (bs.length + 7) / 8 := by
  rw [byteWords, List.length_map, List.length_range]

/-- The first of the words of some bytes holds the first eight, the others the rest. -/
theorem byteWords_cons {bs : List Byte} (h : bs ≠ []) :
    byteWords bs = BitVec.ofNat 64 (leNat (bs.take 8)) :: byteWords (bs.drop 8) := by
  have hl : 0 < bs.length := List.length_pos_iff.2 h
  rw [byteWords, show (bs.length + 7) / 8 = (bs.length - 8 + 7) / 8 + 1 by omega, List.range_succ_eq_map, List.map_cons, List.map_map,
    byteWords, List.length_drop, Nat.mul_zero, List.drop_zero]
  congr 1
  refine List.map_congr_left fun k _ => ?_
  rw [Function.comp_apply, List.drop_drop, show 8 * k.succ = 8 + 8 * k from by omega]

/-- The words of some bytes give back those bytes. -/
theorem wordBytes_byteWords (bs : List Byte) : wordBytes (byteWords bs) bs.length = bs := by
  induction hn : bs.length using Nat.strong_induction_on generalizing bs with
  | _ n ih =>
    subst hn
    by_cases h : bs = []
    · rw [h]; rfl
    have hl : 0 < bs.length := List.length_pos_iff.2 h
    have hrest : wordBytes (byteWords (bs.drop 8)) (bs.drop 8).length = bs.drop 8 :=
      ih _ (by rw [List.length_drop]; omega) _ rfl
    have hword : (BitVec.ofNat 64 (leNat (bs.take 8))).toNat = leNat (bs.take 8) := by
      rw [BitVec.toNat_ofNat]
      refine Nat.mod_eq_of_lt ((leNat_lt _).trans_le (Nat.pow_le_pow_right (by decide) ?_))
      rw [List.length_take]
      omega
    have hfirst : (leBytes (leNat (bs.take 8)) 8).take (bs.take 8).length = bs.take 8 := by
      have := leBytes_leNat (bs.take 8) (8 - (bs.take 8).length)
      rwa [show (bs.take 8).length + (8 - (bs.take 8).length) = 8 by rw [List.length_take]; omega] at this
    rw [wordBytes, byteWords_cons h, List.flatMap_cons, hword]
    by_cases h8 : 8 ≤ bs.length
    · rw [List.take_append, length_leBytes, List.take_of_length_le (by rw [length_leBytes]; exact h8)]
      have h1 : leBytes (leNat (bs.take 8)) 8 = bs.take 8 := by
        rwa [List.length_take, min_eq_left h8, List.take_of_length_le (by rw [length_leBytes])] at hfirst
      rw [h1, ← List.length_drop]
      exact (congrArg (bs.take 8 ++ ·) hrest).trans (List.take_append_drop 8 bs)
    · have htake : bs.take 8 = bs := List.take_of_length_le (by omega)
      rw [htake] at hfirst ⊢
      rw [List.take_append_of_le_length (by rw [length_leBytes]; omega), hfirst]

/-- Pieces that a request keeps as words are the pieces. -/
theorem piecesOf_byteWords (ps : List (List Byte)) : piecesOf (ps.map List.length) (ps.flatMap byteWords) = ps := by
  induction ps with
  | nil => rfl
  | cons p ps ih =>
    rw [List.map_cons, List.flatMap_cons, piecesOf, ← length_byteWords, List.take_left, List.drop_left, ih, wordBytes_byteWords]

theorem wordsMap_append {k l : List Word} {n : Nat} (h : n + 8 ≤ k.length) : wordsMap (k ++ l) n = wordsMap k n := by
  refine List.foldl_ext _ _ _ fun d j hj => ?_
  have := List.mem_range.1 hj
  rw [List.getD_append _ _ _ _ (by omega)]

theorem tdotFrom_read {q : Req} {k : List Word} {e : BitVec 512 × Word × Nat} {es : List (BitVec 512 × Word × Nat)} {r : List Byte × Bool}
    {s t : State} (hm : readMu (reqCtx s q) q.c e.2.1 = q.mu) (ht : tdotRead q e.1 e.2 s = .ok r t) :
    tdotFrom q k (e :: es) s = tdotFrom q (k ++ byteWords r.1) es (noteBad q r.2 t) := by
  rw [tdotFrom, hm, ht]
  simp only [bne_self_eq_false, Bool.false_eq_true, if_false]

theorem tdotFrom_answers {q : Req} {f : Fields} {k : List Word} {s : State} {c : PClass} (hf : fieldsOf q.i = some f)
    (hc : tdotClass (wordsMap k 2) (wordsMap k 10) = some c) : tdotFrom q k [] s =
      let a := wordsMap k 2
      let b := wordsMap k 10
      let n := q.c.l.val.toNat
      let ps := piecesOf ((tdotPieces a n ++ tdotPieces b n).map fun e => e.2) (k.drop 18)
      emitBoth f q.c kValue (tdotVal a b (k.getD 0 0) (k.getD 1 0) c (tdotSide a n ps) (tdotSide b n (ps.drop (tdotPieces a n).length))) s := by
  rw [tdotFrom, hc, reqFields_of_fieldsOf hf]

/-- A TDOT whose pieces are all read at its MU goes through them one after another. -/
theorem tdotFrom_reads {q : Req} {rd : Nat → List Byte × Bool} {st : Nat → State} (es : List (BitVec 512 × Word × Nat)) (k : List Word)
    (h : ∀ j (hj : j < es.length), readMu (reqCtx (st j) q) q.c es[j].2.1 = q.mu ∧
      ∃ t, tdotRead q es[j].1 es[j].2 (st j) = .ok (rd j) t ∧ st (j + 1) = noteBad q (rd j).2 t) :
    tdotFrom q k es (st 0) = tdotFrom q (k ++ ((List.range es.length).map fun j => (rd j).1).flatMap byteWords) [] (st es.length) := by
  induction es generalizing k st rd with
  | nil => rw [List.length_nil, List.range_zero, List.map_nil, List.flatMap_nil, List.append_nil]
  | cons e es ih =>
    obtain ⟨hm, t, ht, hst⟩ := h 0 (Nat.zero_lt_succ _)
    rw [List.getElem_cons_zero] at hm ht
    rw [tdotFrom_read hm ht, ← hst,
      ih (rd := fun j => rd (j + 1)) (st := fun j => st (j + 1)) (k ++ byteWords (rd 0).1) fun j hj => h (j + 1) (Nat.succ_lt_succ hj),
      List.length_cons, List.range_succ_eq_map, List.map_cons, List.map_map, List.flatMap_cons, List.append_assoc]
    rfl

theorem restPieces_zero {α : Type} (es : List (α × Word × Nat)) : restPieces 0 es = es := by cases es <;> rfl

/-- The pieces that a TDOT of `n` elements reads, each with its map (R309). -/
def dotPieces (a b : BitVec 512) (n : Nat) : List (BitVec 512 × Word × Nat) :=
  (tdotPieces a n).map (fun e => (a, e)) ++ (tdotPieces b n).map (fun e => (b, e))

/-- A TDOT whose pieces have all been read answers their dot product. -/
theorem performTdot_answers {q : Req} {f : Fields} {s : State} {c : PClass} {st : Nat → State} {rd : Nat → List Byte × Bool} (hi : q.i = .tdot f)
    (hk : q.k.length = 18) (hc : tdotClass (wordsMap q.k 2) (wordsMap q.k 10) = some c) (h0 : st 0 = s) :
    let a := wordsMap q.k 2
    let b := wordsMap q.k 10
    let n := q.c.l.val.toNat
    let ps := dotPieces a b n
    (∀ j (h : j < ps.length), readMu (reqCtx (st j) q) q.c ps[j].2.1 = q.mu ∧ (rd j).1.length = ps[j].2.2 ∧
      ∃ t, tdotRead q ps[j].1 ps[j].2 (st j) = .ok (rd j) t ∧ st (j + 1) = noteBad q (rd j).2 t) →
    let got := (List.range ps.length).map fun j => (rd j).1
    performTdot q s = emitBoth f q.c kValue (tdotVal a b (q.k.getD 0 0) (q.k.getD 1 0) c (tdotSide a n got)
      (tdotSide b n (got.drop (tdotPieces a n).length))) (st ps.length) := by
  intro a b n ps h got
  have hlens : (tdotPieces a n ++ tdotPieces b n).map (fun e => e.2) = got.map List.length := by
    have hps : (tdotPieces a n ++ tdotPieces b n).map (fun e => e.2) = ps.map fun e => e.2.2 := by
      change _ = (dotPieces a b n).map _
      rw [dotPieces, List.map_append, List.map_append, List.map_map, List.map_map]
      rfl
    rw [hps]
    refine List.ext_getElem (by rw [List.length_map, List.length_map, List.length_map, List.length_range]) fun j h1 h2 => ?_
    rw [List.length_map] at h1
    rw [List.getElem_map, List.getElem_map, List.getElem_map, List.getElem_range, (h j h1).2.1]
  have hread := tdotFrom_reads (q := q) (rd := rd) (st := st) ps q.k fun j hj => ⟨(h j hj).1, (h j hj).2.2⟩
  have hma : wordsMap (q.k ++ got.flatMap byteWords) 2 = a := wordsMap_append (by omega)
  have hmb : wordsMap (q.k ++ got.flatMap byteWords) 10 = b := wordsMap_append (by omega)
  have hdrop : (q.k ++ got.flatMap byteWords).drop 18 = got.flatMap byteWords := by rw [← hk, List.drop_left]
  rw [performTdot, hk, Nat.sub_self, restPieces_zero]
  refine (h0 ▸ hread).trans ((tdotFrom_answers (f := f) (by rw [hi]; rfl) (by rw [hma, hmb]; exact hc)).trans ?_)
  dsimp only
  rw [hma, hmb, hdrop, hlens, piecesOf_byteWords, List.getD_append _ _ _ _ (by omega), List.getD_append _ _ _ _ (by omega)]

/-! ### The statement -/

/-- Settles O22: an operation's end is `endOf`, a fill goes through its lines, a pass through its checks, and TMAP and TDOT through their reads. -/
theorem tensorOperationsComplete : Obligations.TensorOperationsComplete := by
  refine ⟨fun s u o f ho hr => ?ends, fun s u t b f hb hi hr hrows st n hst hn hok => ?fill, fun s u o f ho hi => ?pass, fun s q f hold => ?reads⟩
  case ends =>
    obtain ⟨us, i, c, k⟩ := o
    intro F t imm
    have ends {r : State} (hh : opHeld s ⟨us, i, c, k⟩ = false) (h : endOf ⟨us, i, c, k⟩ t = r) : Claims.Ends (.arrayOpEnd u) s r :=
      ends_of_body ((bodyArrayOpEnd_ends ho hr hh).trans h) rfl
    refine ⟨?product, ?mmag, ?wld, ?accz, ?accrd, ?tcvt, ?tred, ?texp, ?ttrn, ?bfly, ?bfch, ?bperm, ?bfsc, ?sdset⟩
    case product =>
      simp only [List.forall_mem_cons]
      exact ⟨by rintro rfl c hc h0; exact ends rfl (endMma_keeps hc h0), by rintro rfl c hc h0; exact ends rfl (endMma_keeps hc h0),
        fun _ h => absurd h List.not_mem_nil⟩
    case wld => rintro rfl hw; exact ends hw rfl
    case accz => rintro rfl; exact ends rfl (by simp only [endOf, endAccz, beq_iff_eq]; rfl)
    all_goals rintro rfl; exact ends rfl rfl
  case fill =>
    obtain ⟨rfl, rfl⟩ : b.c.u = u ∧ b.tag = t := by simpa using List.find?_some hb
    have goes {r : State} (h : fillFrom b ((List.range (fillLines b)).drop n) (st n) = r) (hN : n ≤ fillLines b) :
        Claims.Ends (.tfillComplete b.c.u b.tag) s r :=
      ends_of_body ((bodyTfillComplete_goes hb hr).trans (hst ▸ (fillFrom_lines hn hN hok).trans h)) rfl
    refine ⟨?_, fun hlt => ⟨fun z hz => goes (fillFrom_waits hlt hz) hlt.le, fun e he =>
      ⟨fun hd => goes (fillFrom_faults hlt he hd) hlt.le, fun hd => goes (fillFrom_drops hlt he hd) hlt.le⟩⟩⟩
    rintro rfl
    exact goes (fillFrom_done.trans (endFill_emits (by rw [hi]; rfl))) le_rfl
  case pass =>
    obtain ⟨us, i, F, k⟩ := o
    subst hi
    obtain rfl : F.u = u := by
      have hu : ((F.u == u) && true) = true := List.find?_some (p := isPassOf u) ho
      simpa using hu
    intro reg w tags at_ fits strips
    have hall : (tags.all fun e => (tagOf s e.1 e.2).st == .full) = true ↔ ∀ e ∈ tags, (tagOf s e.1 e.2).st = .full := by simp
    have hfits : passUnlike s f F reg w = true ↔ ¬fits := passUnlike_iff
    have hstrips : passNoStrip s f F reg w = true ↔ ¬strips := passNoStrip_iff
    have goes := bodyMmarPass_goes ho rfl
    refine ⟨fun hw hd => ends_of_body (goes.trans ?waits) rfl, fun h hu => ends_of_body (goes.trans ?unlike) rfl,
      fun h hu hn => ends_of_body (goes.trans ?noStrip) rfl, fun h hu hn => ends_of_body (goes.trans ?done) rfl⟩
    case waits =>
      obtain ⟨e, he, hf⟩ := hw
      refine (if_pos ?_).trans (if_neg (by rw [hd]; exact Bool.false_ne_true))
      rw [Bool.not_eq_true']
      exact Bool.eq_false_iff.2 fun h => hf (hall.1 h e he)
    all_goals refine (if_neg (by rw [hall.2 h]; exact Bool.false_ne_true)).trans ?_
    case unlike => exact if_pos (hfits.2 hu)
    all_goals refine (if_neg (mt hfits.1 (not_not.2 hu))).trans ?_
    case noStrip => exact if_pos (hstrips.2 hn)
    case done => exact if_neg (mt hstrips.1 (not_not.2 hn))
  case reads =>
    have hlow : f.imm.toNat % 16 = fld f 0 4 := (fld_low f 4).symm
    rw [hlow]
    refine ⟨fun hi hw hk hon => ⟨fun ha => ?misaligned, fun ha hl hr => ?scratch⟩,
      fun hi hw hk hon => ⟨fun e he => ?unresolved, fun va hva => ⟨fun e he => ?absent, fun a t ha hon' hr => ?found⟩⟩,
      fun hi hk => ?dot⟩
    case dot =>
      intro a b n ps c st rd hc h0 h got
      exact serves_other hold _ (by simp) hi (by rw [performOther, hi]; exact performTdot_answers hi hk hc h0 h) rfl
    all_goals
      have hf : fieldsOf q.i = some f := by rw [hi]; rfl
      have serve {g : State → State} (h : performTmap q (Claims.taken s q) = g (Claims.taken s q)) : Claims.Serves s q g :=
        serves_other hold _ (by simp) hi (by rw [performOther, hi]; exact h) rfl
    case misaligned => exact serve (performTmap_misaligned hk hw ha)
    case scratch =>
      have hput := (performTmap_scratch (s := Claims.taken s q) hk hw ha hl hr).trans (tmapArrives_here hf hon)
      exact ⟨fun hv => serve (hput.trans (putMap_valid hv)), fun hv => serve (hput.trans (putMap_invalid hv))⟩
    case unresolved => exact serve (performTmap_unresolved hk hw he)
    all_goals have hglobal := performTmap_global hk hw hva
    case absent => exact serve (hglobal.trans (withPhys_faults he))
    case found =>
      have hput : performTmap q (Claims.taken s q) = putMap f q.c (bits512 (seenGlobal t q va a.phys 64)) t := by
        refine hglobal.trans ((withPhys_goes ha).trans ?_)
        rw [readNote_clean hr, tmapArrives_here hf hon']
      exact ⟨fun hv => serve (hput.trans (putMap_valid hv)), fun hv => serve (hput.trans (putMap_invalid hv))⟩

end Sys2Proof.Machine

/-!
The butterfly instructions at issue (O23): of BWLD the statement sends the bytes that the pool holds before the firing's commit point, and the
model those that it holds after it. Nothing in the statement keeps the call record of the firing's colour out of the pool.
-/

namespace Sys2Proof.Machine

open Sys2Proof

/-! ### BWLD of bytes that its own commit point writes (R76, R328) -/

/-- A call record, not yet committed, of colour 1. -/
def openRecord : CallRec :=
  { copy := 0, col := 1, pcol := 0, pitr := 0, sx := 0, sy := 0, ss := 0, narg := 0, nrec := 0, state := .opened, cm := false, tries := 0,
    site := 0, fwd := 0, args := [] }

/-- A BWLD of one word by the route to the CU itself. -/
def selfLoad : Fields := { unpack 0 with ta := 0xC00, tb := 0xC00 }

/-- The firing of colour 1 whose left operand names the first byte of the pool. -/
def poolFiring : Ready :=
  let F := homeFiring 0
  { F with l := { F.l with col := 1, val := 0x8000000000000000 } }

/-- One resident context with that record, in an address space whose one range puts colour 1's place of the call-record area on the first
128 bytes of the pool. -/
def recordInPool : State :=
  let r : RangeEnt := { vbase := 128, vlim := 2 ^ 44, pbase := locUnit homeCu 0, v := true, rd := true, wr := true, ws := false }
  { State.reset with
      ctxs := [{ homeCtx with recs := [openRecord], rcache := [(0, 1)] }]
      tr := { State.reset.tr with spaces := [(0, { asReset with v := true, nrng := 1, ranges := some [r] })] }
      firing := [poolFiring] }

/-- The values of the config tokens that reach their own CU. -/
def arrivedValues (s : State) : List Word := s.fab.arrivals.map fun a => a.tok.val

/-- The word that BWLD sends is the first word of the committed record. -/
theorem selfLoad_sendsRecord {t : State} (h : exec (.bwld selfLoad) recordInPool = .next t) : arrivedValues t ≠ [0] := by
  cases h
  decide +kernel

/-- Refutes O23: a BWLD reads its words after its commit point, which here writes the call record over them; the statement has the zeros sent
that stood there before. -/
theorem not_butterflyInstructionsAtIssue : ¬ Obligations.ButterflyInstructionsAtIssue := by
  intro h
  obtain ⟨-, -, -, bwld⟩ := h selfLoad recordInPool poolFiring rfl (by decide)
  have hsend := (bwld.2 (by decide) (by decide)).1 (by decide) (by decide)
  exact selfLoad_sendsRecord hsend (by decide +kernel)

end Sys2Proof.Machine

/-!
The bin instructions and MPATH (O19): their requests, and what the home MU makes of each.
-/

namespace Sys2Proof.Machine

open Sys2Proof

theorem sparseIf_pass {b : Bool} {n : Nat} (h : b = false) : sparseIf b n = none := by rw [h]; rfl

/-- A map that passes its checks is valid, and its base is not in the pool (R335). -/
theorem badMap_none {s : State} {q : Req} {d : BitVec 512} {ok : Ty → Bool} (h : badMap s q d ok = none) :
    mapV d = true ∧ winOf (mapBase d) ≠ 2 := by
  rw [badMap, sparseIf] at h
  split at h
  · cases h
  · rename_i hb
    rw [Bool.not_eq_true] at hb
    simp only [Bool.or_eq_false_iff, Bool.not_eq_false', Bool.or_eq_true, Bool.and_eq_true, beq_iff_eq] at hb
    obtain ⟨⟨⟨hv, -⟩, -⟩, hw⟩ := hb
    refine ⟨hv, fun h2 => ?_⟩
    rcases hw with (hw | hw) | hw
    · omega
    · omega
    · have := hw.1.1
      omega

/-- A bin set that passes its checks has room for its region table in its area (R340). -/
theorem badBin_table {s : State} {q : Req} {c cw : Word} (h : badBin s q c cw = false) : binRegions c ≤ 256 * cwLen cw := by
  have hlen : decide (cwLen cw < 1 + binTable c) = false := by
    unfold badBin at h
    simp only [Bool.or_eq_false_iff] at h
    exact h.1.2
  have := of_decide_eq_false hlen
  rw [binTable] at this
  omega

section
variable {s : State} {q : Req} {f : Fields} {b : BinSet}

theorem binOpenNow_iff {m : UId} {n : Nat} : binOpenNow s m n = true ↔ ∃ b, binAt s m n = some b ∧ b.st = .opened := by
  unfold binOpenNow
  cases binAt s m n <;> simp

theorem binStatus_opened (h : b.st = .opened) : binStatus (some b) = BitVec.ofNat 64 (b.app + 2 ^ 32 * b.drp + 2 ^ 62) := by
  simp [binStatus, h]

/-! ### BIN.PUT, BIN.PLAY, BIN.CLOSE at their MU (R337, R345, R347) -/

section
variable (hf : fieldsOf q.i = some f)
include hf

theorem binSetOf_eq : binSetOf q = fld f 6 2 := by rw [binSetOf, reqFields_of_fieldsOf hf]

section
variable (h : ∀ b, binAt s q.mu (fld f 6 2) = some b → b.st ≠ .opened)
include h

theorem performBinPut_refused : performBinPut q s = raise q.c { kind := 0x1F, fks := 1 } s := by
  have hno : binOpenNow s q.mu (fld f 6 2) = false := Bool.eq_false_iff.2 fun ho => by
    obtain ⟨b, hb, hst⟩ := binOpenNow_iff.1 ho
    exact h b hb hst
  rw [performBinPut, binSetOf_eq hf, hno]
  rfl

theorem performBinPlay_refused : performBinPlay q s = raise q.c { kind := 0x1F, fks := 1 } s := by
  rw [performBinPlay, binSetOf_eq hf]
  split
  · exact if_pos (bne_iff_ne.2 (h _ ‹_›))
  · rfl

theorem performBinClose_refused : performBinClose q s = raise q.c { kind := 0x1F, fks := 1 } s := by
  rw [performBinClose, binSetOf_eq hf]
  split
  · exact if_pos (bne_iff_ne.2 (h _ ‹_›))
  · rfl

end

section
variable (hb : binAt s q.mu (fld f 6 2) = some b) (ho : b.st = .opened)
include hb ho

theorem performBinPut_queues : performBinPut q s =
    let t := reqCommit q (charge s q.c.u 7 1)
    { t with cp := { t.cp with puts := t.cp.puts ++ [{ req := q, set := fld f 6 2, maps := [], pos := 0, app := 0, drp := 0 }] } } := by
  rw [performBinPut, binSetOf_eq hf, binOpenNow_iff.2 ⟨b, hb, ho⟩]
  rfl

theorem performBinPlay_plays : performBinPlay q s = replyBoth q.mu f q.c (BitVec.ofNat 64 (b.app + 2 ^ 32 * b.drp + 2 ^ 62))
    (BitVec.ofNat 64 (b.app + 2 ^ 32 * b.drp + 2 ^ 62)) (setBin (reqCommit q (charge s q.c.u 7 1)) q.mu (fld f 6 2)
      (some { b with st := .playing, region := none, play := some q.c })) := by
  rw [performBinPlay, binSetOf_eq hf, hb]
  refine (if_neg (by simp [ho])).trans ?_
  rw [binStatus_opened ho, reply, reqFields_of_fieldsOf hf]

theorem performBinClose_closes : performBinClose q s = replyBoth q.mu f q.c (BitVec.ofNat 64 (b.app + 2 ^ 32 * b.drp + 2 ^ 62))
    (BitVec.ofNat 64 (b.app + 2 ^ 32 * b.drp + 2 ^ 62)) (setBin (reqCommit q (charge s q.c.u 7 1)) q.mu (fld f 6 2) none) := by
  rw [performBinClose, binSetOf_eq hf, hb]
  refine (if_neg (by simp [ho])).trans ?_
  rw [binStatus_opened ho, reply, reqFields_of_fieldsOf hf]

/-! ### BIN.PUT.MAP (R348) -/

theorem performBinPutMap_queues {ix vm : BitVec 512} (hix : tmapOf s q.c.u (fld f 8 4) = ix) (hvm : tmapOf s q.c.u (fld f 12 4) = vm)
    (hi : badMap s q ix isCoord = none) (hv : badMap s q vm (fun t => t == binTy b.ctl) = none) (hsi : badSeg q.c.l.val (mapD ix 0) = none)
    (hsv : badSeg q.c.l.val (mapD vm 0) = none) (hei : elemFault s q ix (segOf q.c.l.val).1 (segOf q.c.l.val).2 false = none)
    (hev : elemFault s q vm (segOf q.c.l.val).1 (segOf q.c.l.val).2 false = none) : performBinPutMap q s =
      let t := reqCommit q (charge s q.c.u 7 1)
      { t with cp := { t.cp with puts := t.cp.puts ++ [{ req := q, set := fld f 6 2, maps := [ix, vm], pos := 0, app := 0, drp := 0 }] } } := by
  have hopen : sparseIf (!binOpenNow s q.mu (fld f 6 2)) 1 = none := sparseIf_pass (by rw [binOpenNow_iff.2 ⟨b, hb, ho⟩]; rfl)
  unfold performBinPutMap
  rw [reqFields_of_fieldsOf hf, binSetOf_eq hf]
  dsimp only
  rw [hix, hvm, hb]
  dsimp only [Option.map_some, Option.getD_some]
  rw [firstFault_pass hei, firstFault_pass hev, firstFault_pass hopen, firstFault_pass hi, firstFault_pass hv, firstFault_pass hsi,
    firstFault_pass hsv, firstFault_nil]

end

/-! ### BIN.OPEN (R336, R340) -/

theorem performBinOpen_opens {z : State} (hn : binAt s q.mu (fld f 6 2) = none) (hbad : badBin s q (reqK q 1) (reqK q 3) = false)
    (hty : binTyOk (binTy (reqK q 1)) = true)
    (hd : addrFault s q false [0, 3] (reqK q 0) (max 1 (binLen (reqK q 1) * tyBytes (binTy (reqK q 1)))) (tyBytes (binTy (reqK q 1))) true = none)
    (ha : addrFault s q false [0, 3] (reqK q 2) (max 1 (4096 * cwLen (reqK q 3))) 4096 true = none)
    (hz : writeTable (reqEng q) (reqK q 2) (List.range (binRegions (reqK q 1))) s = .ok () z) : performBinOpen q s =
      replyBoth q.mu f q.c 0 0 (reqCommit q (charge (setBin z q.mu (fld f 6 2) (some
        { st := .opened, dest := reqK q 0, ctl := reqK q 1, area := reqK q 2, cw := reqK q 3, app := 0, drp := 0,
          blocks := cwLen (reqK q 3), used := binTable (reqK q 1), region := none, play := none })) q.c.u 7 1)) := by
  unfold performBinOpen
  rw [binSetOf_eq hf]
  dsimp only
  rw [if_pos hty, firstFault_pass hd, firstFault_pass ha, firstFault_nil]
  dsimp only
  rw [min_eq_left (badBin_table hbad), hz]
  dsimp only
  rw [firstFault_pass (sparseIf_pass (by rw [hn]; rfl)), firstFault_pass (sparseIf_pass hbad), firstFault_nil]
  dsimp only
  rw [reply, reqFields_of_fieldsOf hf]

/-! ### MPATH (R348) -/

theorem performMpath_answers {d : BitVec 512} {ls : List Nat} {w z1 z2 z : State} {r0 r1 : Int} {v : Nat × Nat}
    (hd : tmapOf s q.c.u (fld f 0 4) = d) (hm : badMap s q d isCoord = none) (h2 : 2 ≤ mapD d 0) (he : elemFault s q d 0 (mapD d 0) false = none)
    (hl : engLocs (reqEng q) .read (mapBase d) none (elemPtrs d 0 ++ elemPtrs d (mapD d 0 - 1)) s = .ok ls w) (h0 : rpAt q d 0 w = .ok r0 z1)
    (h1 : rpAt q d (mapD d 0 - 1) z1 = .ok r1 z2) (hv : mpathResult q d r0 r1 z2 = .ok v z) :
    performMpath q s = replyBoth q.mu f q.c (BitVec.ofNat 64 v.1) (BitVec.ofNat 64 v.2) (charge z q.c.u 7 1) := by
  obtain ⟨hmv, hw⟩ := badMap_none hm
  have hends : (!mapV d || mapD d 0 == 0 || winOf (mapBase d) == 2) = false := by
    simp only [Bool.or_eq_false_iff, Bool.not_eq_false', beq_eq_false_iff_ne]
    exact ⟨⟨hmv, by omega⟩, hw⟩
  unfold performMpath
  rw [reqFields_of_fieldsOf hf]
  dsimp only
  rw [hd, he, hends]
  simp only [Bool.false_eq_true, if_false, hl]
  rw [firstFault_pass hm, firstFault_pass (sparseIf_pass (decide_eq_false (not_lt.2 h2))), firstFault_nil]
  simp only [h0, h1, hv]
  rw [reply2, reqFields_of_fieldsOf hf]

end

end

/-- Settles O19: one lemma per instruction for its request, and one per outcome at the MU. -/
theorem binAndMergePathInstructions : Obligations.BinAndMergePathInstructions := by
  refine ⟨fun f s F hF hs => ⟨?opens, exec_of_body hF hs rfl rfl, ?plain⟩, fun s q f hold => ?served⟩
  case opens => exact exec_of_body hF hs rfl (by simp only [fld_low]; rfl)
  case plain =>
    simp only [List.forall_mem_cons]
    exact ⟨exec_of_body hF hs rfl rfl, exec_of_body hF hs rfl rfl, exec_of_body hF hs rfl rfl, exec_of_body hF hs rfl rfl,
      fun _ h => absurd h List.not_mem_nil⟩
  case served =>
    intro n t pay ans entry
    refine ⟨?refused, fun hi b hb ho => ?put, fun hi b hb ho => ?play, fun hi b hb ho => ?close, fun hi => ?opened, fun hi => ?putMap,
      fun hi => ?mpath⟩
    case refused =>
      simp only [List.forall_mem_cons]
      refine ⟨fun hi h => ?_, fun hi h => ?_, fun hi h => ?_, fun _ h => absurd h List.not_mem_nil⟩ <;>
        refine serves_other hold _ (by simp) hi (by rw [performOther, hi]) ?_
      · exact performBinPut_refused (f := f) (by rw [hi]; rfl) h
      · exact performBinPlay_refused (f := f) (by rw [hi]; rfl) h
      · exact performBinClose_refused (f := f) (by rw [hi]; rfl) h
    all_goals have hf : fieldsOf q.i = some f := by rw [hi]; rfl
    case put => exact serves_other hold _ (by simp) hi (by rw [performOther, hi]) (performBinPut_queues hf hb ho)
    case play => exact serves_other hold _ (by simp) hi (by rw [performOther, hi]) (performBinPlay_plays hf hb ho)
    case close => exact serves_other hold _ (by simp) hi (by rw [performOther, hi]) (performBinClose_closes hf hb ho)
    case opened =>
      intro c cw hn hbad hty hd ha z hz
      exact serves_other hold _ (by simp) hi (by rw [performOther, hi]) (performBinOpen_opens (s := t) hf hn hbad hty hd ha hz)
    case putMap =>
      intro ix vm sg b hb ho him hvm hsi hsv hei hev
      exact serves_other hold _ (by simp) hi (by rw [performOther, hi]) (performBinPutMap_queues (s := t) hf hb ho rfl rfl him hvm hsi hsv hei hev)
    case mpath =>
      intro d hm h2 he ls w hl r0 r1 z1 z2 h0 h1 v z hv
      exact serves_other hold _ (by simp) hi (by rw [performOther, hi])
        (performMpath_answers (s := t) hf (by rw [fld_low]; rfl) hm h2 he hl h0 h1 hv)

end Sys2Proof.Machine

/-!
The binning engine and the fibre units (O51): of a merge the statement extends the value of segment B by the type of segment A's value map, and the
model by the type of B's own. They agree where the two maps have one type, which acceptance checks and the statement does not ask for.
-/

namespace Sys2Proof.Machine

open Sys2Proof

/-! ### A merge whose value maps differ in type (R350) -/

/-- A map of elements of format `ef` at `off` in the scratchpad. -/
def scratchMap (ef off : Nat) : BitVec 512 := BitVec.ofNat 64 ef ++ (0#192 ++ (0#192 ++ BitVec.ofNat 64 (2 ^ 62 + off)))

/-- A FUNION by values whose right target is station 1 and whose left one discards. -/
def valueUnion : Fields := { unpack 0 with ta := 0xC00, tb := 0x001 }

/-- A merge of an empty segment A and a segment B of one position; A's values would be unsigned bytes and B's are signed ones. -/
def mixedMerge : Copy :=
  { mu := hubOf homeCu, id := 0, i := .funion valueUnion, c := homeFiring 0, k := [], st := .streaming, rsn := 0, nch := 0, total := 0, sent := 0,
    cw := 0, src := 0, dst := 0, len := 0, maps := [scratchMap 4 0, scratchMap 4 0, scratchMap 1 64, scratchMap 0 64], timer := none,
    crfail := false, resv := none, strm := [], pos := 0, n := 0, cnt := 0, aux := [0, 1, 0, 0, 0, 0, 0], toks := [], toks2 := [], left := false }

/-- That merge is its MU's one copy, and segment B's value is the byte 0xFF. -/
def mixedState : State :=
  { State.reset with
      ctxs := [homeCtx]
      mem := [(locUnit mixedMerge.mu 64, 0xFF)]
      cp := { State.reset.cp with copies := [mixedMerge] } }

/-- The values of the tokens under way. -/
def sentValues (s : State) : List Word := s.fab.flights.map fun x => x.tok.val

/-- The element that the merge reads, with the state after the read; 0 where the read fails. -/
def elemRead (d : BitVec 512) (first e : Nat) (s : State) : Nat × State :=
  match seenRead (copyEng mixedMerge) d (elemPtrs d e) s with
  | .ok (bs, false) t => (elemBits d e bs, chargeElem mixedMerge d first e t)
  | _ => (0, s)

/-- A read that neither faults, waits nor fails. -/
def readsElem (d : BitVec 512) (e : Nat) (s : State) : Bool :=
  match seenRead (copyEng mixedMerge) d (elemPtrs d e) s with
  | .ok (_, false) _ => true
  | _ => false

/-- Such a read's element, in the form of the statement. -/
theorem elemRead_reads {d : BitVec 512} {first e : Nat} {s : State} (h : readsElem d e s = true) :
    ∃ bs t, seenRead (copyEng mixedMerge) d (elemPtrs d e) s = .ok (bs, false) t ∧ (elemRead d first e s).1 = elemBits d e bs ∧
      (elemRead d first e s).2 = chargeElem mixedMerge d first e t := by
  unfold readsElem at h
  unfold elemRead
  split at h
  next bs t heq => rw [heq]; exact ⟨bs, t, rfl, rfl, rfl⟩
  next => cases h

/-- The state once segment B's coordinate is read. -/
def coordRead : State := (elemRead (scratchMap 4 0) 0 0 mixedState).2

/-- The union sends segment B's byte as a signed one. -/
theorem mixedMerge_sendsSigned {t : State} (h : exec (.fibrePosition mixedMerge.mu 0) mixedState = .next t) :
    sentValues t = [BitVec.ofInt 64 (-1)] := by
  cases h
  decide +kernel

/-- Refutes O51: of the value of segment B the statement says that it is extended by the type of segment A's value map. Where the map of B's values
has another type, the unit extends it by that one: here a signed byte of -1, for which the statement has 255. -/
theorem not_binAndFibreEvents : ¬ Obligations.BinAndFibreEvents := by
  rintro ⟨-, -, merge⟩
  obtain ⟨-, union⟩ := merge mixedState mixedMerge.mu 0 mixedMerge valueUnion (by decide) (.inr rfl) (by decide) (by decide) (by decide)
  obtain ⟨-, onlyB⟩ := union rfl (by decide)
  obtain ⟨-, values⟩ := onlyB (by decide) (by decide) _ _ (elemRead_reads (by decide +kernel)) (by decide)
  have hsent := mixedMerge_sendsSigned (values (by decide) _ _ (elemRead_reads (s := coordRead) (by decide +kernel)))
  exact absurd hsent (by decide +kernel)

end Sys2Proof.Machine

/-!
The control instructions (O7): the drain that EXIT and CFG.W.RECONF begin, config tokens, and the instructions that have one lane per outcome.
-/

namespace Sys2Proof.Machine

open Sys2Proof

/-! ### EXIT and CFG.W.RECONF (R366, R369) -/

section
variable {s : State} {F : Ready} {x : Ctx}

theorem exitCount_eq : exitCount F =
    { code := F.l.val.toNat % 2 ^ 32, u := F.u, ss := F.stn, col := F.l.col.toNat, itr := F.l.itr.toNat } := by
  simp [exitCount, nbits, fcol, fitr]

/-- What a context's drain leaves of it: the exits counted so far, and the reconfiguration that began it. -/
def draining (x : Ctx) (e : List ExitCount) (r : Option (Word × Word)) : Ctx :=
  { x with cst := .draining, frz := noFrz, freezing := true, exits := x.exits ++ e, reconf := r, byYard := false, prim := none,
           syncs := x.syncs.filter fun e => e.1 == 2 }

theorem ctxOf_close (s t : State) (c : Nat) : ctxOf (close s t) c = ctxOf t c := rfl

/-- What the other members are told leaves every context as it is. -/
theorem ctxOf_tellMembers (s : State) (c : Nat) (m : LinkMsg) (d : Nat) : ctxOf (tellMembers s c m) d = ctxOf s d := by
  obtain ⟨k, hk⟩ := tellMembers_frame s c m
  rw [hk]
  rfl

theorem beginDrain_drains {t : State} {c : Nat} {e : List ExitCount} {r : Option (Word × Word)}
    (hx : s.ctxs.find? (fun y => y.id == c) = some x) (hp : x.purges = []) : ctxOf (close t (beginDrain s c e r)) c = draining x e r := by
  have hc : ctxOf s c = x := by rw [ctxOf, hx]; rfl
  have hp' : (ctxOf s c).purges = [] := hc ▸ hp
  simp only [ctxOf_close, beginDrain, hp', ctxOf_tellMembers]
  exact ctxOf_updCtx (g := fun x => draining x e r) hx fun _ => rfl

section
variable (hx : (firingCommit F s).ctxs.find? (fun y => y.id == F.u.ctx) = some x)
include hx

theorem ctxOf_firingCommit : ctxOf (firingCommit F s) F.u.ctx = x := by rw [ctxOf, hx]; rfl

theorem bodyExit_first (hr : x.cst = .running) : bodyExit F s = beginDrain (firingCommit F s) F.u.ctx [exitCount F] none := by
  simp [bodyExit, ctxOf_firingCommit hx, isLive, isStopping, hr]

theorem bodyExit_counted (hd : x.cst = .draining) (hf : x.freezing = true) :
    bodyExit F s = updCtx (firingCommit F s) F.u.ctx fun x => { x with exits := x.exits ++ [exitCount F] } := by
  simp [bodyExit, ctxOf_firingCommit hx, isLive, isStopping, hd, hf]

theorem bodyReconf_first (hr : x.cst = .running) :
    bodyReconf F s = beginDrain (firingCommit F s) F.u.ctx [exitCount F] (some (F.l.val, rVal F)) := by
  simp [bodyReconf, ctxOf_firingCommit hx, isLive, isStopping, hr]

theorem bodyReconf_late (hd : x.cst = .draining) (hf : x.freezing = true) : bodyReconf F s = firingCommit F s := by
  simp [bodyReconf, ctxOf_firingCommit hx, isLive, isStopping, hd, hf]

end

end

/-! ### TRAP, BRK and YIELD (R409, R475, R484) -/

section
variable {f : Fields} {s : State} {F : Ready}

theorem bodyTrap_faults (h : F.again = false) : bodyTrap f F s = raise F { kind := 0x18 } s := by
  rw [bodyTrap, h]; rfl

theorem bodyTrap_passes (h : F.again = true) : bodyTrap f F s = emitBoth f F F.l.kind F.l.val s := if_pos h

/-- The enable bit of BRK for the firing's world. -/
def breaks (s : State) (F : Ready) : Bool := (dieReg s (dieOf s F.u)).bke.getLsbD (if (ctxOf s F.u.ctx).world ≠ 0 then 1 else 0)

theorem bodyBrk_eq :
    bodyBrk f F s = if breaks s F && !F.again then raise F { kind := 0x19 } s else emitBoth f F F.l.kind F.l.val s := by
  simp only [bodyBrk, breaks, isSecure, bne_iff_ne]
  rfl

theorem bodyBrk_faults (hb : breaks s F = true) (h : F.again = false) : bodyBrk f F s = raise F { kind := 0x19 } s := by
  simp [bodyBrk_eq, hb, h]

theorem bodyBrk_passes (h : breaks s F = false ∨ F.again = true) : bodyBrk f F s = emitBoth f F F.l.kind F.l.val s := by
  rw [bodyBrk_eq, if_neg]
  rcases h with h | h <;> simp [h]

theorem bodyYield_own (h : f.fn = 0) : bodyYield f F s =
    emit F f.tb kValue (BitVec.ofNat 64 (yieldCus [F.u] (fcol F) s).1) (emit F f.ta kValue F.l.val (yieldCus [F.u] (fcol F) s).2) := by
  simp [bodyYield, h]

/-- Where a context is one member, there is none for YIELD.ALL to pass on to. -/
theorem noOtherMember {x : Ctx} (hn : x.members.length ≤ 1) (h0 : x.member = 0) :
    (List.range x.members.length).filter (· != x.member) = [] := by
  rw [List.filter_eq_nil_iff]
  intro k hk
  have := List.mem_range.1 hk
  simp
  omega

theorem bodyYield_all (h : f.fn = 1) (hn : (ctxOf s F.u.ctx).members.length ≤ 1) (h0 : (ctxOf s F.u.ctx).member = 0) :
    bodyYield f F s = emit F f.tb kValue (BitVec.ofNat 64 (yieldCus (copyCus (ctxOf s F.u.ctx) F.u.copy) (fcol F) s).1)
      (emit F f.ta kValue F.l.val (yieldCus (copyCus (ctxOf s F.u.ctx) F.u.copy) (fcol F) s).2) := by
  simp only [bodyYield, h, noOtherMember hn h0, yieldOn, Nat.zero_add]
  rfl

/-! ### Service calls and LAUNCH (R389, R471, R483) -/

theorem sendSvc_primary {i : Instr} (h : F.u.copy = 0) : sendSvc i F s = sendReq (muOf F.u) i F [] s := by simp [sendSvc, once, h]

theorem sendSvc_twin {i : Instr} (h : F.u.copy ≠ 0) : sendSvc i F s = s := by simp [sendSvc, once, h]

theorem once_primary {body : Ready → State → State} (h : F.u.copy = 0) : once body F s = body F s := by simp [once, h]

section
variable (hf : windowFault (ctxOf s F.u.ctx) (poolSize (ctxOf s F.u.ctx)) [0, 1, 2, 3] F.l.val 64 = none)
include hf

theorem bodyLaunch_sends (hw : winOf F.l.val ≠ 2) : bodyLaunch f F s = sendReq (readMu (ctxOf s F.u.ctx) F F.l.val) (.launch f) F [] s := by
  simp [bodyLaunch, hf, hw]

theorem bodyLaunch_pool (hw : winOf F.l.val = 2) (ha : offOf F.l.val % 64 = 0) : bodyLaunch f F s =
    sendReq (muOf F.u) (.launch f) F (wordsOf (rdBytes s (locUnit F.u (offOf F.l.val)) 64)) (poolError F F.l.val s) := by
  simp [bodyLaunch, hf, hw, ha]

end

end

/-! ### Config tokens (R362, R365, R367, R368) -/

section
variable {pos rt n : Nat} (hp : pos < 4) (hr : rt < 8) (hn : n < 128)
include hp hr hn

theorem cfgTarget_toNat : (cfgTarget pos rt n).toNat = 1024 * pos + 128 * rt + n := by
  rw [cfgTarget, BitVec.toNat_ofNat, Nat.mod_eq_of_lt (by omega)]

theorem tgtPos_cfgTarget : tgtPos (cfgTarget pos rt n) = pos := by
  rw [tgtPos, nbits, cfgTarget_toNat hp hr hn]
  omega

theorem tgtRoute_cfgTarget : tgtRoute (cfgTarget pos rt n) = rt := by
  rw [tgtRoute, nbits, cfgTarget_toNat hp hr hn]
  omega

theorem tgtStn_cfgTarget : tgtStn (cfgTarget pos rt n) = n := by
  rw [tgtStn, nbits, cfgTarget_toNat hp hr hn]
  omega

end

/-- The config token of a firing to the object of `POS` `pos` and number `n`. -/
def cfgTok (w : State) (F : Ready) (pos rt n : Nat) (v : Word) : Flit :=
  mkTok (ctxOf w F.u.ctx).key F.u.ctx (fcol F) (fitr F) (cfgTarget pos rt n) kConfig v false

section
variable {w : State} {F : Ready} {pos rt n : Nat} {v : Word} {rd : Bool} {r : ReplyTo} (he : emitsTokens (ctxOf w F.u.ctx) = true)
  (hm : onModule (ctxOf w F.u.ctx) F.u.x = true) (hp : pos < 4) (hr : rt < 8) (hn : n < 128)
include he hm hp hr hn

theorem sendCfg_here : sendCfg F pos rt n v rd r w =
    sendFlit w F.u (routeDest w F.u rt) (rt == 0) (cfgTok w F pos rt n v) (some { rd := rd, reply := some r, grp := none }) := by
  simp [sendCfg, sendConfig, he, hm, tgtRoute_cfgTarget hp hr hn, cfgTok]

theorem sendCfg_own (h0 : rt = 0) : sendCfg F pos rt n v rd r w =
    { w with fab := { w.fab with arrivals := w.fab.arrivals ++
      [{ u := F.u, own := true, tok := cfgTok w F pos rt n v, cfg := some { rd := rd, reply := some r, grp := none } }] } } := by
  rw [sendCfg_here he hm hp hr hn]
  subst h0
  rfl

theorem sendCfg_route (h0 : rt ≠ 0) : sendCfg F pos rt n v rd r w =
    sendFlit w F.u (routeDest w F.u rt) false (cfgTok w F pos rt n v) (some { rd := rd, reply := some r, grp := none }) := by
  rw [sendCfg_here he hm hp hr hn, beq_false_of_ne h0]

/-- The config token that an instruction sends, with what becomes of it. -/
theorem sends_of_sendCfg {i : Instr} {s : State}
    (hex : exec i s = .next (close s (sendCfg F pos rt n v rd r w))) :
    ∃ T : Flit, T.kind = 3 ∧ T.val = v ∧ T.pos.toNat = pos ∧ T.stn.toNat = n ∧ T.ctx = BitVec.ofNat 9 F.u.ctx ∧ T.col = F.l.col ∧
      T.itr = F.l.itr ∧ T.rid = ridOf (ctxOf w F.u.ctx).key T.stn T.pos ∧ T.rsv = 0 ∧
      (rt = 0 → exec i s = .next (close s { w with fab := { w.fab with arrivals := w.fab.arrivals ++
        [{ u := F.u, own := true, tok := T, cfg := some { rd := rd, reply := some r, grp := none } }] } })) ∧
      (rt ≠ 0 → exec i s = .next (close s (sendFlit w F.u (routeDest w F.u rt) false T (some { rd := rd, reply := some r, grp := none })))) := by
  have hpos := tgtPos_cfgTarget hp hr hn
  have hstn := tgtStn_cfgTarget hp hr hn
  refine ⟨cfgTok w F pos rt n v, rfl, rfl, ?_, ?_, rfl, ?_, ?_, rfl, rfl, fun h0 => ?_, fun h0 => ?_⟩
  · simp [cfgTok, mkTok, hpos, Nat.mod_eq_of_lt hp]
  · simp [cfgTok, mkTok, hstn, Nat.mod_eq_of_lt hn]
  · simp [cfgTok, mkTok, fcol]
  · simp [cfgTok, mkTok, fitr]
  · rw [hex, sendCfg_own he hm hp hr hn h0]
  · rw [hex, sendCfg_route he hm hp hr hn h0]

end

theorem kIndex_eq {f : Fields} {F : Ready} : kIndex f F = if f.src = .unary then f.imm.toNat % 64 else (rVal F).toNat % 64 := by
  simp [kIndex, fld_low, nbits]

theorem kIndex_lt {f : Fields} {F : Ready} : kIndex f F < 128 := by
  rw [kIndex_eq]
  split <;> omega

section
variable {f : Fields} {s : State} {F : Ready}

theorem bodyKget_own (h : f.imm.toNat / 64 % 8 = 0) : bodyKget f F s = emitBoth f F kValue (kreg s F.u (kIndex f F)) s :=
  if_pos (beq_iff_eq.2 h)

theorem bodyKget_away (h : f.imm.toNat / 64 % 8 ≠ 0) :
    bodyKget f F s = sendCfg F 1 (fld f 6 3) (kIndex f F) 0 true (cfgReply F f.ta f.tb kValue) s :=
  if_neg (mt beq_iff_eq.1 h)

end

/-! ### Groups (R376) -/

section
variable {f : Fields} {x : Ctx} {g : GroupDecl} {cx cy : Nat}

section
variable (hg : groupAt x (f.imm.toNat % 8) = some g)
include hg

theorem groupAt_fld : groupAt x (fld f 0 3) = some g := by rw [fld_low]; exact hg

theorem grpIdVal_linear (h : f.fn = 0) : grpIdVal f x cx cy = BitVec.ofNat 64 (linIndex x g cx cy) := by
  simp [grpIdVal, groupAt_fld hg, h]

theorem grpIdVal_pair (h : f.fn = 1) : grpIdVal f x cx cy = pair32 (cx / 4 / g.gw) (cy / g.gh) := by
  simp [grpIdVal, groupAt_fld hg, h, groupXY]

theorem grpIdVal_parent (h : f.fn = 2) : grpIdVal f x cx cy = BitVec.ofNat 64 (parIndex x g cx cy) := by
  simp [grpIdVal, groupAt_fld hg, h]

theorem grpIdVal_site (h : f.fn = 3) : grpIdVal f x cx cy = BitVec.ofNat 64 (cy % g.gh * (4 * g.gw) + cx % (4 * g.gw)) := by
  simp [grpIdVal, groupAt_fld hg, h, siteIndex]

theorem grpSizeVal_own (h : f.fn = 0) : grpSizeVal f x cx cy =
    pair32 (min g.gw (padW x / 4 - cx / 4 / g.gw * g.gw)) (min g.gh (x.ph - cy / g.gh * g.gh)) := by
  simp [grpSizeVal, groupAt_fld hg, h, clipped, groupXY]

theorem grpSizeVal_count (h : f.fn = 1) : grpSizeVal f x cx cy = pair32 (groupsAcross x g) ((x.ph + g.gh - 1) / g.gh) := by
  simp [grpSizeVal, groupAt_fld hg, h]

end

section
variable (hg : groupAt x (f.imm.toNat % 8) = none)
include hg

theorem groupAt_fld_none : groupAt x (fld f 0 3) = none := by rw [fld_low]; exact hg

theorem grpIdVal_paddock (h : f.fn ≠ 3) : grpIdVal f x cx cy = 0 := by
  rw [grpIdVal, groupAt_fld_none hg]
  exact if_neg (mt beq_iff_eq.1 h)

theorem grpIdVal_paddock_site (h : f.fn = 3) : grpIdVal f x cx cy = BitVec.ofNat 64 (cy * padW x + cx) := by
  simp [grpIdVal, groupAt_fld_none hg, h, siteIndex]

theorem grpSizeVal_paddock (h : f.fn = 0) : grpSizeVal f x cx cy = pair32 (padW x / 4) x.ph := by
  simp [grpSizeVal, groupAt_fld_none hg, h]

theorem grpSizeVal_paddock_count (h : f.fn = 1) : grpSizeVal f x cx cy = 0x1_0000_0001 := by
  simp [grpSizeVal, groupAt_fld_none hg, h, pair32]

end

end

/-! ### The instructions -/

/-- Settles O7, with one lemma per outcome of each instruction. -/
theorem controlInstructionEffects : Obligations.ControlInstructionEffects := by
  unfold Obligations.ControlInstructionEffects
  intro f s F hF hs c x
  have run {i : Instr} {body : Ready → State → State} {t : State} (he : exec i s = runLanes (laneBoth f body) s)
      (h : body F s = t) : exec i s = .next (close s t) := exec_of_body hF hs he h
  have plain {a b : Bool} {i : Instr} {body : Ready → State → State} {t : State} (he : exec i s = runLanes (lane a b true f body) s)
      (h : body F s = t) : exec i s = .next (close s t) := exec_of_lane hF he ((lane_go hs).trans h)
  have group {t : Word} (h : grpIdVal f x F.u.x F.u.y = t) : exec (.grpId f) s = .next (close s (emitBoth f F kValue t s)) :=
    run rfl (congrArg (emitBoth f F kValue · s) h)
  have size {t : Word} (h : grpSizeVal f x F.u.x F.u.y = t) : exec (.grpSize f) s = .next (close s (emitBoth f F kValue t s)) :=
    run rfl (congrArg (emitBoth f F kValue · s) h)
  refine ⟨?first, ?later, fun h => run rfl (bodyTrap_faults h), fun h => run rfl (bodyTrap_passes h), ?brk, fun h => run rfl (bodyYield_own h),
    fun h hn h0 => run rfl (bodyYield_all h hn h0), run rfl rfl, fun h => ⟨run rfl (sendSvc_primary h), plain rfl (sendSvc_primary h)⟩,
    fun h => ⟨run rfl (sendSvc_twin h), plain rfl (sendSvc_twin h)⟩, ?config, ?kget, ?launch, ?groups, ?paddock⟩
  case first =>
    intro w x hx hr hp
    have left (e r) := beginDrain_drains (t := s) (e := e) (r := r) hx hp
    have exits := (congrArg Ctx.exits (left [exitCount F] none)).trans (congrArg (x.exits ++ [·]) exitCount_eq)
    exact ⟨⟨_, plain rfl (bodyExit_first hx hr), congrArg Ctx.cst (left _ _), congrArg Ctx.freezing (left _ _), congrArg Ctx.frz (left _ _),
        congrArg Ctx.reconf (left _ _), exits⟩,
      ⟨_, plain rfl (bodyReconf_first hx hr), congrArg Ctx.cst (left _ _), congrArg Ctx.freezing (left _ _), congrArg Ctx.reconf (left _ _)⟩⟩
  case later =>
    intro w x hx hd hf
    refine ⟨⟨_, plain rfl (bodyExit_counted hx hd hf), ?_⟩, plain rfl (bodyReconf_late hx hd hf)⟩
    have left := ctxOf_updCtx (g := fun x => { x with exits := x.exits ++ [exitCount F] }) hx fun _ => rfl
    have exits := (congrArg Ctx.exits left).trans (congrArg (x.exits ++ [·]) exitCount_eq)
    exact ⟨(congrArg Ctx.cst left).trans hd, exits⟩
  case brk =>
    intro on
    exact ⟨fun hb h => run rfl (bodyBrk_faults hb h), fun h => run rfl (bodyBrk_passes h)⟩
  case config =>
    intro w sends
    have route : tgtRoute f.ta < 8 := Nat.mod_lt _ (by decide)
    have station : tgtStn f.ta < 128 := Nat.mod_lt _ (by decide)
    refine ⟨fun he hm => ?stn, fun he hm => ?k, fun he hm => ?kset, fun h he hm => ?far⟩
    case stn => exact sends_of_sendCfg (r := cfgReply F 0xC00 f.tb kReply) he hm (by decide) route station (plain rfl rfl)
    case k =>
      have index : fld f 0 6 = f.imm.toNat % 64 := fld_low f 6
      rw [← index]
      exact sends_of_sendCfg (r := cfgReply F 0xC00 f.tb kReply) he hm (by decide) route (by omega) (plain rfl rfl)
    case kset =>
      rw [← kIndex_eq]
      exact sends_of_sendCfg (r := cfgReply F f.ta f.tb kValue) he hm (by decide) (by decide) kIndex_lt (run rfl rfl)
    case far =>
      rw [← kIndex_eq]
      exact sends_of_sendCfg (r := cfgReply F f.ta f.tb kValue) he hm (by decide) (Nat.mod_lt _ (by decide)) kIndex_lt (run rfl (bodyKget_away h))
  case kget =>
    intro kn h
    exact run rfl ((bodyKget_own h).trans (by rw [kIndex_eq]))
  case launch =>
    rintro p rfl h0 hw
    exact ⟨fun h => run rfl ((once_primary h0).trans (bodyLaunch_sends hw h)),
      fun h ha => run rfl ((once_primary h0).trans (bodyLaunch_pool hw h ha))⟩
  case groups =>
    intro g hg gx gy nx
    exact ⟨fun h => group (grpIdVal_linear hg h), fun h => group (grpIdVal_pair hg h), fun h => group (grpIdVal_parent hg h),
      fun h => group (grpIdVal_site hg h), fun h => size (grpSizeVal_count hg h), fun h => size (grpSizeVal_own hg h)⟩
  case paddock =>
    intro hg
    refine ⟨fun h => group (grpIdVal_paddock hg ?_), fun h => group (grpIdVal_paddock_site hg h), fun h => size (grpSizeVal_paddock hg h),
      fun h => size (grpSizeVal_paddock_count hg h)⟩
    rcases h with h | h | h <;> simp [h]

end Sys2Proof.Machine

/-!
The load of a kernel and the end of a drain (O24).
-/

namespace Sys2Proof.Machine

open Sys2Proof

/-! ### The load (R357 to R360, R392, R498) -/

section
variable {s : State} {c : Nat} (hl : (ctxOf s c).cst = .loading)
include hl

section
variable (h0 : (ctxOf s c).loadStage = 0)
include h0

theorem bodyHeaderRead_bad {e : XFault} (hr : loaderRead s (ctxOf s c) (ctxOf s c).img.toNat 256 = .bad e) :
    bodyHeaderRead c s = refuseLoad (loaderCheck s c e) c (plainStatus 0x20) := by
  simp [bodyHeaderRead, hl, h0, hr]

theorem bodyHeaderRead_miss {bs : List Byte} (hr : loaderRead s (ctxOf s c) (ctxOf s c).img.toNat 256 = .ok bs)
    (hh : cacheHit s (ctxOf s c) (imgHead bs) = none) : bodyHeaderRead c s = updCtx s c fun x => { x with loadStage := 1 } := by
  simp [bodyHeaderRead, hl, h0, hr, hh]

theorem bodyHeaderRead_hit {bs : List Byte} {e : CacheEnt} (hr : loaderRead s (ctxOf s c) (ctxOf s c).img.toNat 256 = .ok bs)
    (hh : cacheHit s (ctxOf s c) (imgHead bs) = some e) : bodyHeaderRead c s =
      if columnBad (ctxOf s c) ((parseImage false e.image).getD []) then refuseLoad s c (columnStatus (ctxOf s c))
      else tookImage (cachePut s e) c e.digest := by
  simp [bodyHeaderRead, hl, h0, hr, hh]

end

section
variable {bs : List Byte} (h1 : (ctxOf s c).loadStage = 1) (hr : readImage s (ctxOf s c) (ctxOf s c).img = .ok bs)
include h1 hr

theorem bodyVerified_refused {st : Word} (hv : verifyImage s (ctxOf s c) bs = .error st) : bodyVerified c s = refuseLoad s c st := by
  simp [bodyVerified, hl, h1, hr, hv]

theorem bodyVerified_verified {rs : List ImgRec} (hv : verifyImage s (ctxOf s c) bs = .ok rs) : bodyVerified c s =
    if cachePinned s (cacheDie (ctxOf s c)) then
      updCtx (writeRecs (clearKernel (clearUnits s c) c) c rs) c fun x => { x with loadStage := 3, digest := (imgHead bs).digest }
    else
      let h := imgHead bs
      tookImage (cachePut s { die := cacheDie (ctxOf s c), digest := h.digest, world := h.world, pw := h.pw, ph := h.ph, part := h.part,
                              image := bs }) c h.digest := by
  simp [bodyVerified, hl, h1, hr, hv]

end

theorem bodyLoadComplete_alone (h2 : 2 ≤ (ctxOf s c).loadStage) (hm : (ctxOf s c).members.length ≤ 1) {es : List ArgEnt}
    (ha : argEntries s (ctxOf s c) (argOf (ctxOf s c)) = .ok es) : bodyLoadComplete c s =
      let t := if (ctxOf s c).loadStage = 2 then writeRecs (clearKernel (clearUnits s c) c) c (cachedRecs s (ctxOf s c)) else s
      if argsFit t c es then placeArgs (startRun t c) c es else refuseLoad s c (plainStatus 0x25) := by
  simp [bodyLoadComplete, hl, ha, Nat.not_lt.2 h2, Nat.not_lt.2 hm]

end

/-! ### Contexts that do not load or drain -/

section
variable {s : State} {c : Nat}

section
variable (hl : (ctxOf s c).cst ≠ .loading)
include hl

theorem bodyHeaderRead_idle : bodyHeaderRead c s = s := by simp [bodyHeaderRead, hl]

theorem bodyVerified_idle : bodyVerified c s = s := by simp [bodyVerified, hl]

theorem bodyLoadComplete_idle : bodyLoadComplete c s = s := by simp [bodyLoadComplete, hl]

end

/-! ### The end of a drain (R366, R369) and of a kill (R398) -/

theorem bodyDrainComplete_dying (hd : (ctxOf s c).dying = true) : bodyDrainComplete c s = if killBusy s c then s else finishKill s c := by
  simp [bodyDrainComplete, hd]

section
variable (hd : (ctxOf s c).dying = false)
include hd

theorem bodyDrainComplete_idle (hc : (ctxOf s c).cst ≠ .draining) : bodyDrainComplete c s = s := by simp [bodyDrainComplete, hd, hc]

section
variable (hc : (ctxOf s c).cst = .draining) (hf : (ctxOf s c).freezing = false)
include hc hf

theorem bodyDrainComplete_busy (hb : drained s c = false) : bodyDrainComplete c s = s := by simp [bodyDrainComplete, hd, hc, hf, hb]

/-- A drained context alone, with no reconfiguration and nothing to wait for, commits its boundary and comes to its end. -/
theorem bodyDrainComplete_drained (hs : (ctxOf s c).syncs = []) (hb : drained s c = true) (hr : (ctxOf s c).reconf = none)
    (hm : (ctxOf s c).members.length ≤ 1) (hh : hostBlocks s c (fun _ => true) = [])
    (he : ∀ e ∈ (boundary s c fun _ => true).un.errs, e.u.ctx ≠ c) :
    bodyDrainComplete c s = drainEnd (stepSrg (boundary s c fun _ => true) c) c := by
  have herr : (boundary s c fun _ => true).un.errs.any (fun e => e.u.ctx == c) = false := by
    simpa using he
  simp [bodyDrainComplete, hd, hc, hf, hasReported, hs, hb, reconfWaits, hr, hm, hh, herr]

end

end

theorem drainEnd_exits {t : State} (hr : (ctxOf t c).reconf = none) : drainEnd t c =
    endCtx (tellMembers t c (.stop c 6 (leastExit (ctxOf t c) (ctxOf t c).exits))) c .exited 0 (leastExit (ctxOf t c) (ctxOf t c).exits) := by
  simp [drainEnd, hr]

end

/-- Settles O24, with one lemma per outcome of each of the four events. -/
theorem loadAndDrainEvents : Obligations.LoadAndDrainEvents := by
  refine ⟨fun s c hl => ⟨fun h0 => ⟨?bad, ?miss, ?hit⟩, fun h1 => ⟨?refused, ?cached, ?pinned⟩, ?complete⟩,
    fun s c hl => ⟨ends_of_body (bodyHeaderRead_idle hl) rfl, endsLoad_of_body (bodyVerified_idle hl) rfl,
      endsLoad_of_body (bodyLoadComplete_idle hl) rfl⟩,
    fun s c hd => ⟨fun hb => ?busy, fun hb => ?killed⟩, fun s c hd hc hf hs => ⟨?waits, ?ends⟩,
    fun s c hd hc => endsLoad_of_body (bodyDrainComplete_idle hd hc) rfl⟩
  case bad => exact fun e hr => ends_of_body (bodyHeaderRead_bad hl h0 hr) rfl
  case miss => exact fun bs hr hh => ends_of_body (bodyHeaderRead_miss hl h0 hr hh) rfl
  case hit =>
    intro bs e hr hh
    have hb := bodyHeaderRead_hit hl h0 hr hh
    exact ⟨fun hc => ends_of_body (hb.trans (if_neg (ne_true_of_eq_false hc))) rfl, fun hc => ends_of_body (hb.trans (if_pos hc)) rfl⟩
  case refused => exact fun bs st hr hv => endsLoad_of_body (bodyVerified_refused hl h1 hr hv) rfl
  case cached =>
    exact fun bs rs hr hv hp => endsLoad_of_body ((bodyVerified_verified hl h1 hr hv).trans (if_neg (ne_true_of_eq_false hp))) rfl
  case pinned => exact fun bs rs hr hv hp => endsLoad_of_body ((bodyVerified_verified hl h1 hr hv).trans (if_pos hp)) rfl
  case complete =>
    intro h2 hm es ha t
    have hb := bodyLoadComplete_alone hl h2 hm ha
    exact ⟨fun hf => endsLoad_of_body (hb.trans (if_pos hf)) rfl, fun hf => endsLoad_of_body (hb.trans (if_neg (ne_true_of_eq_false hf))) rfl⟩
  case busy => exact endsLoad_of_body ((bodyDrainComplete_dying hd).trans (if_pos hb)) rfl
  case killed => exact endsLoad_of_body ((bodyDrainComplete_dying hd).trans (if_neg (ne_true_of_eq_false hb))) rfl
  case waits => exact fun hb => endsLoad_of_body (bodyDrainComplete_busy hd hc hf hb) rfl
  case ends =>
    intro hb hr hm hh t he ht
    exact endsLoad_of_body ((bodyDrainComplete_drained hd hc hf hs hb hr hm hh he).trans (drainEnd_exits ht)) rfl

end Sys2Proof.Machine

/-!
The supervisor's commands and the ends of their transitions (O25): of a restore the statement has each context of the id read its reasons from its
own hamper, and the model has them all read from the first one's. Nothing in the statement says that ids are unique.
-/

namespace Sys2Proof.Machine

open Sys2Proof

/-! ### A restore with two contexts of one id (R402) -/

/-- A context that is being restored from this hamper, on no unit. -/
def restoringFrom (hmp : Nat) : Ctx := { ctxReset with cst := .restoring, hmp := hmp }

/-- Two contexts of one id; the first one's hamper keeps the reason `fault`, and the second one's none. -/
def twoOfOneId : State :=
  { State.reset with
      ctxs := [restoringFrom 0x10000, restoringFrom 0x20000]
      mem := [(0x10010, 1)] }

/-- The reasons that the contexts are frozen for after a step. -/
def reasonsAfter : Host.Outcome State Fault Refusal → List Frz
  | .next t => t.ctxs.map Ctx.frz
  | _ => []

/-- The restore gives both contexts the reason of the first one's hamper. -/
theorem twoOfOneId_shareReasons :
    reasonsAfter (exec (.restoreComplete 0) twoOfOneId) = [{ noFrz with fault := true }, { noFrz with fault := true }] := by
  decide +kernel

/-- Refutes O25: where two contexts have one id, the statement gives the second one the reasons of its own hamper. -/
theorem not_contextEvents : ¬ Obligations.ContextEvents := by
  rintro ⟨-, ends⟩
  obtain ⟨-, -, -, -, -, -, restores⟩ := ends twoOfOneId 0
  have stays := (restores (by decide) (by decide)).1 (by decide +kernel)
  have own := twoOfOneId_shareReasons.symm.trans (congrArg reasonsAfter stays)
  exact absurd own (by decide +kernel)

end Sys2Proof.Machine

/-!
The service cores' side (O26): the mailbox, its answers and its head, and the supervisor's register accesses.
-/

namespace Sys2Proof.Machine

open Sys2Proof

/-! ### The mailbox (R481 to R483) -/

section
variable {s : State} {n i : Nat} {q : Req} {e : MboxEnt} (hq : s.svc.parts[n]? = some q) (hc : findCall s q = some (i, e))
include hq hc

theorem bodyPartArrival_stray (h : e.am / 2 ^ partSlot q % 2 = 1) :
    bodyPartArrival n s = addOrph { s with svc := { s.svc with parts := s.svc.parts.eraseIdx n } } q.c.u.ctx 1 := by
  simp [bodyPartArrival, hq, hc, nbits, h]

theorem bodyPartArrival_fills (h : e.am / 2 ^ partSlot q % 2 = 0) (hn : e.na = 0) (hf : complete (fillSlot q e).1 = false) :
    bodyPartArrival n s = argDone q (addOrph (updDie { s with svc := { s.svc with parts := s.svc.parts.eraseIdx n } } (dieOf s q.mu) fun k =>
      { k with ring := fset none k.ring i (some { (fillSlot q e).1 with posted := complete (fillSlot q e).1 }) })
      q.c.u.ctx (fillSlot q e).2) := by
  simp [bodyPartArrival, hq, hc, nbits, h, hn, hf]

end

/-- The state with the answered entry freed. -/
def answered (s : State) (d n : Nat) : State := updDie s d fun k => { k with ring := fset none k.ring n none }

section
variable {s : State} {d n st : Nat} {v : Word}

theorem bodyMailboxReply_free (h : fget none (dieReg s d).ring n = none) : bodyMailboxReply d n st v s = s := by
  simp [bodyMailboxReply, h]

section
variable {e : MboxEnt} (he : fget none (dieReg s d).ring n = some e) (hp : e.posted = true) (hs : e.svn ≠ 0xFFFF)
include he hp hs

/-- An answer to a posted call is sent, held or dropped by the state of the call's context. -/
theorem bodyMailboxReply_posted : bodyMailboxReply d n st v s =
    let x := ctxOf s e.u.ctx
    let e' := { e with args := e.args.set 0 v }
    let t := answered s d n
    if emitsTokens x && x.cst != .frozen then sendServiceReply t e' st
    else if isLive x && x.cst != .draining then { t with svc := { t.svc with held := t.svc.held ++ [{ ctx := e.u.ctx, e := e', st := st }] } }
    else t := by
  have hpass : (!e.posted || e.svn == 0xFFFF) = false := by simp [hp, hs]
  simp only [bodyMailboxReply, he, hpass]
  rfl

theorem bodyMailboxReply_running (hc : (ctxOf s e.u.ctx).cst = .running) :
    bodyMailboxReply d n st v s = sendServiceReply (answered s d n) { e with args := e.args.set 0 v } st := by
  simp [bodyMailboxReply_posted he hp hs, emitsTokens, hc]

theorem bodyMailboxReply_frozen (hc : (ctxOf s e.u.ctx).cst = .frozen) :
    bodyMailboxReply d n st v s =
      let t := answered s d n
      { t with svc := { t.svc with held := t.svc.held ++ [{ ctx := e.u.ctx, e := { e with args := e.args.set 0 v }, st := st }] } } := by
  simp [bodyMailboxReply_posted he hp hs, isLive, hc]

theorem bodyMailboxReply_dead (hc : (ctxOf s e.u.ctx).cst = .exited ∨ (ctxOf s e.u.ctx).cst = .killed) :
    bodyMailboxReply d n st v s = answered s d n := by
  rcases hc with hc | hc <;> simp [bodyMailboxReply_posted he hp hs, emitsTokens, isStopping, isLive, hc]

end

section
variable (hn : n < 4096)
include hn

theorem bodyHeadAdvance_passes (hl : (passed (dieReg s d) n).length ≤ (dieReg s d).mbn)
    (hm : ∀ i ∈ passed (dieReg s d) n, mayPass (dieReg s d) i = true) :
    bodyHeadAdvance d n s = updDie s d fun r =>
      { r with mbhd := n, mbn := r.mbn - (passed r n).length, ring := r.ring.filter fun e => !(passed r n).contains e.1 } := by
  have hgo : (decide ((passed (dieReg s d) n).length > (dieReg s d).mbn) || !(passed (dieReg s d) n).all (mayPass (dieReg s d))) = false := by
    simpa [hl] using hm
  simp only [bodyHeadAdvance, Nat.mod_eq_of_lt hn, hgo]
  rfl

theorem bodyHeadAdvance_ignored
    (h : (dieReg s d).mbn < (passed (dieReg s d) n).length ∨ ∃ i ∈ passed (dieReg s d) n, mayPass (dieReg s d) i = false) :
    bodyHeadAdvance d n s = s := by
  rw [bodyHeadAdvance, Nat.mod_eq_of_lt hn]
  refine if_pos ?_
  rcases h with h | h
  · simp [h]
  · simpa using .inr h

end

end

/-! ### Injections, invalidations and regions (R420, R423, R477) -/

theorem bodyInjection_arms {s : State} {d : Nat} {w : Word} (h : d < 8) : bodyInjection d w s = setInj s d
    { ik := (w.extractLsb' 0 3).toNat, ibt := (w.extractLsb' 3 6).toNat, ix := (w.extractLsb' 9 8).toNat, iy := (w.extractLsb' 17 7).toNat,
      iof := (w.extractLsb' 24 20).toNat, iar := w.getLsbD 63 } := by
  simp only [toNat_extractLsb']
  exact if_neg (by omega)

section
variable {s : State} {v : Word}

theorem bodyTlbInvalidate_unheard : bodyTlbInvalidate v false s = s := rfl

theorem bodyTlbInvalidate_sets (h : s.tr.invBusy = true ∨ v.getLsbD 11 = false) : bodyTlbInvalidate v true s =
    { s with tr := { s.tr with invAs := (v.extractLsb' 0 9).toNat, invSc := (v.extractLsb' 9 2).toNat } } := by
  simp only [toNat_extractLsb']
  refine if_pos ?_
  rcases h with h | h
  · simp [h]
  · rw [getLsbD_eq_nbits, beq_eq_false_iff_ne] at h
    have hlt : nbits v.toNat 11 1 < 2 := Nat.mod_lt _ (by decide)
    simp
    omega

theorem bodyTlbInvalidate_starts (hb : s.tr.invBusy = false) (h : v.getLsbD 11 = true) : bodyTlbInvalidate v true s =
    { s with tr := { s.tr with invAs := (v.extractLsb' 0 9).toNat, invSc := (v.extractLsb' 9 2).toNat, invBusy := true,
                               invRun := ((v.extractLsb' 0 9).toNat, (v.extractLsb' 9 2).toNat, s.tr.tlbia), invHeld := 0 } } := by
  simp only [toNat_extractLsb']
  refine if_neg ?_
  rw [getLsbD_eq_nbits, beq_iff_eq] at h
  simp [hb, h]

end

section
variable {s : State} {i : Nat} {v : Word} (hi : i < 65536)
include hi

theorem bodyRegion_clears (h : v.getLsbD 51 = false) :
    bodyRegion i v s = { s with tr := { s.tr with regions := s.tr.regions.filter fun r => r.idx != i } } := by
  rw [bodyRegion, h]
  exact if_neg (by omega)

theorem bodyRegion_registers (h : v.getLsbD 51 = true) (hn : ∀ r ∈ s.tr.regions, r.idx ≠ i) : bodyRegion i v s =
    { s with tr := { s.tr with regions := (s.tr.regions.filter fun r => r.idx != i) ++
      [{ idx := i, num := (v.extractLsb' 21 30).toNat, own := .host, since := s.clock, snoop := false }] } } := by
  have hold : s.tr.regions.find? (fun r => r.idx == i) = none := by simpa using hn
  rw [bodyRegion, h, hold, toNat_extractLsb']
  exact if_neg (by omega)

end

/-! ### The register space (R478, R479, R481) -/

section
variable {s : State} {sec : Bool} {v : Word}

theorem hartWrite_ignored {size a : Nat} (h : size ≠ 8 ∨ a % 8 ≠ 0 ∨ a < 0x20_0000_0000) :
    hartWrite sec a { size := size, val := v } s = s := by
  refine if_pos ?_
  simpa [or_assoc] using h

theorem hartWrite_register {sel : Nat} (h : sel < 2 ^ 32) :
    hartWrite sec (0x20_0000_0000 + 8 * sel) { size := 8, val := v } s = regWrite s sec sel v := by
  have hword : (0x20_0000_0000 + 8 * sel - 0x2000000000) / 8 = sel := by omega
  refine (if_neg ?_).trans ((if_pos ?_).trans ?_)
  · simp
  · omega
  · rw [hword]

theorem hartWrite_mailbox {d n : Nat} (hd : d < 8) (hn : n < 4096) :
    hartWrite sec (0x28_0000_0000 + 2 ^ 18 * d + 64 * n + 16) { size := 8, val := v } s = mboxWrite (2 ^ 18 * d + 64 * n + 16) v s := by
  have hoff : 0x28_0000_0000 + 2 ^ 18 * d + 64 * n + 16 - 0x2800000000 = 2 ^ 18 * d + 64 * n + 16 := by omega
  refine (if_neg ?_).trans ((if_neg ?_).trans ((if_pos ?_).trans ?_))
  · simp; omega
  · omega
  · omega
  · rw [hoff]

/-- A write of argument 0 of a posted entry that is to be answered. -/
theorem mboxWrite_argument {d n : Nat} {e : MboxEnt} (hn : n < 4096) (he : fget none (dieReg s d).ring n = some e)
    (hp : e.posted = true) (hs : e.svn ≠ 0xFFFF) : mboxWrite (2 ^ 18 * d + 64 * n + 16) v s =
      updDie s d fun k => { k with ring := fset none k.ring n (some { e with args := e.args.set 0 v }) } := by
  have hdie : (2 ^ 18 * d + 64 * n + 16) / 2 ^ 18 = d := by omega
  have hent : (2 ^ 18 * d + 64 * n + 16) % 2 ^ 18 / 64 = n := by omega
  have harg : (2 ^ 18 * d + 64 * n + 16) % 64 = 16 := by omega
  simp only [mboxWrite, hdie, hent, harg, he]
  exact if_pos (by simp [hp, hs])

theorem regWrite_unassigned {sel : Nat} (h : regRead s sel = none) : regWrite s sec sel v = s := by simp [regWrite, h]

theorem regWrite_unheard {sel : Nat} (h : regSecure s sel = true) (hs : sec = false) : regWrite s sec sel v = s := by simp [regWrite, h, hs]

/-- A secure write of an assigned register of die 0. -/
theorem regWrite_die {sel r : Nat} (hc : selClass sel = 5) (hi : selInst sel = 0) (hr : selReg sel = r) (ha : (regRead s sel).isNone = false) :
    regWrite s true sel v = if leftOut s 0 then s else dieWrite 0 r v.toNat s := by
  simp only [regWrite, ha, hc, hi, hr, Bool.not_true, Bool.and_false, Bool.or_self, Bool.false_eq_true, if_false]

section
variable (hl : leftOut s 0 = false)
include hl

theorem regWrite_enables : regWrite s true 0x2800_0001 v = updDie s 0 fun k => { k with en := v.setWidth 8 } := by
  rw [regWrite_die (r := 1) rfl rfl rfl rfl, hl]
  rfl

theorem regWrite_clearsCause :
    regWrite s true 0x2800_0000 v = updDie s 0 fun k => { k with cause := k.cause &&& ~~~(v.setWidth 8) } := by
  rw [regWrite_die (r := 0) rfl rfl rfl rfl, hl]
  rfl

end

theorem regWrite_invalidation :
    regWrite s true 0x3000_0000 v = { s with tr := { s.tr with tlbia := (v.extractLsb' 12 45).toNat * 2 ^ 12 } } := by
  have ha : (regRead s 0x3000_0000).isNone = false := rfl
  rw [toNat_extractLsb']
  simp only [regWrite, ha, Bool.not_true, Bool.and_false, Bool.or_self, Bool.false_eq_true, if_false]
  rfl

end

/-- Settles O26, with one lemma per outcome of each event and of the register accesses. -/
theorem serviceEvents : Obligations.ServiceEvents := by
  refine ⟨fun s n q hq i e hc => ?part, fun s d n st v hst => ?reply, fun s d n hn => ?head, fun s d v w => ?boards, fun s v sec => ?invalidate,
    fun s i v hi => ?region, fun s sec sel v hsel => ?register, fun s sec size a v h => ends_of_body (hartWrite_ignored h) rfl,
    fun s sec d n e v hd hn he hp hs => ends_of_body ((hartWrite_mailbox hd hn).trans (mboxWrite_argument hn he hp hs)) rfl⟩
  case part =>
    exact ⟨fun h => ends_of_body (bodyPartArrival_stray hq hc h) rfl, fun h hn hf => ends_of_body (bodyPartArrival_fills hq hc h hn hf) rfl⟩
  case reply =>
    have reply {t : State} (h : bodyMailboxReply d n st v s = t) : Claims.Ends (.mailboxReply d n st v) s t :=
      ends_of_body (by rw [Nat.mod_eq_of_lt hst]; exact h) rfl
    refine ⟨fun h => reply (bodyMailboxReply_free h), fun e he hp hs => ⟨fun hc => reply (bodyMailboxReply_running he hp hs hc),
      fun hc => reply (bodyMailboxReply_frozen he hp hs hc), fun hc => reply (bodyMailboxReply_dead he hp hs hc)⟩⟩
  case head =>
    exact ⟨fun hl hm => ends_of_body (bodyHeadAdvance_passes hn hl hm) rfl, fun h => ends_of_body (bodyHeadAdvance_ignored hn h) rfl⟩
  case boards => exact ⟨rfl, rfl, fun h => ends_of_body (bodyInjection_arms h) rfl⟩
  case invalidate =>
    exact ⟨fun h => by subst h; rfl, fun h hb => by subst h; exact ends_of_body (bodyTlbInvalidate_sets hb) rfl,
      fun h hb hg => by subst h; exact ends_of_body (bodyTlbInvalidate_starts hb hg) rfl⟩
  case region => exact ⟨fun h => ends_of_body (bodyRegion_clears hi h) rfl, fun h hn => ends_of_body (bodyRegion_registers hi h hn) rfl⟩
  case register =>
    have writes {t : State} (h : regWrite s sec sel v = t) :
        Claims.Ends (.registerWrite sec (0x20_0000_0000 + 8 * sel) { size := 8, val := v }) s t :=
      ends_of_body ((hartWrite_register hsel).trans h) rfl
    refine ⟨fun h => writes (regWrite_unassigned h), fun h hs => writes (regWrite_unheard h hs), fun h hs hl => ?_,
      fun h hs hl => ?_, fun h hs => ?_⟩
    · subst h hs; exact writes (regWrite_enables hl)
    · subst h hs; exact writes (regWrite_clearsCause hl)
    · subst h hs; exact writes regWrite_invalidation

end Sys2Proof.Machine

/-!
Launch queues, the yard's decisions and claims, and energy (O56).
-/

namespace Sys2Proof.Machine

open Sys2Proof

/-! ### The supervisor's accesses to a launch queue (R378 to R380, R479) -/

section
variable {s : State} {q : Nat} {sec : Bool} {legal : Queue → Bool} {act : Queue → Queue}

theorem queueAct_unheard (hw : (queueOf s q).qw = true) (hs : sec = false) : queueAct q sec legal act s = s := by
  simp [queueAct, queueOpen, hw, hs]

theorem queueAct_refused (h : legal (queueOf s q) = false) : queueAct q sec legal act s = s := by simp [queueAct, h]

theorem queueAct_acts (hq : q < 64) (ho : (queueOf s q).qw = false ∨ sec = true) (h : legal (queueOf s q) = true) :
    queueAct q sec legal act s = updQueue s q act := by
  have hopen : queueOpen s q sec = true := by rcases ho with ho | ho <;> simp [queueOpen, hq, ho]
  simp [queueAct, hopen, h]

theorem queueStill_iff : queueStill s q (queueOf s q) = true ↔
    (queueOf s q).created = true ∧ (queueOf s q).en = false ∧ ∀ x ∈ s.ctxs, ¬(x.queue = q ∧ x.member = x.home ∧ isLive x = true) := by
  simp only [queueStill, queueLive, Bool.and_eq_true, Bool.not_eq_true', List.any_eq_false, beq_iff_eq, and_assoc]

theorem queueStill_enabled (h : (queueOf s q).en = true) : queueStill s q (queueOf s q) = false := by simp [queueStill, h]

/-- A change of a queue is known by what it makes of the queue as it stands. -/
theorem updQueue_congr {f g : Queue → Queue} (h : f (queueOf s q) = g (queueOf s q)) : updQueue s q f = updQueue s q g := by
  rw [updQueue, updQueue, h]

end

section
variable {v : Word} {k : Queue}

theorem nbits_low (n w : Nat) : nbits n 0 w = n % 2 ^ w := by rw [nbits, pow_zero, Nat.div_one]

theorem queueFill_tail (t : Nat) : queueFill { k with tail := t } = (t + 2 ^ 32 - k.head % 2 ^ 32) % 2 ^ 32 := rfl

theorem setTail_moves (hg : k.gle = false) (hf : (v.toNat % 2 ^ 32 + 2 ^ 32 - k.head % 2 ^ 32) % 2 ^ 32 ≤ 2 ^ k.logn) :
    setTail v k = { k with tail := v.toNat % 2 ^ 32 } := by
  have hfit : decide (queueFill { k with tail := v.toNat % 2 ^ 32 } > ringSize k) = false := by
    rw [queueFill_tail]
    exact decide_eq_false (Nat.not_lt.2 hf)
  simp only [setTail, nbits_low, Bool.or_eq_false_iff.2 ⟨hg, hfit⟩, Bool.false_eq_true, if_false]

theorem setTail_global (hg : k.gle = true) : setTail v k = k := by simp [setTail, hg]

theorem setTail_overfull (hf : 2 ^ k.logn < (v.toNat % 2 ^ 32 + 2 ^ 32 - k.head % 2 ^ 32) % 2 ^ 32) : setTail v k = k := by
  have hover : decide (queueFill { k with tail := v.toNat % 2 ^ 32 } > ringSize k) = true := by
    rw [queueFill_tail]
    exact decide_eq_true hf
  simp only [setTail, nbits_low, hover, Bool.or_true, if_true]

end

/-! ### The head of a queue (R381, R382) -/

section
variable {s : State} {q : Nat}

theorem bodyHeadWait_idle (h : hasHead (queueOf s q) = false) : bodyHeadWait q s = s := by simp [bodyHeadWait, h]

section
variable (h : hasHead (queueOf s q) = true) (hf : (queueOf s q).hs = .fresh)
include h hf

theorem bodyHeadWait_unreadable (hp : headPacket s (queueOf s q) = none) :
    bodyHeadWait q s = refuseHead (queueCheck s q) q (plainStatus 0x27) := by
  simp [bodyHeadWait, h, hf, hp]

theorem bodyHeadWait_packet {p : LaunchPkt} (hp : headPacket s (queueOf s q) = some p) : bodyHeadWait q s =
    if badPacket s (queueOf s q) p then refuseHead s q (plainStatus 0x27) else registerWaits s q (depsOf p) := by
  simp [bodyHeadWait, h, hf, hp]

end

end

theorem queueEvents : Claims.QueueEvents := by
  refine ⟨fun s q sec hq => ⟨fun hw hs v => ?unheard, fun ho => ?heard⟩, fun s q => ⟨fun h => ends_of_body (bodyHeadWait_idle h) rfl,
    fun h hf => ⟨fun hp => ends_of_body (bodyHeadWait_unreadable h hf hp) rfl,
      fun p hp hb => ?bad, fun p hp hb hd => ?eligible, fun p hp hb hd => ?waits⟩⟩⟩
  case unheard =>
    have ignored {i : Instr} {legal : Queue → Bool} {act : Queue → Queue} (he : exec i s = done s (queueAct q sec legal act s)) :
        Claims.Ends i s s := ends_of_body (queueAct_unheard hw hs) he
    simp only [List.forall_mem_cons]
    exact ⟨ignored rfl, ignored rfl, ignored rfl, ignored rfl, ignored rfl, ignored rfl, ignored rfl, ignored rfl,
      fun _ h => absurd h List.not_mem_nil⟩
  case heard =>
    have acts {i : Instr} {legal : Queue → Bool} {act : Queue → Queue} (he : exec i s = done s (queueAct q sec legal act s))
        (h : legal (queueOf s q) = true) : Claims.Ends i s (updQueue s q act) := ends_of_body (queueAct_acts hq ho h) he
    have refused {i : Instr} {legal : Queue → Bool} {act : Queue → Queue} (he : exec i s = done s (queueAct q sec legal act s))
        (h : legal (queueOf s q) = false) : Claims.Ends i s s := ends_of_body (queueAct_refused h) he
    refine ⟨fun hc => acts rfl ?create, fun hc => refused rfl ?created, fun hc hn hx => ?still, fun hn => ?enabled, fun hc hn => acts rfl ?disable,
      fun hc => ⟨acts rfl hc, acts rfl hc⟩, fun v => ?registers⟩
    case create | created => simp [hc]
    case still =>
      have still := queueStill_iff.2 ⟨hc, hn, hx⟩
      exact ⟨acts rfl still, acts rfl still⟩
    case enabled => exact ⟨refused rfl (queueStill_enabled hn), refused rfl (queueStill_enabled hn)⟩
    case disable => simp [hc, hn]
    case registers =>
      have tail {g : Queue → Queue} (h : setTail v (queueOf s q) = g (queueOf s q)) : Claims.Ends (.queueTailWrite q v sec) s (updQueue s q g) :=
        updQueue_congr h ▸ acts rfl rfl
      refine ⟨fun hg hf => tail (setTail_moves hg hf), fun hg => tail (setTail_global hg), fun hf => tail (setTail_overfull hf),
        fun hs hc hp => ?_, fun h => refused rfl ?_⟩
      · rw [← nbits_low]
        exact acts rfl (by simp [hs, hc, hp])
      · rcases h with h | h <;> simp [h]
  case bad => exact ends_of_body ((bodyHeadWait_packet h hf hp).trans (if_pos hb)) rfl
  case eligible =>
    exact ends_of_body ((bodyHeadWait_packet h hf hp).trans ((if_neg (ne_true_of_eq_false hb)).trans (by rw [hd]; rfl))) rfl
  case waits => exact ends_of_body ((bodyHeadWait_packet h hf hp).trans (if_neg (ne_true_of_eq_false hb))) rfl

/-! ### The yard (R384 to R387) -/

section
variable {s : State} {d : Nat}

theorem decideHead_closed (h : dieOpen s d = false) : decideHead s d = s := by simp [decideHead, h]

theorem decideHead_pending (h : s.yard.claims.any (fun k => k.die == d) = true) : decideHead s d = s := by
  rw [decideHead, h, Bool.or_true]
  rfl

section
variable (ho : dieOpen s d = true) (hc : s.yard.claims.any (fun k => k.die == d) = false)
include ho hc

theorem decideHead_none (h : chosenHead s d = none) : decideHead s d = s := by
  rw [decideHead, ho, hc, h]
  rfl

section
variable {q e : Nat} {r : Option Nat} {h : Shape} (hh : chosenHead s d = some (q, e, r, h))
include hh

theorem decideHead_claims {p : Place} {ps : List Place} (hp : choosePlaces s (fun _ => false) h = p :: ps) : decideHead s d =
    { s with yard := { s.yard with claims := s.yard.claims ++ [{ die := d, queue := q, e := e, resume := r, place := p :: ps }] } } := by
  simp only [decideHead, ho, hc, hh, hp]
  rfl

/-- A head without a position waits for the room that is coming, or takes that of a victim. -/
theorem decideHead_noPlace (hp : choosePlaces s (fun _ => false) h = []) : decideHead s d =
    if roomComing s h then s else ((chooseVictim s e h).map (preempt s)).getD s := by
  simp only [decideHead, ho, hc, hh, hp]
  cases chooseVictim s e h <;> rfl

end

end

theorem bodyAgeing_offered {q w : Nat} {r : Option Nat} {h : Shape} (ho : offer s q = some (r, h, w)) :
    bodyAgeing q s = if w + 2 ^ 20 ≤ s.clock then yardDecide s (q / 8) else s := by
  have hage : s.clock - w ≥ 2 ^ 20 ↔ w + 2 ^ 20 ≤ s.clock := by omega
  simp only [bodyAgeing, ho]
  exact if_congr hage rfl rfl

section
variable {c : Nat}

theorem bodyQuantum_decides (hr : isResident (ctxOf s c) = true) (hq : (queueOf s (ctxOf s c).queue).qnt ≠ 0)
    (hx : (queueOf s (ctxOf s c).queue).qnt * 2 ^ 16 ≤ (ctxOf s c).residence) :
    bodyQuantum c s = yardDecide s ((ctxOf s c).queue / 8) :=
  if_pos (by simpa [hr, hq] using hx)

theorem bodyQuantum_idle
    (h : (queueOf s (ctxOf s c).queue).qnt = 0 ∨ (ctxOf s c).residence < (queueOf s (ctxOf s c).queue).qnt * 2 ^ 16) :
    bodyQuantum c s = s := by
  refine if_neg ?_
  rcases h with h | h
  · simp [h]
  · simpa using fun _ _ => h

end

/-- A round without claims or inbound outings leaves the yard as it is. -/
theorem bodyClaimRound_none {busy : List Nat} {others : Bool} (h : s.yard.claims = []) : bodyClaimRound busy others [] s = s := by
  calc bodyClaimRound busy others [] s
      _ = { s with yard := { s.yard with claims := [] } } := by rw [bodyClaimRound, h]; rfl
      _ = s := by rw [← h]

/-- A round with one claim settles that one. -/
theorem bodyClaimRound_one {busy : List Nat} {others : Bool} {k : Claim} (h : s.yard.claims = [k]) :
    bodyClaimRound busy others [] s = settleClaim busy others { s with yard := { s.yard with claims := [] } } k := by
  rw [bodyClaimRound, h]
  rfl

theorem settleClaim_lost {busy : List Nat} {others : Bool} {k : Claim} (h : claimStands s k = false) : settleClaim busy others s k = s := by
  simp [settleClaim, h]

theorem settleClaim_resumes {busy : List Nat} {others : Bool} {k : Claim} {c : Nat} (h : claimStands s k = true) (hr : k.resume = some c) :
    settleClaim busy others s k = placeResume s k c := by
  simp [settleClaim, h, hr]

theorem settleClaim_launches {busy : List Nat} {others : Bool} {k : Claim} (h : claimStands s k = true) (hr : k.resume = none) :
    settleClaim busy others s k = placePacket busy others s k := by
  simp [settleClaim, h, hr]

end

/-! ### Energy (R388, R403, R404) -/

section
variable {s : State} {c : Nat}

theorem bodyBudgetReached_unmet (h : (ctxOf s c).budHit = false) : bodyBudgetReached c s = s := by simp [bodyBudgetReached, h]

theorem bodyBudgetReached_freezes (h : (ctxOf s c).budHit = true) (hc : (ctxOf s c).cst = .running ∨ (ctxOf s c).cst = .frozen) :
    bodyBudgetReached c s =
      requestFreeze (notice (updCtx s c fun x => { x with budHit := false }) (ctxOf s c).die 7 c) c fun f => { f with budget := true } := by
  rcases hc with hc | hc <;> simp [bodyBudgetReached, h, hc]

theorem chargeStatic_charged (h : (ctxOf s c).residence ≤ (ctxOf s c).charged) : chargeStatic c s = s := if_pos h

theorem chargeStatic_charges (h : (ctxOf s c).charged < (ctxOf s c).residence) : chargeStatic c s =
    toEnergy (updCtx s c fun x => { x with charged := x.residence }) c
      (((ctxOf s c).residence - (ctxOf s c).charged) * staticWeight s (ctxOf s c)) := if_neg (Nat.not_le.2 h)

theorem bodyEnergyForward_none {u : UId} (h : fget 0 s.fab.charges (uKey u) = 0) : bodyEnergyForward u s = s := by
  simp [bodyEnergyForward, h]

theorem bodyEnergyForward_some {u : UId} (h : fget 0 s.fab.charges (uKey u) ≠ 0) : bodyEnergyForward u s =
    toEnergy { s with fab := { s.fab with charges := fset 0 s.fab.charges (uKey u) 0 } } u.ctx (fget 0 s.fab.charges (uKey u)) :=
  if_neg (mt beq_iff_eq.1 h)

end

theorem yardAndEnergyEvents : Claims.YardAndEnergyEvents := by
  refine ⟨fun s d => ⟨fun h => ends_of_body (decideHead_closed h) rfl, fun h => ends_of_body (decideHead_pending h) rfl, fun ho hc => ?decides⟩,
    fun s q r h w ho => ?ageing, fun s c => ⟨fun hr hq hx => ends_of_body (bodyQuantum_decides hr hq hx) rfl,
      fun h => ends_of_body (bodyQuantum_idle h) rfl⟩,
    fun s busy others h => ends_of_body (bodyClaimRound_none h) rfl, fun s busy others k hk => ?claim, fun s c => ?energy⟩
  case decides =>
    refine ⟨fun h => ends_of_body (decideHead_none ho hc h) rfl,
      fun q e r h hh => ⟨fun p ps hp => ends_of_body (decideHead_claims ho hc hh hp) rfl, fun hp => ?_⟩⟩
    have body := decideHead_noPlace ho hc hh hp
    refine ⟨fun hr => ends_of_body (body.trans ?_) rfl, fun x hr hx => ends_of_body (body.trans ?_) rfl⟩
    · rcases hr with hr | hr <;> simp [hr]
    · simp [hr, hx]
  case ageing =>
    have body := bodyAgeing_offered ho
    exact ⟨fun hw => ends_of_body (body.trans (if_neg (Nat.not_le.2 hw))) rfl, fun hw => ends_of_body (body.trans (if_pos hw)) rfl⟩
  case claim =>
    have settles {t : State} (h : settleClaim busy others { s with yard := { s.yard with claims := [] } } k = t) :
        Claims.Ends (.claimRound busy others []) s t := ends_of_body ((bodyClaimRound_one hk).trans h) rfl
    exact ⟨fun h => settles (settleClaim_lost h), fun h c hr => settles (settleClaim_resumes h hr),
      fun h hr => settles (settleClaim_launches h hr)⟩
  case energy =>
    exact ⟨fun h => ends_of_body (bodyBudgetReached_unmet h) rfl, fun h hc => ends_of_body (bodyBudgetReached_freezes h hc) rfl,
      fun h => ends_of_body (chargeStatic_charged h) rfl, fun h => ends_of_body (chargeStatic_charges h) rfl,
      fun u h => ends_of_body (bodyEnergyForward_none h) rfl, fun u h => ends_of_body (bodyEnergyForward_some h) rfl⟩

/-- Settles O56: each access, decision, claim and charge has one lemma per outcome. -/
theorem queueAndYardEvents : Obligations.QueueAndYardEvents := ⟨queueEvents, yardAndEnergyEvents⟩

end Sys2Proof.Machine

/-!
Links, storage and network (O57): of NETRECV the statement has every firing of a context that is not REDUNDANT ask its MU, and the model has the
firings of the primary copy ask. Nothing in the statement says that such a context has no other copy.
-/

namespace Sys2Proof.Machine

open Sys2Proof

/-! ### A NETRECV of a second copy (R457, R471) -/

/-- A firing in the second copy whose left operand names the first header of its home MU's scratchpad. -/
def copyFiring : Ready :=
  let F := homeFiring 0
  { F with u := { F.u with copy := 1 }, l := { F.l with val := 0x4000000000000000 } }

/-- That firing, latched in a context that is not REDUNDANT. -/
def copyState : State := { State.reset with ctxs := [homeCtx], firing := [copyFiring] }

/-- The MUs that a step leaves requests at. -/
def asked : Host.Outcome State Fault Refusal → List UId
  | .next t => t.mu.reqs.map Req.mu
  | _ => []

/-- The firing of the second copy sends no request. -/
theorem netrecv_ofCopy_asksNone (f : Fields) : asked (exec (.netrecvUnbind f) copyState) = [] := rfl

/-- Refutes O57: a NETRECV.UNBIND that fires in a second copy of a context that is not REDUNDANT asks nobody, and the statement has it ask the home
MU of its CU. -/
theorem not_linkAndIoEvents : ¬ Obligations.LinkAndIoEvents := by
  rintro ⟨-, -, netrecv, -⟩
  obtain ⟨requests, -⟩ := netrecv (unpack 0) copyState copyFiring rfl (by decide) (by decide)
  obtain ⟨-, unbind⟩ := requests (by decide)
  have claimed := (netrecv_ofCopy_asksNone (unpack 0)).symm.trans (congrArg asked unbind)
  exact absurd claimed (by decide +kernel)

end Sys2Proof.Machine
